-- ==== Sys2Proof/Word.lean ====
section
/-! DEFINITION. The word types of the GL9 and the sparse tables its indexed state is kept in. -/

namespace Sys2Proof

/-- One byte. -/
abbrev Byte := BitVec 8
/-- One register word (spec/00_scope.md R6). -/
abbrev Word := BitVec 32
/-- One 64-bit value: a register pair, a scalar register, a Clepsydra value. -/
abbrev Dword := BitVec 64

/-- A sparse table: entries with strictly rising keys; an absent key stands for the default of its use. -/
abbrev Tab (α : Type) := List (Nat × α)

end Sys2Proof
end

