-- ==== Sys2Proof/Syntax.lean ====
section
/-! DEFINITION. The commands of the GL9 block: one constructor of `Instr` per row of spec/opcode_table.json,
and the plain data the rows' operands are made of. -/

namespace Sys2Proof

/-- The accessor identities of spec/00_scope.md R8. -/
inductive Accessor where
  | host (h : Nat)      -- HOST0 to HOST7
  | mgt                 -- the management interface (I3C)
  | svp                 -- the service processor
  | sec                 -- the security controller
  | remote (d : Nat)    -- a remote device, by source device number
deriving DecidableEq, Repr

/-- The core hardware faults of spec/17_faults_and_counters.md R453 (codes 0xB0 to 0xB2). -/
inductive CoreFault where
  | sram | arrayCheck | lockstep
deriving DecidableEq, Repr

/-- An error a burst of HBM cells shows to a reader: a correctable one, with the word or symbol at fault, or an
uncorrectable one (spec/12_hbm.md R302 to R304, R318 POSITION). -/
inductive CellErr where
  | correctable (position : Nat)
  | uncorrectable (position : Nat)
deriving DecidableEq, Repr

/-- A Koliz packet: the header of spec/13_koliz_fabric.md R338 and its payload bytes. -/
structure Packet where
  type    : Byte
  flags   : Byte
  dest    : BitVec 12
  src     : BitVec 12
  tag     : Word
  hops    : Byte
  status  : Byte
  slotGroup : Byte
  ring    : Byte
  address : Dword
  bytes   : Word
  payload : List Byte
  /-- The CRC of the header and the payload verifies. -/
  crcOk   : Bool := true
deriving DecidableEq, Repr

/-- A flit as a port receives it: the 256 bytes of spec/13_koliz_fabric.md R323. -/
structure Flit where
  bytes : List Byte
deriving DecidableEq, Repr

/-- The addresses of the encapsulation a frame arrived in (spec/15_host_attachment.md R398). -/
inductive Encap where
  /-- EtherType 0x88B5. -/
  | raw
  /-- UDP over IPv4: source and destination address, source and destination port; `ok` says that the checks R398
  names (no options, no fragment, the checksums) hold. -/
  | udp4 (srcIp dstIp : Word) (srcPort dstPort : BitVec 16) (ok : Bool)
  /-- UDP over IPv6, as `udp4`. -/
  | udp6 (srcIp dstIp : BitVec 128) (srcPort dstPort : BitVec 16) (ok : Bool)
  /-- An ARP request for an IPv4 address. -/
  | arp (target : Word)
  /-- A Neighbor Solicitation for an IPv6 address. -/
  | ns (target : BitVec 128)
  /-- Any other frame (a MAC control frame, another EtherType). -/
  | other
deriving DecidableEq, Repr

/-- The MACsec tag of a received frame and whether its integrity check value verifies under the key of the
association (spec/15_host_attachment.md R399). -/
structure MacsecTag where
  sci   : Dword
  an    : BitVec 2
  pn    : Dword
  icvOk : Bool
deriving DecidableEq, Repr

/-- The destination of a received Ethernet frame (spec/15_host_attachment.md R397). -/
inductive EthDest where
  | unicast (mac : BitVec 48)
  | broadcast
  /-- The solicited-node multicast of an IPv6 address. -/
  | solicited (ip : BitVec 128)
  | otherMulticast
deriving DecidableEq, Repr

/-- A received Ethernet frame (spec/15_host_attachment.md R397 to R400). -/
structure EthFrame where
  dest   : EthDest
  src    : BitVec 48
  /-- IEEE 802.1Q tag: PCP and VID; none for an untagged frame. -/
  vlan   : Option (BitVec 3 × BitVec 12)
  /-- Bytes from destination address to FCS. -/
  length : Nat
  fcsOk  : Bool
  macsec : Option MacsecTag
  encap  : Encap
  /-- What follows the encapsulation: the Plaldaul header and payload, with padding. -/
  data   : List Byte
deriving DecidableEq, Repr

/-- The JTAG instructions of spec/16_security.md R449. -/
inductive JtagOp where
  | bypass | idcode | samplePreload | extest
  | private_ (code : Nat)
deriving DecidableEq, Repr

/-- The commands: one constructor per row of spec/opcode_table.json, in the table's order. Commands of a core's own
stream name the physical core alone: their 32-byte word stands in that core's command memory (spec/08_vector_engine.md R193). -/
inductive Instr where
  | registerWrite (a : Accessor) (addr : Nat) (v : Word)
  | pairLoRead (a : Accessor) (addr : Nat)
  | pairLoWrite (a : Accessor) (addr : Nat) (v : Word)
  | pairHiWrite (a : Accessor) (addr : Nat) (v : Word)
  | rcRead (a : Accessor) (addr : Nat)
  | strLoad
  | strVerifyDone
  | strCheckDone
  | strApplyDone
  | strRebind (logical physical : Byte)
  | rebindComplete (logical : Nat)
  | coreHwFault (core : Nat) (f : CoreFault) (unit : BitVec 4)
  | trnFlush (slot : Nat)
  | trnFlushDone (slot : Nat)
  | commitStageDone (slot : Nat)
  | commitFlip (slot : Nat)
  | commitFoldDone (slot : Nat)
  | kfenceTimeout (group : Nat)
  | selfAbortTimeout (slot : Nat)
  | timeFramePulse
  | timeFrameMissing
  | timeClkLoss
  | timeReqSend (frac : Word)
  | timeReqReceive (port : Nat) (p : Packet) (fracRx fracTx : Word)
  | timeRespReceive (port : Nat) (p : Packet) (fracRx : Word)
  | fabricTimeTimeout
  | deferredStep
  | clpArm
  | jobEnable (slot : Nat)
  | jobCheckDone (slot : Nat)
  | jobDisable (slot : Nat)
  | jobAbandon (slot : Nat)
  | jobAbandonDone (slot : Nat)
  | jobResume (slot : Nat)
  | jobPreemptReq (slot : Nat)
  | jobDoorbell (slot : Nat) (v : Word)
  | cardTake (slot : Nat)
  | notBeforeReached (slot : Nat)
  | sliceEnd (basin : Nat)
  | preemptGraceDone (basin : Nat)
  | graceOverrun (basin : Nat)
  | preemptDrainDone (basin : Nat)
  | saveDone (basin : Nat)
  | restoreDone (basin : Nat)
  | arrTile (core : Nat)
  | arrRun (core : Nat)
  | arrList (core : Nat)
  | nop (core : Nat)
  | seti (core : Nat)
  | alu (core : Nat)
  | load (core : Nat)
  | store (core : Nat)
  | pipread (core : Nat)
  | pipclr (core : Nat)
  | addf (core : Nat)
  | br (core : Nat)
  | brp (core : Nat)
  | loop (core : Nat)
  | seed (core : Nat)
  | time (core : Nat)
  | pipDeposit (core pip : Nat)
  | fenceC (core : Nat)
  | fenceB (core : Nat)
  | fenceD (core : Nat)
  | fenceComplete (core : Nat)
  | semSignal (core : Nat)
  | semWait (core : Nat)
  | semAcquire (core : Nat)
  | semRelease (core : Nat)
  | coreSemAdd (core n : Nat) (v : Word)
  | trnEnd (core : Nat)
  | trnShare (core : Nat)
  | trnRelease (core : Nat)
  | tmCopy (core : Nat)
  | tmGather (core : Nat)
  | tmDone (core : Nat)
  | vecArith (core : Nat)
  | vecCvt (core : Nat)
  | vecCmp (core : Nat)
  | vecReduce (core : Nat)
  | vecGather (core : Nat)
  | vecScatter (core : Nat)
  | vecFill (core : Nat)
  | sfBuiltin (core : Nat)
  | sfTable (core : Nat)
  | rowStats (core : Nat)
  | rowMerge (core : Nat)
  | rowSoftmax (core : Nat)
  | attRun (core : Nat)
  | attFinal (core : Nat)
  | attExport (core : Nat)
  | attMerge (core : Nat)
  | kvAppend (core : Nat)
  | spoutRun (core : Nat)
  | spoutRowBoundary (cluster : Nat)
  | spoutDone (cluster : Nat)
  | cscRun (core : Nat)
  | cscPass (core : Nat)
  | cscDone (group ring : Nat)
  | codEnc (core : Nat)
  | codDec (core : Nat)
  | deviceStopComplete
  | clearStop
  | clearPeak
  | cntClear
  | weirClearMax
  | hbmScrub (stack pc slot : Nat) (errs : List (Nat × CellErr))
  | hbmRemapDone (stack pc : Nat)
  | hbmRetrainStart (stack pc : Nat) (forced : Bool)
  | hbmRetrainDone (stack : Nat)
  | hbmTrainGroupStart (group : Nat)
  | hbmTrainDone (stack : Nat) (ok : Bool)
  | weirSample (temps : List Int)
  | thermalStopComplete
  | devTelemetrySample (vin iin watts : Nat) (dies : List Int)
  | flitReceive (port : Nat) (f : Flit)
  | laneSignalLoss (port : Nat)
  | replayTimeout (port : Nat)
  | klzRetrain (port : Nat)
  | klzDisable (port : Nat) (on : Bool)
  | klzTrainGroupStart (group : Nat)
  | portSignalSeen (port : Nat)
  | portDetectTimeout (port : Nat)
  | portBackoffExpire (port : Nat)
  | portTrainDone (port : Nat) (ok : Bool) (rttNs : Nat)
  | identReceive (port : Nat) (p : Packet)
  | klzRead (port : Nat) (p : Packet)
  | klzWrite (port : Nat) (p : Packet)
  | klzViewRead (port : Nat) (p : Packet)
  | klzViewWrite (port : Nat) (p : Packet)
  | klzForward (port : Nat) (p : Packet)
  | klzResponse (p : Packet)
  | klzRequestLost (tag : Word)
  | cscDataReceive (port : Nat) (p : Packet)
  | cscReadyReceive (port : Nat) (p : Packet)
  | fenceArriveReceive (port : Nat) (p : Packet)
  | fenceDecideReceive (port : Nat) (p : Packet)
  | fenceAbortReceive (port : Nat) (p : Packet)
  | fenceReplayReceive (port : Nat) (p : Packet)
  | fenceStopReceive (port : Nat) (p : Packet)
  | fenceAbsentReceive (port : Nat) (p : Packet)
  | klzEchoGo
  | echoReceive (port : Nat) (p : Packet)
  | echoRespReceive (p : Packet) (rttNs : Nat)
  | echoTimeout
  | codStreamOpen (stream : Nat)
  | codStreamCheckDone (stream : Nat)
  | codStreamClose (stream : Nat)
  | codKeyReq (stream : Nat)
  | codPictureStart (codec : Nat)
  | codBatchSuspend (codec : Nat)
  | codPictureDone (codec : Nat)
  | codCoreError (codec : Nat)
  | ethFrameReceive (port : Nat) (f : EthFrame)
  | arpRequest (port : Nat) (f : EthFrame)
  | neighborSolicitation (port : Nat) (f : EthFrame)
  | ethLinkUp (port : Nat)
  | ethLinkDown (port : Nat)
  | pldRegRd (h seq : Nat)
  | pldRegWr (h seq : Nat)
  | pldMemRd (h seq : Nat)
  | pldMemWr (h seq : Nat)
  | pldPoll (h seq : Nat)
  | pldHostfence (h seq : Nat)
  | hostfenceComplete (h : Nat)
  | pldDoorbell (h seq : Nat)
  | pldMbxWr (h seq : Nat)
  | pldMbxRd (h seq : Nat)
  | pldOpen (h seq : Nat)
  | sessionDrainDone (h : Nat)
  | boardRecordLoad
  | mbxMsgWrite (a : Accessor) (chan idx : Nat) (v : Word)
  | mbxGo (a : Accessor) (chan : Nat)
  | mbxRelease (a : Accessor) (chan : Nat)
  | i3cPrivateWrite (bytes : List Byte)
  | i3cPrivateRead (words : Nat)
  | i3cEntdaa (addr : BitVec 7)
  | i3cSetdasa (addr : BitVec 7)
  | i3cRstdaa
  | smbusTimeout
  | secBootComplete
  | spdmFragment (chan : Nat)
  | getVersion (chan : Nat)
  | getCapabilities (chan : Nat)
  | negotiateAlgorithms (chan : Nat)
  | getDigests (chan : Nat)
  | getCertificate (chan : Nat)
  | challenge (chan : Nat)
  | getMeasurements (chan : Nat)
  | spdmUnsupportedRequest (chan : Nat)
  | enrollOwner (chan : Nat)
  | loadMacsec (chan : Nat)
  | debugUnlock (chan : Nat)
  | commitFw (chan : Nat)
  | fwFragment (chan : Nat)
  | jtagInstruction (op : JtagOp)
  | vinApply (mv : Nat)
  | powerGood
  | vinExcursion (mv : Nat)
  | vinUndervoltage (mv : Nat)
  | vinOvervoltage (mv : Nat)
  | resetAssert
  | resetRelease (bootMode : BitVec 2) (iovSel : Bool)
  | deviceReady
  | uncorrectableCodeWords (port : Nat)
  | timeClkPresent
  | refclkAbsent (b : Bool) (absent : Bool)
  | hbmRemapStart (stack pc : Nat)
deriving DecidableEq, Repr

end Sys2Proof
end

