-- ==== Sys2Proof/Decode.lean ====
section
/-! DEFINITION. The command a table word spells. No row of spec/opcode_table.json gives bits: commands reach the block as
acts of its agents, not as words, so every word spells none. -/

namespace Sys2Proof

/-- The command of a word of `nbits` bits: none for every word. -/
def decodeTableWord (_nbits _w : Nat) : Option Instr := none

end Sys2Proof
end

