-- ==== Sys2Proof/Config.lean ====
section
/-! DEFINITION. What one implementation fixes and the manual leaves open. A constant without a body is a free value:
nothing can be proved of it but what holds for every value (notes/assumptions/1.md). -/

namespace Sys2Proof.Config

/-- The n-th free byte: contents the manual calls undefined. -/
opaque freeByte : Nat → Byte

/-- The n-th free 64-bit value. -/
opaque freeDword : Nat → Dword

/-- The n-th free number, for values and choices the manual leaves open. -/
opaque freeNat : Nat → Nat

/-- Which row of its bank a 4 KiB slot of a pseudo-channel lies in: internal to the controller
(spec/12_hbm.md R296); a slot never spans two rows. -/
opaque rowOf : Nat → Nat

/-- The shape of the fixed pairwise tree that adds lane partials (spec/08_vector_engine.md R209): the spec fixes that it is
one tree, not which. -/
opaque laneTree : Nat

/-- The FP32 bits a built-in special function would return, by function, lane mode, output format and input bits: the part's
own, unpublished, bound by the accuracy of spec/09_special_functions.md R227 alone. -/
opaque sfBits : Nat → BitVec 32

/-- The boot ROM of the security controller, which measurement 1 hashes (spec/16_security.md R445). -/
opaque romByte : Nat → Byte

/-- The size of that ROM. -/
opaque romBytes : Nat

/-- The alias certificate of an issue, for measurements 1 to 3: X.509 bytes that the manual does not lay out, under a random
signature (spec/16_security.md R440). -/
opaque aliasCert : Nat → List Byte → List Byte

/-- The 48-bit I3C provisional ID, by serial number: it carries Mehrile's manufacturer code, which the manual does not print
(spec/15_host_attachment.md R423). -/
opaque provisionalId : BitVec 64 → BitVec 48

/-- ACLK cycles in the phase unit that follows an elapsed count (spec/17_faults_and_counters.md R468). -/
opaque cycles : Nat → Nat

/-- 64-byte units that cross the die cut in that phase unit: which transfers do is the network's own (spec/01_anatomy.md R13,
spec/17_faults_and_counters.md R468). -/
opaque dieCut : Nat → Nat

/-- The HBM fault that befalls the part at an elapsed count: kind (1 a correctable error, 2 an uncorrectable one, 3 a dead pin,
else none), the 64-byte unit struck, and the word or symbol (spec/12_hbm.md R302 to R305). -/
opaque upset : Nat → Nat × Nat × Nat

/-- The bank of a row: internal to the controller (spec/12_hbm.md R311). -/
opaque bankOf : Nat → Nat

/-- The bank of the n-th recorded row has repair resources left (spec/12_hbm.md R308). -/
opaque repairTaken : Nat → Bool

/-- Code words a port's FEC corrects, and fails to correct, in the phase unit that follows an elapsed count
(spec/13_koliz_fabric.md R365). -/
opaque fec : Nat → Nat → Nat × Nat

end Sys2Proof.Config
end

