-- ==== Sys2Proof/Machine/State.lean ====
section
/-! DEFINITION. The state of the GL9: every register, table, queue, mode and pin the spec gives it, as plain data.
Each field's default is its value at reset (spec rules named beside the structures). -/

namespace Sys2Proof.Machine

/-! ## Register latches (spec/00_scope.md R8) -/

/-- One latch of an accessor: the offset of the pair it holds and one 32-bit half. -/
structure Latch where
  pair : Nat
  half : Word
deriving DecidableEq, Repr

/-! ## The structure in force (spec/02_structure_image.md R22 to R43) -/

/-- A CORES record (R22); BASIN 0xFF: the logical core is not defined. -/
structure CoreRec where
  basin   : Nat := 0xFF
  home    : Nat := 0
  scratch : Nat := 0
  acc     : Nat := 0
  page    : Nat := 0
  exch    : Nat := 0
  form0   : Nat := 0
  form1   : Nat := 0
deriving DecidableEq, Repr

/-- A BASINS record (R26). -/
structure BasinRec where
  valid        : Bool := false
  sharedSem    : Nat := 0
  slice        : Nat := 0
  grace        : Nat := 0
  shadowFrames : Nat := 0
  shadowBase   : Nat := 0
deriving DecidableEq, Repr

/-- A PRELOAD record (R35). -/
structure Preload where
  logical : Nat
  dest    : Nat
  source  : Nat
  length  : Nat
deriving DecidableEq, Repr

/-- An entry of the CODEC section (R40); GROUP 0xFF: none. -/
structure CodecRec where
  pool  : Nat := 0
  group : Nat := 0xFF
deriving DecidableEq, Repr

/-- A structure image once it has passed the checks of R45. -/
structure Structure where
  hash      : List Byte
  rollback  : Word
  cores     : Tab CoreRec
  basins    : Tab BasinRec
  /-- R29: physical core to logical core (absent: 0xFF). -/
  bound     : Tab Nat
  /-- R29: physical core to the basin it is a spare of (absent: 0xFF). -/
  spares    : Tab Nat
  preloads  : List Preload
  /-- R37: table slot to table body; an empty body is an empty slot. -/
  tables    : Tab (List Byte)
  spreadKey : Word
  ownDevice : Nat
  maxHops   : Nat
  horizon   : Nat
  /-- R39: device to route (absent: 0xFF). -/
  routes    : Tab Nat
  codec     : Tab CodecRec
  num       : Nat
  den       : Nat
  pinsafe   : Bool
  remap     : Bool
  threshold : Nat
deriving DecidableEq, Repr

/-- STR_STATUS.STATE (R47). -/
inductive LoadState where
  | empty | verifying | checking | applying | loaded | refused
deriving DecidableEq, Repr

/-- A rebind in progress (R32, R33): the new physical core, and whether STR_REBIND asked for it. -/
structure Rebind where
  target : Nat
  asked  : Bool
deriving DecidableEq, Repr

/-- The STR block (R47). -/
structure Str where
  loadBit      : Bool := false
  state        : LoadState := .empty
  reason       : Byte := 0
  protectFixed : Bool := false
  /-- MODE fixed by the first load after reset (R43): PINSAFE when true. -/
  pinsafe      : Bool := false
  detail       : Word := 0
  image        : Dword := 0
  imageBytes   : Word := 0
  /-- The HBM offset and the bytes of the image as LOAD found them (R44). -/
  range        : Nat × Nat := (0, 0)
  loadCount    : BitVec 16 := 0
  rebindPhys   : Byte := 0
  rebindLog    : Byte := 0
  rebindGo     : Bool := false
  rebindReason : Byte := 0
  rebindRefused : Bool := false
  rebindDone   : Bool := false
  inForce      : Option Structure := none
  /-- The structure that passed CHECKING and is being applied (R44 step 5). -/
  candidate    : Option Structure := none
  /-- STR_BIND_l: logical core to the physical core now bound (absent: 0xFF). -/
  bind         : Tab Nat := []
  /-- Physical core to the basin it is now a spare of (absent: 0xFF). -/
  spare        : Tab Nat := []
  rebinds      : Tab (Option Rebind) := []
deriving DecidableEq, Repr

/-! ## Frames, turns and commits (spec/03_turns_and_fences.md R57 to R82) -/

/-- STATE of a frame-table entry (R57). -/
inductive FrameState where
  | outside | free | reserved | shadow | mapped | held
deriving DecidableEq, Repr

/-- A frame-table entry (R57). -/
structure Frame where
  count  : BitVec 16 := 0
  state  : FrameState := .outside
  pinned : Bool := false
deriving DecidableEq, Repr

/-- KIND of a move (R67). -/
inductive MoveKind where
  | write | share | release
deriving DecidableEq, Repr

/-- A move-list entry (R67). Frame numbers; 0xFFFFFF is none. -/
structure Move where
  kind : MoveKind
  old  : Nat
  new  : Nat
  leaf : Nat
  /-- The model's own: a SHARE's source entry, whose COW the fold sets (R60). -/
  src  : Nat := 0
deriving DecidableEq, Repr

/-- TRN_SLOT_STATE.PHASE (R82). -/
inductive Phase where
  | none | running | ending | staged | decided | folding
deriving DecidableEq, Repr

/-- A job slot's side of the TRN block (R82). -/
structure TrnSlot where
  phase         : Phase := .none
  replaying     : Bool := false
  domain        : Bool := false
  abortReason   : Byte := 0
  flush         : Bool := false
  epoch         : Word := 0
  moves         : List Move := []
  lastCommitted : Dword := 0xFFFFFFFFFFFFFFFF
  lastSlot      : Dword := 0
  /-- TRN_RESERVED: frames reserved for the open turn, shadows already taken included. -/
  reserved      : Nat := 0
  /-- The reserved frames not yet taken as shadows (R66). -/
  stock         : List Nat := []
  /-- Leaf to shadow frame assigned in the open turn (R65). -/
  shadows       : List (Nat × Nat) := []
  replays       : BitVec 16 := 0
  aborts        : BitVec 16 := 0
  lastDuration  : Word := 0
  lastClass     : Bool := false
  held          : List Nat := []
  root          : Nat := 0
  /-- The commit slot S of a DECIDED turn (R71). -/
  decided       : Option Dword := none
  /-- The flip came after S (R73). -/
  late          : Bool := false
  /-- An ABORT with this reason waits for the drain of the cores (spec/13_koliz_fabric.md R350). -/
  aborting      : Option Byte := none
deriving DecidableEq, Repr

/-- The device-wide TRN registers and tables (R57, R58, R82). -/
structure Trn where
  flushIgnored  : Bool := false
  selfAbort     : Bool := false
  slotLate      : Bool := false
  foldPending   : Bool := false
  kfenceTimeout : Word := 0x10000000
  slotLateCount : BitVec 16 := 0
  hostfenceDone : Tab Word := []
  frames        : Tab Frame := []
  /-- Free stack per basin, top first (R58). -/
  freeStack     : Tab (List Nat) := []
  /-- The job slots' sides, by slot. -/
  slots         : Tab TrnSlot := []
deriving DecidableEq, Repr

/-! ## The Clepsydra (spec/04_clepsydra_and_scheduling.md R83 to R91) -/

/-- The CLP block, the count itself and the lock logic. -/
structure Clp where
  now          : Dword := 0
  /-- The elapsed count, which ignores steps (R88). -/
  elapsed      : Nat := 0
  source       : Nat := 0
  locked       : Bool := false
  masterFree   : Bool := false
  stepped      : Bool := false
  unlockSeen   : Bool := false
  pulseMissing : Bool := false
  stepDeferred : Bool := false
  timeClk      : Bool := false
  arm          : Bool := false
  allowStep    : Bool := true
  pulseFrames  : BitVec 16 := 1
  setFrame     : BitVec 40 := 0
  num          : Nat := 60
  den          : Nat := 1
  master       : BitVec 12 := 0
  offset       : Int := 0
  unlockCount  : BitVec 16 := 0
  /-- Consecutive good pulses or offsets, and consecutive missing pulses (R86). -/
  good         : Nat := 0
  missing      : Nat := 0
  /-- The correction still to be slewed, in phase units (R87). -/
  slew         : Int := 0
  /-- A deferred correction of the error against the source, in phase units (R87). -/
  pendingStep  : Option Int := none
  /-- A deferred ARM step, in phase units (R90). -/
  pendingArm   : Option Int := none
  /-- Elapsed count of the last time exchange, or of the choice of FABRIC (R86). -/
  exchangeAt   : Nat := 0
  /-- Our half of an outstanding time exchange: t1 and its fraction (spec/13_koliz_fabric.md R352). -/
  reqT1        : Option (Dword × Word) := none
deriving DecidableEq, Repr

/-! ## Jobs (R92 to R117) -/

/-- JOB_STATUS.STATE (R94). -/
inductive JobState where
  | idle | checking | refused | admitted | running | preempting | saved | waitBind | lost
deriving DecidableEq, Repr

/-- A turn card (R96); `reserved` says that some reserved byte or bit is not 0. -/
structure Card where
  turn       : Dword
  notBefore  : Dword
  deadline   : Dword
  seqList    : Dword
  params     : Dword
  seqCount   : Word
  paramBytes : Word
  kind       : Byte
  flags      : Byte
  reserved   : Bool
  user       : Word
deriving DecidableEq, Repr

/-- A CORES record of a program image (spec/07_loop_nests.md R171). -/
structure ProgCore where
  patCount  : Nat := 0
  patFirst  : Nat := 0
  stream    : Nat := 0
  bytes     : Nat := 0
  saveVa    : Nat := 0
  scrStart  : Nat := 0
  scrUnits  : Nat := 0
  accStart  : Nat := 0
  accUnits  : Nat := 0
  exchStart : Nat := 0
  exchUnits : Nat := 0
deriving DecidableEq, Repr

/-- A TURNS record (R172). -/
structure TurnKind where
  kind       : Nat
  domain     : Bool
  moves      : Nat
  wcetNear   : Nat
  wcetFar    : Nat
  period     : Nat
  nonPreempt : Nat
deriving DecidableEq, Repr

/-- A kind record of the KV section (spec/10_attention.md R260). -/
structure KvKind where
  kind      : Nat
  maxSeq    : Nat
  maxAppend : Nat
  maxRemap  : Nat
deriving DecidableEq, Repr

/-- The KV section of a program image (spec/10_attention.md R260). -/
structure KvLayout where
  layers    : Nat
  heads     : Nat
  dim       : Nat
  fmt       : Nat
  pageBytes : Nat
  admitVa   : Nat
  kinds     : List KvKind
deriving DecidableEq, Repr

/-- A checked program image: what later rules read of it. -/
structure Prog where
  /-- PROGRAM_HASH (spec/16_security.md R445). -/
  hash     : List Byte := []
  /-- Offset of TENSORS in the image, and its record count. -/
  tensors  : Nat := 0
  tensorCount : Nat := 0
  cores    : List (Nat × ProgCore)
  turns    : List TurnKind
  root     : Nat
  patterns : Nat
  streams  : Nat
  bytes    : Nat
  kv       : Option KvLayout
deriving DecidableEq, Repr

/-- An entry of the open turn's sequence list, as read at admission, and how it was settled (spec/10_attention.md R263, R264). -/
structure SeqEntry where
  base     : Nat
  length   : Nat
  append   : Nat
  scaleVa  : Nat
  admitted : Bool
  reason   : Byte
deriving DecidableEq, Repr

/-- The open turn of a job. -/
structure Turn where
  card          : Card
  admitClp      : Dword
  admitElapsed  : Nat
  wcet          : Nat
  far           : Bool := false
  replayed      : Bool := false
  seqDeferred   : Bool := false
  slotLate      : Bool := false
  predictedLate : Bool := false
  preempted     : Bool := false
  stepped       : Bool := false
  weirMax       : Nat := 0
  /-- Elapsed count at this participant's own arrival at FENCE.K (R77). -/
  arrived       : Option Nat := none
  /-- Plain bytes written by the turn: memory cell and length (R79). -/
  plain         : List (Nat × Nat) := []
  seqs          : List SeqEntry := []
deriving DecidableEq, Repr

/-- A job slot (R116). -/
structure Job where
  state           : JobState := .idle
  enable          : Bool := false
  preemptReq      : Bool := false
  abandon         : Bool := false
  reason          : Byte := 0
  detail          : Word := 0
  turnLate        : Bool := false
  cardsHeld       : Bool := false
  parked          : Bool := false
  doorbellIgnored : Bool := false
  live            : Bool := false
  doorbell        : Word := 0
  cardsTaken      : Word := 0
  cplWritten      : Word := 0
  cplConsumed     : Word := 0
  prog            : BitVec 48 := 0
  cardRing        : BitVec 48 := 0
  cplRing         : BitVec 48 := 0
  cplLog2         : BitVec 5 := 4
  cardLog2        : BitVec 5 := 4
  firstTurn       : Dword := 0
  lastWcet        : Word := 0
  saveUnits       : Nat := 0
  /-- The checked program image, from admission until IDLE. -/
  image           : Option Prog := none
  /-- The range R170 protects, from ENABLE until IDLE. -/
  guarded         : Option (Nat × Nat) := none
  /-- A card taken and waiting at step 4 of R99. -/
  waiting         : Option Card := none
  turn            : Option Turn := none
  /-- The job has held the basin: its cores carry its context or a save of it. -/
  started         : Bool := false
  /-- The open turn has been discarded for a replay: it starts from its first command when the job next runs (R74, R115). -/
  restart         : Bool := false
  /-- A core was fenced in a domain turn: its REPLAY goes out once the core is rebound (R75). -/
  askReplay       : Bool := false
  /-- A save without an open turn was discarded: the cores start zero-filled and with their preloads (R115). -/
  blank           : Bool := false
  /-- The ring check waits for the end of a structure load (R46, R92). -/
  ringDue         : Bool := false
deriving DecidableEq, Repr

/-- A basin's side of the SCH block (R103, R104, R117). -/
structure Basin where
  holder      : Option Nat := none
  grace       : Bool := false
  saving      : Bool := false
  restoring   : Bool := false
  /-- The slot being pre-empted by steps 1 to 4 of R104. -/
  leaving     : Option Nat := none
  /-- The slot being restored by step 5. -/
  entering    : Option Nat := none
  sliceStart  : Nat := 0
  stepStart   : Nat := 0
  overran     : Bool := false
  preempts    : BitVec 16 := 0
  lastGrace   : Word := 0
  lastSave    : Word := 0
  lastRestore : Word := 0
  lastHolder  : Nat := 3
deriving DecidableEq, Repr

/-- The device-wide SCH registers (R117). -/
structure Sch where
  graceOverrun  : Bool := false
  graceOverruns : BitVec 16 := 0
  basins        : Tab Basin := []
  /-- The slots in CHECKING, in the order of their ENABLE writes (spec/07_loop_nests.md R191). -/
  checks        : List Nat := []
deriving DecidableEq, Repr

/-! ## Faults and counters (spec/17_faults_and_counters.md R461 to R468) -/

/-- A word in the layout of FLT_STOP_INFO (R467); the defaults are its reset value. -/
structure FltInfo where
  valid  : Bool := false
  cls    : Nat := 0
  reason : Byte := 0
  core   : Byte := 0xFF
  slot   : Byte := 0xFF
deriving DecidableEq, Repr

/-- A fault-log entry (R461); its reset value is 0 (R467). -/
structure LogEntry where
  info   : FltInfo := { core := 0, slot := 0 }
  detail : Word := 0
  clp    : Dword := 0
deriving DecidableEq, Repr

/-- The FLT block (R467) and the stop in progress (R455). -/
structure Flt where
  stopActive   : Bool := false
  clearRefused : Bool := false
  logOverflow  : Bool := false
  abortSeen    : Bool := false
  fenceSeen    : Bool := false
  stopSeen     : Bool := false
  stopInfo     : FltInfo := {}
  stopDetail   : Word := 0
  stopClp      : Dword := 0
  stopAddr     : Dword := 0
  logWritten   : Word := 0
  logConsumed  : Word := 0
  logDropped   : BitVec 16 := 0
  jobFaults    : BitVec 16 := 0
  coreFences   : BitVec 16 := 0
  stops        : BitVec 16 := 0
  domainAborts : BitVec 16 := 0
  fenced       : BitVec 144 := 0
  log          : Tab LogEntry := []
  /-- A thermal stop is between steps 1 and 3 of R315. -/
  thermal      : Bool := false
  /-- The reason of the last thermal stop (R456). -/
  thermReason  : Byte := 0
  /-- The slots that raised a job fault in the stop in progress (R456). -/
  faulted      : List Nat := []
deriving DecidableEq, Repr

/-- The CNT block (R468): the values of CNT_0 to CNT_12; OVF is set when a counter has stuck. -/
structure Cnt where
  values : Tab (BitVec 48) := []
  pinned : BitVec 24 := 0
deriving DecidableEq, Repr

/-! ## Power, pins and the DEV block (spec/18_power_and_package.md R473 to R491) -/

/-- DEV_STATE.STATE (R476). -/
inductive DevState where
  | reset | boot | train | ready | structured | running | stopped | thermal
deriving DecidableEq, Repr

/-- The internal rails (R473, R474). -/
inductive Rails where
  | off | starting | good
deriving DecidableEq, Repr

/-- A die's temperature and the highest since CLEAR_PEAK (DEV_TEMP_d); none: not sampled since, and MAX reads 0. -/
structure DieTemp where
  temp : Int := 0
  max  : Option Int := none
deriving DecidableEq, Repr

/-- The DEV block and the board-side pins. -/
structure Sys where
  state         : DevState := .reset
  dieHot        : Bool := false
  vinHigh       : Bool := false
  vinLow        : Bool := false
  refclkBAbsent : Bool := false
  refclkAAbsent : Bool := false
  readyMs       : BitVec 16 := 0
  vin           : BitVec 16 := 0
  iin           : BitVec 16 := 0
  watts         : BitVec 16 := 0
  peak          : BitVec 16 := 0
  dies          : Tab DieTemp := []
  /-- VIN at the lands in mV. -/
  vinMv         : Nat := 64000
  rails         : Rails := .good
  resetN        : Bool := false
  powerOk       : Bool := true
  readyN        : Bool := true
  thermtripN    : Bool := true
  tripped       : Bool := false
  bootMode      : BitVec 2 := 0
  iovSel        : Bool := true
  /-- Elapsed count at the effective release. -/
  released      : Nat := 0
deriving DecidableEq, Repr

/-! ## HBM and the Weir (spec/12_hbm.md R292 to R319) -/

/-- One end of a tensor-mover piece: a job virtual address, a local SRAM offset of a logical core, or zeros
(spec/08_vector_engine.md R215). -/
inductive TmSide where
  | va (a : Nat)
  | sram (logical off : Nat)
  | zeros
deriving DecidableEq, Repr

/-- A piece of a tensor-mover command: at most 4 KiB, crossing no 4 KiB boundary of either end, or one gather sector
(spec/08_vector_engine.md R216). `whole`: the command covers the whole page the piece writes; `uses`: the piece is no copy that
poison may travel through. -/
structure TmPiece where
  src   : TmSide
  dst   : TmSide
  n     : Nat
  whole : Bool
  uses  : Bool
deriving DecidableEq, Repr

/-- HBM_STATUS.STATE (R309). -/
inductive StackState where
  | off | training | ready | selfRefresh | failed
deriving DecidableEq, Repr

/-- A row of a pseudo-channel. -/
structure Row where
  pc  : Nat
  row : Nat
deriving DecidableEq, Repr

/-- HBM_LAST_ERR_LOC and HBM_LAST_ERR_INFO (R318). -/
structure LastErr where
  pc       : Nat := 0
  uncorr   : Bool := false
  slot     : Nat := 0
  burst    : Nat := 0
  valid    : Bool := false
  position : Nat := 0
  kind     : Nat := 0
deriving DecidableEq, Repr

/-- A tensor-mover piece in a hold queue: its core, slot, logical core, command index and command number (R311). -/
structure HeldPiece where
  core    : Nat
  slot    : Nat
  logical : Nat
  command : Nat
  ident   : Nat
  piece   : TmPiece
deriving DecidableEq, Repr

/-- An entry of a hold queue: the HBM cell it is for, and the piece that waits; none: an access of another requester, whose
effect is already made (notes/assumptions/27.md). -/
structure Held where
  cell  : Nat
  piece : Option HeldPiece := none
deriving DecidableEq, Repr

/-- One HBM stack (R318) and its controller. -/
structure Stack where
  state         : StackState := .off
  ueSeen        : Bool := false
  ceSeen        : Bool := false
  repairFull    : Bool := false
  retrainPc     : Option Nat := none
  threshold     : BitVec 16 := 0x0010
  scrub         : Bool := true
  ceCount       : BitVec 16 := 0
  ueCount       : BitVec 16 := 0
  remaps        : BitVec 16 := 0
  retrains      : BitVec 16 := 0
  retrainsEarly : BitVec 16 := 0
  applied       : BitVec 16 := 0
  /-- Controller spare rows used, by pseudo-channel (16 each). -/
  sparesUsed    : Tab Nat := []
  holdPeak      : BitVec 10 := 0
  lastErr       : LastErr := {}
  /-- Symbol position decoded as an erasure, by pseudo-channel (R303); absent: none. -/
  pins          : Tab (Option Nat) := []
  /-- Corrections by pseudo-channel and symbol position, key 64 * position + pc (R303). -/
  symbols       : Tab Nat := []
  /-- Tracked rows with their correctable counts, most recently corrected first (R307). -/
  rows          : List (Row × Nat) := []
  /-- Remaps waiting for the spacing of R311, oldest first, and the remaps that are copying. -/
  remapQueue    : List Row := []
  remapping     : List Row := []
  /-- Elapsed count of the last retrain or remap of each pseudo-channel, plus 1 (absent: none). -/
  lastRetrain   : Tab Nat := []
  lastRemap     : Tab Nat := []
  /-- The hold queue, oldest first (R311). -/
  hold          : List Held := []
  /-- Dead pins: symbol position by pseudo-channel (R303, R305). -/
  deadPins      : Tab (Option Nat) := []
  attempts      : Nat := 0
  /-- The Weir's view of the stack (R313, R319). -/
  temp          : Int := 0
  level         : Nat := 0
  maxLevel      : Nat := 0
  cool          : Nat := 0
deriving DecidableEq, Repr

/-- The WEIR block (R319). -/
structure Weir where
  thermalStop : Bool := false
  offset      : BitVec 4 := 0
  events      : BitVec 16 := 0
  lastEvent   : Dword := 0
deriving DecidableEq, Repr

/-! ## Cores (spec/06_matrix_arrays.md, spec/08_vector_engine.md R196 to R219) -/

/-- TYPE of a pip (R200). -/
inductive PipType where
  | empty | fp64 | int64
deriving DecidableEq, Repr

/-- A pip register (R200, R201). -/
structure Pip where
  value     : Dword := 0
  type      : PipType := .empty
  nanSeen   : Bool := false
  infSeen   : Bool := false
  allMasked : Bool := false
  infRow    : Bool := false
deriving DecidableEq, Repr

/-- A deposit on its way to a pip (R202). `due`: the Spout command that will make it, while that still runs. -/
structure Deposit where
  pip : Nat
  val : Pip
  due : Option Nat := none
deriving DecidableEq, Repr

/-- A tile register of an array: operand format, lines of element bytes, scale bytes, and the pattern and offsets it is
reloaded from after a restore (spec/06_matrix_arrays.md R155, R163). -/
structure Tile where
  fmt    : Nat
  lines  : List (List Byte)
  scales : List (List Byte)
  pat    : Nat
  adj    : Int
  sadj   : Int
deriving DecidableEq, Repr

/-- A command in an engine's queue (R161, R162, spec/08_vector_engine.md R195): its place in the core's program order, its index,
its bytes, and for a pointer list the entry it has come to (spec/07_loop_nests.md R182). -/
structure Queued where
  stamp : Nat
  pc    : Nat
  b     : List Byte
  entry : Nat := 0
deriving DecidableEq, Repr

/-- An array of a core: active tile, shadow tile, and its queue (R155, R162). -/
structure Arr where
  active : Option Tile := none
  shadow : Option Tile := none
  queue  : List Queued := []
deriving DecidableEq, Repr

/-- What a core waits for. -/
inductive Wait where
  | none
  /-- SEM.WAIT for a target on an index: shared (owner 0xFF) or the private one of a logical core. -/
  | sem (owner index : Nat) (target : Word)
  /-- SEM.ACQUIRE of a shared index. -/
  | acquire (index : Nat)
  /-- FENCE.C, also inside SEM.SIGNAL with FENCE. -/
  | fenceC
  /-- The k-th FENCE.B or FENCE.D of the turn. -/
  | fenceB (k : Nat)
  | fenceD (k : Nat)
  /-- TRN.END passed: the core idles until the next turn. -/
  | ended
  /-- A full engine queue. -/
  | queue
deriving DecidableEq, Repr


/-- A tensor-mover command in the mover's queue: its signal, the pieces it has not begun, and how many of its remote requests
have no response yet. -/
structure TmCmd where
  /-- Its place in the core's program order (R161). -/
  ident    : Nat
  todo     : List TmPiece
  command  : Nat
  semCore  : Nat
  semIndex : Nat
  semAdd   : Word
  signal   : Bool
  bulk     : Bool
  waiting  : Nat
  /-- TM.GATHER: the local SRAM offset of DST, from which 32 sectors make one request (spec/08_vector_engine.md R216). -/
  gather   : Option Nat := none
deriving DecidableEq, Repr

/-- A Spout command, queued or running (spec/11_convolution.md R282 to R287): who issued it, its 32 bytes, and once it has
started its descriptor, the rows done and what its deposit counts. -/
structure SpoutCmd where
  ident   : Nat
  core    : Nat
  slot    : Nat
  logical : Nat
  command : Nat
  bytes   : List Byte
  owner   : Nat
  started : Bool := false
  desc    : List Byte := []
  rows    : Nat := 0
  nans    : Nat := 0
  nanSeen : Bool := false
  infSeen : Bool := false
deriving DecidableEq, Repr

/-- A cluster's Spout engine (R287): the command it runs, the one it has suspended, and its queue of 16. -/
structure Spout where
  run       : Option SpoutCmd := none
  suspended : Option SpoutCmd := none
  queue     : List SpoutCmd := []
deriving DecidableEq, Repr

/-- A core's context: what a save keeps (R105, R196). -/
structure Ctx where
  sregs    : Tab Dword := []
  pc       : Nat := 0
  pips     : Tab Pip := []
  psem     : Tab Word := []
  seed     : Word := 0
  /-- The 256 lane generators (spec/05_number_formats.md R134). -/
  lanes    : Tab Word := []
  /-- Pending ADDF additions: word offset to sum (R198). -/
  addf     : Tab Word := []
  /-- Consecutive takings of each backward branch (R199). -/
  taken    : Tab Nat := []
  fencesB  : Nat := 0
  fencesD  : Nat := 0
  wait     : Wait := .none
  arr0     : Arr := {}
  arr1     : Arr := {}
  deposits : List Deposit := []
  /-- ACC_BASE of the triples of which an ATT.RUN has ignored a NaN score (spec/10_attention.md R258). -/
  attNan   : List Nat := []
  /-- Spout commands that left their engine at a pre-emption, with the row each reached (spec/11_convolution.md R287). -/
  spout    : List SpoutCmd := []
  /-- The commands that wait in the queues of the vector engine, of the special-function and row-statistics units, and of the
  tensor mover (R195, R161). -/
  vecQueue : List Queued := []
  sfQueue  : List Queued := []
  tmQueue  : List Queued := []
  /-- Codec commands that wait for room in their stream's queue (spec/14_video_codec.md R379). -/
  codQueue : List Queued := []
  /-- Tensor-mover commands that a pre-emption has stopped, with the pieces each has left (spec/04_clepsydra_and_scheduling.md R105). -/
  tm       : List TmCmd := []
deriving DecidableEq, Repr

/-- A physical core (R219). -/
structure CoreSt where
  slot      : Option Nat := none
  ctx       : Ctx := {}
  boundHit  : Bool := false
  boundHits : BitVec 16 := 0
  tm        : List TmCmd := []
  /-- The core issues commands: it holds a running job's turn and no stop or pre-emption holds it. -/
  active    : Bool := false
  saving    : Bool := false
  restoring : Bool := false
  /-- Page cache: (slot of the cache, frame) from most to least recently used (spec/10_attention.md R269). -/
  pages     : List (Nat × Nat) := []
deriving DecidableEq, Repr

/-- A basin's shared semaphore: value and owning logical core (R211). -/
structure SharedSem where
  value : Word := 0
  owner : Nat := 0xFF
deriving DecidableEq, Repr

/-! ## Places and remote requests (spec/13_koliz_fabric.md R336 to R340) -/

/-- A place a piece of an access goes to. -/
inductive Place where
  /-- Consecutive cells of this device's memory. -/
  | cells (cell : Nat)
  /-- Zeros: a read of a hole (R52). -/
  | zeros
  /-- The turn-commit unit's tables in staging SRAM, read only (R57). -/
  | tables (off : Nat)
  /-- A global address on another device. -/
  | remote (global : Nat)
  /-- A job virtual address of a slot of another device (REMOTE_VIEW). -/
  | remoteView (device slot va : Nat)
deriving DecidableEq, Repr

/-- Who made a remote request. -/
inductive Origin where
  /-- A tensor-mover command: physical core, slot, logical core, command index and the command's number; the place a READ's
  data goes to. -/
  | mover (core slot logical command ident : Nat) (dst : Option Place)
  /-- A Plaldaul request of a connection: its sequence number, and the offset of the piece in it. -/
  | host (h seq off : Nat)
deriving DecidableEq, Repr

/-- A remote request without its RESPONSE. -/
structure Req where
  tag    : Word
  device : Nat
  bytes  : Nat
  va     : Nat
  origin : Origin
deriving DecidableEq, Repr

/-! ## Koliz ports and Cascade (spec/13_koliz_fabric.md R320 to R366) -/

/-- KLZ_PORT_STATUS.STATE (R328). -/
inductive PortState where
  | idle | detect | train | backoff | up | active | mismatch | tooFar
deriving DecidableEq, Repr

/-- What a port has put on its lanes. -/
inductive PortOut where
  | packet (p : Packet)
  /-- A NAK with its ACK_SEQ (R324). -/
  | nak (ack : BitVec 16)
  /-- A replay of the retry buffer from the flit after this one. -/
  | replay (ack : BitVec 16)
  /-- An ACK of the flits up to this one. -/
  | ack (seq : BitVec 16)
  /-- Credits of 256 B returned for a channel and class (key 2 * channel + class). -/
  | credit (key units : Nat)
deriving DecidableEq, Repr

/-- A Koliz port (R323 to R333, R365). -/
structure Port where
  state         : PortState := .idle
  reason        : Byte := 0
  neighbour     : BitVec 12 := 0
  neighbourPort : BitVec 4 := 0
  linkLost      : Bool := false
  dateline      : Bool := false
  retrain       : Bool := false
  disable       : Bool := false
  /-- The port's training group has started (R330). -/
  started       : Bool := false
  rtt           : BitVec 16 := 0
  fecCorrected  : BitVec 16 := 0
  fecUncorrected : BitVec 16 := 0
  replays       : BitVec 16 := 0
  losses        : BitVec 16 := 0
  bad           : BitVec 16 := 0
  /-- Next flit number to send, and next expected. -/
  txSeq         : BitVec 16 := 0
  rxSeq         : BitVec 16 := 0
  /-- A flit was refused: everything is dropped until the replay (R324). -/
  dropping      : Bool := false
  /-- A replay of ours has not yet recovered (R325). -/
  replaying     : Bool := false
  /-- Unacknowledged packets, oldest first, each with the number of its last flit. -/
  retry         : List (BitVec 16 × Packet) := []
  /-- Units of 256 B in use at the far receiver, key 2 * channel + class. -/
  used          : Tab Nat := []
  /-- Packets that wait for credits, oldest first. -/
  waiting       : List Packet := []
  /-- Bytes of a packet received in part. -/
  rx            : List Byte := []
  line          : List PortOut := []
  /-- The flits the port has sent, 256 bytes each (R323), and those in its retry buffer with their numbers (R324). -/
  lanes         : List (List Byte) := []
  sent          : List (BitVec 16 × List Byte) := []
  /-- Bytes channel 0 has sent beyond channel 2 while both waited (R327). -/
  ahead         : Int := 0
  /-- Elapsed count of the last NOT_READY response, plus 1 (0: none) (R331). -/
  lastNotReady  : Nat := 0
  /-- The last IDENT received while the link is up: DEVICE, PORT, NUM, DEN (R332). -/
  ident         : Option (Nat × Nat × Nat × Nat) := none
deriving DecidableEq, Repr

/-- CSC_GRP_STATUS.BARRIER (R366). -/
inductive Barrier where
  | idle | waiting | arrived | decided | aborted
deriving DecidableEq, Repr

/-- CSC_GRP_RING_r and CSC_GRP_RING_POS_r. -/
structure Ring where
  valid      : Bool := false
  nextBValid : Bool := false
  prevBValid : Bool := false
  size       : Nat := 0
  nextA      : Nat := 0
  nextB      : Nat := 0
  prevA      : Nat := 0
  prevB      : Nat := 0
  position   : Nat := 0
deriving DecidableEq, Repr

/-- A domain group (R346 to R351, R366). -/
structure Grp where
  slot        : Nat := 0
  root        : Bool := false
  valid       : Bool := false
  parentValid : Bool := false
  parent      : Nat := 0
  children    : BitVec 16 := 0
  abortReason : Byte := 0
  absentSeen  : Bool := false
  barrier     : Barrier := .idle
  rings       : Tab Ring := []
  /-- Children whose ARRIVE for `turn` has come. -/
  arrived     : BitVec 16 := 0
  turn        : Dword := 0
  /-- The member's own turn has staged and arrived. -/
  own         : Bool := false
  /-- Root: elapsed count of the first arrival. -/
  first       : Option Nat := none
  /-- Root: the ports whose subtree has lost a member since it last arrived (R351). -/
  absent      : BitVec 16 := 0
deriving DecidableEq, Repr

/-- A run of a Cascade command's destination: where it lies, the job virtual address of a remote one, and its bytes. -/
structure CscRun where
  place : Place
  va    : Nat := 0
  n     : Nat
deriving DecidableEq, Repr

/-- A Cascade command that has been issued and not ended (R355 to R361). Rings 0 to 7, 8 the tree. -/
structure CscCmd where
  core     : Nat
  slot     : Nat
  logical  : Nat
  command  : Nat
  group    : Nat
  ring     : Nat
  /-- The command's number on its ring in this turn, from 1 (R358). -/
  seq      : Nat
  pass     : Bool
  op       : Nat
  fmt      : Nat
  redop    : Nat
  narrow   : Bool
  /-- Bytes of the whole transfer on the wire. -/
  bytes    : Nat
  /-- The member's own bytes: what it contributes, passes or broadcasts. -/
  src      : List Byte
  /-- The destination, one list of runs for each core that receives the transfer. -/
  dst      : List (List CscRun)
  /-- Bytes for runs on another device, which go out when the command ends: key 2^40 * receiver + offset. -/
  far      : Tab Byte := []
  /-- A reduction's elements by index: arrivals combined so far, and the FP32 bits of the partial. -/
  seen     : Tab Nat := []
  part     : Tab Nat := []
  /-- Elements (of a reduction) or bytes received, and how many the command expects. -/
  got      : Nat := 0
  expected : Nat
  /-- PASS: the receiver is ready; the block is sent. -/
  ready    : Bool := false
  sent     : Bool := false
  signal   : Bool
  semCore  : Nat
  semIndex : Nat
  semAdd   : Word
deriving DecidableEq, Repr

/-- The device-wide Koliz and CSC registers and the fabric's own state (R340, R344, R345, R366). -/
structure Klz where
  ports       : Tab Port := []
  requests    : List Req := []
  tagNext     : Word := 0
  timeoutSeen : Bool := false
  ttlDrop     : Bool := false
  failed      : Bool := false
  requested   : BitVec 16 := 0xC350
  /-- TRAINED once a port has trained after reset; until then it follows REQUESTED. -/
  trained     : Option (BitVec 16) := none
  echoGo      : Bool := false
  echoDone    : Bool := false
  echoFailed  : Bool := false
  echoDevice  : BitVec 12 := 0
  echoRtt     : Word := 0
  /-- The tag of the ECHO that has no answer yet. -/
  echoTag     : Option Word := none
  timeouts    : BitVec 16 := 0
  ttlDrops    : BitVec 16 := 0
  linkDelay   : BitVec 16 := 0
  linkPort    : BitVec 4 := 0
  /-- Tag of our TIME_REQ without its answer. -/
  timeTag     : Option Word := none
  groups      : Tab Grp := []
  cascade     : List CscCmd := []
  /-- Cascade packets that came before their command, with the port they came on. -/
  early       : List (Nat × Packet) := []
  /-- Commands issued in the open turn, key 16 * slot + ring: the numbering of R358. -/
  issued      : Tab Nat := []
deriving DecidableEq, Repr

/-! ## Codec streams and pictures (spec/14_video_codec.md R367 to R394) -/

/-- COD_STREAM_STATUS.STATE (R373). -/
inductive StreamState where
  | closed | checking | opened | refused | closing
deriving DecidableEq, Repr

/-- A decoded picture as its pool entry holds it: its samples by rows, Cb and Cr alternating, and which of its 16 x 16 blocks have a
motion vector (R375, R376, R385). -/
structure Recon where
  width  : Nat
  height : Nat
  luma   : List (List Nat)
  chroma : List (List Nat)
  moved  : List Bool
deriving DecidableEq, Repr

/-- The part of a split picture that one core of its group takes (R370): `count` tile columns, block-unit rows or bitstream parts from
`first` on, each `step`-th. -/
structure Share where
  core  : Nat
  first : Nat
  count : Nat
  step  : Nat := 1
deriving DecidableEq, Repr

/-- What a finished picture will publish (R381): its record, and the stream state after it. -/
structure PicOut where
  offset  : Nat
  bytes   : Nat
  finish  : Dword
  poc     : Word
  /-- 0 DONE, 1 CONCEALED, 2 UNSUPPORTED, 3 SKIPPED. -/
  status  : Nat
  reason  : Byte
  key     : Bool
  late    : Bool
  tainted : Bool
  single  : Bool
  /-- Decode: the entry marks, and whether the decoder skips to a key picture, after this picture. -/
  marks   : Tab Nat := []
  resync  : Bool := false
  /-- Decode: AV1's eight reference slots after this picture, each the number of its entry plus 1 or 0, and the picture itself. -/
  slots   : Tab Nat := []
  recon   : Option Recon := none
deriving DecidableEq, Repr

/-- A picture of a job's open turn, from hand-over on (R378, R379). -/
structure Pic where
  stream    : Nat
  enc       : Bool
  core      : Nat
  slot      : Nat
  logical   : Nat
  command   : Nat
  /-- USER or LENGTH, the word at 0x04. -/
  word      : Nat
  src       : Nat
  dst       : Nat
  signal    : Bool
  semCore   : Nat
  semIndex  : Nat
  semAdd    : Word
  keyAsked  : Bool
  live      : Bool
  /-- The deadline of a LIVE picture as a Clepsydra value. -/
  deadline  : Dword
  started   : Bool := false
  /-- The codec cores it runs on; none while it is queued, suspended or done. A suspended picture with cores is still being saved. -/
  runs      : List Nat := []
  key       : Bool := false
  entry     : Option Nat := none
  suspended : Bool := false
  /-- It has been suspended at some time (the SUSPENDED flag of its record). -/
  paused    : Bool := false
  /-- Decode: bytes before the first start code, and whether the picture's bytes end before it does (R384). -/
  lead      : Nat := 0
  cut       : Bool := false
  /-- How its group divides it; SINGLE when the bitstream carries no parts (R370). -/
  shares    : List Share := []
  single    : Bool := false
  done      : Option PicOut := none
deriving DecidableEq, Repr

/-- A codec stream (R371 to R377, R383, R394). -/
structure Stream where
  state     : StreamState := .closed
  reason    : Byte := 0
  late      : Bool := false
  keyPending : Bool := false
  /-- Elapsed count of the write that set KEY_PENDING. -/
  keyAt     : Nat := 0
  resync    : Bool := false
  descAddr  : BitVec 48 := 0
  /-- The 96 bytes of the descriptor, as read at OPEN. -/
  desc      : List Byte := []
  /-- The areas the stream protects: HBM offset and bytes (R374). -/
  areas     : List (Nat × Nat) := []
  recordsWritten  : Word := 0
  recordsConsumed : Word := 0
  ringWritten     : Word := 0
  ringConsumed    : Word := 0
  concealed    : BitVec 16 := 0
  syntaxErrors : BitVec 16 := 0
  latePictures : BitVec 16 := 0
  /-- Marks of the pool entries: 0 UNUSED, 1 SHORT_TERM, 2 LONG_TERM. -/
  marks     : Tab Nat := []
  /-- Pictures committed. -/
  pictures  : Dword := 0
  /-- Pictures since the last key picture; none: no picture yet. -/
  sinceKey  : Option Nat := none
  /-- Encode: entries of the most recent pictures, latest first. -/
  refs      : List Nat := []
  /-- Decode: tainted entries, and the concealment source (R385, R386). -/
  taint     : Tab Bool := []
  source    : Option Recon := none
  /-- Decode, AV1: the reference slots, each the number of the entry it names plus 1, or 0 (R376). -/
  slots     : Tab Nat := []
  /-- Encode: the bytes rate control has counted (R382). -/
  rate      : Nat := 0
deriving DecidableEq, Repr

/-- The COD block (R393), its streams, and the pictures of open turns in hand-over order. -/
structure Cod where
  lateCount : BitVec 16 := 0
  failed    : BitVec 16 := 0
  streams   : Tab Stream := []
  pics      : List Pic := []
deriving DecidableEq, Repr

/-! ## Ethernet ports, connections and mailboxes (spec/15_host_attachment.md R395 to R430) -/

/-- A port's RW registers (R428). -/
structure EthConf where
  an      : Bool := false
  medium  : BitVec 2 := 0
  mac     : BitVec 48 := 0
  tagged  : Bool := false
  vid     : BitVec 12 := 0
  ipv4    : Word := 0
  udpPort : BitVec 16 := 0xB8C0
  ipv6    : BitVec 128 := 0
deriving DecidableEq, Repr

/-- An Ethernet port (R428). -/
structure Eth where
  conf       : EthConf := {}
  linkUp     : Bool := false
  linkLost   : Bool := false
  /-- PHY in use while the link is up. -/
  medium     : BitVec 2 := 0
  frames     : Word := 0
  fcsErrors  : Word := 0
  dropped    : Word := 0
  macsecFail : Word := 0
  /-- Elapsed counts of the ARP and Neighbor Discovery answers of the last second, latest first (R398). -/
  answered   : List Nat := []
deriving DecidableEq, Repr

/-- Where an answer goes: the port, source address, tag and encapsulation of the frame it answers (R395, R397, R398). -/
structure Back where
  port  : Nat
  mac   : BitVec 48
  vlan  : Option (BitVec 3 × BitVec 12)
  encap : Encap
deriving DecidableEq, Repr

/-- A frame the GL9 has sent: as `Back`, with its own addresses as the source; the MACsec association slot, AN and packet
number that protect it; and what follows the encapsulation. -/
structure EthOut where
  port   : Nat
  dest   : BitVec 48
  vlan   : Option (BitVec 3 × BitVec 12)
  macsec : Option (Nat × BitVec 2 × Dword)
  encap  : Encap
  data   : List Byte
deriving DecidableEq, Repr

/-- PLD_HOST_CFG_h, PLD_HOST_PEER_PORT_h and PLD_HOST_PEER_i_h (R429). -/
structure ConnConf where
  valid    : Bool := false
  readOnly : Bool := false
  domain   : Bool := false
  macsec   : Bool := false
  port     : BitVec 2 := 0
  encap    : BitVec 2 := 0
  units    : Byte := 16
  sa       : BitVec 4 := 0
  peerPort : BitVec 16 := 0
  peer     : BitVec 128 := 0
deriving DecidableEq, Repr

/-- PLD_HOST_STATUS.STATE (R414). -/
inductive Session where
  | closed | opened | draining
deriving DecidableEq, Repr

/-- Where a Plaldaul request stands (R409, R410, R412). -/
inductive ReqPhase where
  /-- Received and not executed. -/
  | received
  /-- A HOSTFENCE that waits to complete, or a DOORBELL behind earlier HOSTFENCEs. -/
  | waiting
  /-- Its parts on another device have no response yet. -/
  | remote
  /-- Answered; its response is cached in staging SRAM, or, for a long MEM_RD, is made anew for a duplicate. -/
  | answered (cached : Bool)
deriving DecidableEq, Repr

/-- A received Plaldaul request: its header and payload, and for a remote one the parts without a response, the data that has
come by offset, the first part that failed with its Koliz code, and the first poisoned offset. -/
structure PldReq where
  seq    : Nat
  op     : Nat
  back   : Back
  bytes  : List Byte
  phase  : ReqPhase := .received
  left   : Nat := 0
  parts  : Tab (List Byte) := []
  failed : Option (Nat × Nat) := none
  poison : Option Nat := none
deriving DecidableEq, Repr

/-- A connection slot (R400, R408 to R414, R429). -/
structure Conn where
  conf       : ConnConf := {}
  state      : Session := .closed
  session    : BitVec 16 := 0
  /-- The OPEN that opened the session: its SEQ and its response. -/
  openSeq    : Nat := 0
  openReply  : List Byte := []
  /-- L (R409). -/
  low        : Nat := 0
  reqs       : List PldReq := []
  /-- An OPEN that has been received and not executed, or waits for the end of DRAINING. -/
  opening    : Option PldReq := none
  requests   : Word := 0
  duplicates : Word := 0
  window     : Word := 0
  rate       : Word := 0
  /-- Elapsed count of the last NOT_READY answer before READY, plus 1 (0: none) (R415). -/
  lastNotReady : Nat := 0
deriving DecidableEq, Repr

/-- The PLD block (R429), and the frames that have gone out. -/
structure Pld where
  mgtRefused  : Bool := false
  mgtReason   : Byte := 0
  rxBad       : Word := 0
  rxUnbound   : Word := 0
  /-- The service processor has written the board record (R401). -/
  boardLoaded : Bool := false
  conns       : Tab Conn := []
  out         : List EthOut := []
deriving DecidableEq, Repr

/-- A mailbox channel (R418 to R421, R430). -/
structure Mbx where
  sender   : Nat := 15
  receiver : Nat := 15
  msg      : Tab Word := []
  full     : Bool := false
  count    : BitVec 16 := 0
  refusal  : Byte := 0
  /-- When the message came, by the order of messages (spec/16_security.md R444). -/
  arrived  : Nat := 0
deriving DecidableEq, Repr

/-- The I3C target (R423 to R425): its dynamic address, the held offset, a pending NACK, and what the last transfer showed. -/
structure I3c where
  dynamic  : Option (BitVec 7) := none
  offset   : Nat := 0
  nackNext : Bool := false
  /-- The words the last private read returned. -/
  reply    : List Word := []
  /-- What the target sent at the last ENTDAA: provisional ID, BCR and DCR (R423). -/
  ident    : List Byte := []
  /-- The last transfer was refused with a NACK. -/
  nacked   : Bool := false
deriving DecidableEq, Repr

/-- What the last register access of a command returned: the word read, or the reason of a bus error (0: none) (R6). -/
structure BusResult where
  value : Word := 0
  error : Byte := 0
deriving DecidableEq, Repr

/-! ## The security controller (spec/16_security.md R431 to R452) -/

/-- SEC_STATUS.STATE (R452). -/
inductive SecState where
  | boot | running | recovery | failed
deriving DecidableEq, Repr

/-- The MACsec associations of a slot (R399, R447, R448). -/
structure Assoc where
  suite  : Nat := 0
  anRx   : BitVec 2 := 0
  anTx   : BitVec 2 := 0
  sciRx  : Dword := 0
  sciTx  : Dword := 0
  ssciRx : Word := 0
  ssciTx : Word := 0
  saltRx : List Byte := []
  saltTx : List Byte := []
  keyRx  : List Byte := []
  keyTx  : List Byte := []
  /-- The next transmit packet number, and the next packet number expected. -/
  txPn   : Nat := 1
  rxNext : Nat := 1
deriving DecidableEq, Repr

/-- What the controller holds for a requester's channel (R442): the message in assembly, and the SPDM state. -/
structure SecChan where
  assembling : Bool := false
  /-- The next fragment counter. -/
  next       : Byte := 0
  buf        : List Byte := []
  /-- A complete SPDM request, and when it came (R444). -/
  msg        : Option (List Byte) := none
  arrived    : Nat := 0
  /-- Answers that wait for the paired channel, oldest first. -/
  answers    : List (List Word) := []
  /-- SPDM negotiation: 0 none, 1 VERSION, 2 CAPABILITIES, 3 ALGORITHMS answered. -/
  stage      : Nat := 0
deriving DecidableEq, Repr

/-- The security controller (R452). -/
structure Sec where
  state         : SecState := .boot
  lastReason    : Byte := 0
  fwCopy        : Nat := 0
  debugUnlocked : Bool := false
  fwVersion     : Word := 0
  fwHash        : List Byte := List.replicate 48 0
  refusals      : BitVec 16 := 0
  challenge     : List Byte := List.replicate 32 0
  /-- Measurement 5 (R445). -/
  history       : List Byte := List.replicate 48 0
  assocs        : Tab Assoc := []
  chans         : Tab SecChan := []
  /-- The model's own: which issue of the alias certificate is in force (R440). -/
  issue         : Nat := 0
  /-- The JTAG instruction in force (R449). -/
  jtag          : JtagOp := .bypass
deriving DecidableEq, Repr

/-- The board record, as the service processor reads it from flash (R401, R433, R448). -/
structure Board where
  eth     : Tab EthConf := []
  conns   : Tab ConnConf := []
  horizon : BitVec 16 := 0xC350
  /-- MACsec key blocks. -/
  keys    : List (List Byte) := []
deriving DecidableEq, Repr

/-! ## The whole machine -/

/-- What survives reset and loss of power: fuses and QSPI flash (spec/16_security.md R432, R433). -/
structure Nv where
  /-- Fuses (R432): 48-byte hashes and seed, serial number, anti-rollback counters 0 to 64, and whether the copies agree. -/
  vendorHash   : List Byte := List.replicate 48 0
  ownerHash    : List Byte := List.replicate 48 0
  identitySeed : List Byte := List.replicate 48 0
  serial       : Dword := 0
  strCounter   : Nat := 0
  prgCounter   : Nat := 0
  fwCounter    : Nat := 0
  consistent   : Bool := true
  /-- Repair records of each stack in the flash, up to 256 (spec/12_hbm.md R308). -/
  repairs      : Tab (List Row) := []
  /-- Flash (R433): firmware copies A and B, the board record, and the security records: the certificates of slot 0 but the
  last, sender and receiver of channels 20 to 31 by a policy record that passes R436, and the key epoch of each slot. -/
  fwA          : List Byte := []
  fwB          : List Byte := []
  board        : Board := {}
  certs        : List (List Byte) := []
  policy       : Tab (Nat × Nat) := []
  epochs       : Tab Nat := []
deriving DecidableEq, Repr

/-- Everything that reset or loss of power clears. -/
structure Dev where
  readLatch  : Tab (Option Latch) := []
  writeLatch : Tab (Option Latch) := []
  str        : Str := {}
  trn        : Trn := {}
  clp        : Clp := {}
  jobs       : Tab Job := []
  sch        : Sch := {}
  flt        : Flt := {}
  cnt        : Cnt := {}
  sys        : Sys := {}
  hbm        : Tab Stack := []
  weir       : Weir := {}
  cores      : Tab CoreSt := []
  /-- Shared semaphores, key 16 * basin + index. -/
  sems       : Tab SharedSem := []
  /-- Saved contexts, key 256 * slot + logical core. -/
  saved      : Tab (Option Ctx) := []
  /-- The model's own: numbers tensor-mover commands, so that a response finds its command. -/
  tmNext     : Nat := 0
  /-- The Spout engines, by cluster. -/
  spouts     : Tab Spout := []
  klz        : Klz := {}
  cod        : Cod := {}
  eth        : Tab Eth := []
  pld        : Pld := {}
  mbxLocked  : Bool := false
  mbx        : Tab Mbx := []
  i3c        : I3c := {}
  sec        : Sec := {}
  bus        : BusResult := {}
  /-- HBM cells, core SRAM, command memories and staging SRAM (Machine/Ops.lean lays the cells out); an unlisted cell reads 0. -/
  mem        : List Host.Cell := []
  /-- 64-byte units marked poisoned, by cell number / 64 (spec/12_hbm.md R304, R305). -/
  poison     : Tab Bool := []
  /-- Errors in HBM bursts that nothing has corrected or replaced, by cell number / 64 (spec/12_hbm.md R302 to R305). An
  uncorrectable one that no read has found is marked poisoned beside it, since every read of it returns poison. -/
  upsets     : Tab (Option CellErr) := []
  /-- Rows recorded for hard repair whose record is not yet in the flash, by stack (spec/12_hbm.md R307, R308). -/
  repairsDue : Tab (List Row) := []
  /-- The model's own: how many free values have been used (Config). -/
  free       : Nat := 0
deriving DecidableEq, Repr

/-- The machine: its volatile part, its non-volatile part and the queue of waiting commands. -/
structure State where
  dev     : Dev := {}
  nv      : Nv := {}
  pending : List Instr := []
deriving DecidableEq, Repr

/-- The machine right after reset: RESET_N low with the supply in regulation (R476), nothing in any queue. -/
def State.reset : State := {}

/-- Why the machine stops. -/
inductive Fault where
  /-- A command names a unit the GL9 does not have (a core above 143, a slot above 63, ...). Raised by every meaning whose
  operand names a unit. Safe: the hardware has no such event. -/
  | noSuchUnit
deriving DecidableEq, Repr

/-- Why a command has no meaning. -/
inductive Refusal where
  /-- The command's meaning is not written. Raised by arms of `exec` alone. Safe: nothing can be proved of it. -/
  | notModelled (mnemonic : String)
  /-- A private JTAG instruction of an unlocked part: the manual does not say what it does (spec/16_security.md R449).
  Raised by JTAG_INSTRUCTION. Safe. -/
  | privateJtag (code : Nat)
deriving DecidableEq, Repr

end Sys2Proof.Machine
end

