-- ==== Sys2Proof/Machine/Tab.lean ====
section
/-! DEFINITION. Sparse tables: the one representation of everything the machine indexes. A table lists its entries by
strictly rising key and lists no entry equal to the default of its use, so equal contents are equal data. -/

namespace Sys2Proof.Machine

/-- The value at key `i`; `d` where the table lists none. -/
def tabGet {α : Type} (d : α) : Tab α → Nat → α
  | [], _ => d
  | (k, v) :: t, i => if k = i then v else tabGet d t i

/-- The table without key `i`. -/
def tabErase {α : Type} (t : Tab α) (i : Nat) : Tab α :=
  t.filter (fun e => !(e.1 == i))

/-- The table with `v` at key `i`, at its place in the rising order. -/
def tabInsert {α : Type} : Tab α → Nat → α → Tab α
  | [], i, v => [(i, v)]
  | (k, w) :: t, i, v =>
    if i < k then (i, v) :: (k, w) :: t
    else if k = i then (i, v) :: t
    else (k, w) :: tabInsert t i v

/-- The table with `v` at key `i`; writing the default removes the entry. -/
def tabSet {α : Type} [DecidableEq α] (d : α) (t : Tab α) (i : Nat) (v : α) : Tab α :=
  if v = d then tabErase t i else tabInsert t i v

/-- The table without the keys from `lo` up to, not including, `hi`. -/
def tabDrop {α : Type} (t : Tab α) (lo hi : Nat) : Tab α :=
  t.filter (fun e => !(decide (lo ≤ e.1) && decide (e.1 < hi)))

/-- Keys strictly rise from above `lo` (none: from anywhere). -/
def tabRising {α : Type} : Option Nat → Tab α → Bool
  | _, [] => true
  | none, (k, _) :: t => tabRising (some k) t
  | some lo, (k, _) :: t => decide (lo < k) && tabRising (some k) t

/-- The canonical form: keys strictly rise and no entry is the default. -/
def tabWf {α : Type} [DecidableEq α] (d : α) (t : Tab α) : Bool :=
  tabRising none t && t.all (fun e => !(decide (e.2 = d)))

/-- A table of the listed values at keys 0, 1, 2, …. -/
def tabOfList {α : Type} [DecidableEq α] (d : α) (l : List α) : Tab α :=
  (l.zipIdx.filter (fun e => !(decide (e.1 = d)))).map (fun e => (e.2, e.1))

end Sys2Proof.Machine
end

