-- ==== Sys2Proof/Machine/Ops.lean ====
section
/-! DEFINITION. The named operations everything else is built from: byte order, counters, the cells of memory and how HBM
offsets reach them, the accessors of the indexed state, and how a meaning answers. -/

namespace Sys2Proof.Machine

/-- What a meaning answers. -/
abbrev Out := Host.Outcome State Fault Refusal

/-- The GL9 is in RESET: it answers nothing, and only its supply, its pins and its clocks act on it (spec/18_power_and_package.md
R476, R485). -/
def asleep (d : Dev) : Bool := d.sys.state == .reset

/-- A meaning that changes the volatile part alone, for a command whose operands name units that exist. -/
def onDev (ok : Bool) (f : Nv → Dev → Dev) (s : State) : Out :=
  if ok then .next { s with dev := if asleep s.dev then s.dev else f s.nv s.dev } else .fault .noSuchUnit

/-- A meaning that may also change fuses or flash. -/
def onBoth (ok : Bool) (f : Nv → Dev → Nv × Dev) (s : State) : Out :=
  if ok then
    (if asleep s.dev then .next s else .next { s with nv := (f s.nv s.dev).1, dev := (f s.nv s.dev).2 })
  else .fault .noSuchUnit

/-- A meaning of the supply, a pin or a clock, which acts in RESET too. -/
def onPins (f : Nv → Dev → Dev) (s : State) : Out := .next { s with dev := f s.nv s.dev }

/-! ## Numbers and bytes -/

/-- Little-endian value of bytes (spec/00_scope.md, Notation). -/
def leNat : List Byte → Nat
  | [] => 0
  | b :: bs => b.toNat + 256 * leNat bs

/-- The `n` low bytes of `v`, little-endian. -/
def leBytes : Nat → Nat → List Byte
  | 0, _ => []
  | n + 1, v => BitVec.ofNat 8 v :: leBytes n (v / 256)

/-- Big-endian value of bytes. -/
def beNat (bs : List Byte) : Nat := leNat bs.reverse

/-- The `n` low bytes of `v`, big-endian. -/
def beBytes (n v : Nat) : List Byte := (leBytes n v).reverse

/-- `n` bytes of `bs` from `off`, missing ones 0. -/
def sliceBytes (bs : List Byte) (off n : Nat) : List Byte :=
  let got := (bs.drop off).take n
  got ++ List.replicate (n - got.length) 0

/-- The little-endian field of `n` bytes at `off`. -/
def fieldLe (bs : List Byte) (off n : Nat) : Nat := leNat ((bs.drop off).take n)

/-- Bit `i` of a number. -/
def natBit (v i : Nat) : Bool := v.testBit i

/-- Bits [hi:lo] of a number. -/
def natBits (v hi lo : Nat) : Nat := v / 2 ^ lo % 2 ^ (hi + 1 - lo)

/-- A Bool as a bit. -/
def bit (b : Bool) : Nat := if b then 1 else 0

/-- A 16-bit count that sticks at 0xFFFF (spec/17_faults_and_counters.md R464). -/
def sat16 (c : BitVec 16) : BitVec 16 := if c = 0xFFFF then c else c + 1

/-- A 32-bit count that sticks at 0xFFFF_FFFF. -/
def sat32 (c : Word) : Word := if c = 0xFFFFFFFF then c else c + 1

/-- Low half of a pair. -/
def lo32 (v : Dword) : Word := v.truncate 32
/-- High half of a pair. -/
def hi32 (v : Dword) : Word := (v >>> 32).truncate 32
/-- A pair from its halves. -/
def pair32 (hi lo : Word) : Dword := hi ++ lo

/-- A signed difference of two wrapping 32-bit counts. -/
def sdiff (a b : Word) : Int := (a - b).toInt

/-- `v` clamped to `lo`..`hi`. -/
def clampInt (lo hi v : Int) : Int := if v < lo then lo else if v > hi then hi else v

/-- The rank of accessor identities among the latches (R8). -/
def accCode (a : Accessor) : Nat :=
  match a with
  | .host h => h % 8
  | .mgt => 8
  | .svp => 9
  | .sec => 10
  | .remote d => 16 + d

/-! ## CRC-32C (spec/12_hbm.md R296, spec/13_koliz_fabric.md R338) -/

/-- One bit of the reflected Castagnoli polynomial. -/
def crcBit (c : Nat) : Nat := if c % 2 = 1 then (c / 2) ^^^ 0x82F63B78 else c / 2

/-- One byte. -/
def crcByte (c : Nat) (b : Byte) : Nat :=
  crcBit (crcBit (crcBit (crcBit (crcBit (crcBit (crcBit (crcBit (c ^^^ b.toNat))))))))

/-- CRC-32C of bytes. -/
def crc32c (bs : List Byte) : Nat := (bs.foldl crcByte 0xFFFFFFFF) ^^^ 0xFFFFFFFF

/-! ## Cells

Memory is one list of cells. HBM cell numbers are ((64·stack + pc)·294,912 + slot)·4,096 + byte; core SRAM, command
memories and staging SRAM follow at the bases below. -/

def sramBase : Nat := 0x10000000000
def cmdBase : Nat := 0x20000000000
def stagingBase : Nat := 0x30000000000

/-- Local SRAM offset of a physical core (R24); 56 MiB each. -/
def sramCell (core off : Nat) : Nat := sramBase + core * 0x4000000 + off
/-- Command memory (256 KiB) and, from 0x4_0000, the pattern table of a physical core. -/
def cmdCell (core off : Nat) : Nat := cmdBase + core * 0x100000 + off
/-- Staging SRAM from 0x0600_0000; below it the turn-commit unit's tables stand in State. -/
def stagingCell (off : Nat) : Nat := stagingBase + off

/-- One byte of memory. -/
def memGet (m : List Host.Cell) (a : Nat) : Byte := tabGet 0 m a

/-- `n` bytes of memory. -/
def memRead (m : List Host.Cell) : Nat → Nat → List Byte
  | _, 0 => []
  | a, n + 1 => memGet m a :: memRead m (a + 1) n

/-- Bytes written to memory from cell `a` up. -/
def memWrite (m : List Host.Cell) : Nat → List Byte → List Host.Cell
  | _, [] => m
  | a, b :: bs => memWrite (tabSet 0 m a b) (a + 1) bs

/-- Memory's canonical form. -/
abbrev Memory.wf (m : List Host.Cell) : Prop := tabWf (0 : Byte) m = true

/-- The 64-byte units that hold cells `a` up to `a + n`. -/
def unitsOf (a n : Nat) : List Nat :=
  if n = 0 then [] else (List.range ((a + n - 1) / 64 - a / 64 + 1)).map (· + a / 64)

/-- Some unit of the range is poisoned. -/
def poisonedAt (p : Tab Bool) (a n : Nat) : Bool := (unitsOf a n).any (fun u => tabGet false p u)

/-- A write clears the poison of the units it covers whole (R305). -/
def poisonAfterWrite (p : Tab Bool) (a n : Nat) : Tab Bool :=
  tabDrop p ((a + 63) / 64) ((a + n) / 64)

/-- Marks every unit of the range poisoned. -/
def poisonMark (p : Tab Bool) (a n : Nat) : Tab Bool :=
  (unitsOf a n).foldl (fun q u => tabSet false q u true) p

/-- Writes bytes to consecutive cells; a 64-byte unit written whole loses its poison and any error it stores (R305). -/
def Dev.cellPut (d : Dev) (a : Nat) (bs : List Byte) : Dev :=
  { d with
    mem := memWrite d.mem a bs
    poison := poisonAfterWrite d.poison a bs.length
    upsets := tabDrop d.upsets ((a + 63) / 64) ((a + bs.length) / 64) }

/-- Zero-fills a range of cells and clears its poison and its errors. -/
def Dev.cellZero (d : Dev) (a n : Nat) : Dev :=
  { d with
    mem := tabDrop d.mem a (a + n)
    poison := tabDrop d.poison (a / 64) ((a + n + 63) / 64)
    upsets := tabDrop d.upsets (a / 64) ((a + n + 63) / 64) }

/-- Free bytes: what a range of undefined contents holds. -/
def Dev.cellHavoc (d : Dev) (a n : Nat) : Dev :=
  { d with mem := memWrite d.mem a ((List.range n).map (fun i => Config.freeByte (d.free + i))), free := d.free + n }

/-- A write of bytes that the manual leaves undefined. -/
def Dev.cellFree (d : Dev) (a n : Nat) : Dev :=
  { d with free := d.free + n }.cellPut a ((List.range n).map (fun i => Config.freeByte (d.free + i)))

/-- The earliest of a list by key, ties to the earlier entry. -/
def minBy (f : Nat → Nat) : List Nat → Option Nat
  | [] => none
  | x :: xs => match minBy f xs with
    | none => some x
    | some y => if f y < f x then some y else some x

/-! ## HBM offsets (R293 to R296) -/

/-- Slots per pseudo-channel (R293). -/
def slotsPerPc (d : Dev) : Nat := if d.str.pinsafe then 285696 else 294912

/-- Capacity per stack, C (R293). -/
def hbmCap (d : Dev) : Nat := slotsPerPc d * 262144

/-- The end of HBM, 12 × C. -/
def hbmEnd (d : Dev) : Nat := 12 * hbmCap d

/-- SPREAD_KEY in force; 0 before the first load (notes/assumptions/3.md). -/
def spreadKey (d : Dev) : Nat := match d.str.inForce with
  | some s => s.spreadKey.toNat
  | none => 0

/-- Where HBM offset `o` lies: stack, pseudo-channel, slot (R296). -/
def hbmPlace (key cap : Nat) (home : Bool) (o : Nat) : Nat × Nat × Nat :=
  let s0 := o / cap
  let l := o % cap
  let n := l / 0x4000000
  let w := l % 0x4000000 / 4096
  if home then
    let q := w / 64
    (s0, (w + q) % 64, 256 * n + q)
  else
    let gi := s0 * 16384 + w
    let q := gi / 768
    let r := crc32c (leBytes 4 key ++ leBytes 2 n ++ leBytes 2 q) % 768
    let p := (gi + r) % 768
    (p % 12, p / 12, 256 * n + q)

/-- A space-0 offset (bit 47 the view) lies in HBM (R294). -/
def hbmOk (d : Dev) (off : Nat) : Bool :=
  decide (off < 2 ^ 48) && (natBits off 46 40 == 0) && decide (off % 2 ^ 40 < hbmEnd d)

/-- The cell of a space-0 offset. -/
def hbmCell (d : Dev) (off : Nat) : Nat :=
  let p := hbmPlace (spreadKey d) (hbmCap d) (natBit off 47) (off % 2 ^ 40)
  ((64 * p.1 + p.2.1) * 294912 + p.2.2) * 4096 + off % 4096

/-- The stack an HBM cell lies in. -/
def stackOfCell (cell : Nat) : Nat := cell / (4096 * 294912 * 64)

/-- A range cut at 4 KiB granules. -/
def granules : Nat → Nat → Nat → List (Nat × Nat)
  | 0, _, _ => []
  | fuel + 1, off, n =>
    if n = 0 then [] else
      let k := min n (4096 - off % 4096)
      (off, k) :: granules fuel (off + k) (n - k)

/-- The granule pieces of a range. -/
def pieces (off n : Nat) : List (Nat × Nat) := granules (n / 4096 + 2) off n

def Dev.stack (d : Dev) (s : Nat) : Stack := tabGet {} d.hbm s
def Dev.setStack (d : Dev) (s : Nat) (x : Stack) : Dev := { d with hbm := tabSet {} d.hbm s x }

/-- The stack has FAILED: reads return poison and writes are dropped (R309). -/
def stackDead (d : Dev) (cell : Nat) : Bool := (d.stack (stackOfCell cell)).state == .failed

/-- The pseudo-channel an HBM cell lies in. -/
def pcOfCell (cell : Nat) : Nat := cell / (4096 * 294912) % 64

/-- Every read of the burst returns poison: its stack has FAILED, or a dead pin makes it uncorrectable in ROWFIX (R305, R309). -/
def deadBurst (d : Dev) (cell : Nat) : Bool :=
  stackDead d cell || (!d.str.pinsafe && (tabGet none (d.stack (stackOfCell cell)).deadPins (pcOfCell cell)).isSome)

/-- A read of `n` cells returns poison; a range in HBM lies in one granule. -/
def readsPoison (d : Dev) (c n : Nat) : Bool := poisonedAt d.poison c n || (decide (c < sramBase) && deadBurst d c)

/-- Bytes of HBM from a space-0 offset. -/
def Dev.hbmRead (d : Dev) (off n : Nat) : List Byte :=
  (pieces off n).flatMap (fun p => memRead d.mem (hbmCell d p.1) p.2)

/-- Some byte of the range is poisoned. -/
def Dev.hbmPoisoned (d : Dev) (off n : Nat) : Bool :=
  (pieces off n).any (fun p => readsPoison d (hbmCell d p.1) p.2)

/-- Writes bytes to HBM at a space-0 offset. -/
def Dev.hbmWrite (d : Dev) (off : Nat) (bs : List Byte) : Dev :=
  ((pieces off bs.length).foldl (fun (acc : Dev × List Byte) p =>
    let c := hbmCell acc.1 p.1
    (if stackDead acc.1 c then acc.1 else acc.1.cellPut c (acc.2.take p.2), acc.2.drop p.2)) (d, bs)).1

/-- A little-endian field of HBM. -/
def Dev.hbmNat (d : Dev) (off n : Nat) : Nat := leNat (d.hbmRead off n)

/-! ## Accessors of the indexed state -/

def Dev.job (d : Dev) (j : Nat) : Job := tabGet {} d.jobs j
def Dev.setJob (d : Dev) (j : Nat) (x : Job) : Dev := { d with jobs := tabSet {} d.jobs j x }
def Dev.modJob (d : Dev) (j : Nat) (f : Job → Job) : Dev := d.setJob j (f (d.job j))

def Dev.tslot (d : Dev) (j : Nat) : TrnSlot := tabGet {} d.trn.slots j
def Dev.setTslot (d : Dev) (j : Nat) (x : TrnSlot) : Dev :=
  { d with trn := { d.trn with slots := tabSet {} d.trn.slots j x } }
def Dev.modTslot (d : Dev) (j : Nat) (f : TrnSlot → TrnSlot) : Dev := d.setTslot j (f (d.tslot j))

def Dev.basin (d : Dev) (b : Nat) : Basin := tabGet {} d.sch.basins b
def Dev.setBasin (d : Dev) (b : Nat) (x : Basin) : Dev :=
  { d with sch := { d.sch with basins := tabSet {} d.sch.basins b x } }
def Dev.modBasin (d : Dev) (b : Nat) (f : Basin → Basin) : Dev := d.setBasin b (f (d.basin b))

def Dev.modStack (d : Dev) (s : Nat) (f : Stack → Stack) : Dev := d.setStack s (f (d.stack s))

def Dev.frame (d : Dev) (f : Nat) : Frame := tabGet {} d.trn.frames f
def Dev.setFrame (d : Dev) (f : Nat) (x : Frame) : Dev :=
  { d with trn := { d.trn with frames := tabSet {} d.trn.frames f x } }
def Dev.modFrame (d : Dev) (f : Nat) (g : Frame → Frame) : Dev := d.setFrame f (g (d.frame f))

def Dev.freeStack (d : Dev) (b : Nat) : List Nat := tabGet [] d.trn.freeStack b
def Dev.setFreeStack (d : Dev) (b : Nat) (l : List Nat) : Dev :=
  { d with trn := { d.trn with freeStack := tabSet [] d.trn.freeStack b l } }

def Dev.core (d : Dev) (p : Nat) : CoreSt := tabGet {} d.cores p
def Dev.setCore (d : Dev) (p : Nat) (x : CoreSt) : Dev := { d with cores := tabSet {} d.cores p x }
def Dev.modCore (d : Dev) (p : Nat) (f : CoreSt → CoreSt) : Dev := d.setCore p (f (d.core p))
def Dev.modCtx (d : Dev) (p : Nat) (f : Ctx → Ctx) : Dev := d.modCore p (fun c => { c with ctx := f c.ctx })

/-- The basin of a job slot (R28). -/
def basinOf (slot : Nat) : Nat := slot / 4

/-- Folds an update over a list of indices. -/
def Dev.forAll (d : Dev) (l : List Nat) (f : Dev → Nat → Dev) : Dev := l.foldl f d

/-! ## The structure in force -/

def Dev.coreRec (d : Dev) (l : Nat) : CoreRec := match d.str.inForce with
  | some s => tabGet {} s.cores l
  | none => {}
def Dev.basinRec (d : Dev) (b : Nat) : BasinRec := match d.str.inForce with
  | some s => tabGet {} s.basins b
  | none => {}
def Dev.ownDevice (d : Dev) : Nat := match d.str.inForce with
  | some s => s.ownDevice
  | none => 0
/-- Route entry of a device (R39); 0xFF without a structure. -/
def Dev.route (d : Dev) (dev : Nat) : Nat := match d.str.inForce with
  | some s => tabGet 0xFF s.routes dev
  | none => 0xFF
/-- Physical core a logical core is bound to; 0xFF: none. -/
def Dev.phys (d : Dev) (l : Nat) : Nat := tabGet 0xFF d.str.bind l
/-- Logical core bound to a physical core; 0xFF: none. -/
def Dev.logical (d : Dev) (p : Nat) : Nat :=
  ((d.str.bind.find? (fun e => e.2 == p)).map (·.1)).getD 0xFF
def Dev.fenced (d : Dev) (p : Nat) : Bool := d.flt.fenced.getLsbD p
/-- The defined logical cores of a basin, in order. -/
def Dev.basinCores (d : Dev) (b : Nat) : List Nat :=
  (List.range 144).filter (fun l => (d.coreRec l).basin == b)
/-- The basin's binding class is FAR (R31). -/
def Dev.far (d : Dev) (b : Nat) : Bool :=
  (d.basinCores b).any (fun l => !(d.phys l / 12 == (d.coreRec l).home))

/-- Partition bases and sizes of a logical core, in bytes: scratchpad, accumulator, page cache, exchange (R24). -/
def partition (c : CoreRec) (part : Nat) : Nat × Nat :=
  let m := 0x100000
  match part with
  | 0 => (0, c.scratch * m)
  | 1 => (c.scratch * m, c.acc * m)
  | 2 => ((c.scratch + c.acc) * m, c.page * m)
  | _ => ((c.scratch + c.acc + c.page) * m, c.exch * m)

/-! ## Time (R83, R88) -/

/-- `ns` nanoseconds in phase units, rounded up. -/
def nsUnits (d : Dev) (ns : Nat) : Nat :=
  (ns * d.clp.num * 0x1000000 + d.clp.den * 1000000000 - 1) / (d.clp.den * 1000000000)

/-- Phase units in nanoseconds, rounded down. -/
def unitsNs (d : Dev) (u : Nat) : Nat := u * d.clp.den * 1000000000 / (d.clp.num * 0x1000000)

/-- The smallest commit slot (bits [11:0] zero) at or after `t` (R68). -/
def slotAtOrAfter (t : Nat) : Nat := (t + 4095) / 4096 * 4096

/-- A Clepsydra value as a number below 2^64. -/
def clpNat (v : Dword) : Nat := v.toNat

/-! ## Performance counters (R465, R468) -/

/-- Advances counter `n` by `k`; it sticks at 2^48 − 1. -/
def Dev.count (d : Dev) (n k : Nat) : Dev :=
  let v := BitVec.ofNat 48 (min ((tabGet 0 d.cnt.values n).toNat + k) (2 ^ 48 - 1))
  { d with cnt := { d.cnt with values := tabSet 0 d.cnt.values n v } }

end Sys2Proof.Machine
end

