-- ==== Sys2Proof/Machine/Memory.lean ====
section
/-! DEFINITION. Translation, committed pages and shadows, global addresses, and the protected ranges
(spec/03_turns_and_fences.md R48 to R67, spec/12_hbm.md R294, spec/13_koliz_fabric.md R336). -/

namespace Sys2Proof.Machine

/-- A job fault before it is charged: reason, SUBCODE, the address at fault, and for FLT_REMOTE the whole detail word (R339). -/
structure JFault where
  reason : Byte
  sub    : Nat := 0
  addr   : Nat := 0
  detail : Option Word := none
  /-- HBM cells whose poison was met: first cell and bytes (R304). -/
  cells  : Option (Nat × Nat) := none
  /-- The count of free values and the fabric as the requests to another device left them, when its answer is the fault. -/
  after  : Option (Nat × Klz) := none
deriving DecidableEq, Repr

/-- What an engine does: a new state and a value, or a job fault. -/
abbrev Acc (α : Type) := Except JFault α

def fltTranslation (va : Nat) : JFault := { reason := 0xA0, addr := va }
def fltIllegal : JFault := { reason := 0xA2 }
def fltPoison (va : Nat) : JFault := { reason := 0xA3, addr := va }
/-- FLT_REMOTE with a Koliz code and the target device (R339). -/
def fltRemote (code dev va : Nat) : JFault :=
  { reason := 0xA4, sub := code, addr := va, detail := some (BitVec.ofNat 32 (code + dev * 0x10000)) }

/-- No frame. -/
def noFrame : Nat := 0xFFFFFF

/-! ## Translation entries (R50, R51) -/

/-- What a walk ends on. -/
inductive Leaf where
  /-- A PLAIN page: global address of its base (bit 47 the HOME view), its size, and its flags. -/
  | plain (base size flags : Nat)
  /-- A COMMITTED page: HBM offset of its entry and the entry. -/
  | committed (entry cur next flags epoch : Nat)
  /-- A REMOTE_VIEW entry. -/
  | view (device slot flags : Nat)
deriving DecidableEq, Repr

/-- Page size by level: 64 GiB, 64 MiB, 64 KiB. -/
def pageSize (level : Nat) : Nat :=
  match level with
  | 1 => 0x1000000000
  | 2 => 0x4000000
  | _ => 0x10000

/-- Index of a job virtual address at a level (R48). -/
def vaIndex (va level : Nat) : Nat := va / 2 ^ (46 - 10 * level) % 1024

/-- One entry read at a level: a leaf, the next table, or a fault (R51). -/
inductive Entry where
  | leaf (l : Leaf)
  | table (off : Nat)
  | bad
deriving DecidableEq, Repr

/-- The meaning of a 16-byte entry at HBM offset `at_` and level `level` (R50, R51). -/
def readEntry (d : Dev) (at_ level : Nat) : Entry :=
  let e := d.hbmRead at_ 16
  let kind := fieldLe e 0 1
  let flags := fieldLe e 1 1
  let size := fieldLe e 2 1
  let home := natBit flags 3
  let target := fieldLe e 8 8
  if !(natBits flags 7 5 == 0) || !(fieldLe e 3 1 == 0) || (natBit flags 2 && !(kind == 3))
    || (!(kind == 3) && !(fieldLe e 4 4 == 0)) then .bad
  else match kind with
    | 1 =>
      if level == 3 || !(size == 0) || !(target % 0x4000 == 0) || !(natBits target 63 40 == 0) || decide (hbmEnd d ≤ target)
      then .bad else .table (target + (if home then 2 ^ 47 else 0))
    | 2 =>
      let space := natBits target 51 48
      let off := target % 2 ^ 48
      if level == 0 || !(size == 3 - level) || decide (2 < space) || !(off % pageSize level == 0)
        || (home && !(space == 0)) || (decide (space = 0) && natBit target 47)
      then .bad else .leaf (.plain (target + (if home then 2 ^ 47 else 0)) (pageSize level) flags)
    | 3 =>
      if !(level == 3) || !(size == 0) || home || !(fieldLe e 14 2 == 0) then .bad
      else .leaf (.committed at_ (fieldLe e 8 3) (fieldLe e 11 3) flags (fieldLe e 4 4))
    | 4 =>
      if !(size == 0) || home || !(fieldLe e 11 5 == 0) || decide (4095 < fieldLe e 8 2) || decide (63 < fieldLe e 10 1) then .bad
      else .leaf (.view (fieldLe e 8 2) (fieldLe e 10 1) flags)
    | _ => .bad

/-- FLT_POISON met in HBM at an offset (R304). -/
def fltHbmPoison (d : Dev) (off n va : Nat) : JFault := { fltPoison va with cells := some (hbmCell d off, n) }

/-- The walk from a level-0 table (R48). A poisoned entry is FLT_POISON for the job that walks (R317). -/
def walkFrom (d : Dev) (va : Nat) : Nat → Nat → Nat → Acc Leaf
  | 0, _, _ => .error (fltTranslation va)
  | fuel + 1, level, table =>
    let at_ := table + 16 * vaIndex va level
    if d.hbmPoisoned at_ 16 then .error (fltHbmPoison d at_ 16 va) else
      match readEntry d at_ level with
      | .bad => .error (fltTranslation va)
      | .table t => walkFrom d va fuel (level + 1) t
      | .leaf l => .ok l

/-- The leaf the tables under a level-0 table in this device's HBM give an address (R48, R49). -/
def walkRoot (d : Dev) (root va : Nat) : Acc Leaf :=
  if decide (2 ^ 56 ≤ va) || !hbmOk d root then .error (fltTranslation va) else walkFrom d va 4 0 root

/-- The leaf a slot's tables give an address. -/
def walk (d : Dev) (slot va : Nat) : Acc Leaf := walkRoot d (d.tslot slot).root va

/-- The frame a COMMITTED entry resolves to at an epoch (R55). -/
def currentFrame (epoch : Word) (cur next flags nextEpoch : Nat) : Nat :=
  if natBit flags 4 && decide (0 ≤ sdiff epoch (BitVec.ofNat 32 nextEpoch)) then next else cur

/-! ## Where an address lies -/

/-- The frame of a SPREAD offset is one the GL9 alone writes (R59). -/
def frameGuarded (d : Dev) (off : Nat) : Bool :=
  match (d.frame (off / 0x10000)).state with
  | .outside => false
  | _ => true

/-- A range of SPREAD offsets touches a guarded frame. -/
def rangeGuarded (d : Dev) (off n : Nat) : Bool :=
  (List.range ((off + n - 1) / 0x10000 - off / 0x10000 + 1)).any (fun i => frameGuarded d ((off / 0x10000 + i) * 0x10000))

/-- Two ranges meet. -/
def meet (a n b m : Nat) : Bool := decide (a < b + m) && decide (b < a + n) && decide (0 < n) && decide (0 < m)

/-- A physical core's byte of core SRAM addressed by logical core and local offset (R336 space 1); `none` when the logical
core is undefined, unbound or fenced, or the offset lies past its partitions. -/
def sramPlace (d : Dev) (off : Nat) : Option Nat :=
  let l := natBits off 33 26
  let o := off % 0x4000000
  let p := d.phys l
  if natBits off 47 34 == 0 && decide (l < 144) && !((d.coreRec l).basin == 0xFF) && decide (p < 144) && !(d.fenced p)
    && decide (o < 0x3800000)
  then some (sramCell p o) else none

/-- The offset lies in the logical core's page cache, which takes no outside write (R336). -/
def inPageCache (d : Dev) (off : Nat) : Bool :=
  let c := d.coreRec (natBits off 33 26)
  let part := partition c 2
  let o := off % 0x4000000
  decide (part.1 ≤ o) && decide (o < part.1 + part.2)

/-- Where `n` bytes at an address of this device's spaces 0 to 2 lie, for a job's own access; a piece never crosses a
4 KiB boundary. Reserved or out-of-range addresses are none. -/
def localPlace (d : Dev) (write : Bool) (space off n : Nat) : Option Place :=
  match space with
  | 0 => if hbmOk d off && decide (off % 2 ^ 40 + n ≤ hbmEnd d) && !(write && !(natBit off 47) && rangeGuarded d off n)
         then some (.cells (hbmCell d off)) else none
  | 1 => if write && inPageCache d off then none else (sramPlace d off).map .cells
  | 2 =>
    if !(natBits off 47 27 == 0) then none
    else if off < 0x6000000 then (if write then none else some (.tables off))
    else if write && off < 0x7E00000 then none
    else some (.cells (stagingCell off))
  | _ => none

/-- A range of SPREAD offsets meets an area that a codec stream protects (spec/14_video_codec.md R374). -/
def streamGuarded (d : Dev) (off n : Nat) : Bool :=
  d.cod.streams.any (fun e => !(e.2.state == .closed) && !(e.2.state == .refused) && e.2.areas.any (fun a => meet a.1 a.2 off n))

/-- The flags a leaf grants: READ bit 0, WRITE bit 1. -/
def granted (flags : Nat) (write : Bool) : Bool := natBit flags (if write then 1 else 0)

/-- The piece of a PLAIN page an access touches (R50, R51). -/
def plainPlace (d : Dev) (write : Bool) (base size va n : Nat) : Acc Place :=
  let g := base + va % size
  let dev := g / 2 ^ 52
  if dev == d.ownDevice then
    if write && natBits g 51 48 == 0 && streamGuarded d (g % 2 ^ 48) n then .error { reason := 0xA1, addr := va }
    else if write && natBits g 51 48 == 1 && inPageCache d (g % 2 ^ 48) then .error { fltIllegal with addr := va }
    else match localPlace d write (natBits g 51 48) (g % 2 ^ 48) n with
    | some p => .ok p
    | none => .error (fltTranslation va)
  else .ok (.remote g)

/-! ## Errors in HBM (spec/12_hbm.md R302 to R307, R311) -/

/-- HBM_ROW_THRESHOLD; 0 acts as 1. -/
def rowThreshold (x : Stack) : Nat := if x.threshold = 0 then 1 else x.threshold.toNat

/-- Ten milliseconds in phase units. -/
def tenMs (d : Dev) : Nat := nsUnits d 10000000

/-- The row of a pseudo-channel that a slot lies in. -/
def rowAt (pc slot : Nat) : Row := { pc := pc, row := Config.rowOf slot }

/-- The spacing of R311 allows a remap of the pseudo-channel now. -/
def remapAllowed (d : Dev) (x : Stack) (pc : Nat) : Bool :=
  let since (t : Tab Nat) : Bool := tabGet 0 t pc == 0 || decide (tenMs d ≤ d.clp.elapsed + 1 - tabGet 0 t pc)
  !(x.retrainPc == some pc) && !(x.remapping.any (fun r => r.pc == pc)) && since x.lastRetrain && since x.lastRemap

/-- A remap starts: a spare is used and the row's bank is held (R307). -/
def startRemap (d : Dev) (x : Stack) (r : Row) : Stack :=
  { x with remapping := r :: x.remapping, remapQueue := x.remapQueue.filter (fun q => !(q == r)), remaps := sat16 x.remaps, sparesUsed := tabSet 0 x.sparesUsed r.pc (tabGet 0 x.sparesUsed r.pc + 1), lastRemap := tabSet 0 x.lastRemap r.pc (d.clp.elapsed + 1), rows := x.rows.filter (fun q => !(q.1 == r)) }

/-- The row is recorded for hard repair at the next reset; the service processor writes the record (R307, R308). -/
def recordRepair (d : Dev) (s : Nat) (r : Row) : Dev :=
  let l := tabGet [] d.repairsDue s
  if l.contains r then d else { d with repairsDue := tabSet [] d.repairsDue s (l ++ [r]) }

/-- REMAP of the structure in force (R42); on the fly without one. -/
def remapAtReset (d : Dev) : Bool := match d.str.inForce with
  | some s => s.remap
  | none => false

/-- A row's count is one more, or the threshold at once; at the threshold the GL9 acts by REMAP (R307). -/
def countRow (d : Dev) (s : Nat) (r : Row) (whole : Bool) : Dev :=
  if d.str.pinsafe then d else
    let x := d.stack s
    let old := ((x.rows.find? (fun q => q.1 == r)).map (·.2)).getD 0
    let n := if whole then max (old + 1) (rowThreshold x) else old + 1
    let x := { x with rows := (((r, n)) :: x.rows.filter (fun q => !(q.1 == r))).take 1024 }
    if n < rowThreshold x then d.setStack s x
    else
      let d := recordRepair d s r
      let full := decide (16 ≤ tabGet 0 x.sparesUsed r.pc + (x.remapQueue.filter (fun q => q.pc == r.pc)).length)
      if remapAtReset d || full || x.remapQueue.contains r || x.remapping.contains r then d.setStack s x
      else if remapAllowed d x r.pc then d.setStack s (startRemap d x r)
      else d.setStack s { x with remapQueue := x.remapQueue ++ [r] }

/-- A PINSAFE correction at a symbol position; at the threshold the pin is decoded as an erasure (R303). -/
def countSymbol (d : Dev) (x : Stack) (pc position : Nat) : Stack :=
  if !d.str.pinsafe then x else
    let k := 64 * position + pc
    let n := tabGet 0 x.symbols k + 1
    let x := { x with symbols := tabSet 0 x.symbols k n }
    if rowThreshold x ≤ n && (tabGet none x.pins pc).isNone then { x with pins := tabSet none x.pins pc (some position) } else x

/-- Captures an error when HBM_LAST_ERR_INFO.VALID is clear (R304, R318). -/
def capture (x : Stack) (pc slot burst position kind : Nat) : Stack :=
  if x.lastErr.valid then x
  else { x with lastErr := { pc := pc, uncorr := !(kind == 1), slot := slot, burst := burst, valid := true, position := position, kind := kind } }

/-- The symbol of a dead pin that is not yet decoded as an erasure (R303). -/
def livePin (x : Stack) (pc : Nat) : Option Nat :=
  match tabGet none x.deadPins pc with
  | some p => if tabGet none x.pins pc == some p then none else some p
  | none => none

/-- What a read of a burst finds in it (R304): nothing, a correctable error, an uncorrectable one that it is the first to find, or
a poison mark. -/
inductive Found where
  | clean
  | corrected (position : Nat)
  | first (position : Nat)
  | marked
deriving DecidableEq, Repr

/-- What a read of 64-byte unit `u` finds. -/
def burstFound (d : Dev) (u : Nat) : Found :=
  let x := d.stack (stackOfCell (64 * u))
  let pc := pcOfCell (64 * u)
  match tabGet none d.upsets u with
  | some (.uncorrectable p) => .first p
  | e =>
    if tabGet false d.poison u then .marked
    else if !d.str.pinsafe && (tabGet none x.deadPins pc).isSome then .first 0
    else match e, livePin x pc with
      | some (.correctable p), _ => .corrected p
      | _, some p => if d.str.pinsafe then .corrected p else .clean
      | _, none => .clean

/-- A read of 64-byte unit `u` of HBM, and what it counts, captures and marks (R304). -/
def meetUnit (d : Dev) (u : Nat) : Dev :=
  let s := stackOfCell (64 * u)
  let pc := pcOfCell (64 * u)
  let slot := u / 64 % 294912
  let x := d.stack s
  match burstFound d u with
  | .clean => d
  | .marked => d.setStack s (capture x pc slot (u % 64) 0 3)
  | .corrected p =>
    let x := capture { x with ceSeen := true, ceCount := sat16 x.ceCount } pc slot (u % 64) p 1
    countRow (d.setStack s (countSymbol d x pc p)) s (rowAt pc slot) false
  | .first p =>
    let x := capture { x with ueSeen := true, ueCount := sat16 x.ueCount } pc slot (u % 64) (if d.str.pinsafe then 0 else p) 2
    countRow { d.setStack s x with poison := tabSet false d.poison u true, upsets := tabSet none d.upsets u none } s (rowAt pc slot) true

/-- A read of cells of HBM, in one granule; core SRAM stores no such errors, and a FAILED stack finds none. -/
def meetCells (d : Dev) (cell n : Nat) : Dev :=
  if !decide (cell < sramBase) || stackDead d cell then d
  else if d.poison.isEmpty && d.upsets.isEmpty && (d.stack (stackOfCell cell)).deadPins.isEmpty then d
  else (unitsOf cell n).foldl meetUnit d

/-- A read of a range of HBM offsets. -/
def meetHbm (d : Dev) (off n : Nat) : Dev := (pieces off n).foldl (fun d p => meetCells d (hbmCell d p.1) p.2) d

/-- A burst is struck: a second error in it, or an error beside a dead pin, is beyond correction (R302, R303). -/
def strikeBurst (d : Dev) (u : Nat) (hard : Bool) (p : Nat) : Dev :=
  let x := d.stack (stackOfCell (64 * u))
  let old := tabGet none d.upsets u
  let q := p % (if d.str.pinsafe then 35 else 2)
  let beside := d.str.pinsafe && (match livePin x (pcOfCell (64 * u)) with | some r => !(r == q) | none => false)
  if tabGet false d.poison u then d
  else if hard || old.isSome || beside then
    { d with poison := tabSet false d.poison u true, upsets := tabSet none d.upsets u (some (.uncorrectable q)) }
  else { d with upsets := tabSet none d.upsets u (some (.correctable q)) }

/-- A pin fails; the bursts of its pseudo-channel with an error at another symbol are beyond correction (R303). A pseudo-channel
has at most one (notes/assumptions/24.md). -/
def failPin (d : Dev) (s pc p : Nat) : Dev :=
  let x := d.stack s
  if (tabGet none x.deadPins pc).isSome then d else
    let d := d.setStack s { x with deadPins := tabSet none x.deadPins pc (some (p % 35)) }
    if !d.str.pinsafe then d else
      d.upsets.foldl (fun d e =>
        if stackOfCell (64 * e.1) == s && pcOfCell (64 * e.1) == pc && !(e.2 == some (.correctable (p % 35)))
        then { d with poison := tabSet false d.poison e.1 true, upsets := tabSet none d.upsets e.1 (some (.uncorrectable 0)) } else d) d

/-- What befalls the stacks in a phase unit (notes/assumptions/24.md). -/
def strikeHbm (d : Dev) : Dev :=
  let e := Config.upset d.clp.elapsed
  let s := stackOfCell (64 * e.2.1)
  if !decide (s < 12) || !((d.stack s).state == .ready) then d
  else match e.1 with
    | 1 => strikeBurst d e.2.1 false e.2.2
    | 2 => strikeBurst d e.2.1 true e.2.2
    | 3 => failPin d s (pcOfCell (64 * e.2.1)) e.2.2
    | _ => d

/-- A retrain holds the cell's pseudo-channel, or a remap its bank (R311). -/
def cellHeld (d : Dev) (cell : Nat) : Bool :=
  let x := d.stack (stackOfCell cell)
  let pc := pcOfCell cell
  decide (cell < sramBase) && (x.retrainPc == some pc
    || x.remapping.any (fun r => r.pc == pc && Config.bankOf r.row == Config.bankOf (Config.rowOf (cell / 4096 % 294912))))

/-- The hold queue of a cell's stack is full. -/
def holdFull (d : Dev) (cell : Nat) : Bool := decide (512 ≤ (d.stack (stackOfCell cell)).hold.length)

/-- An entry joins the hold queue of its stack. -/
def pushHold (d : Dev) (h : Held) : Dev :=
  let s := stackOfCell h.cell
  let x := d.stack s
  d.setStack s { x with hold := x.hold ++ [h], holdPeak := BitVec.ofNat 10 (max x.holdPeak.toNat (x.hold.length + 1)) }

/-- A request of another requester than a tensor mover, to a pseudo-channel or a bank that is held, stands in the hold queue while
its effect is already made (notes/assumptions/27.md). -/
def noteHold (d : Dev) (cell : Nat) : Dev :=
  if cellHeld d cell && !holdFull d cell then pushHold d { cell := cell } else d

/-- The poisoned units of a range of cells. -/
def badUnits (d : Dev) (c n : Nat) : List Nat := (unitsOf c n).filter (fun u => readsPoison d (64 * u) 64)

/-- Marks the units of a destination that receive a byte of a poisoned unit of the source. -/
def carryPoison (bad : List Nat) (d : Dev) (src dst n : Nat) : Dev :=
  bad.foldl (fun d u =>
    let lo := max src (64 * u)
    let hi := min (src + n) (64 * u + 64)
    { d with poison := poisonMark d.poison (dst + (lo - src)) (hi - lo) }) d

/-- Copies cells, each end in one granule: poison travels with the data, and a FAILED stack keeps nothing (R304, R305, R309). -/
def moveCells (d : Dev) (src dst n : Nat) : Dev :=
  if decide (dst < sramBase) && stackDead d dst then d
  else carryPoison (badUnits d src n) (d.cellPut dst (memRead d.mem src n)) src dst n

/-- Copies cells, and finds the errors there are in the source. -/
def copyCells (d : Dev) (src dst n : Nat) : Dev := moveCells (meetCells d src n) src dst n

/-! ## Committed writes (R65, R66) -/

/-- Fills a shadow from the current frame, or with zeros for a hole; poison travels with the data (R65). -/
def fillShadow (d : Dev) (shadow cur : Nat) : Dev :=
  let d := d.count 10 1
  (List.range 16).foldl (fun acc i =>
    let dst := hbmCell acc (shadow * 0x10000 + i * 4096)
    if cur == noFrame then (if stackDead acc dst then acc else acc.cellZero dst 4096)
    else copyCells acc (hbmCell acc (cur * 0x10000 + i * 4096)) dst 4096) d

/-- The shadow frame a write to a committed page goes to: the one assigned, or the next of the reservation, filled unless
the write covers the page whole (R65, R66, R67). -/
def takeShadow (d : Dev) (slot entry cur va : Nat) (whole : Bool) : Acc (Dev × Nat) :=
  let t := d.tslot slot
  match t.shadows.find? (fun e => e.1 == entry) with
  | some e => .ok (d, e.2)
  | none =>
    match t.stock with
    | [] => .error (fltTranslation va)
    | f :: rest =>
      if 16384 ≤ t.moves.length then .error (fltTranslation va) else
        let d := d.setTslot slot { t with
          stock := rest
          shadows := t.shadows ++ [(entry, f)]
          moves := t.moves ++ [{ kind := .write, old := cur, new := f, leaf := entry }] }
        let d := d.modFrame f (fun x => { x with state := .shadow })
        .ok (if whole then d else fillShadow d f cur, f)

/-- The current frame names a MAPPED frame, as R51 asks of every access through a COMMITTED entry. -/
def curMapped (d : Dev) (cur : Nat) : Bool := cur == noFrame || (d.frame cur).state == .mapped

/-- Where a read of job virtual memory finds its bytes: one piece within a page and a granule. -/
def readPlace (d : Dev) (slot va n : Nat) : Acc Place := do
  match ← walk d slot va with
  | .plain base size flags =>
    if granted flags false then plainPlace d false base size va n else .error (fltTranslation va)
  | .committed _ cur next flags ep =>
    let f := currentFrame (d.tslot slot).epoch cur next flags ep
    if !granted flags false || !curMapped d cur then .error (fltTranslation va)
    else if f == noFrame then .ok .zeros
    else .ok (.cells (hbmCell d (f * 0x10000 + va % 0x10000)))
  | .view dev vslot flags =>
    if !granted flags false then .error (fltRemote 0x66 dev va)
    else if !(dev == d.ownDevice) then .ok (.remoteView dev vslot va)
    else if (d.job vslot).image.isNone then .error (fltRemote 0x65 dev va)
    else match walk d vslot va with
      | .ok (.plain base size flags2) =>
        if granted flags2 false then
          (match plainPlace d false base size va n with
           | .ok p => .ok p
           | .error _ => .error (fltRemote 0x66 dev va))
        else .error (fltRemote 0x66 dev va)
      | .ok (.committed _ cur next flags2 ep) =>
        let f := currentFrame (d.tslot vslot).epoch cur next flags2 ep
        if !granted flags2 false || !curMapped d cur then .error (fltRemote 0x66 dev va)
        else if f == noFrame then .ok .zeros
        else .ok (.cells (hbmCell d (f * 0x10000 + va % 0x10000)))
      | .ok (.view _ _ _) => .error (fltTranslation va)
      | .error e => if e.reason == 0xA3 then .error e else .error (fltRemote 0x66 dev va)

/-- The fault of a job's write through a REMOTE_VIEW of its own device: what the target's tables refuse is charged as R339 has it, a
protected area or a page cache as for any write of this device (spec/14_video_codec.md R374, spec/10_attention.md R269). -/
def ownViewFault (f : JFault) (dev va : Nat) : JFault := if f.reason == 0xA1 || f.reason == 0xA2 then f else fltRemote 0x66 dev va

/-- Where a write of job virtual memory goes; a first write to a committed page takes its shadow. -/
def writePlace (d : Dev) (slot va n : Nat) (whole : Bool) : Acc (Dev × Place) := do
  match ← walk d slot va with
  | .plain base size flags =>
    if granted flags true then (plainPlace d true base size va n).map (fun p => (d, p)) else .error (fltTranslation va)
  | .committed entry cur next flags ep =>
    let f := currentFrame (d.tslot slot).epoch cur next flags ep
    if !granted flags true || !curMapped d cur then .error (fltTranslation va)
    else
      let (d, sh) ← takeShadow d slot entry f va whole
      .ok (d, .cells (hbmCell d (sh * 0x10000 + va % 0x10000)))
  | .view dev vslot flags =>
    if !granted flags true then .error (fltRemote 0x66 dev va)
    else if !(dev == d.ownDevice) then .ok (d, .remoteView dev vslot va)
    else if (d.job vslot).image.isNone then .error (fltRemote 0x65 dev va)
    else match walk d vslot va with
      | .ok (.plain base size flags2) =>
        if granted flags2 true then
          (match plainPlace d true base size va n with
           | .ok p => .ok (d, p)
           | .error f => .error (ownViewFault f dev va))
        else .error (fltRemote 0x66 dev va)
      | .ok (.view _ _ _) => .error (fltTranslation va)
      | .ok (.committed _ _ _ _ _) => .error (fltRemote 0x66 dev va)
      | .error e => if e.reason == 0xA3 then .error e else .error (fltRemote 0x66 dev va)

/-! ## The turn-commit unit's staging tables (R57, R58, R67, R70) -/

/-- STATE byte of a frame-table entry. -/
def frameStateCode (f : Frame) : Nat :=
  (match f.state with
   | .outside => 0 | .free => 1 | .reserved => 2 | .shadow => 3 | .mapped => 4 | .held => 5)
  + (if f.pinned then 0x80 else 0)

/-- The four bytes of a frame-table entry. -/
def frameBytes (f : Frame) : List Byte := leBytes 2 f.count.toNat ++ leBytes 2 (frameStateCode f)

/-- The 16 bytes of a move-list entry (R67). -/
def moveBytes (m : Move) : List Byte :=
  leBytes 2 (match m.kind with | .write => 1 | .share => 2 | .release => 3)
    ++ leBytes 3 m.old ++ leBytes 3 m.new ++ leBytes 6 m.leaf ++ leBytes 2 0

/-- The first word of basin `b`'s region of the free-stack area (R58). -/
def stackRegion (d : Dev) (b : Nat) : Nat :=
  ((List.range b).map (fun i => (d.basinRec i).shadowFrames)).sum

/-- The word at index `w` of the free-stack area; undefined words are free values. -/
def freeStackWord (d : Dev) (w : Nat) : Nat :=
  match (List.range 16).find? (fun b => decide (stackRegion d b ≤ w) && decide (w < stackRegion d b + (d.basinRec b).shadowFrames)) with
  | none => Config.freeNat w % 2 ^ 32
  | some b => ((d.freeStack b).reverse[w - stackRegion d b]?).getD (Config.freeNat w % 2 ^ 32)

/-- A byte of the turn-commit unit's staging tables; undefined contents are free values (R57, R58, R70). -/
def tablesByte (d : Dev) (off : Nat) : Byte :=
  let pick (bs : List Byte) (i : Nat) : Byte := (bs[i]?).getD 0
  if off < 0x3600000 then pick (frameBytes (d.frame (off / 4))) (off % 4)
  else if off < 0x4600000 then
    let j := (off - 0x3600000) / 0x40000
    let o := (off - 0x3600000) % 0x40000
    let t := d.tslot j
    if t.phase == .none then
      match t.held[o / 4]? with
      | some f => pick (leBytes 4 f) (o % 4)
      | none => Config.freeByte (d.free + off)
    else match t.moves[o / 16]? with
      | some m => pick (moveBytes m) (o % 16)
      | none => Config.freeByte (d.free + off)
  else pick (leBytes 4 (freeStackWord d ((off - 0x4600000) / 4))) (off % 4)

/-- Bytes of a place, and whether they are poisoned. Remote places have no bytes here. -/
def placeRead (d : Dev) (p : Place) (n : Nat) : List Byte × Bool :=
  match p with
  | .cells c => (memRead d.mem c n, readsPoison d c n)
  | .zeros => (List.replicate n 0, false)
  | .tables off => ((List.range n).map (fun i => tablesByte d (off + i)), false)
  | .remote _ => ([], false)
  | .remoteView _ _ _ => ([], false)

/-- The HBM cells of a place. -/
def placeCells (p : Place) (n : Nat) : Option (Nat × Nat) :=
  match p with
  | .cells c => if c < sramBase then some (c, n) else none
  | _ => none

/-- Writes bytes to a place. -/
def placeWrite (d : Dev) (p : Place) (bs : List Byte) : Dev :=
  match p with
  | .cells c => if decide (c < sramBase) && stackDead d c then d else d.cellPut c bs
  | _ => d

/-- Counts 64-byte units read from or written to HBM (R468), and notes a held request and the errors a read meets. -/
def countHbm (d : Dev) (write : Bool) (p : Place) (n : Nat) : Dev :=
  match p with
  | .cells c =>
    if c < sramBase then
      let d := noteHold (d.count (if write then 5 else 4) ((n + 63) / 64)) c
      if write then d else meetCells d c n
    else d
  | _ => d

/-! ## Pieces of an access to job virtual memory, and what a turn writes -/

/-- A range cut at 4 KiB boundaries (also page boundaries), with fuel enough for it. -/
def vaPieces (va n : Nat) : List (Nat × Nat) := pieces va n

/-- Notes that the open turn of a slot wrote plain cells (R79). -/
def notePlain (d : Dev) (slot : Nat) (leafPlain : Bool) (p : Place) (n : Nat) : Dev :=
  match p, (d.job slot).turn with
  | .cells c, some t => if leafPlain then d.modJob slot (fun j => { j with turn := some { t with plain := (c, n) :: t.plain } }) else d
  | _, _ => d

/-- The address lies on a page that is not COMMITTED. -/
def vaPlain (d : Dev) (slot va : Nat) : Bool :=
  match walk d slot va with
  | .ok (.committed _ _ _ _ _) => false
  | _ => true

/-- The page of `a` lies wholly in the range. -/
def coversPage (a va n : Nat) : Bool := decide (va ≤ a / 0x10000 * 0x10000) && decide (a / 0x10000 * 0x10000 + 0x10000 ≤ va + n)

end Sys2Proof.Machine
end

