-- ==== Sys2Proof/Machine/CodecState.lean ====
section
/-! DEFINITION. What the rest of the machine asks of the codec: the state of streams after their pictures, what a fold
publishes, and what a rollback returns (spec/14_video_codec.md R371 to R381). -/

namespace Sys2Proof.Machine

def Dev.stream (d : Dev) (k : Nat) : Stream := tabGet {} d.cod.streams k
def Dev.setStream (d : Dev) (k : Nat) (x : Stream) : Dev := { d with cod := { d.cod with streams := tabSet {} d.cod.streams k x } }
def Dev.modStream (d : Dev) (k : Nat) (f : Stream → Stream) : Dev := d.setStream k (f (d.stream k))

/-- Field of a stream's descriptor (R371). -/
def Stream.u (x : Stream) (off n : Nat) : Nat := fieldLe x.desc off n

/-- Bytes per sample. -/
def Stream.sample (x : Stream) : Nat := if natBits (x.u 3 1) 3 0 == 10 then 2 else 1
/-- 4:2:2. -/
def Stream.wide (x : Stream) : Bool := natBit (x.u 3 1) 4

/-- ENTRY_BYTES (R376). -/
def Stream.entryBytes (x : Stream) : Nat :=
  let w := (x.u 8 2 + 63) / 64 * 64
  let h := (x.u 0xA 2 + 63) / 64 * 64
  let luma := w * h * x.sample
  ((luma + (if x.wide then luma else luma / 2) + (w / 16) * (h / 16) * 16) + 0xFFFF) / 0x10000 * 0x10000

/-- The picture's entry enters a stream's state, once it is done (R376, R380, R383). -/
def applyPic (x : Stream) (p : Pic) : Stream :=
  match p.done with
  | none => x
  | some o =>
    let x := { x with
      recordsWritten := x.recordsWritten + 1
      pictures := x.pictures + 1
      concealed := if o.status == 1 || o.status == 2 then sat16 x.concealed else x.concealed
      syntaxErrors := if o.reason == 0x74 then sat16 x.syntaxErrors else x.syntaxErrors }
    if p.enc then
      let refs := match p.entry with
        | some e => (e :: x.refs).take (x.u 0xD 1)
        | none => x.refs
      { x with
        ringWritten := x.ringWritten + BitVec.ofNat 32 o.bytes
        rate := x.rate + o.bytes
        sinceKey := if o.key then some 0 else x.sinceKey.map (· + 1)
        refs := refs
        marks := refs.foldl (fun t e => tabSet 0 t e 1) [] }
    else
      let kept := if o.key && o.status == 0 then [] else x.taint
      { x with
        marks := o.marks
        slots := o.slots
        resync := o.resync
        taint := match p.entry with
          | some e => tabSet false kept e o.tainted
          | none => kept
        source := if o.status == 0 && !o.tainted && p.entry.any (fun e => !(tabGet 0 o.marks e == 0)) then o.recon else x.source }

/-- The pictures of a stream, in hand-over order. -/
def streamPics (d : Dev) (k : Nat) : List Pic := d.cod.pics.filter (fun p => p.stream == k)

/-- A stream as its pictures done so far leave it: what the last commit published and what the open turn adds. -/
def streamNow (d : Dev) (k : Nat) : Stream := (streamPics d k).foldl applyPic (d.stream k)

/-- Ring space for the largest picture, and a free record (R382). -/
def spaceOk (d : Dev) (k : Nat) : Bool :=
  let x := streamNow d k
  x.u 1 1 == 1 ||
    (decide ((x.u 0x1C 4 : Int) ≤ (x.u 0x30 4 : Int) - sdiff x.ringWritten x.ringConsumed)
      && decide (sdiff x.recordsWritten x.recordsConsumed < (2 ^ x.u 0x34 1 : Nat)))

/-- The picture of stream `k` that may start or resume: its first that is not done, unless it runs. -/
def headPic (d : Dev) (k : Nat) : Option Pic :=
  match (streamPics d k).find? (fun p => p.done.isNone) with
  | some p => if p.runs.isEmpty && (p.started || spaceOk d k) then some p else none
  | none => none

/-- The picture a codec core runs, or is saving. -/
def codPicOf (d : Dev) (c : Nat) : Option Pic := d.cod.pics.find? (fun p => p.runs.contains c)

/-- The stream's queue of 16 is full (R379). -/
def codFull (d : Dev) (k : Nat) : Bool := decide (16 ≤ ((streamPics d k).filter (fun p => p.done.isNone)).length)

/-- The codec cores of the structure: pool and group. -/
def codecRec (d : Dev) (c : Nat) : CodecRec :=
  match d.str.inForce with
  | some s => tabGet {} s.codec c
  | none => {}

/-- Every picture a slot handed over is done, and no command of its cores still waits to hand one over (R379). -/
def codecDrained (d : Dev) (slot : Nat) : Bool :=
  d.cod.pics.all (fun p => !(p.slot == slot) || p.done.isSome)
    && d.cores.all (fun e => !(e.2.slot == some slot) || e.2.ctx.codQueue.isEmpty)

/-- Entry to CLOSED: marks, key request and decoder state are cleared (R373). -/
def Stream.shut (x : Stream) : Stream :=
  { x with state := .closed, areas := [], keyPending := false, keyAt := 0, resync := false, marks := [], sinceKey := none, refs := [], taint := [], source := none, slots := [], rate := 0 }

/-- CLOSING streams whose pictures are gone are CLOSED (R373). -/
def settleClosing (d : Dev) : Dev :=
  (List.range 32).foldl (fun d k =>
    if (d.stream k).state == .closing && (streamPics d k).isEmpty then d.modStream k Stream.shut else d) d

/-- The 32 bytes of a record (R381). -/
def codRecord (pictures : Dword) (p : Pic) (o : PicOut) : List Byte :=
  leBytes 8 pictures.toNat ++ leBytes 4 o.offset ++ leBytes 4 o.bytes ++ leBytes 8 o.finish.toNat
    ++ leBytes 4 (if p.enc then p.word else o.poc.toNat) ++ leBytes 1 o.status ++ [o.reason]
    ++ leBytes 1 (bit o.key + 2 * bit o.late + 4 * bit o.tainted + 8 * bit p.paused + 16 * bit o.single)
    ++ leBytes 1 (p.entry.getD 0xFF)

/-- The marks of entries 32 to 63 as the context area holds them (R394). -/
def markBytes (t : Tab Nat) : List Byte :=
  (List.range 8).map (fun i => BitVec.ofNat 8 (((List.range 4).map (fun j => tabGet 0 t (32 + 4 * i + j) * 4 ^ j)).foldl (· + ·) 0))

/-- One picture published at the fold: its record, and what it leaves in its stream. -/
def publishPic (d : Dev) (p : Pic) : Dev :=
  match p.done with
  | none => d
  | some o =>
    let x := d.stream p.stream
    let d := d.hbmWrite (x.u 0x38 8 + 32 * (x.recordsWritten.toNat % 2 ^ x.u 0x34 1)) (codRecord x.pictures p o)
    let y := applyPic x p
    let y := if o.key && p.enc then { y with keyPending := false, keyAt := 0 } else y
    (d.setStream p.stream y).hbmWrite (x.u 0x50 8) (markBytes y.marks)

/-- At the fold: records, counts and marks of the turn's pictures, in hand-over order (R380). -/
def codecPublish (d : Dev) (slot : Nat) : Dev :=
  let d := (d.cod.pics.filter (fun p => p.slot == slot)).foldl publishPic d
  settleClosing { d with cod := { d.cod with pics := d.cod.pics.filter (fun p => !(p.slot == slot)) } }

/-- The pictures of a slot's open turn stop and are forgotten: every stream is as the last commit left it (R380). -/
def codecDrop (d : Dev) (slot : Nat) : Dev :=
  settleClosing { d with cod := { d.cod with pics := d.cod.pics.filter (fun p => !(p.slot == slot)) } }

end Sys2Proof.Machine
end

