-- ==== Sys2Proof/Machine/Fabric.lean ====
section
/-! DEFINITION. Packets: how a port sends one, how a device routes one, and remote requests (spec/13_koliz_fabric.md R322 to
R327, R334, R338 to R343). -/

namespace Sys2Proof.Machine

def Dev.port (d : Dev) (n : Nat) : Port := tabGet {} d.klz.ports n
def Dev.setPort (d : Dev) (n : Nat) (x : Port) : Dev := { d with klz := { d.klz with ports := tabSet {} d.klz.ports n x } }
def Dev.modPort (d : Dev) (n : Nat) (f : Port → Port) : Dev := d.setPort n (f (d.port n))

/-- The states in which a port has a link. -/
def linkUp (s : PortState) : Bool :=
  match s with
  | .up => true | .active => true | .mismatch => true
  | _ => false

/-- A 16-bit count advanced by `k`; it sticks at 0xFFFF. -/
def satAdd16 (c : BitVec 16) (k : Nat) : BitVec 16 := BitVec.ofNat 16 (min (c.toNat + k) 0xFFFF)

/-- What the FEC of the ports with a link counts in a phase unit (R365; notes/assumptions/24.md). -/
def countFec (d : Dev) : Dev :=
  { d with klz := { d.klz with ports := d.klz.ports.map (fun e =>
      let f := Config.fec d.clp.elapsed e.1
      if linkUp e.2.state then
        (e.1, { e.2 with fecCorrected := satAdd16 e.2.fecCorrected f.1, fecUncorrected := satAdd16 e.2.fecUncorrected f.2 })
      else e) } }

/-- Packet types (R338). -/
def tyRead : Byte := 0x01
def tyWrite : Byte := 0x02
def tyViewRead : Byte := 0x03
def tyViewWrite : Byte := 0x04
def tyResponse : Byte := 0x08
def tyCscData : Byte := 0x10
def tyCscReady : Byte := 0x11
def tyFence : Byte := 0x20
def tyTimeReq : Byte := 0x21
def tyTimeResp : Byte := 0x22
def tyIdent : Byte := 0x23
def tyEcho : Byte := 0x24
def tyEchoResp : Byte := 0x25

/-- The virtual channel of a type (R326). -/
def channelOf (t : Byte) : Nat :=
  if t.toNat ≤ 4 then 0 else if t == tyResponse then 1 else if t == tyCscData || t == tyCscReady then 2 else 3

/-- A type R338 lists. -/
def knownType (t : Byte) : Bool :=
  (decide (1 ≤ t.toNat) && decide (t.toNat ≤ 4)) || t == 0x08 || t == 0x10 || t == 0x11 || (decide (0x20 ≤ t.toNat) && decide (t.toNat ≤ 0x25))

/-- Bytes of a payload padded to units of 16. -/
def pad16 (b : List Byte) : List Byte := b ++ List.replicate ((16 - b.length % 16) % 16) 0

/-- A packet of this device with everything but its type, target and payload 0. -/
def newPacket (d : Dev) (type : Byte) (dest : Nat) (payload : List Byte) : Packet :=
  { type := type, flags := 0, dest := BitVec.ofNat 12 dest, src := BitVec.ofNat 12 d.ownDevice, tag := 0, hops := 0, status := 0, slotGroup := 0, ring := 0, address := 0, bytes := 0, payload := pad16 payload }

/-- Units of 256 B of credit a packet takes in its channel and class. -/
def packetUnits (p : Packet) : Nat := (32 + p.payload.length + 255) / 256

/-- Receive buffer per class in units of 256 B (R326). -/
def creditCap (ch : Nat) : Nat :=
  match ch with
  | 0 => 1024 | 1 => 1536 | 2 => 1280 | _ => 256

/-- Key of a channel and class. -/
def creditKey (p : Packet) : Nat := 2 * channelOf p.type + bit (p.flags.getLsbD 0)

/-! ## Flits on the lanes (R323) -/

/-- The bytes of a packet (R338). A packet whose CRC did not verify goes on with a CRC that does not. -/
def packetBytes (p : Packet) : List Byte :=
  let mid := leBytes 2 p.payload.length ++ leBytes 2 p.dest.toNat ++ leBytes 2 p.src.toNat ++ leBytes 4 p.tag.toNat
  let tail := [p.status, p.slotGroup, p.ring] ++ leBytes 8 p.address.toNat ++ leBytes 4 p.bytes.toNat
  let crc := crc32c ([p.type, p.flags &&& 0xFE] ++ mid ++ [0] ++ tail ++ p.payload)
  [p.type, p.flags] ++ mid ++ [p.hops] ++ tail ++ leBytes 4 (if p.crcOk then crc else crc ^^^ 1) ++ p.payload

/-- The 256 bytes of a flit. -/
def flitBytes (type flags : Nat) (seq ack : BitVec 16) (vc count first : Nat) (slots : List Byte) : List Byte :=
  let b := leBytes 1 type ++ leBytes 1 flags ++ leBytes 2 seq.toNat ++ leBytes 2 ack.toNat ++ leBytes 1 vc ++ leBytes 1 count
    ++ leBytes 2 first ++ sliceBytes slots 0 242
  b ++ leBytes 4 (crc32c b)

/-- An IDLE flit: it carries an ACK, a NAK or credits, and no number of its own (notes/assumptions/61.md). -/
def Port.sendIdle (x : Port) (flags : Nat) (ack : BitVec 16) (vc count : Nat) : Port :=
  { x with lanes := x.lanes ++ [flitBytes 0 flags 0 ack vc count 0xFFFF []] }

/-- DATA flits for packets packed end to end, from flit number `seq` on; the slots after the last packet are 0. -/
def packFlits (seq ack : BitVec 16) (starts : List Nat) (bytes : List Byte) : List (BitVec 16 × List Byte) :=
  (List.range ((bytes.length + 241) / 242)).map (fun i =>
    let first := match starts.find? (fun o => decide (242 * i ≤ o)) with
      | some o => if o < 242 * i + 242 then o - 242 * i else 0xFFFF
      | none => 0xFFFF
    let s := seq + BitVec.ofNat 16 i
    (s, flitBytes 1 0 s ack 0 0 first (sliceBytes bytes (242 * i) 242)))

/-- Where each packet of a batch starts and ends in its bytes. -/
def batchSpans (ps : List Packet) : List (Packet × Nat × Nat) :=
  (ps.foldl (fun (acc : List (Packet × Nat × Nat) × Nat) p =>
    (acc.1 ++ [(p, acc.2, acc.2 + 32 + p.payload.length)], acc.2 + 32 + p.payload.length)) ([], 0)).1

/-- Packets go out on the lanes, end to end, and into the retry buffer; each is noted with the number of its last flit. -/
def putLine (d : Dev) (n : Nat) (ps : List Packet) : Dev :=
  let x := d.port n
  let spans := batchSpans ps
  let flits := packFlits x.txSeq (x.rxSeq - 1) (spans.map (fun e => e.2.1)) (ps.flatMap packetBytes)
  let d := d.setPort n { x with
    line := x.line ++ ps.map PortOut.packet
    lanes := x.lanes ++ flits.map (fun f => f.2)
    sent := x.sent ++ flits
    retry := x.retry ++ spans.map (fun e => (x.txSeq + BitVec.ofNat 16 ((e.2.2 - 1) / 242), e.1))
    txSeq := x.txSeq + BitVec.ofNat 16 flits.length }
  let echo := ps.any (fun p => p.type == tyEcho && d.klz.echoTag == some p.tag)
  let d := if echo then { d with klz := { d.klz with echoGo := false } } else d
  ps.foldl (fun d p => d.count 7 ((p.payload.length + 63) / 64)) d

/-! ## Choosing what to send (R326, R327) -/

/-- The first packet of a channel that may go: oldest of its class, with credits for its whole length at the far receiver, and with
room for `after` bytes and itself in the retry buffer of 1,024 flits. -/
def sendable (x : Port) (after ch : Nat) : Option Packet :=
  let old (p : Packet) : Bool := (x.waiting.find? (fun q => creditKey q == creditKey p)) == some p
  x.waiting.find? (fun p => channelOf p.type == ch && old p
    && decide (tabGet 0 x.used (creditKey p) + packetUnits p ≤ creditCap ch)
    && decide (x.sent.length + (after + 32 + p.payload.length + 241) / 242 ≤ 1024))

/-- The packet takes its credits and leaves the queue. -/
def takePacket (x : Port) (p : Packet) : Port :=
  { x with waiting := x.waiting.erase p, used := tabSet 0 x.used (creditKey p) (tabGet 0 x.used (creditKey p) + packetUnits p) }

/-- At a packet boundary: channel 3, then channel 1, then channels 0 and 2 by the bytes each has sent while both waited (R327). -/
def nextPacket (x : Port) (after : Nat) : Option (Packet × Port) :=
  match sendable x after 3, sendable x after 1, sendable x after 0, sendable x after 2 with
  | some p, _, _, _ => some (p, takePacket x p)
  | none, some p, _, _ => some (p, takePacket x p)
  | none, none, some p, some q =>
    if x.ahead ≤ 0 then some (p, { takePacket x p with ahead := x.ahead + (32 + p.payload.length : Nat) })
    else some (q, { takePacket x q with ahead := x.ahead - (32 + q.payload.length : Nat) })
  | none, none, some p, none => some (p, { takePacket x p with ahead := 0 })
  | none, none, none, some q => some (q, { takePacket x q with ahead := 0 })
  | none, none, none, none => none

/-- What the port can send now, in order. -/
def pickPackets : Nat → Port → Nat → Port × List Packet
  | 0, x, _ => (x, [])
  | fuel + 1, x, after =>
    match nextPacket x after with
    | none => (x, [])
    | some (p, y) =>
      let r := pickPackets fuel y (after + 32 + p.payload.length)
      (r.1, p :: r.2)

/-- Packets that wait go out as credits allow. -/
def drainWaiting (d : Dev) (n : Nat) : Dev :=
  let r := pickPackets (d.port n).waiting.length (d.port n) 0
  if r.2.isEmpty then d else putLine (d.setPort n r.1) n r.2

/-- A packet leaves by a port, in class B from a dateline on (R343): it joins those that wait, and the port sends what it can. -/
def emit (d : Dev) (n : Nat) (p : Packet) : Dev :=
  let x := d.port n
  let p := if x.dateline then { p with flags := p.flags ||| 1 } else p
  drainWaiting (d.setPort n { x with waiting := x.waiting ++ [p] }) n

/-- The ACTIVE port towards a device (R334); none: unreachable. -/
def routePort (d : Dev) (dev : Nat) : Option Nat :=
  let r := d.route dev
  if r < 16 && (d.port r).state == .active then some r else none

/-- A remote request leaves with a fresh tag, or is unreachable. -/
def sendRequest (d : Dev) (p : Packet) (bytes va : Nat) (o : Origin) : Option Dev :=
  match routePort d p.dest.toNat with
  | none => none
  | some n =>
    let t := d.klz.tagNext
    let r : Req := { tag := t, device := p.dest.toNat, bytes := bytes, va := va, origin := o }
    let d := { d with klz := { d.klz with tagNext := t + 1, requests := d.klz.requests ++ [r] } }
    some (emit d n { p with tag := t })

/-- The request packet of a place on another device: a READ of `n` bytes, or a WRITE of bytes (R337, R338). -/
def requestPacket (d : Dev) (pl : Place) (write : Option (List Byte)) (n : Nat) (poison : Bool) : Option Packet :=
  let fl : Byte := if poison then 2 else 0
  let body := write.getD []
  let b : Word := if write.isSome then 0 else BitVec.ofNat 32 n
  match pl with
  | .remote g => some { newPacket d (if write.isSome then tyWrite else tyRead) (g / 2 ^ 52) body with address := BitVec.ofNat 64 g, bytes := b, flags := fl }
  | .remoteView dv slot va => some { newPacket d (if write.isSome then tyViewWrite else tyViewRead) dv body with address := BitVec.ofNat 64 va, bytes := b, flags := fl, slotGroup := BitVec.ofNat 8 slot }
  | _ => none

/-- The device a remote place lies on. -/
def placeDevice (pl : Place) : Nat :=
  match pl with
  | .remote g => g / 2 ^ 52
  | .remoteView dv _ _ => dv
  | _ => 0

/-- Remote pieces are whole units of 16 B on 16 B (R337). -/
def remoteAligned (va n : Nat) : Bool := va % 16 == 0 && n % 16 == 0 && decide (16 ≤ n)

/-- The Koliz code of a STATUS that is neither OK nor POISON (R364). -/
def kolizCode (st : Nat) : Nat :=
  match st with
  | 2 => 0x64 | 4 => 0x65 | 5 => 0x66 | 6 => 0x67
  | _ => 0x63

/-! ## Engine accesses to job virtual memory

Engines but the tensor mover read and write through these. A piece on another device is one request whose answer is taken in
the same step: its STATUS and its data are free (notes/assumptions/16.md). -/

/-- How another device answers a request (R339, R340): well, with poison, with a STATUS charged as FLT_REMOTE, or not at all, which
counts a lost request. -/
def remoteEnd (d : Dev) (dev va : Nat) : Acc Dev :=
  let st := Config.freeNat d.free % 8
  let d := { d with free := d.free + 1 }
  if st == 0 then .ok d
  else if st == 7 then
    .error { fltRemote 0x63 dev va with after := some (d.free, { d.klz with timeouts := sat16 d.klz.timeouts, timeoutSeen := true }) }
  else .error { (if st == 3 then fltPoison va else fltRemote (kolizCode st) dev va) with after := some (d.free, d.klz) }

/-- An engine's request to another device; a device without a route is UNREACHABLE. -/
def enginePiece (d : Dev) (pl : Place) (write : Option (List Byte)) (va n : Nat) : Acc Dev :=
  match requestPacket d pl write n false, routePort d (placeDevice pl) with
  | some q, some port =>
    let t := d.klz.tagNext
    remoteEnd (emit { d with klz := { d.klz with tagNext := t + 1 } } port { q with tag := t }) (placeDevice pl) va
  | _, _ => .error (fltRemote 0x63 (placeDevice pl) va)

/-- The whole units of 16 B that hold `n` bytes of a remote place: the place of the first one, and their bytes (R337). -/
def remoteUnits (pl : Place) (n : Nat) : Place × Nat :=
  let cut (a : Nat) : Nat × Nat := (a / 16 * 16, (a % 16 + n + 15) / 16 * 16)
  match pl with
  | .remote g => (.remote (cut g).1, (cut g).2)
  | .remoteView dv slot va => (.remoteView dv slot (cut va).1, (cut va).2)
  | p => (p, n)

/-- The place lies on another device. -/
def isRemote (pl : Place) : Bool :=
  match pl with
  | .remote _ => true
  | .remoteView _ _ _ => true
  | _ => false

/-- A read of a remote piece: free bytes of that device's memory. -/
def remoteRead (d : Dev) (pl : Place) (va n : Nat) : Acc (Dev × List Byte) := do
  let u := remoteUnits pl n
  let d ← enginePiece d u.1 none va u.2
  .ok ({ d with free := d.free + n }, (List.range n).map (fun i => Config.freeByte (d.free + i)))

/-- A write of a remote piece: whole units of 16 B. -/
def remoteWrite (d : Dev) (pl : Place) (va : Nat) (bs : List Byte) : Acc Dev :=
  if remoteAligned va bs.length then enginePiece d pl (some bs) va bs.length else .error fltIllegal

/-- Reads `n` bytes at a job virtual address for a consumer: poison is FLT_POISON (R304). -/
def vaRead (d : Dev) (slot va n : Nat) : Acc (Dev × List Byte) :=
  (vaPieces va n).foldlM (fun (acc : Dev × List Byte) p => do
    let pl ← readPlace acc.1 slot p.1 p.2
    if isRemote pl then
      let r ← remoteRead acc.1 pl p.1 p.2
      .ok (r.1, acc.2 ++ r.2)
    else
      let r := placeRead acc.1 pl p.2
      if r.2 then .error { fltPoison p.1 with cells := placeCells pl p.2 } else .ok (countHbm acc.1 false pl p.2, acc.2 ++ r.1)) (d, [])

/-- Writes bytes at a job virtual address; `whole` says of a piece that its command covers the piece's page (R65). -/
def vaPut (d : Dev) (slot va : Nat) (bs : List Byte) (whole : Nat → Bool) : Acc Dev := do
  let r ← (vaPieces va bs.length).foldlM (fun (acc : Dev × List Byte) p => do
    let (d1, pl) ← writePlace acc.1 slot p.1 p.2 (whole p.1)
    if isRemote pl then
      let d2 ← remoteWrite d1 pl p.1 (acc.2.take p.2)
      .ok (d2, acc.2.drop p.2)
    else .ok (countHbm (notePlain (placeWrite d1 pl (acc.2.take p.2)) slot (vaPlain acc.1 slot p.1) pl p.2) true pl p.2, acc.2.drop p.2)) (d, bs)
  .ok r.1

/-- Writes bytes at a job virtual address; `mover` says that one tensor-mover command writes them (R65). -/
def vaWrite (d : Dev) (slot va : Nat) (bs : List Byte) (mover : Bool) : Acc Dev :=
  vaPut d slot va bs (fun a => mover && coversPage a va bs.length)

end Sys2Proof.Machine
end

