-- ==== Sys2Proof/Machine/Engines.lean ====
section
/-! DEFINITION. What stops, drains and rolls back the engines that work for a job: Spout, codec and Cascade. -/

namespace Sys2Proof.Machine

/-! ## The Spout engines (spec/11_convolution.md R287, R291) -/

def Dev.spout (d : Dev) (k : Nat) : Spout := tabGet {} d.spouts k
def Dev.setSpout (d : Dev) (k : Nat) (x : Spout) : Dev := { d with spouts := tabSet {} d.spouts k x }

/-- Commands an engine's queue holds; what stands behind them waits in its core's own queue of 4 (spec/08_vector_engine.md R195). -/
def spoutDepth : Nat := 16

/-- Every command of an engine, oldest first. -/
def Spout.all (x : Spout) : List SpoutCmd := x.suspended.toList ++ x.run.toList ++ x.queue

/-- The engine when nothing runs: the suspended command once no LIVE command waits, else the first in its queue (R287). -/
def spoutNext (d : Dev) (x : Spout) : Spout :=
  match x.run with
  | some _ => x
  | none =>
    let live (c : SpoutCmd) : Bool := (d.job c.slot).live
    match x.suspended with
    | some s =>
      (match (x.queue.take spoutDepth).find? live with
       | some c => { x with run := some c, queue := x.queue.erase c }
       | none => { x with run := some s, suspended := none })
    | none =>
      match x.queue with
      | c :: cs => { x with run := some c, queue := cs }
      | [] => x

/-- Keeps the commands that satisfy `p`; an engine left idle goes on with its next command. -/
def spoutFilter (d : Dev) (p : SpoutCmd → Bool) : Dev :=
  (List.range 12).foldl (fun d k =>
    let x := d.spout k
    d.setSpout k (spoutNext d { run := x.run.filter p, suspended := x.suspended.filter p, queue := x.queue.filter p })) d

/-- At a pre-emption a slot's commands leave their engines for their cores' contexts, with the row each reached. -/
def spoutPark (d : Dev) (slot : Nat) : Dev :=
  let mine := (List.range 12).flatMap (fun k => (d.spout k).all.filter (fun c => c.slot == slot))
  let d := mine.foldl (fun d c => d.modCtx c.core (fun x => { x with spout := x.spout ++ [c] })) d
  spoutFilter d (fun c => !(c.slot == slot))

/-- After the restore each command re-enters its core's engine. -/
def spoutUnpark (d : Dev) (core logical : Nat) : Dev :=
  let cs := (d.core core).ctx.spout
  let d := d.modCtx core (fun x => { x with spout := [] })
  cs.foldl (fun d c =>
    let k := core / 12
    let x := d.spout k
    d.setSpout k (spoutNext d { x with queue := x.queue ++ [{ c with core := core, logical := logical }] })) d

/-- No Spout command of a slot is queued or running. -/
def spoutDrained (d : Dev) (slot : Nat) : Bool :=
  (List.range 12).all (fun k => (d.spout k).all.all (fun c => !(c.slot == slot)))

/-! ## Cascade commands (spec/13_koliz_fabric.md R355, R361) -/

/-- Removes the Cascade commands that satisfy `p`; their destinations hold undefined contents. -/
def cascadeEnd (d : Dev) (p : CscCmd → Bool) : Dev :=
  let gone := d.klz.cascade.filter p
  let d := { d with klz := { d.klz with cascade := d.klz.cascade.filter (fun c => !p c) } }
  gone.foldl (fun d c => c.dst.foldl (fun d runs => runs.foldl (fun d r => match r.place with
    | .cells a => d.cellHavoc a r.n
    | _ => d) d) d) d

/-- No Cascade command of a slot is outstanding. -/
def cascadeDrained (d : Dev) (slot : Nat) : Bool := d.klz.cascade.all (fun c => !(c.slot == slot))

/-- Packets that came before their command, and the numbering of a slot's groups, are forgotten at a replay (R358). -/
def cascadeRestart (d : Dev) (slot : Nat) : Dev :=
  let mine (p : Packet) : Bool := (tabGet ({} : Grp) d.klz.groups p.slotGroup.toNat).slot == slot
  { d with klz := { d.klz with early := d.klz.early.filter (fun e => !mine e.2), issued := tabDrop d.klz.issued (16 * slot) (16 * slot + 16) } }

/-! ## Domain groups (spec/13_koliz_fabric.md R346 to R351) -/

def Dev.grp (d : Dev) (g : Nat) : Grp := tabGet {} d.klz.groups g
def Dev.setGrp (d : Dev) (g : Nat) (x : Grp) : Dev := { d with klz := { d.klz with groups := tabSet {} d.klz.groups g x } }

/-- A group is consistent (spec/13_koliz_fabric.md R346). -/
def grpConsistent (g : Grp) : Bool :=
  (g.root == !g.parentValid) && !(g.parentValid && g.children.getLsbD g.parent)
    && g.rings.all (fun e => !e.2.valid || (decide (1 ≤ e.2.size) && decide (e.2.position < e.2.size)))

/-- The group that serves a slot: the lowest valid and consistent one that names it (R346). -/
def groupOf (d : Dev) (slot : Nat) : Option Nat :=
  (List.range 16).find? (fun g =>
    let x := tabGet {} d.klz.groups g
    x.valid && x.slot == slot && grpConsistent x)

/-- The group is valid and consistent, and the one that serves its slot. -/
def serves (d : Dev) (g : Nat) : Bool := groupOf d (d.grp g).slot == some g

/-- The turn a group works on: the one after its slot's last commit. -/
def grpTurn (d : Dev) (g : Nat) : Dword := (d.tslot (d.grp g).slot).lastCommitted + 1

/-- KIND of a FENCE packet (R348). -/
inductive FenceKind where
  | arrive | decide | abort | replay | stop | absent
deriving DecidableEq, Repr

/-- The 32 bytes of a FENCE payload (R348). -/
def fencePayload (k : FenceKind) (reason : Byte) (origin : Nat) (turn slot : Dword) : List Byte :=
  leBytes 1 (match k with | .arrive => 1 | .decide => 2 | .abort => 3 | .replay => 4 | .stop => 5 | .absent => 6)
    ++ [reason] ++ leBytes 2 origin ++ leBytes 4 0 ++ leBytes 8 turn.toNat ++ leBytes 8 slot.toNat ++ leBytes 8 0

/-- Sends a FENCE message by a port; a port that is not ACTIVE drops it (R351). -/
def sendFence (d : Dev) (g port : Nat) (k : FenceKind) (reason : Byte) (origin : Nat) (turn slot : Dword) : Dev :=
  if !((d.port port).state == .active) then d
  else emit d port { newPacket d tyFence (d.port port).neighbour.toNat (fencePayload k reason origin turn slot) with slotGroup := BitVec.ofNat 8 g }

/-- The ports of a group's children. -/
def childPorts (x : Grp) : List Nat := (List.range 16).filter (fun p => x.children.getLsbD p)

/-- Sends a FENCE message to every child. -/
def sendDown (d : Dev) (g : Nat) (k : FenceKind) (reason : Byte) (origin : Nat) (turn slot : Dword) : Dev :=
  (childPorts (d.grp g)).foldl (fun d p => sendFence d g p k reason origin turn slot) d

/-- Sends a FENCE message towards the root; ORIGIN names this device in REPLAY, STOP and ABSENT (R348). -/
def sendUp (d : Dev) (g : Nat) (k : FenceKind) (turn : Dword) : Dev :=
  sendFence d g (d.grp g).parent k 0 (match k with | .arrive => 0 | _ => d.ownDevice) turn 0

/-- The reason a root's abort carries (R351). -/
def abortReason (x : Grp) : Byte := if x.absent = 0 then 0x61 else 0x60

/-- The group has decided the turn it works on. -/
def grpDecided (d : Dev) (g : Nat) : Bool := (d.grp g).barrier == .decided && (d.grp g).turn == grpTurn d g

/-- The root's own side of an abort: ABORT to every child, and the barrier's state (R77, R350). -/
def abortDown (d : Dev) (g : Nat) : Dev :=
  let x := d.grp g
  let r := abortReason x
  let d := sendDown d g .abort r 0 (grpTurn d g) 0
  d.setGrp g { x with barrier := .aborted, abortReason := r, turn := grpTurn d g, arrived := 0, own := false, first := none }

/-- STOP up the tree of every valid group; a root that has not decided aborts the turn (R77, R351, R455 step 2). -/
def sendStops (d : Dev) : Dev :=
  (List.range 16).foldl (fun d g =>
    if !serves d g then d
    else if !(d.grp g).root then sendUp d g .stop (grpTurn d g)
    else if grpDecided d g then d else abortDown d g) d

/-- KLZ_HORIZON.REQUESTED within its limits, and TRAINED (R344). -/
def clampHorizon (v : BitVec 16) : BitVec 16 := if v < 1000 then 1000 else if 50000 < v then 50000 else v
def trainedHorizon (d : Dev) : Nat := (d.klz.trained.getD (clampHorizon d.klz.requested)).toNat

/-! ## All engines -/

/-- Every engine command of a slot is drained (R62 FENCE.D). -/
def enginesDrained (d : Dev) (slot : Nat) : Bool := spoutDrained d slot && cascadeDrained d slot && codecDrained d slot

/-- Ends and discards a slot's Spout and Cascade commands and rolls its codec streams back (R291, R380, R455). -/
def enginesDrop (d : Dev) (slot : Nat) : Dev :=
  cascadeRestart (cascadeEnd (spoutFilter (codecDrop d slot) (fun c => !(c.slot == slot))) (fun c => c.slot == slot)) slot

/-! ## Sequences of a turn (spec/10_attention.md R263 to R265) -/

/-- Why the key-value part of admission fails: the card is refused, or poison was met in the list. -/
inductive KvStop where
  | refuse (code : Byte) (detail : Nat)
  | fault (f : JFault)

/-- Frames per page. -/
def KvLayout.frames (k : KvLayout) : Nat := k.pageBytes / 65536

/-- Bytes of a sequence's range. -/
def KvLayout.range (k : KvLayout) : Nat := k.layers * k.heads * 4096 * k.pageBytes

/-- Frames a sequence of a turn reserves. -/
def KvLayout.need (k : KvLayout) (append : Nat) : Nat := k.layers * k.heads * ((append + 255) / 256 + 1) * k.frames

/-- An entry of the list, before it is settled. -/
def parseSeq (b : List Byte) : SeqEntry :=
  { base := fieldLe b 0 8, length := fieldLe b 8 4, append := fieldLe b 0xC 4, scaleVa := fieldLe b 0x10 8, admitted := false, reason := 0 }

/-- The entry keeps R264 step 1. -/
def seqOk (k : KvLayout) (maxAppend : Nat) (b : List Byte) : Bool :=
  let e := parseSeq b
  fieldLe b 0x1C 4 == 0 && e.base % 0x10000 == 0 && decide (e.base + k.range ≤ 2 ^ 56) && decide (e.length ≤ 1048576)
    && decide (e.append ≤ maxAppend) && ((e.scaleVa == 0) == !(k.fmt == 2))

/-- One entry settled against the frames left: the entry and the frames it takes (R264 step 2). -/
def settleSeq (k : KvLayout) (left : Nat) (e : SeqEntry) : SeqEntry × Nat :=
  if e.append = 0 then ({ e with admitted := true }, 0)
  else if 1048576 < e.length + e.append then ({ e with reason := 0x43 }, 0)
  else if left < k.need e.append then ({ e with reason := 0x40 }, 0)
  else ({ e with admitted := true }, k.need e.append)

/-- The entries settled in list order, and the frames they take in all. -/
def settleSeqs (k : KvLayout) (left : Nat) (l : List SeqEntry) : List SeqEntry × Nat :=
  l.foldl (fun acc e =>
    let r := settleSeq k (left - acc.2) e
    (acc.1 ++ [r.1], acc.2 + r.2)) ([], 0)

/-- The key-value part of admission: the sequences, and the frames they reserve beyond the card's own. -/
def kvAdmit (d : Dev) (slot : Nat) (c : Card) : Except KvStop (Dev × List SeqEntry × Nat) :=
  let n := c.seqCount.toNat
  let kv := ((d.job slot).image).bind (·.kv)
  match kv, kv.bind (fun k => k.kinds.find? (fun e => e.kind == c.kind.toNat)) with
  | some k, some r =>
    if r.maxSeq < n then .error (.refuse 0x45 0xFFFFFFFF)
    else match vaRead d slot c.seqList.toNat (32 * n) with
      | .error f => if f.reason == 0xA3 then .error (.fault f) else .error (.refuse 0x45 0xFFFFFFFF)
      | .ok (d, bs) =>
        let raw (i : Nat) : List Byte := sliceBytes bs (32 * i) 32
        match (List.range n).find? (fun i => !seqOk k r.maxAppend (raw i)) with
        | some i => .error (.refuse 0x45 i)
        | none =>
          let s := settleSeqs k (d.freeStack (basinOf slot)).length ((List.range n).map (fun i => parseSeq (raw i)))
          .ok (d, s.1, s.2)
  | _, _ => if n = 0 then .ok (d, [], 0) else .error (.refuse 0x45 0xFFFFFFFF)

/-- The admission area: the bitmap of admitted sequences, then their reason bytes (R265). -/
def admissionBytes (l : List SeqEntry) : List Byte :=
  let bits := (l.zipIdx.map (fun e => bit e.1.admitted * 2 ^ e.2)).foldl (· + ·) 0
  leBytes (8 * ((l.length + 63) / 64)) bits ++ l.map (·.reason)

/-- Writes the admission area of a slot's open turn; one that cannot be written stays as it is (notes/assumptions/16.md). -/
def writeAdmission (d : Dev) (slot : Nat) : Dev :=
  match ((d.job slot).image).bind (·.kv), (d.job slot).turn with
  | some k, some t =>
    match vaWrite d slot k.admitVa (admissionBytes t.seqs) false with
    | .ok d2 => d2.modJob slot (fun j => { j with turn := some t })
    | .error _ => d
  | _, _ => d

end Sys2Proof.Machine
end

