-- ==== Sys2Proof/Machine/Turns.lean ====
section
/-! DEFINITION. Job faults and the fault log, completion records, and the life of a turn: start, replay, discard, staging,
flip and fold (spec/03_turns_and_fences.md R65 to R81, spec/04_clepsydra_and_scheduling.md R100, R101, R114,
spec/17_faults_and_counters.md R455 to R461). -/

namespace Sys2Proof.Machine

/-! ## The fault log (R460, R461) -/

/-- The DETAIL layout of R460. -/
def faultDetail (engine logical command sub : Nat) : Word :=
  BitVec.ofNat 32 (engine % 8 * 0x20000000 + logical % 256 * 0x200000 + command % 8192 * 256 + sub % 256)

/-- Appends an entry to the 64-entry log, or drops it when 64 unconsumed entries are held (R461). -/
def logAppend (d : Dev) (info : FltInfo) (detail : Word) : Dev :=
  let f := d.flt
  if 64 ≤ (f.logWritten - f.logConsumed).toNat then
    { d with flt := { f with logDropped := sat16 f.logDropped, logOverflow := true } }
  else
    let e : LogEntry := { info := info, detail := detail, clp := d.clp.now }
    { d with flt := { f with log := tabSet {} f.log (f.logWritten.toNat % 64) e, logWritten := f.logWritten + 1 } }

/-- Every core of every job stops issuing at its next command boundary (R455 step 1). -/
def holdCores (d : Dev) : Dev :=
  { d with cores := d.cores.filterMap (fun e =>
      let c := { e.2 with active := false }
      if c = {} then none else some (e.1, c)) }

/-- FLT_STOP_INFO, DETAIL, ADDR and CLP of a stop (R455 step 1). -/
def stopRegs (d : Dev) (info : FltInfo) (detail : Word) (addr : Dword) : Dev :=
  { d with flt := { d.flt with stopInfo := info, stopDetail := detail, stopAddr := addr, stopClp := d.clp.now } }

/-- The slot's turn is decided or flipped: it commits whatever happens (R73, R76). -/
def commits (d : Dev) (slot : Nat) : Bool := (d.tslot slot).phase == .decided || (d.tslot slot).phase == .folding

/-- Steps 1 and 2 of R455: the stop registers, the cores, the engines of the turns it discards (R76) and the STOP messages. -/
def beginStop (d : Dev) (info : FltInfo) (detail : Word) (addr : Dword) : Dev :=
  let d := stopRegs d info detail addr
  let d := holdCores { d with flt := { d.flt with stopActive := true } }
  sendStops (((List.range 64).filter (fun s => !commits d s)).foldl enginesDrop d)

/-- A job fault of a slot (R453, R455, R456, R460): logged and counted, charged to the job, and the device stops. -/
def jobFault (d : Dev) (slot core engine logical command : Nat) (f : JFault) : Dev :=
  let d := match f.cells with
    | some c => meetCells d c.1 c.2
    | none => d
  let d := match f.after with
    | some a => { d with free := a.1, klz := a.2 }
    | none => d
  let detail := f.detail.getD (faultDetail engine logical command f.sub)
  let info : FltInfo := { valid := true, cls := 1, reason := f.reason, core := BitVec.ofNat 8 core, slot := BitVec.ofNat 8 slot }
  let d := logAppend d info detail
  let d := { d with flt := { d.flt with jobFaults := sat16 d.flt.jobFaults, faulted := slot :: d.flt.faulted } }
  let d := d.modJob slot (fun j => { j with reason := f.reason, detail := detail })
  if d.flt.stopActive then d else beginStop d info detail (BitVec.ofNat 64 f.addr)

/-- The thermal stop (R315, R453, R466): one stop, whose cause is the one detected first. -/
def thermalStop (d : Dev) (reason : Byte) : Dev :=
  if d.flt.thermal || d.sys.state == .thermal then d else
    let info : FltInfo := { valid := true, cls := 4, reason := reason }
    let d := logAppend d info 0
    let d := { d with flt := { d.flt with thermal := true, thermReason := reason } }
    if d.flt.stopActive then d else beginStop d info 0 0

/-! ## Frames and pools (R58, R60, R70) -/

/-- A number put at its place in a rising list. -/
def insertNat (x : Nat) : List Nat → List Nat
  | [] => [x]
  | y :: ys => if x ≤ y then x :: y :: ys else y :: insertNat x ys

/-- A list in rising order. -/
def sortNat (l : List Nat) : List Nat := l.foldr insertNat []

/-- The basin whose pool a frame lies in. -/
def poolOf (d : Dev) (f : Nat) : Option Nat :=
  (List.range 16).find? (fun b =>
    let r := d.basinRec b
    r.valid && decide (r.shadowBase / 0x10000 ≤ f) && decide (f < r.shadowBase / 0x10000 + r.shadowFrames))

/-- Pushes frames onto a basin's free stack, lowest number on top (R58, R70). -/
def pushFrames (d : Dev) (b : Nat) (fs : List Nat) : Dev :=
  let d := fs.foldl (fun d f => d.modFrame f (fun x => { x with state := .free })) d
  d.setFreeStack b (sortNat fs ++ d.freeStack b)

/-- A slot's held list goes back to the free stack (R70). -/
def emptyHeld (d : Dev) (slot : Nat) : Dev :=
  let t := d.tslot slot
  pushFrames (d.setTslot slot { t with held := [] }) (basinOf slot) t.held

/-- A count goes up; past 0xFFFF it stays and the frame is pinned (R60). -/
def frameUp (d : Dev) (f : Nat) : Dev :=
  let x := d.frame f
  if x.count = 0xFFFF then
    if x.pinned then d else
      let d := d.setFrame f { x with pinned := true }
      { d with cnt := { d.cnt with pinned := d.cnt.pinned + 1 } }
  else d.setFrame f { x with count := x.count + 1 }

/-- A freed frame leaves every core's page cache (spec/10_attention.md R269). -/
def uncache (d : Dev) (f : Nat) : Dev :=
  { d with cores := d.cores.filterMap (fun e =>
      let c := { e.2 with pages := e.2.pages.filter (fun p => !(p.2 == f)) }
      if c = {} then none else some (e.1, c)) }

/-- A count goes down; at 0 the frame joins the slot's held list, or becomes OUTSIDE outside every pool (R58, R70).
A pinned frame ignores it (R60). -/
def frameDown (d : Dev) (slot f : Nat) : Dev :=
  let x := d.frame f
  if f == noFrame || x.pinned then d
  else if 1 < x.count.toNat then d.setFrame f { x with count := x.count - 1 }
  else if (poolOf d f).isSome then
    ((uncache d f).setFrame f { x with count := 0, state := .held }).modTslot slot (fun t => { t with held := t.held ++ [f] })
  else (uncache d f).setFrame f { x with count := 0, state := .outside }

/-! ## Completion records (R100, R101) -/

/-- STATUS of a record. -/
inductive RecStatus where
  | committed | refused | aborted | discarded
deriving DecidableEq, Repr

/-- The FLAGS byte of a record (R100). -/
def recFlags (late far replayed deferred slotLate predicted preempted stepped : Bool) : Nat :=
  bit late + 2 * bit far + 4 * bit replayed + 8 * bit deferred + 16 * bit slotLate + 32 * bit predicted
    + 64 * bit preempted + 128 * bit stepped

/-- The 32 bytes of a record. -/
def recordBytes (turn commitSlot : Dword) (duration user : Word) (status : RecStatus) (reason : Byte) (flags weir : Nat)
    (index : Word) : List Byte :=
  leBytes 8 turn.toNat ++ leBytes 8 commitSlot.toNat ++ leBytes 4 duration.toNat ++ leBytes 4 user.toNat
    ++ leBytes 1 (match status with | .committed => 0 | .refused => 1 | .aborted => 2 | .discarded => 3)
    ++ [reason] ++ leBytes 1 flags ++ leBytes 1 weir ++ leBytes 4 index.toNat

/-- Writes record k = JOB_CPL_WRITTEN at ring offset 32 × (k mod ring size) and counts it. -/
def writeRecord (d : Dev) (slot : Nat) (turn commitSlot : Dword) (duration user : Word) (status : RecStatus)
    (reason : Byte) (flags weir : Nat) : Dev :=
  let j := d.job slot
  let off := j.cplRing.toNat + 32 * (j.cplWritten.toNat % 2 ^ j.cplLog2.toNat)
  let d := d.hbmWrite off (recordBytes turn commitSlot duration user status reason flags weir (j.cplWritten + 1))
  d.modJob slot (fun j => { j with cplWritten := j.cplWritten + 1 })

/-- The record flags of an open turn. -/
def turnFlags (t : Turn) (late : Bool) : Nat :=
  recFlags late t.far t.replayed t.seqDeferred t.slotLate t.predictedLate t.preempted t.stepped

/-! ## Cores of a job -/

/-- The logical cores the job's program runs on. -/
def jobCores (d : Dev) (slot : Nat) : List Nat :=
  match (d.job slot).image with
  | some p => p.cores.map (·.1)
  | none => []

/-- The lane generators' states after SEED `seed` (spec/05_number_formats.md R134). -/
def seedLanes (seed : Word) : Tab Word :=
  tabOfList 0 ((List.range 256).map (fun i =>
    let x := seed ^^^ (BitVec.ofNat 32 i * 0x9E3779B9)
    if x = 0 then 1 else x))

/-- A core's context at the start of a turn (R196). -/
def freshCtx (l : Nat) (c : Card) : Ctx :=
  { sregs := tabOfList 0 [0, BitVec.ofNat 64 c.kind.toNat, c.turn, c.params, c.seqList,
      BitVec.ofNat 64 c.seqCount.toNat, BitVec.ofNat 64 c.paramBytes.toNat, BitVec.ofNat 64 l]
    lanes := seedLanes 0 }

/-- An array as a turn finds it: its tiles are those the job left (R155), its queue is empty. -/
def Arr.emptied (a : Arr) : Arr := { a with queue := [] }

/-- Every core of the job starts the turn from its first command; a fresh core issues when no stop holds it. Its arrays keep their
tiles, which are empty only when the job takes the basin (spec/06_matrix_arrays.md R155). -/
def startCores (d : Dev) (slot : Nat) (c : Card) : Dev :=
  let d := { d with klz := { d.klz with issued := tabDrop d.klz.issued (16 * slot) (16 * slot + 16) } }
  (jobCores d slot).foldl (fun d l => d.modCore (d.phys l) (fun x =>
    { x with slot := some slot, ctx := { freshCtx l c with arr0 := x.ctx.arr0.emptied, arr1 := x.ctx.arr1.emptied }, tm := [], active := !d.flt.stopActive })) d

/-- The logical cores of a job whose physical cores hold it now. -/
def heldCores (d : Dev) (slot : Nat) : List Nat := (jobCores d slot).filter (fun l => (d.core (d.phys l)).slot == some slot)

/-- Every core of the job stops issuing. -/
def stopCores (d : Dev) (slot : Nat) : Dev :=
  (heldCores d slot).foldl (fun d l => d.modCore (d.phys l) (fun x => { x with active := false })) d

/-- The job leaves its cores: they hold no slot and show no state (R218). -/
def clearCores (d : Dev) (slot : Nat) : Dev :=
  ((jobCores d slot).filter (fun l => (d.core (d.phys l)).slot == some slot || (d.core (d.phys l)).slot.isNone)).foldl (fun d l =>
    d.modCore (d.phys l) (fun x =>
      { x with slot := none, ctx := {}, tm := [], active := false, saving := false, restoring := false, pages := [] })) d

/-- The owners of every shared semaphore the job's logical cores own are cleared (R214). -/
def dropOwners (d : Dev) (slot : Nat) : Dev :=
  let ls := heldCores d slot
  (List.range 16).foldl (fun d i =>
    let k := 16 * basinOf slot + i
    let s := tabGet {} d.sems k
    if ls.contains s.owner then { d with sems := tabSet {} d.sems k { s with owner := 0xFF } } else d) d

/-! ## Ending a turn without a commit (R76, R77, R79, R80) -/

/-- One level-3 entry with its staged fields cleared: NEXT_VALID 0, FRAME_NEXT none, NEXT_EPOCH 0. -/
def unstageEntry (e : List Byte) : List Byte :=
  let flags := fieldLe e 1 1
  leBytes 1 (fieldLe e 0 1) ++ leBytes 1 (flags - (if natBit flags 4 then 16 else 0)) ++ leBytes 2 (fieldLe e 2 2)
    ++ leBytes 4 0 ++ leBytes 3 (fieldLe e 8 3) ++ leBytes 3 noFrame ++ leBytes 2 0

/-- Clears the staged NEXT fields of every leaf in a slot's move list. -/
def unstage (d : Dev) (slot : Nat) : Dev :=
  (d.tslot slot).moves.foldl (fun d m => d.hbmWrite m.leaf (unstageEntry (d.hbmRead m.leaf 16))) d

/-- Plain pages the turn wrote hold undefined contents (R79). -/
def havocPlain (d : Dev) (slot : Nat) : Dev :=
  match (d.job slot).turn with
  | some t => t.plain.foldl (fun d p => d.cellHavoc p.1 p.2) d
  | none => d

/-- The staged fields of a turn in PHASE STAGED or DECIDED are cleared; earlier phases have none. -/
def unstageIfStaged (d : Dev) (slot : Nat) : Dev :=
  match (d.tslot slot).phase with
  | .staged => unstage d slot
  | .decided => unstage d slot
  | _ => d

/-- Ends a slot's open turn uncommitted: staged fields cleared, reservation returned, move list emptied, engines
dropped, plain pages undefined, and a record of this status and reason written. A card taken and not yet admitted gets its
record too (spec/04_clepsydra_and_scheduling.md R101). -/
def endTurn (d : Dev) (slot : Nat) (status : RecStatus) (reason : Byte) : Dev :=
  match (d.job slot).turn with
  | none =>
    match (d.job slot).waiting with
    | none => d
    | some c => (writeRecord d slot c.turn 0 0 c.user status reason 0 0).modJob slot (fun j => { j with waiting := none })
  | some t =>
    let d := enginesDrop d slot
    let d := unstageIfStaged d slot
    let ts := d.tslot slot
    let d := pushFrames d (basinOf slot) (ts.stock ++ ts.shadows.map (·.2))
    let d := havocPlain d slot
    let d := d.setTslot slot { ts with phase := .none, replaying := false, domain := false, abortReason := reason, moves := [], stock := [], shadows := [], reserved := 0, decided := none, late := false, aborting := none }
    let d := writeRecord d slot t.card.turn 0 0 t.card.user status reason (turnFlags t false) t.weirMax
    d.modJob slot (fun j => { j with turn := none, restart := false, askReplay := false })

/-- A context whose turn is over: the core idles, and its queues are empty. -/
def Ctx.halted (x : Ctx) : Ctx :=
  { x with wait := .ended, arr0 := x.arr0.emptied, arr1 := x.arr1.emptied, deposits := [], spout := [], vecQueue := [], sfQueue := [], tmQueue := [], codQueue := [], tm := [] }

/-- What the cores of a job have begun and not finished is gone, on the cores and in its save: their movers and queues are empty, and
they idle until a turn starts. -/
def haltCores (d : Dev) (slot : Nat) : Dev :=
  let d := { d with saved := d.saved.map (fun e =>
    (e.1, if decide (256 * slot ≤ e.1) && decide (e.1 < 256 * slot + 256) then e.2.map Ctx.halted else e.2)) }
  (heldCores d slot).foldl (fun d l => d.modCore (d.phys l) (fun x => { x with active := false, tm := [], ctx := x.ctx.halted })) d

/-- The first half of a replay (R74): the operations end, the shadow writes are discarded, the move list is emptied, the shadows stay
reserved, and the replay is counted. The turn starts again once its cores can. -/
def discardTurn (d : Dev) (slot : Nat) : Dev :=
  match (d.job slot).turn with
  | none => d
  | some t =>
    let d := enginesDrop d slot
    let d := unstageIfStaged d slot
    let d := dropOwners (havocPlain d slot) slot
    let d := d.modTslot slot (fun ts => { ts with phase := .running, replaying := true, replays := sat16 ts.replays, moves := [], stock := sortNat (ts.stock ++ ts.shadows.map (·.2)), shadows := [] })
    let d := (d.tslot slot).stock.foldl (fun d f => d.modFrame f (fun x => { x with state := .reserved })) d
    haltCores (d.modJob slot (fun j => { j with turn := some { t with replayed := true, arrived := none, plain := [] }, restart := true, askReplay := false })) slot

/-- The second half: the admission area is written again (spec/10_attention.md R265), and every core of the job is at its first
command. -/
def restartTurn (d : Dev) (slot : Nat) : Dev :=
  match (d.job slot).turn with
  | none => d.modJob slot (fun j => { j with restart := false })
  | some t => startCores (writeAdmission (d.modJob slot (fun j => { j with restart := false })) slot) slot t.card

/-- Replays a slot's turn at once (R74, R75). -/
def replayTurn (d : Dev) (slot : Nat) : Dev := restartTurn (discardTurn d slot) slot

/-! ## Commit (R68) -/

/-- A level-3 entry with a move staged into it. -/
def stageEntry (e : List Byte) (epoch : Word) (new : Nat) : List Byte :=
  let flags := fieldLe e 1 1
  leBytes 1 (fieldLe e 0 1) ++ leBytes 1 (flags + (if natBit flags 4 then 0 else 16)) ++ leBytes 2 (fieldLe e 2 2)
    ++ leBytes 4 epoch.toNat ++ leBytes 3 (fieldLe e 8 3) ++ leBytes 3 new ++ leBytes 2 0

/-- Staging: each move goes into its leaf's FRAME_NEXT with NEXT_EPOCH = E + 1 and NEXT_VALID. -/
def stageMoves (d : Dev) (slot : Nat) : Dev :=
  let t := d.tslot slot
  let d := t.moves.foldl (fun d m => d.hbmWrite m.leaf (stageEntry (d.hbmRead m.leaf 16) (t.epoch + 1) m.new)) d
  d.modTslot slot (fun t => { t with phase := .staged })

/-- The flip (R68, R69 step 6): the epoch advances, TRN_LAST_SLOT and TRN_LAST_COMMITTED are written, and the turn's lateness
and duration are settled (R100, R114). `late` marks a decided flip after S (R73); COMMIT_SLOT and TRN_LAST_SLOT hold the Clepsydra
value at the flip then too (R100; notes/assumptions/31.md). -/
def flipTurn (d : Dev) (slot : Nat) (late : Bool) : Dev :=
  match (d.job slot).turn with
  | none => d
  | some t =>
    let dur := BitVec.ofNat 32 (min (d.clp.elapsed - t.admitElapsed) 0xFFFFFFFF)
    let isLate := !(t.card.deadline == 0) && decide (t.card.deadline < d.clp.now)
    let d := d.modTslot slot (fun ts => { ts with epoch := ts.epoch + 1, phase := .folding, lastSlot := d.clp.now, lastCommitted := t.card.turn, lastDuration := dur, lastClass := t.far, late := late })
    let d := d.modJob slot (fun j => { j with turn := some { t with slotLate := late }, turnLate := j.turnLate || isLate })
    let d := if late then { d with trn := { d.trn with slotLate := true, slotLateCount := sat16 d.trn.slotLateCount } } else d
    d.count 9 1

/-- A level-3 entry folded: FRAME_CUR from FRAME_NEXT, the staged fields cleared, COW set for a SHARE (R60). An entry that a WRITE or
a RELEASE gives another frame keeps the COW it had (DESIGN CHOICE, notes/assumptions/81.md). -/
def foldEntry (e : List Byte) (new : Nat) (cow : Bool) : List Byte :=
  let f := fieldLe e 1 1
  let f := f - (if natBit f 4 then 16 else 0)
  let f := f + (if cow && !natBit f 2 then 4 else 0)
  leBytes 1 (fieldLe e 0 1) ++ leBytes 1 f ++ leBytes 2 (fieldLe e 2 2)
    ++ leBytes 4 0 ++ leBytes 3 new ++ leBytes 3 noFrame ++ leBytes 2 0

/-- The effective moves: the last of each leaf, in list order (R67). -/
def effectiveMoves : List Move → List Move
  | [] => []
  | m :: ms => if ms.any (fun x => x.leaf == m.leaf) then effectiveMoves ms else m :: effectiveMoves ms

/-- Sets COW in the COMMITTED entry a SHARE took its frame from: on both sides of every SHARE (R60). -/
def cowEntry (d : Dev) (leaf : Nat) : Dev :=
  let e := d.hbmRead leaf 16
  if fieldLe e 0 1 == 3 && !(natBit (fieldLe e 1 1) 2) then d.hbmWrite leaf (e.take 1 ++ leBytes 1 (fieldLe e 1 1 + 4) ++ e.drop 2) else d

/-- Every entry that a fold writes, then the counts: increments first, then decrements (R60, R68, R70). -/
def foldMoves (d : Dev) (slot : Nat) : Dev :=
  let t := d.tslot slot
  let eff := effectiveMoves t.moves
  let d := eff.foldl (fun d m =>
    d.hbmWrite m.leaf (foldEntry (d.hbmRead m.leaf 16) m.new (match m.kind with | .share => true | _ => false))) d
  let d := eff.foldl (fun d m => match m.kind with
    | .write => d.setFrame m.new { (d.frame m.new) with count := 1, state := .mapped }
    | .share => if m.new == noFrame then cowEntry d m.src else frameUp (cowEntry d m.src) m.new
    | .release => d) d
  let d := eff.foldl (fun d m => frameDown d slot m.old) d
  let used := (eff.filter (fun m => match m.kind with | .write => true | _ => false)).map (·.new)
  let spare := (t.shadows.map (·.2)).filter (fun f => !used.contains f)
  let d := pushFrames d (basinOf slot) (t.stock ++ spare)
  d.modTslot slot (fun t => { t with phase := .none, moves := [], stock := [], shadows := [], reserved := 0, replaying := false, domain := false, decided := none, late := false })

/-- The fold with the completion record of the turn (R68, R69 steps 7 and 8). -/
def foldTurn (d : Dev) (slot : Nat) : Dev :=
  match (d.job slot).turn with
  | none => d
  | some t =>
    let ts := d.tslot slot
    let d := codecPublish (foldMoves d slot) slot
    let isLate := !(t.card.deadline == 0) && decide (t.card.deadline < ts.lastSlot)
    let d := writeRecord d slot t.card.turn ts.lastSlot ts.lastDuration t.card.user .committed 0 (turnFlags t isLate) t.weirMax
    d.modJob slot (fun j => { j with turn := none, restart := false, askReplay := false })

end Sys2Proof.Machine
end

