-- ==== Sys2Proof/Machine/CoreOps.lean ====
section
/-! DEFINITION. What every command of a core's stream shares: fetching it, its fields, the core's partitions, pips,
semaphores, and the three ways a command ends (spec/08_vector_engine.md R193 to R204, R211 to R213). -/

namespace Sys2Proof.Machine

/-! ## Issue -/

/-- A command as it is issued: where, for whom, and its 32 bytes after pending additions. -/
structure Cmd where
  core    : Nat
  slot    : Nat
  logical : Nat
  pc      : Nat
  b       : List Byte

/-- How a command ends at issue. -/
inductive Issued where
  /-- It goes on to the next command. -/
  | next (d : Dev)
  /-- It goes to a command index. -/
  | goto (d : Dev) (pc : Nat)
  /-- It waits: it has not been issued. -/
  | stall (d : Dev)

/-- The opcodes R194 lists. -/
def listedOp (o : Nat) : Bool :=
  decide (o ≤ 0x0C) || (decide (0x20 ≤ o) && decide (o ≤ 0x2A) && !(o == 0x23)) || o == 0x30 || o == 0x31
    || (decide (0x40 ≤ o) && decide (o ≤ 0x42)) || (decide (0x50 ≤ o) && decide (o ≤ 0x56))
    || (decide (0x60 ≤ o) && decide (o ≤ 0x64)) || (decide (0x70 ≤ o) && decide (o ≤ 0x74))
    || o == 0x78 || o == 0x79 || o == 0x7A || o == 0x7C || o == 0x7D

/-- Bytes of a logical core's stream in the program that holds the core (R171). -/
def streamBytes (d : Dev) (slot l : Nat) : Nat :=
  match (d.job slot).image with
  | some p => ((p.cores.find? (fun e => e.1 == l)).map (·.2.bytes)).getD 0
  | none => 0

/-- The command with its pending additions (R198 ADDF): each 4-byte word wraps by itself. -/
def applyAddf (b : List Byte) (a : Tab Word) : List Byte :=
  a.foldl (fun b e => b.take e.1 ++ leBytes 4 (fieldLe b e.1 4 + e.2.toNat) ++ b.drop (e.1 + 4)) b

/-- The core leaves its wait. -/
def unwait (d : Dev) (core : Nat) : Dev := d.modCtx core (fun c => { c with wait := .none })

/-- The core goes on at a command index; an engine command has used up its pending additions (R198 ADDF). -/
def advance (d : Dev) (core : Nat) (engineOp : Bool) (pc : Nat) : Dev :=
  d.modCtx core (fun c => { c with pc := pc, addf := if engineOp then [] else c.addf })

/-- The core issues its next command when that is one of `ops`; a command of another opcode is not this command, and the
state stays. A stream's end and an unlisted opcode are FLT_ILLEGAL_OP (R194, R199). -/
def issue (core engine : Nat) (ops : Nat → Bool) (f : Dev → Cmd → Acc Issued) (d : Dev) : Dev :=
  let x := d.core core
  match x.slot with
  | none => d
  | some s =>
    if !x.active || !(x.ctx.wait == .none || x.ctx.wait == .queue) then d else
      let l := d.logical core
      let pc := x.ctx.pc
      let raw := memRead d.mem (cmdCell core (32 * pc)) 32
      let op := fieldLe raw 0 1
      if decide (streamBytes d s l < 32 * pc + 32) || !listedOp op then jobFault d s core 0 l pc fltIllegal
      else if !ops op then d
      else
        let engineOp := decide (0x20 ≤ op)
        let b := if engineOp then applyAddf raw x.ctx.addf else raw
        match f (unwait d core) { core := core, slot := s, logical := l, pc := pc, b := b } with
        | .ok (.next d2) => advance d2 core engineOp (pc + 1)
        | .ok (.goto d2 t) => advance d2 core engineOp t
        | .ok (.stall d2) => d2
        | .error e => jobFault d s core engine l pc e

/-- The engine's queue is full: the core stalls at the command (R195). -/
def queueStall (d : Dev) (core : Nat) : Issued := .stall (d.modCtx core (fun c => { c with wait := .queue }))

/-! ## Engine queues (R195, R61, spec/06_matrix_arrays.md R161, R162)

The commands of one core that meet at an address take effect in program order. A command that an unfinished one of the tensor mover
stands before waits in its engine's queue, and all start in program order from there (notes/assumptions/19.md). -/

/-- The engines that keep a queue in the core's context. -/
inductive Engine where
  | arr0 | arr1 | vec | row | tm
deriving DecidableEq, Repr

def arrEngine (a : Nat) : Engine := if a == 0 then .arr0 else .arr1

def Ctx.queue (x : Ctx) (k : Engine) : List Queued :=
  match k with
  | .arr0 => x.arr0.queue
  | .arr1 => x.arr1.queue
  | .vec => x.vecQueue
  | .row => x.sfQueue
  | .tm => x.tmQueue

def Ctx.setQueue (x : Ctx) (k : Engine) (q : List Queued) : Ctx :=
  match k with
  | .arr0 => { x with arr0 := { x.arr0 with queue := q } }
  | .arr1 => { x with arr1 := { x.arr1 with queue := q } }
  | .vec => { x with vecQueue := q }
  | .row => { x with sfQueue := q }
  | .tm => { x with tmQueue := q }

/-- The tensor-mover command has work left or requests without an answer. -/
def tmUnfinished (t : TmCmd) : Bool := !t.todo.isEmpty || decide (0 < t.waiting)

/-- The mover's queue of 32 is full: of the commands that have begun and not ended, and of those that wait. -/
def moverFull (x : CoreSt) : Bool := decide (32 ≤ x.tm.length + x.ctx.tmQueue.length)

/-- The engine's queue is full (R195). -/
def queueFull (x : CoreSt) (k : Engine) : Bool :=
  match k with
  | .arr0 => decide (8 ≤ x.ctx.arr0.queue.length)
  | .arr1 => decide (8 ≤ x.ctx.arr1.queue.length)
  | .vec => decide (16 ≤ x.ctx.vecQueue.length)
  | .row => decide (16 ≤ x.ctx.sfQueue.length)
  | .tm => moverFull x

/-- An earlier command of the core stands before a new one. Commands behind a TILE that waits for its array's shadow concern that
array alone. -/
def coreBusy (x : CoreSt) : Bool :=
  x.tm.any tmUnfinished || !x.ctx.vecQueue.isEmpty || !x.ctx.sfQueue.isEmpty || !x.ctx.tmQueue.isEmpty

/-- A command joins its engine's queue, or the core stalls. `entry`: the list entry it has come to. -/
def joinQueue (d : Dev) (c : Cmd) (k : Engine) (entry : Nat) : Issued :=
  if queueFull (d.core c.core) k then queueStall d c.core
  else .next { d.modCtx c.core (fun x => x.setQueue k (x.queue k ++ [{ stamp := d.tmNext, pc := c.pc, b := c.b, entry := entry }])) with tmNext := d.tmNext + 1 }

/-- A command of an engine: it runs, or it waits behind an earlier one. -/
def inQueue (k : Engine) (f : Dev → Cmd → Acc Issued) (d : Dev) (c : Cmd) : Acc Issued :=
  if coreBusy (d.core c.core) || queueFull (d.core c.core) k then .ok (joinQueue d c k 0) else f d c

/-- A command of the control core that reads what engines write waits for them (R161, R203). -/
def behind (wait : Bool) (d : Dev) (f : Acc Issued) : Acc Issued := if wait then .ok (.stall d) else f

/-- An array command waits in one of the core's queues. -/
def arraysBusy (x : CoreSt) : Bool := !x.ctx.arr0.queue.isEmpty || !x.ctx.arr1.queue.isEmpty

/-- A deposit into the pip is on its way, or a command that may make one still waits (R202, R203). -/
def pipWaits (x : Ctx) (pip : Nat) : Bool :=
  x.deposits.any (fun e => e.pip == pip) || !x.vecQueue.isEmpty || !x.sfQueue.isEmpty

/-- FLT_ILLEGAL_OP unless the condition holds. -/
def legal (c : Bool) : Acc Unit := if c then .ok () else .error fltIllegal

/-- Field of the command. -/
def Cmd.u (c : Cmd) (off n : Nat) : Nat := fieldLe c.b off n
/-- Signed field. -/
def Cmd.i (c : Cmd) (off n : Nat) : Int := signedOf' (8 * n) (fieldLe c.b off n)
where
  signedOf' (b v : Nat) : Int := if v < 2 ^ (b - 1) then (v : Int) else (v : Int) - (2 ^ b : Nat)

/-- `n` reserved bytes from `off` are 0 (R194). -/
def Cmd.zero (c : Cmd) (off n : Nat) : Bool := ((c.b.drop off).take n).all (· == 0)

/-! ## The core's partitions (R24, R198, R205) -/

/-- Cell of a range of a partition of a core's own SRAM: 0 scratchpad, 1 accumulator, 2 page cache, 3 exchange. -/
def partCell (d : Dev) (core logical part off n : Nat) : Acc Nat :=
  let p := partition (d.coreRec logical) part
  if off + n ≤ p.2 then .ok (sramCell core (p.1 + off)) else .error fltIllegal

/-- Bytes of a range of a partition; a poisoned unit is FLT_POISON (R304, R305). -/
def partRead (d : Dev) (core logical part off n : Nat) : Acc (List Byte) := do
  let c ← partCell d core logical part off n
  if poisonedAt d.poison c n then .error (fltPoison 0) else .ok (memRead d.mem c n)

/-- Writes bytes to a range of a partition. -/
def partWrite (d : Dev) (core logical part off : Nat) (bs : List Byte) : Acc Dev := do
  let c ← partCell d core logical part off bs.length
  .ok (d.cellPut c bs)

/-! ## Scalar registers and pips (R196, R200 to R203) -/

def Ctx.sreg (x : Ctx) (i : Nat) : Dword := if i = 0 then 0 else tabGet 0 x.sregs i
def Ctx.setSreg (x : Ctx) (i : Nat) (v : Dword) : Ctx := if i = 0 then x else { x with sregs := tabSet 0 x.sregs i v }

/-- A deposit joins the ones on their way (R202). -/
def deposit (d : Dev) (core pip : Nat) (v : Pip) : Dev :=
  d.modCtx core (fun c => { c with deposits := c.deposits ++ [{ pip := pip, val := v }] })

/-- Value and TYPE replaced, flags joined (R200). An EMPTY deposit carries flags alone. -/
def landPip (old v : Pip) : Pip :=
  { value := if v.type == .empty then old.value else v.value
    type := if v.type == .empty then old.type else v.type
    nanSeen := old.nanSeen || v.nanSeen
    infSeen := old.infSeen || v.infSeen
    allMasked := old.allMasked || v.allMasked
    infRow := old.infRow || v.infRow }

/-- The oldest deposit into the pip lands, unless its Spout command still runs (R202). -/
def landDeposit (d : Dev) (core pip : Nat) : Dev :=
  let x := (d.core core).ctx
  match x.deposits.find? (fun e => e.pip == pip) with
  | none => d
  | some e => if e.due.isSome then d else d.modCtx core (fun c => { c with
      deposits := c.deposits.erase e
      pips := tabSet {} c.pips pip (landPip (tabGet {} c.pips pip) e.val) })

/-! ## Semaphores (R211 to R213) -/

/-- A shared semaphore of a basin. -/
def Dev.sem (d : Dev) (b i : Nat) : SharedSem := tabGet {} d.sems (16 * b + i)
def Dev.setSem (d : Dev) (b i : Nat) (x : SharedSem) : Dev := { d with sems := tabSet {} d.sems (16 * b + i) x }

/-- Value of a semaphore: shared for owner 0xFF, else a private one; a core that runs no job has none and reads 0. -/
def semValue (d : Dev) (b owner i : Nat) : Word :=
  if owner == 0xFF then (d.sem b i).value else
    let x := d.core (d.phys owner)
    if x.slot.isSome then tabGet 0 x.ctx.psem i else 0

/-- The comparison of R212. -/
def semReached (v target : Word) : Bool := decide (0 ≤ sdiff v target)

/-- A waiting command ends: its pending additions are used up and the next command follows. -/
def leaveWait (c : Ctx) : Ctx := { c with wait := .none, pc := c.pc + 1, addf := [] }

/-- Cores of a basin whose SEM.WAIT is satisfied go on (R212, R218). -/
def wakeWaits (d : Dev) (b : Nat) : Dev :=
  (d.basinCores b).foldl (fun d l =>
    let p := d.phys l
    let x := d.core p
    match x.ctx.wait with
    | .sem o i t =>
      if x.active && semReached (semValue d b o i) t then
        d.modCtx p leaveWait
      else d
    | _ => d) d

/-- The cores of a basin that wait to own shared semaphore `i`. -/
def acquirers (d : Dev) (b i : Nat) : List Nat :=
  (d.basinCores b).filter (fun l =>
    let x := d.core (d.phys l)
    x.active && x.ctx.wait == .acquire i)

/-- A semaphore without an owner goes to a waiting core; which of several is free (notes/assumptions/1.md). -/
def grantSem (d : Dev) (b i : Nat) : Dev :=
  let ls := acquirers d b i
  let s := d.sem b i
  if !(s.owner == 0xFF) || ls.isEmpty then d else
    let l := (ls[Config.freeNat d.free % ls.length]?).getD 0
    let d := (d.setSem b i { s with owner := l }).modCtx (d.phys l) leaveWait
    if ls.length == 1 then d else { d with free := d.free + 1 }

/-- Every wait of a basin looks again. -/
def wakeBasin (d : Dev) (b : Nat) : Dev := wakeWaits ((List.range 16).foldl (fun d i => grantSem d b i) d) b

/-- Adds to a semaphore and wakes its waiters. -/
def semAddTo (d : Dev) (b owner i : Nat) (v : Word) : Dev :=
  let d :=
    if owner == 0xFF then
      let s := d.sem b i
      d.setSem b i { s with value := s.value + v }
    else
      let p := d.phys owner
      if (d.core p).slot.isSome then d.modCtx p (fun c => { c with psem := tabSet 0 c.psem i (tabGet 0 c.psem i + v) }) else d
  wakeWaits d b

/-- The signal of an engine command of a slot: a private semaphore is the job's own, in its saved context while the job is not on its
cores (R107, R211). -/
def semSignal (d : Dev) (slot owner i : Nat) (v : Word) : Dev :=
  if owner == 0xFF || (d.core (d.phys owner)).slot == some slot then semAddTo d (basinOf slot) owner i v
  else match tabGet none d.saved (256 * slot + owner) with
    | some x => { d with saved := tabSet none d.saved (256 * slot + owner) (some { x with psem := tabSet 0 x.psem i (tabGet 0 x.psem i + v) }) }
    | none => d

/-- The semaphore an index and a CORE field name: (owner, index); the cores of another basin are FLT_BASIN_ACCESS. -/
def semTarget (d : Dev) (slot own core index : Nat) : Acc Nat :=
  let b := basinOf slot
  if 63 < index then .error fltIllegal
  else if index < 16 then
    if (d.basinRec b).sharedSem ≤ index then .error fltIllegal else .ok 0xFF
  else
    let l := if core == 0xFFFF then own else core
    if (d.coreRec l).basin == b then .ok l else .error { reason := 0xA1 }

/-- The signal of an engine command (R215): SEM_CORE 0xFF names the core itself. -/
def engineSemTarget (d : Dev) (slot own core index : Nat) : Acc Nat :=
  semTarget d slot own (if core == 0xFF then 0xFFFF else core) index

end Sys2Proof.Machine
end

