-- ==== Sys2Proof/Machine/Float.lean ====
section
/-! DEFINITION. Element formats, exact values and rounding (spec/05_number_formats.md R118 to R135): every format is decoded
to an exact dyadic value, results are formed exactly and rounded once. -/

namespace Sys2Proof.Machine

/-- A value: not a number, an infinity, or (-1)^neg · m · 2^e; a zero keeps its sign. -/
inductive FVal where
  | nan
  | inf (neg : Bool)
  | fin (neg : Bool) (m : Nat) (e : Int)
deriving DecidableEq, Repr

/-- Rounding modes of R131: 0 RNE, 1 RTZ, 2 SR with its 16-bit number. -/
inductive RMode where
  | rne
  | rtz
  | sr (u : Nat)
deriving DecidableEq, Repr

/-- +0. -/
def FVal.zero : FVal := .fin false 0 0

/-- A floating-point layout (R119): exponent bits, mantissa bits, bias, and whether the top exponent holds infinities and
NaNs (2), one NaN only (1) or values (0). -/
structure FFmt where
  eb   : Nat
  mb   : Nat
  bias : Nat
  top  : Nat

/-- The layout of a format code (R118); none for the integer formats and reserved codes. -/
def fmtOf (code : Nat) : Option FFmt :=
  match code with
  | 0 => some ⟨8, 7, 127, 2⟩
  | 1 => some ⟨5, 10, 15, 2⟩
  | 2 => some ⟨4, 3, 7, 1⟩
  | 3 => some ⟨5, 2, 15, 2⟩
  | 4 => some ⟨3, 2, 3, 0⟩
  | 5 => some ⟨2, 3, 1, 0⟩
  | 6 => some ⟨2, 1, 1, 0⟩
  | 8 => some ⟨8, 23, 127, 2⟩
  | 10 => some ⟨11, 52, 1023, 2⟩
  | _ => none

/-- An MX format. -/
def isMx (code : Nat) : Bool := decide (2 ≤ code) && decide (code ≤ 6)
/-- A floating-point format of the vector engine: BF16, FP16, FP32, FP64. -/
def isFp (code : Nat) : Bool := code == 0 || code == 1 || code == 8 || code == 10
/-- INT8 or INT32. -/
def isIntFmt (code : Nat) : Bool := code == 7 || code == 9

/-- Bits of an element (R118). -/
def elemBits (code : Nat) : Nat :=
  match code with
  | 0 => 16 | 1 => 16 | 2 => 8 | 3 => 8 | 4 => 6 | 5 => 6 | 6 => 4 | 7 => 8 | 8 => 32 | 9 => 32 | _ => 64

/-- Element `i` of packed bytes (R120). -/
def elemAt (code : Nat) (bs : List Byte) (i : Nat) : Nat :=
  match elemBits code with
  | 4 => natBits (fieldLe bs (i / 2) 1) (4 * (i % 2) + 3) (4 * (i % 2))
  | 6 => natBits (fieldLe bs (3 * (i / 4)) 3) (6 * (i % 4) + 5) (6 * (i % 4))
  | b => fieldLe bs (i * (b / 8)) (b / 8)

/-- Packs element codes into bytes (R120). -/
def packElems (code : Nat) (l : List Nat) : List Byte :=
  let b := elemBits code
  let v := (l.zipIdx.map (fun e => e.1 * 2 ^ (b * e.2))).foldl (· + ·) 0
  if b < 8 then leBytes ((l.length * b + 7) / 8) v else l.flatMap (fun x => leBytes (b / 8) x)

/-! ## Decoding and rounding -/

/-- The value of a floating-point encoding (R119). -/
def decodeF (f : FFmt) (bits : Nat) : FVal :=
  let neg := bits.testBit (f.eb + f.mb)
  let ex := bits / 2 ^ f.mb % 2 ^ f.eb
  let mant := bits % 2 ^ f.mb
  if f.top == 2 && ex == 2 ^ f.eb - 1 then (if mant == 0 then .inf neg else .nan)
  else if f.top == 1 && ex == 2 ^ f.eb - 1 && mant == 2 ^ f.mb - 1 then .nan
  else if ex == 0 then .fin neg mant (1 - (f.bias : Int) - f.mb)
  else .fin neg (mant + 2 ^ f.mb) ((ex : Int) - f.bias - f.mb)

/-- A two's-complement number of `b` bits. -/
def signedOf (b v : Nat) : Int := if v < 2 ^ (b - 1) then (v : Int) else (v : Int) - (2 ^ b : Nat)

/-- The value of an element code. -/
def decodeElem (code bits : Nat) : FVal :=
  match fmtOf code with
  | some f => decodeF f bits
  | none => let v := signedOf (elemBits code) bits
    .fin (decide (v < 0)) v.natAbs 0

/-- m · 2^e in units of 2^q, rounded by a mode on the magnitude (R131, R134). -/
def roundMag (mode : RMode) (m : Nat) (e q : Int) : Nat :=
  if q ≤ e then m * 2 ^ (e - q).toNat else
    let s := (q - e).toNat
    let t := m / 2 ^ s
    let r := m % 2 ^ s
    match mode with
    | .rne => if 2 * r > 2 ^ s || (2 * r == 2 ^ s && t % 2 == 1) then t + 1 else t
    | .rtz => t
    | .sr u => if 65536 ≤ (if s ≤ 16 then r * 2 ^ (16 - s) else r / 2 ^ (s - 16)) + u then t + 1 else t

/-- Floor of log2 of m · 2^e, m not 0. -/
def ilog (m : Nat) (e : Int) : Int := (Nat.log2 m : Int) + e

/-- The exponent and mantissa fields of a rounded magnitude, without a limit on the exponent. -/
def roundField (f : FFmt) (mode : RMode) (m : Nat) (e : Int) : Nat :=
  if m = 0 then 0 else
    let emin : Int := 1 - (f.bias : Int)
    let q := max (ilog m e) emin - f.mb
    let t := roundMag mode m e q
    if t < 2 ^ f.mb then t else ((q + f.mb + f.bias).toNat - 1) * 2 ^ f.mb + t

/-- The first field past the largest finite value. -/
def fieldEnd (f : FFmt) : Nat :=
  match f.top with
  | 2 => (2 ^ f.eb - 1) * 2 ^ f.mb
  | 1 => 2 ^ (f.eb + f.mb) - 1
  | _ => 2 ^ (f.eb + f.mb)

/-- The canonical NaN (R121). -/
def canonNan (code : Nat) : Nat :=
  match code with
  | 0 => 0x7FC0 | 1 => 0x7E00 | 8 => 0x7FC00000 | 10 => 0x7FF8000000000000 | _ => 0x7F

/-- A value in BF16, FP16, FP32 or FP64 (R132). -/
def encodeF (code : Nat) (f : FFmt) (mode : RMode) (v : FVal) : Nat :=
  let sign (n : Bool) : Nat := if n then 2 ^ (f.eb + f.mb) else 0
  match v with
  | .nan => canonNan code
  | .inf n => sign n + fieldEnd f
  | .fin n m e =>
    let x := roundField f mode m e
    if fieldEnd f ≤ x then (match mode with | .rtz => sign n + fieldEnd f - 1 | _ => sign n + fieldEnd f) else sign n + x

/-- A value rounded to an integer and held to the range of `b` bits; NaN gives 0 (R135). -/
def encodeInt (b : Nat) (mode : RMode) (v : FVal) : Nat :=
  let lim : Int := 2 ^ (b - 1)
  let i : Int := match v with
    | .nan => 0
    | .inf n => if n then -lim else lim - 1
    | .fin n m e => let t : Int := roundMag mode m e 0
      clampInt (-lim) (lim - 1) (if n then -t else t)
  (i % (2 ^ b : Int)).toNat

/-- A value in a format that is not MX. -/
def encodeElem (code : Nat) (mode : RMode) (v : FVal) : Nat :=
  match fmtOf code with
  | some f => encodeF code f mode v
  | none => encodeInt (elemBits code) mode v

/-- A value rounded once to a floating-point format. -/
def roundTo (code : Nat) (mode : RMode) (v : FVal) : FVal :=
  match fmtOf code with
  | some f => decodeF f (encodeF code f mode v)
  | none => v

def fp32 (v : FVal) : FVal := roundTo 8 .rne v
def fp64 (v : FVal) : FVal := roundTo 10 .rne v

/-! ## Exact arithmetic -/

/-- The signed mantissa. -/
def sgn (n : Bool) (m : Nat) : Int := if n then -(m : Int) else m

/-- A value from a signed mantissa; an exact zero is +0. -/
def ofSigned (i : Int) (e : Int) : FVal := .fin (decide (i < 0)) i.natAbs e

def FVal.isNan : FVal → Bool
  | .nan => true
  | _ => false
def FVal.isInf : FVal → Bool
  | .inf _ => true
  | _ => false
def FVal.isZero : FVal → Bool
  | .fin _ 0 _ => true
  | _ => false
def FVal.neg : FVal → FVal
  | .nan => .nan
  | .inf n => .inf (!n)
  | .fin n m e => .fin (!n) m e
def FVal.abs : FVal → FVal
  | .nan => .nan
  | .inf _ => .inf false
  | .fin _ m e => .fin false m e
def FVal.isNeg : FVal → Bool
  | .nan => false
  | .inf n => n
  | .fin n _ _ => n

/-- Exact sum: a zero sum is +0 unless both terms are -0. -/
def FVal.add : FVal → FVal → FVal
  | .nan, _ => .nan
  | _, .nan => .nan
  | .inf a, .inf b => if a == b then .inf a else .nan
  | .inf a, _ => .inf a
  | _, .inf b => .inf b
  | .fin a m e, .fin b n f =>
    if m == 0 && n == 0 then .fin (a && b) 0 0
    else if m == 0 then .fin b n f
    else if n == 0 then .fin a m e
    else
      let g := min e f
      ofSigned (sgn a (m * 2 ^ (e - g).toNat) + sgn b (n * 2 ^ (f - g).toNat)) g

def FVal.sub (a b : FVal) : FVal := a.add b.neg

/-- Exact product. -/
def FVal.mul : FVal → FVal → FVal
  | .nan, _ => .nan
  | _, .nan => .nan
  | .inf a, .inf b => .inf (xor a b)
  | .inf a, .fin b m _ => if m == 0 then .nan else .inf (xor a b)
  | .fin a m _, .inf b => if m == 0 then .nan else .inf (xor a b)
  | .fin a m e, .fin b n f => .fin (xor a b) (m * n) (e + f)

/-- Multiplication by 2^k. -/
def FVal.scale (v : FVal) (k : Int) : FVal :=
  match v with
  | .fin n m e => .fin n m (e + k)
  | w => w

/-- Quotient of finite magnitudes to 80 bits beyond the divisor's, with a sticky last bit: enough to round once. -/
def divMag (m n : Nat) : Nat × Int :=
  let k := 80 + Nat.log2 n + 1
  let q := m * 2 ^ k / n
  (2 * q + (if m * 2 ^ k % n == 0 then 0 else 1), -(k : Int) - 1)

/-- Quotient: 0/0 and infinity/infinity are NaN, a number over 0 is an infinity. -/
def FVal.div : FVal → FVal → FVal
  | .nan, _ => .nan
  | _, .nan => .nan
  | .inf _, .inf _ => .nan
  | .inf a, .fin b _ _ => .inf (xor a b)
  | .fin a _ _, .inf b => .fin (xor a b) 0 0
  | .fin a m e, .fin b n f =>
    if n == 0 then (if m == 0 then .nan else .inf (xor a b))
    else let q := divMag m n
      .fin (xor a b) q.1 (q.2 + e - f)

/-- Square root, with a sticky last bit. -/
def FVal.sqrt : FVal → FVal
  | .nan => .nan
  | .inf n => if n then .nan else .inf false
  | .fin n m e =>
    if m == 0 then .fin n 0 0
    else if n then .nan
    else
      let e2 := if e % 2 == 0 then e else e - 1
      let m2 := if e % 2 == 0 then m else 2 * m
      let x := m2 * 2 ^ 160
      let s := Nat.sqrt x
      .fin false (2 * s + (if s * s == x then 0 else 1)) (e2 / 2 - 81)

/-- Comparison of two numbers, -0 equal to +0; none when one is NaN. -/
def FVal.cmp : FVal → FVal → Option Ordering
  | .nan, _ => none
  | _, .nan => none
  | .inf a, .inf b => some (compare (if a then 0 else 1 : Nat) (if b then 0 else 1 : Nat))
  | .inf a, _ => some (if a then .lt else .gt)
  | _, .inf b => some (if b then .gt else .lt)
  | .fin a m e, .fin b n f =>
    let g := min e f
    some (compare (sgn a (m * 2 ^ (e - g).toNat)) (sgn b (n * 2 ^ (f - g).toNat)))

def FVal.lt (a b : FVal) : Bool := a.cmp b == some .lt

/-- MIN and MAX (R207): NaN wins, -0 below +0. -/
def FVal.max (a b : FVal) : FVal :=
  match a.cmp b with
  | none => .nan
  | some .lt => b
  | some .gt => a
  | some .eq => if a.isNeg then b else a
def FVal.min (a b : FVal) : FVal :=
  match a.cmp b with
  | none => .nan
  | some .lt => a
  | some .gt => b
  | some .eq => if a.isNeg then a else b

/-- A natural number. -/
def FVal.ofNat (n : Nat) : FVal := .fin false n 0
/-- An integer. -/
def FVal.ofInt (i : Int) : FVal := ofSigned i 0

/-! ## Block scales and accumulation (R122, R125 to R129) -/

/-- The exponent of an E8M0 scale byte; 0xFF is NaN. -/
def scaleExp (b : Nat) : Int := (b : Int) - 127

/-- One operand of a group: element values and whether the block's scale is NaN; values already carry their scale. -/
def scaled (v : FVal) (scale : Nat) : FVal := if scale == 0xFF then .nan else v.scale (scaleExp scale)

/-- A term truncated toward zero to a multiple of 2^q, in units of 2^q (R125). -/
def truncTo (q : Int) : FVal → Int
  | .fin n m e => sgn n (if q ≤ e then m * 2 ^ (e - q).toNat else m / 2 ^ (q - e).toNat)
  | _ => 0

/-- The largest exponent of a nonzero term; none when all are zero. -/
def maxExp : List FVal → Option Int
  | [] => none
  | .fin _ m e :: ts => if m == 0 then maxExp ts else
      match maxExp ts with
      | none => some (ilog m e)
      | some x => some (max x (ilog m e))
  | _ :: ts => maxExp ts

/-- R125 to R128: one group's terms, the accumulator first, give the new FP32 accumulator. -/
def groupSum (terms : List FVal) : FVal :=
  if terms.any FVal.isNan then .nan
  else if terms.any (fun t => t == .inf true) && terms.any (fun t => t == .inf false) then .nan
  else match terms.find? FVal.isInf with
    | some t => t
    | none =>
      match maxExp terms with
      | none => FVal.zero
      | some x =>
        let q := x - 50
        fp32 (ofSigned ((terms.map (truncTo q)).foldl (· + ·) 0) q)

/-- An FP32 dot product by groups of 32 (R125, R126). -/
def dotGroups (fuel : Nat) (acc : FVal) (a b : List FVal) (sub : Bool) : FVal :=
  match fuel with
  | 0 => acc
  | n + 1 =>
    if a.isEmpty || b.isEmpty then acc else
      let ps := List.zipWith (fun x y => let p := x.mul y; if sub then p.neg else p) (a.take 32) (b.take 32)
      dotGroups n (groupSum (acc :: ps)) (a.drop 32) (b.drop 32) sub

/-- The sums an FP32 dot product comes to, group by group. -/
def dotSteps (fuel : Nat) (acc : FVal) (a b : List FVal) (sub : Bool) : List FVal :=
  match fuel with
  | 0 => []
  | n + 1 =>
    if a.isEmpty || b.isEmpty then [] else
      let s := dotGroups 1 acc a b sub
      s :: dotSteps n s (a.drop 32) (b.drop 32) sub

/-- An INT32 dot product, modulo 2^32 (R129). -/
def dotInt (acc : Int) (a b : List Int) (sub : Bool) : Int :=
  let s := (List.zipWith (· * ·) a b).foldl (· + ·) 0
  acc + (if sub then -s else s)

/-! ## Conversion into MX blocks (R133) -/

/-- Exponent of the largest finite element. -/
def mxEmax (code : Nat) : Int :=
  match code with
  | 2 => 8 | 3 => 15 | 4 => 4 | _ => 2

/-- An element of a block: the value over 2^xs, rounded and held to the largest finite value. -/
def mxElem (f : FFmt) (xs : Int) (mode : RMode) (v : FVal) : Nat :=
  match v with
  | .fin n m e => min (roundField f mode m (e - xs)) (fieldEnd f - 1) + (if n then 2 ^ (f.eb + f.mb) else 0)
  | _ => 0

/-- One block: its scale byte and element codes; `modes` gives each element's mode. -/
def mxBlock (code : Nat) (vs : List FVal) (modes : List RMode) : Nat × List Nat :=
  match fmtOf code with
  | none => (0xFF, vs.map (fun _ => 0))
  | some f =>
    if vs.any (fun v => v.isNan || v.isInf) then (0xFF, vs.map (fun _ => 0))
    else
      let amax : Option Int := maxExp vs
      let xs : Int := clampInt (-127) 127 (match amax with | none => -127 | some x => x - mxEmax code)
      ((xs + 127).toNat, List.zipWith (fun v mo => mxElem f xs mo v) vs modes)

/-! ## Stochastic rounding (R134) -/

/-- One step of a lane's generator. -/
def xorshift (s : Word) : Word :=
  let a := s ^^^ (s <<< 13)
  let b := a ^^^ (a >>> 17)
  b ^^^ (b <<< 5)

/-- The next number of lane `i`, and the generators after it. -/
def srNext (lanes : Tab Word) (i : Nat) : Nat × Tab Word :=
  let s := xorshift (tabGet 0 lanes (i % 256))
  ((s >>> 16).toNat, tabSet 0 lanes (i % 256) s)

end Sys2Proof.Machine
end

