-- ==== Sys2Proof/WellFormed.lean ====
section
/-! DEFINITION. Which operands name units the GL9 has (spec/01_anatomy.md R11, R12), and the well-formed commands. -/

namespace Sys2Proof

/-- Physical or logical cores 0 to 143. -/
def isCore (c : Nat) : Bool := decide (c < 144)
/-- Job slots 0 to 63. -/
def isSlot (j : Nat) : Bool := decide (j < 64)
/-- Basins, Koliz ports, codec cores, Cascade groups and pips 0 to 15. -/
def is16 (n : Nat) : Bool := decide (n < 16)
/-- Clusters and HBM stacks 0 to 11. -/
def is12 (n : Nat) : Bool := decide (n < 12)
/-- Pseudo-channels 0 to 63. -/
def isPc (n : Nat) : Bool := decide (n < 64)
/-- Codec streams and mailbox channels 0 to 31. -/
def is32 (n : Nat) : Bool := decide (n < 32)
/-- Host connections 0 to 7 and rings 0 to 7. -/
def is8 (n : Nat) : Bool := decide (n < 8)
/-- Ethernet ports 0 and 1. -/
def is2 (n : Nat) : Bool := decide (n < 2)
/-- Plaldaul sequence numbers, 24 bits. -/
def isSeq (n : Nat) : Bool := decide (n < 0x1000000)

namespace Accessor

/-- HOST0 to HOST7, remote devices 0 to 4,095 and the three others. -/
def wf (a : Accessor) : Bool :=
  match a with
  | .host h => is8 h
  | .remote d => decide (d < 4096)
  | .mgt => true
  | .svp => true
  | .sec => true

end Accessor

/-- Every unit a command names exists. -/
def Instr.wf (i : Instr) : Bool :=
  match i with
  | .registerWrite a _ _ => Accessor.wf a
  | .pairLoRead a _ => Accessor.wf a
  | .pairLoWrite a _ _ => Accessor.wf a
  | .pairHiWrite a _ _ => Accessor.wf a
  | .rcRead a _ => Accessor.wf a
  | .strLoad => true
  | .strVerifyDone => true
  | .strCheckDone => true
  | .strApplyDone => true
  | .strRebind _ _ => true
  | .rebindComplete logical => isCore logical
  | .coreHwFault core _ _ => isCore core
  | .trnFlush slot => isSlot slot
  | .trnFlushDone slot => isSlot slot
  | .commitStageDone slot => isSlot slot
  | .commitFlip slot => isSlot slot
  | .commitFoldDone slot => isSlot slot
  | .kfenceTimeout group => is16 group
  | .selfAbortTimeout slot => isSlot slot
  | .timeFramePulse => true
  | .timeFrameMissing => true
  | .timeClkLoss => true
  | .timeReqSend _ => true
  | .timeReqReceive port _ _ _ => is16 port
  | .timeRespReceive port _ _ => is16 port
  | .fabricTimeTimeout => true
  | .deferredStep => true
  | .clpArm => true
  | .jobEnable slot => isSlot slot
  | .jobCheckDone slot => isSlot slot
  | .jobDisable slot => isSlot slot
  | .jobAbandon slot => isSlot slot
  | .jobAbandonDone slot => isSlot slot
  | .jobResume slot => isSlot slot
  | .jobPreemptReq slot => isSlot slot
  | .jobDoorbell slot _ => isSlot slot
  | .cardTake slot => isSlot slot
  | .notBeforeReached slot => isSlot slot
  | .sliceEnd basin => is16 basin
  | .preemptGraceDone basin => is16 basin
  | .graceOverrun basin => is16 basin
  | .preemptDrainDone basin => is16 basin
  | .saveDone basin => is16 basin
  | .restoreDone basin => is16 basin
  | .arrTile core => isCore core
  | .arrRun core => isCore core
  | .arrList core => isCore core
  | .nop core => isCore core
  | .seti core => isCore core
  | .alu core => isCore core
  | .load core => isCore core
  | .store core => isCore core
  | .pipread core => isCore core
  | .pipclr core => isCore core
  | .addf core => isCore core
  | .br core => isCore core
  | .brp core => isCore core
  | .loop core => isCore core
  | .seed core => isCore core
  | .time core => isCore core
  | .pipDeposit core pip => isCore core && is16 pip
  | .fenceC core => isCore core
  | .fenceB core => isCore core
  | .fenceD core => isCore core
  | .fenceComplete core => isCore core
  | .semSignal core => isCore core
  | .semWait core => isCore core
  | .semAcquire core => isCore core
  | .semRelease core => isCore core
  | .coreSemAdd core n _ => isCore core && (fun n => decide (n < 64)) n
  | .trnEnd core => isCore core
  | .trnShare core => isCore core
  | .trnRelease core => isCore core
  | .tmCopy core => isCore core
  | .tmGather core => isCore core
  | .tmDone core => isCore core
  | .vecArith core => isCore core
  | .vecCvt core => isCore core
  | .vecCmp core => isCore core
  | .vecReduce core => isCore core
  | .vecGather core => isCore core
  | .vecScatter core => isCore core
  | .vecFill core => isCore core
  | .sfBuiltin core => isCore core
  | .sfTable core => isCore core
  | .rowStats core => isCore core
  | .rowMerge core => isCore core
  | .rowSoftmax core => isCore core
  | .attRun core => isCore core
  | .attFinal core => isCore core
  | .attExport core => isCore core
  | .attMerge core => isCore core
  | .kvAppend core => isCore core
  | .spoutRun core => isCore core
  | .spoutRowBoundary cluster => is12 cluster
  | .spoutDone cluster => is12 cluster
  | .cscRun core => isCore core
  | .cscPass core => isCore core
  | .cscDone group ring => is16 group && decide (ring ≤ 8)
  | .codEnc core => isCore core
  | .codDec core => isCore core
  | .deviceStopComplete => true
  | .clearStop => true
  | .clearPeak => true
  | .cntClear => true
  | .weirClearMax => true
  | .hbmScrub stack pc slot _ => is12 stack && isPc pc && (fun n => decide (n < 294912)) slot
  | .hbmRemapDone stack pc => is12 stack && isPc pc
  | .hbmRetrainStart stack pc _ => is12 stack && isPc pc
  | .hbmRetrainDone stack => is12 stack
  | .hbmTrainGroupStart group => (fun g => decide (g < 3)) group
  | .hbmTrainDone stack _ => is12 stack
  | .weirSample _ => true
  | .thermalStopComplete => true
  | .devTelemetrySample _ _ _ _ => true
  | .flitReceive port _ => is16 port
  | .laneSignalLoss port => is16 port
  | .replayTimeout port => is16 port
  | .klzRetrain port => is16 port
  | .klzDisable port _ => is16 port
  | .klzTrainGroupStart group => (fun g => decide (g < 4)) group
  | .portSignalSeen port => is16 port
  | .portDetectTimeout port => is16 port
  | .portBackoffExpire port => is16 port
  | .portTrainDone port _ _ => is16 port
  | .identReceive port _ => is16 port
  | .klzRead port _ => is16 port
  | .klzWrite port _ => is16 port
  | .klzViewRead port _ => is16 port
  | .klzViewWrite port _ => is16 port
  | .klzForward port _ => is16 port
  | .klzResponse _ => true
  | .klzRequestLost _ => true
  | .cscDataReceive port _ => is16 port
  | .cscReadyReceive port _ => is16 port
  | .fenceArriveReceive port _ => is16 port
  | .fenceDecideReceive port _ => is16 port
  | .fenceAbortReceive port _ => is16 port
  | .fenceReplayReceive port _ => is16 port
  | .fenceStopReceive port _ => is16 port
  | .fenceAbsentReceive port _ => is16 port
  | .klzEchoGo => true
  | .echoReceive port _ => is16 port
  | .echoRespReceive _ _ => true
  | .echoTimeout => true
  | .codStreamOpen stream => is32 stream
  | .codStreamCheckDone stream => is32 stream
  | .codStreamClose stream => is32 stream
  | .codKeyReq stream => is32 stream
  | .codPictureStart codec => is16 codec
  | .codBatchSuspend codec => is16 codec
  | .codPictureDone codec => is16 codec
  | .codCoreError codec => is16 codec
  | .ethFrameReceive port _ => is2 port
  | .arpRequest port _ => is2 port
  | .neighborSolicitation port _ => is2 port
  | .ethLinkUp port => is2 port
  | .ethLinkDown port => is2 port
  | .pldRegRd h seq => is8 h && isSeq seq
  | .pldRegWr h seq => is8 h && isSeq seq
  | .pldMemRd h seq => is8 h && isSeq seq
  | .pldMemWr h seq => is8 h && isSeq seq
  | .pldPoll h seq => is8 h && isSeq seq
  | .pldHostfence h seq => is8 h && isSeq seq
  | .hostfenceComplete h => is8 h
  | .pldDoorbell h seq => is8 h && isSeq seq
  | .pldMbxWr h seq => is8 h && isSeq seq
  | .pldMbxRd h seq => is8 h && isSeq seq
  | .pldOpen h seq => is8 h && isSeq seq
  | .sessionDrainDone h => is8 h
  | .boardRecordLoad => true
  | .mbxMsgWrite a chan i _ => Accessor.wf a && is32 chan && is16 i
  | .mbxGo a chan => Accessor.wf a && is32 chan
  | .mbxRelease a chan => Accessor.wf a && is32 chan
  | .i3cPrivateWrite _ => true
  | .i3cPrivateRead _ => true
  | .i3cEntdaa _ => true
  | .i3cSetdasa _ => true
  | .i3cRstdaa => true
  | .smbusTimeout => true
  | .secBootComplete => true
  | .spdmFragment chan => is32 chan
  | .getVersion chan => is32 chan
  | .getCapabilities chan => is32 chan
  | .negotiateAlgorithms chan => is32 chan
  | .getDigests chan => is32 chan
  | .getCertificate chan => is32 chan
  | .challenge chan => is32 chan
  | .getMeasurements chan => is32 chan
  | .spdmUnsupportedRequest chan => is32 chan
  | .enrollOwner chan => is32 chan
  | .loadMacsec chan => is32 chan
  | .debugUnlock chan => is32 chan
  | .commitFw chan => is32 chan
  | .fwFragment chan => is32 chan
  | .jtagInstruction _ => true
  | .vinApply _ => true
  | .powerGood => true
  | .vinExcursion _ => true
  | .vinUndervoltage _ => true
  | .vinOvervoltage _ => true
  | .resetAssert => true
  | .resetRelease _ _ => true
  | .deviceReady => true
  | .uncorrectableCodeWords port => is16 port
  | .timeClkPresent => true
  | .refclkAbsent _ _ => true
  | .hbmRemapStart stack pc => is12 stack && isPc pc

end Sys2Proof
end

