-- ==== Sys2Proof/Machine/Arrays.lean ====
section
/-! DEFINITION. The matrix arrays: feeder patterns, tiles, runs and pointer lists (spec/06_matrix_arrays.md R148 to R163,
spec/07_loop_nests.md R179 to R182). -/

namespace Sys2Proof.Machine

/-! ## Formats and geometry (R124, R148, R153) -/

/-- An array operand format (R118). -/
def isOperand (f : Nat) : Bool := decide (f ≤ 7)

/-- K per square-form line of an operand pair; none for a pair the arrays refuse (R124, R148). -/
def pairK (a b : Nat) : Option Nat :=
  if a == b && (a == 0 || a == 1) then some 64
  else if a == 7 && b == 7 then some 128
  else if a == 6 && b == 6 then some 256
  else if isMx a && isMx b then some 128
  else none

/-- The largest K per line any pair gives a format. -/
def maxK (f : Nat) : Nat := if f == 6 then 256 else if f == 0 || f == 1 then 64 else 128

/-- The granule of an operand in bytes (R153). -/
def granule (f : Nat) : Nat :=
  match f with
  | 2 => 32 | 3 => 32 | 4 => 24 | 5 => 24 | _ => 16

/-- Array `a` of a logical core is in wide form (R25). -/
def arrWide (d : Dev) (l a : Nat) : Bool := (if a == 0 then (d.coreRec l).form0 else (d.coreRec l).form1) == 1

/-! ## Feeders (R149 to R153) -/

/-- A feeder pattern (R151). -/
structure Pattern where
  base    : Nat
  piece   : Nat
  scales  : Bool
  shift   : Nat → Nat
  count   : Nat → Nat
  step    : Nat → Int
  origin  : Nat → Int
  extent  : Nat → Nat
  pitch   : Nat → Int
  sbase   : Nat
  spitch  : Nat → Int
  bad     : Bool

/-- A pattern from its 64 bytes. -/
def parsePattern (b : List Byte) : Pattern :=
  let fl := fieldLe b 6 1
  { base := fieldLe b 0 4, piece := fieldLe b 4 2, scales := natBit fl 0
    shift := fun d => if d == 1 then natBits fl 3 1 else if d == 2 then natBits fl 6 4 else 0
    count := fun d => fieldLe b (0x08 + 12 * d) 2
    step := fun d => signedOf 16 (fieldLe b (0x0A + 12 * d) 2)
    origin := fun d => signedOf 16 (fieldLe b (0x0C + 12 * d) 2)
    extent := fun d => fieldLe b (0x0E + 12 * d) 2
    pitch := fun d => signedOf 32 (fieldLe b (0x10 + 12 * d) 4)
    sbase := fieldLe b 0x2C 4
    spitch := fun d => signedOf 32 (fieldLe b (0x30 + 4 * d) 4)
    bad := natBit fl 7 || !(fieldLe b 7 1 == 0) || !(fieldLe b 0x3C 4 == 0) }

/-- Pattern `i` of a core's table (R150); one past the table is FLT_ILLEGAL_OP. -/
def corePattern (d : Dev) (core slot l i : Nat) : Acc Pattern :=
  let n := match (d.job slot).image with
    | some p => ((p.cores.find? (fun e => e.1 == l)).map (·.2.patCount)).getD 0
    | none => 0
  if i < n then .ok (parsePattern (memRead d.mem (cmdCell core (0x40000 + 64 * i)) 64)) else .error fltIllegal

/-- What of R153 does not depend on addresses. -/
def patternOk (p : Pattern) (fmt lineBytes maxLines lines : Nat) : Bool :=
  !p.bad && !(p.piece == 0) && p.piece % granule fmt == 0 && decide (p.count 0 * p.piece ≤ lineBytes)
    && !(p.count 0 == 0) && !(p.count 1 == 0) && !(p.count 2 == 0) && (p.scales == isMx fmt)
    && (maxLines == 0 || decide (lines ≤ maxLines))

/-- Coordinate `i` of dimension `d`. -/
def patCoord (p : Pattern) (d : Nat) (i : Nat) : Int := p.origin d + ((i : Int) * p.step d) / (2 ^ p.shift d : Int)

/-- One piece: its bytes and its scale bytes (R152). -/
def feedPiece (d : Dev) (core l fmt : Nat) (p : Pattern) (adj sadj : Int) (i0 i1 i2 : Nat) : Acc (List Byte × List Byte) := do
  let c0 := patCoord p 0 i0
  let c1 := patCoord p 1 i1
  let c2 := patCoord p 2 i2
  let nsc := if p.scales then p.piece / granule fmt else 0
  let inside (c : Int) (x : Nat) : Bool := decide (0 ≤ c) && decide (c < x)
  if inside c0 (p.extent 0) && inside c1 (p.extent 1) && inside c2 (p.extent 2) then
    let a := (p.base : Int) + adj + c0 * p.pitch 0 + c1 * p.pitch 1 + c2 * p.pitch 2
    if a < 0 || !(a % 8 == 0) then .error fltIllegal else
      let bs ← partRead d core l 0 a.toNat p.piece
      if p.scales then
        let s := (p.sbase : Int) + sadj + c0 * p.spitch 0 + c1 * p.spitch 1 + c2 * p.spitch 2
        if s < 0 then .error fltIllegal else
          let ss ← partRead d core l 0 s.toNat nsc
          .ok (bs, ss)
      else .ok (bs, [])
  else .ok (List.replicate p.piece 0, List.replicate nsc 0x7F)

/-- One line: its pieces end to end. -/
def feedLine (d : Dev) (core l fmt : Nat) (p : Pattern) (adj sadj : Int) (i1 i2 : Nat) : Acc (List Byte × List Byte) :=
  (List.range (p.count 0)).foldlM (fun acc i0 => do
    let r ← feedPiece d core l fmt p adj sadj i0 i1 i2
    .ok (acc.1 ++ r.1, acc.2 ++ r.2)) ([], [])

/-- `n1` × `n2` lines, dimension 1 counting fastest. -/
def feed (d : Dev) (core l fmt : Nat) (p : Pattern) (adj sadj : Int) (n1 n2 : Nat) : Acc (List (List Byte × List Byte)) :=
  (List.range (n1 * n2)).mapM (fun j => feedLine d core l fmt p adj sadj (j % n1) (j / n1))

/-- A line's `k` element values, padded with zeros and scale 0x7F, scales applied (R122, R152). -/
def lineValues (fmt k : Nat) (line : List Byte × List Byte) : List FVal :=
  (List.range k).map (fun i =>
    let v := decodeElem fmt (elemAt fmt line.1 i)
    if isMx fmt then scaled v (((line.2[i / 32]?).getD 0x7F).toNat) else v)

/-- A line's `k` INT8 values. -/
def lineInts (k : Nat) (line : List Byte × List Byte) : List Int :=
  (List.range k).map (fun i => signedOf 8 (fieldLe line.1 i 1))

/-! ## Tiles and runs (R154 to R158) -/

def getArr (x : Ctx) (a : Nat) : Arr := if a == 0 then x.arr0 else x.arr1
def setArr (d : Dev) (core a : Nat) (r : Arr) : Dev :=
  d.modCtx core (fun c => if a == 0 then { c with arr0 := r } else { c with arr1 := r })

/-- Loads a tile by a pattern. The lines are kept as read: which K they meet is known at the RUN (R148). -/
def loadTile (d : Dev) (core slot l a fmt pat : Nat) (adj sadj : Int) : Acc Tile := do
  let p ← corePattern d core slot l pat
  let wide := arrWide d l a
  let lines := p.count 1 * p.count 2
  legal (patternOk p fmt (maxK fmt * (if wide then 4 else 1) * elemBits fmt / 8) (if wide then 16 else 64) lines)
  let ls ← feed d core l fmt p adj sadj (p.count 1) (p.count 2)
  .ok { fmt := fmt, lines := ls.map (·.1), scales := ls.map (·.2), pat := pat, adj := adj, sadj := sadj }

/-- One accumulator element at a partition offset (R158). -/
def accRead (d : Dev) (core l off : Nat) : Acc Nat := do
  let b ← partRead d core l 1 off 4
  .ok (leNat b)

/-- One output element: the sum of a tile line and a streamed line joined to the old one, 0 when `fresh` (R125, R129, R156, R157). -/
def accValue (ints sub fresh : Bool) (old : Nat) (tf ti : List FVal × List Int) : Nat :=
  if ints then
    let s := dotInt (signedOf 32 old) tf.2 ti.2 sub
    (s % (2 ^ 32 : Int)).toNat
  else encodeElem 8 .rne (dotGroups 64 (if fresh then FVal.zero else decodeElem 8 old) tf.1 ti.1 sub)

/-- One output element in the accumulator. -/
def accUpdate (d : Dev) (core l off : Nat) (ints sub fresh : Bool) (tf ti : List FVal × List Int) : Acc Dev := do
  let old ← if fresh then .ok 0 else accRead d core l off
  partWrite d core l 1 off (leBytes 4 (accValue ints sub fresh old tf ti))

/-- Offset of the element of tile line `i` and streamed line `j` (R157). -/
def accOffset (wide : Bool) (base stride i j : Nat) : Nat :=
  if wide then base + i * stride + 4 * j else base + j * stride + 4 * i

/-- The element values of a line, for one of the two accumulations. -/
def lineBoth (fmt k : Nat) (ints : Bool) (line : List Byte × List Byte) : List FVal × List Int :=
  if ints then ([], lineInts k line) else (lineValues fmt k line, [])

/-- The rules of R158 on where a RUN writes. -/
def accPlaceOk (d : Dev) (l : Nat) (wide : Bool) (base stride n : Nat) : Bool :=
  let size := (partition (d.coreRec l) 1).2
  if wide then base % 64 == 0 && stride % 64 == 0 && decide (4 * n ≤ stride) && decide (base + 15 * stride + 4 * n ≤ size)
  else base % 256 == 0 && stride % 256 == 0 && decide (256 ≤ stride) && decide (base + (n - 1) * stride + 256 ≤ size)

/-- One RUN over the active tile (R156 to R158). `n1` × `n2` lines are streamed. -/
def runArray (d : Dev) (core slot l a fmt pat : Nat) (adj sadj : Int) (lines : Option Nat) (swap : Bool) (mode base stride : Nat) :
    Acc Dev := do
  let p ← corePattern d core slot l pat
  let wide := arrWide d l a
  let arr := getArr (d.core core).ctx a
  let n1 := lines.getD (p.count 1)
  let n2 := if lines.isSome then 1 else p.count 2
  match (if swap then arr.shadow else arr.active) with
  | none => .error fltIllegal
  | some t =>
    match pairK t.fmt fmt with
    | none => .error fltIllegal
    | some kt =>
      let k := if wide then 4 * kt else kt
      legal (patternOk p fmt (k * elemBits fmt / 8) 0 0)
      legal (t.lines.all (fun b => decide (b.length ≤ k * elemBits t.fmt / 8)))
      legal (accPlaceOk d l wide base stride (n1 * n2))
      let stream ← feed d core l fmt p adj sadj n1 n2
      let ints := fmt == 7
      let tv := (t.lines.zip t.scales).map (lineBoth t.fmt k ints)
      let d := if swap then setArr d core a { arr with active := some t, shadow := none } else d
      let d := d.count 1 (n1 * n2)
      (stream.zipIdx).foldlM (fun d s => do
        let sv := lineBoth fmt k ints s.1
        (tv.zipIdx).foldlM (fun d e =>
          accUpdate d core l (accOffset wide base stride e.2 s.2)
            ints (mode == 1) (mode == 2) e.1 sv) d) d

/-- The reserved fields of ARR.TILE and ARR.RUN (R154). -/
def arrFieldsOk (c : Cmd) (run : Bool) : Bool :=
  let ctl := c.u 1 1
  let fmt := c.u 2 1
  decide (fmt ≤ 7) && natBits ctl 7 4 == 0 && c.zero 3 1 && c.zero 5 3 && c.zero 0x18 8
    && (if run then !(natBits ctl 3 2 == 3) else natBits ctl 3 1 == 0 && c.zero 0x10 8)

/-- The array a command names, and its engine. -/
def Cmd.arr (c : Cmd) : Nat := c.u 1 1 % 2
def Cmd.arrEngine (c : Cmd) : Engine := Sys2Proof.Machine.arrEngine c.arr

/-- A TILE into an empty shadow (R154, R155). -/
def tileNow (d : Dev) (c : Cmd) : Acc Dev := do
  legal (arrFieldsOk c false)
  let arr := getArr (d.core c.core).ctx c.arr
  let t ← loadTile d c.core c.slot c.logical c.arr (c.u 2 1) (c.u 4 1) (c.i 8 4) (c.i 0xC 4)
  .ok (setArr d c.core c.arr { arr with shadow := some t })

/-- A RUN (R154 to R158, R163). -/
def runNow (d : Dev) (c : Cmd) : Acc Dev := do
  legal (arrFieldsOk c true)
  let ctl := c.u 1 1
  runArray d c.core c.slot c.logical c.arr (c.u 2 1) (c.u 4 1) (c.i 8 4) (c.i 0xC 4) none (natBit ctl 1) (natBits ctl 3 2)
    (c.u 0x10 4) (c.u 0x14 4)

/-- The command waits behind an earlier one: of its own queue (R162), or of the core. -/
def arrWaits (d : Dev) (c : Cmd) : Bool :=
  let x := d.core c.core
  coreBusy x || !(x.ctx.queue c.arrEngine).isEmpty

/-- ARR.TILE: while the shadow holds a tile that no RUN has swapped in, the command waits in the queue (R155). -/
def arrTile (d : Dev) (c : Cmd) : Acc Issued :=
  if arrWaits d c || (arrFieldsOk c false && (getArr (d.core c.core).ctx c.arr).shadow.isSome) then .ok (joinQueue d c c.arrEngine 0)
  else (tileNow d c).map .next

/-- ARR.RUN. -/
def arrRun (d : Dev) (c : Cmd) : Acc Issued :=
  if arrWaits d c then .ok (joinQueue d c c.arrEngine 0) else (runNow d c).map .next

/-! ## Pointer lists (R179 to R182) -/

/-- How far a list has come: the state, and its end, its fault, or the entry whose TILE waits for the shadow. -/
inductive ListEnd where
  | done
  | fault (e : JFault)
  | waits (entry : Nat)

/-- One entry: a TILE unless REUSE, then a RUN that swaps it in. None: the TILE waits, as R155 has it (R181). -/
def listEntry (d : Dev) (c : Cmd) (i : Nat) : Acc (Option Dev) := do
  let e ← partRead d c.core c.logical 0 (c.u 8 4 + 32 * i) 32
  let fl := fieldLe e 0x16 1
  let lines := fieldLe e 0x14 2
  let a := c.arr
  let reuse := natBit fl 0
  legal (natBits fl 7 2 == 0 && (e.drop 0x17).all (· == 0) && !(lines == 0))
  let adj (o : Nat) : Int := signedOf 32 (fieldLe e o 4)
  let arr := getArr (d.core c.core).ctx a
  if !reuse && arr.shadow.isSome then .ok none else
    let d ← if reuse then .ok d else do
      let t ← loadTile d c.core c.slot c.logical a (c.u 3 1) (c.u 5 1) (adj 0) (adj 4)
      .ok (setArr d c.core a { arr with shadow := some t })
    let mode := if natBit fl 1 then 2 else natBits (c.u 1 1) 3 2
    (runArray d c.core c.slot c.logical a (c.u 2 1) (c.u 4 1) (adj 8) (adj 0xC) (some lines) (!reuse) mode
      (c.u 0x10 4 + fieldLe e 0x10 4) (c.u 0x14 4)).map some

/-- `n` entries in order from entry `i` on; at a fault the earlier entries have taken effect (R182). -/
def listEntries (d : Dev) (c : Cmd) : Nat → Nat → Dev × ListEnd
  | 0, _ => (d, .done)
  | n + 1, i =>
    match listEntry d c i with
    | .error e => (d, .fault e)
    | .ok none => (d, .waits i)
    | .ok (some d2) => listEntries d2 c n (i + 1)

/-- ARR.LIST's fields (R179): OVERWRITE belongs to the entries. -/
def listFieldsOk (c : Cmd) : Bool :=
  let ctl := c.u 1 1
  let n := c.u 6 2
  natBits ctl 7 4 == 0 && !natBit ctl 1 && decide (natBits ctl 3 2 ≤ 1) && decide (c.u 2 1 ≤ 7) && decide (c.u 3 1 ≤ 7)
    && decide (1 ≤ n) && decide (n ≤ 4096) && c.u 8 4 % 32 == 0 && c.zero 0xC 4 && c.zero 0x18 8

/-- A list from entry `i` on. -/
def listNow (d : Dev) (c : Cmd) (i : Nat) : Dev × ListEnd :=
  if listFieldsOk c then listEntries d c (c.u 6 2 - i) i else (d, .fault fltIllegal)

/-- ARR.LIST: its entries up to the first that faults, or that waits; a fault is charged to the job. -/
def arrListCmd (d : Dev) (c : Cmd) : Acc Issued :=
  if arrWaits d c then .ok (joinQueue d c c.arrEngine 0) else
    match listNow d c 0 with
    | (d, .done) => .ok (.next d)
    | (d, .fault e) => .ok (.stall (jobFault d c.slot c.core 1 c.logical c.pc e))
    | (d, .waits i) => .ok (joinQueue d c c.arrEngine i)

def execArrTile (core : Nat) (s : State) : Out := onDev (isCore core) (fun _ d => issue core 1 (fun o => o == 0x40) arrTile d) s

def execArrRun (core : Nat) (s : State) : Out := onDev (isCore core) (fun _ d => issue core 1 (fun o => o == 0x41) arrRun d) s

def execArrList (core : Nat) (s : State) : Out := onDev (isCore core) (fun _ d => issue core 1 (fun o => o == 0x42) arrListCmd d) s

/-! ## Restores (R105, R163) -/

/-- Reloads one tile from its pattern after a restore. -/
def reloadTile (d : Dev) (core slot l a : Nat) (t : Tile) : Acc Tile :=
  loadTile d core slot l a t.fmt t.pat t.adj t.sadj

/-- Reloads an array's active tile and repeats an unswapped shadow load. -/
def reloadArr (d : Dev) (core slot l a : Nat) : Acc Dev := do
  let arr := getArr (d.core core).ctx a
  let act ← match arr.active with
    | some t => (reloadTile d core slot l a t).map some
    | none => .ok none
  let sh ← match arr.shadow with
    | some t => (reloadTile d core slot l a t).map some
    | none => .ok none
  .ok (setArr d core a { arr with active := act, shadow := sh })

/-- Both arrays of every core of a job; a fault is the restoring job's, of its arrays. -/
def reloadArrays (d : Dev) (slot : Nat) : Dev :=
  (jobCores d slot).foldl (fun d l =>
    let p := d.phys l
    match (reloadArr d p slot l 0).bind (fun d => reloadArr d p slot l 1) with
    | .ok d2 => d2
    | .error e => jobFault d slot p 1 l (d.core p).ctx.pc e) d

end Sys2Proof.Machine
end

