-- ==== Sys2Proof/Machine/Sched.lean ====
section
/-! DEFINITION. Basins and their holders: readiness, slices, pre-emption, saves and restores, cards and admission
(spec/04_clepsydra_and_scheduling.md R96 to R115). -/

namespace Sys2Proof.Machine

/-! ## Cards (R96 to R99) -/

/-- A card read from its 64 bytes (R96). -/
def parseCard (b : List Byte) : Card :=
  { turn := BitVec.ofNat 64 (fieldLe b 0 8), notBefore := BitVec.ofNat 64 (fieldLe b 8 8), deadline := BitVec.ofNat 64 (fieldLe b 16 8),
    seqList := BitVec.ofNat 64 (fieldLe b 0x18 8), params := BitVec.ofNat 64 (fieldLe b 0x20 8),
    seqCount := BitVec.ofNat 32 (fieldLe b 0x28 4), paramBytes := BitVec.ofNat 32 (fieldLe b 0x2C 4),
    kind := BitVec.ofNat 8 (fieldLe b 0x30 1), flags := BitVec.ofNat 8 (fieldLe b 0x31 1),
    reserved := !(fieldLe b 0x31 1 / 2 == 0) || !(fieldLe b 0x32 2 == 0) || !(fieldLe b 0x38 8 == 0),
    user := BitVec.ofNat 32 (fieldLe b 0x34 4) }

/-- HBM offset of card `i` (R96). -/
def cardOffset (j : Job) (i : Word) : Nat := j.cardRing.toNat + 64 * (i.toNat % 2 ^ j.cardLog2.toNat)

/-- R98: a card is outstanding, no turn is open, the completion ring has room, nothing holds the cards. -/
def mayTake (j : Job) : Bool :=
  !(j.doorbell == j.cardsTaken) && j.turn.isNone && j.waiting.isNone
    && decide ((j.cplWritten - j.cplConsumed).toNat < 2 ^ j.cplLog2.toNat) && !j.cardsHeld && !j.parked

/-- The card R98 would take next. -/
def nextCard (d : Dev) (slot : Nat) : Card := parseCard (d.hbmRead (cardOffset (d.job slot) (d.job slot).cardsTaken) 64)

/-- R102: the job is ready. -/
def ready (d : Dev) (slot : Nat) : Bool :=
  let j := d.job slot
  let st := match j.state with | .admitted => true | .running => true | .saved => true | _ => false
  let passed (c : Card) : Bool := decide (c.notBefore ≤ d.clp.now)
  let work := match j.turn, j.waiting with
    | some _, _ => true
    | none, some c => passed c
    | none, none => mayTake j && passed (nextCard d slot)
  st && !j.parked && work

/-! ## Choosing the holder (R103) -/

/-- The DEADLINE that orders LIVE jobs: of the open turn or the next card; 0 counts as latest. -/
def deadlineKey (d : Dev) (slot : Nat) : Nat :=
  let j := d.job slot
  let c := match j.turn, j.waiting with
    | some t, _ => t.card
    | none, some c => c
    | none, none => nextCard d slot
  if c.deadline == 0 then 2 ^ 64 else c.deadline.toNat

/-- The next holder of a basin: ready LIVE jobs by deadline, then ready BATCH jobs round robin after the last holder. -/
def nextHolder (d : Dev) (b : Nat) : Option Nat :=
  let slots := [4 * b, 4 * b + 1, 4 * b + 2, 4 * b + 3]
  if slots.any (fun s => (d.job s).state == .waitBind) then none else
    match minBy (deadlineKey d) (slots.filter (fun s => ready d s && (d.job s).live)) with
    | some s => some s
    | none =>
      let last := (d.basin b).lastHolder
      (([1, 2, 3, 4].map (fun i => 4 * b + (last + i) % 4))).find? (fun s => ready d s && !(d.job s).live)

/-- Some other job of the basin than `slot` is ready. -/
def otherReady (d : Dev) (b slot : Nat) : Bool :=
  [4 * b, 4 * b + 1, 4 * b + 2, 4 * b + 3].any (fun s => !(s == slot) && ready d s)

/-- DEV_STATE while jobs run (R476): RUNNING when some job is RUNNING, else STRUCTURED. -/
def noteRunning (d : Dev) : Dev :=
  let some_ := (List.range 64).any (fun s => (d.job s).state == .running)
  match d.sys.state with
  | .structured => if some_ then { d with sys := { d.sys with state := .running } } else d
  | .running => if some_ then d else { d with sys := { d.sys with state := .structured } }
  | _ => d

/-- Some logical core of the basin is bound to a fenced core, or to none. -/
def unbound (d : Dev) (b : Nat) : Bool :=
  (d.basinCores b).any (fun l => decide (144 ≤ d.phys l) || d.fenced (d.phys l))

/-- A rebind of a core of the basin is under way (R32). -/
def rebinding (d : Dev) (b : Nat) : Bool := (d.basinCores b).any (fun l => (tabGet none d.str.rebinds l).isSome)

/-- The restore of the job that takes a basin starts: step 5 of R104. -/
def enterBasin (d : Dev) (b s : Nat) : Dev :=
  let d := d.modBasin b (fun x => { x with entering := some s, restoring := true, stepStart := d.clp.elapsed, lastHolder := s % 4 })
  (jobCores d s).foldl (fun d l => d.modCore (d.phys l) (fun c => { c with restoring := true })) d

/-- A basin with no holder starts giving itself to the next holder, or has it in WAIT_BIND when a core of the basin is fenced and
unbound (R192); while a core is being rebound it waits. -/
def giveBasin (d : Dev) (b : Nat) : Dev :=
  let x := d.basin b
  if x.holder.isSome || x.leaving.isSome || x.entering.isSome || d.flt.stopActive || rebinding d b then d else
    match nextHolder d b with
    | none => d
    | some s => if unbound d b then d.modJob s (fun j => { j with state := .waitBind }) else enterBasin d b s

/-- Logical core `l` owns a shared semaphore of the basin. -/
def ownsSharedCore (d : Dev) (b l : Nat) : Bool :=
  (List.range 16).any (fun i => (tabGet {} d.sems (16 * b + i)).owner == l)

/-- Step 1 of R104: the holder is PREEMPTING and its cores stop at their next boundary; a core that owns a shared semaphore
issues on until it releases it (R104 step 2, R107). -/
def preempt (d : Dev) (b : Nat) : Dev :=
  let x := d.basin b
  match x.holder with
  | none => d
  | some s =>
    let d := d.setBasin b { x with holder := none, leaving := some s, grace := true, stepStart := d.clp.elapsed, overran := false, preempts := sat16 x.preempts }
    let flipped := (d.tslot s).phase == .folding
    let d := d.modJob s (fun j => { j with state := .preempting, turn := j.turn.map (fun t => { t with preempted := t.preempted || !flipped }) })
    let d := stopCores d s
    let d := (jobCores d s).foldl (fun d l => if ownsSharedCore d b l then d.modCore (d.phys l) (fun c => { c with active := true }) else d) d
    noteRunning d

/-- The holder changes that R103 asks for at any moment: a LIVE job ready while a BATCH job holds the basin, or a holder
with nothing to do while another job is ready; an empty basin goes to the next holder. -/
def reschedule (d : Dev) (b : Nat) : Dev :=
  if d.flt.stopActive then d else
  match (d.basin b).holder with
  | none => giveBasin d b
  | some s =>
    let live := [4 * b, 4 * b + 1, 4 * b + 2, 4 * b + 3].any (fun t => !(t == s) && (d.job t).live && ready d t)
    if !(d.job s).live && live then preempt d b
    else if (d.job s).turn.isNone && !ready d s && otherReady d b s then preempt d b
    else d

/-! ## Admission (R99 steps 1 to 7) -/

/-- The turn kind a card names (R172). -/
def turnKind (d : Dev) (slot : Nat) (c : Card) : Option TurnKind :=
  match (d.job slot).image with
  | some p => p.turns.find? (fun k => k.kind == c.kind.toNat)
  | none => none

/-- A refused card: a REFUSED record, REASON and CARDS_HELD; the detail is the index of the card (R99, R116). -/
def refuseCard (d : Dev) (slot : Nat) (c : Card) (reason : Byte) (detail : Word) : Dev :=
  let d := writeRecord d slot c.turn 0 0 c.user .refused reason 0 0
  d.modJob slot (fun j => { j with reason := reason, detail := detail, cardsHeld := true, waiting := none })

/-- The highest Weir level of any stack now. -/
def weirNow (d : Dev) : Nat := d.hbm.foldl (fun m e => max m e.2.level) 0

/-- Takes `n` frames from a basin's free stack as the turn's reservation (R66). -/
def reserve (d : Dev) (slot n : Nat) : Dev :=
  let b := basinOf slot
  let st := d.freeStack b
  let got := st.take n
  let d := d.setFreeStack b (st.drop n)
  let d := got.foldl (fun d f => d.modFrame f (fun x => { x with state := .reserved })) d
  d.modTslot slot (fun t => { t with stock := t.stock ++ got, reserved := t.reserved + n })

/-- Steps 5 to 7 of R99, then the turn is open: PHASE RUNNING and every core at its first command (R69 step 2, R114). -/
def admitCard (d : Dev) (slot : Nat) (c : Card) : Dev :=
  let idx := (d.job slot).cardsTaken - 1
  match turnKind d slot c with
  | none => refuseCard d slot c 0x52 idx
  | some k =>
    if c.flags.toNat % 2 == 1 && !d.clp.locked then refuseCard d slot c 0x42 idx else
    let d := emptyHeld d slot
    if decide ((d.freeStack (basinOf slot)).length < k.moves) || decide (16384 < k.moves) then refuseCard d slot c 0x41 idx else
    let d0 := reserve d slot k.moves
    match kvAdmit d0 slot c with
    | .error (.refuse code detail) => refuseCard d slot c code (BitVec.ofNat 32 detail)
    | .error (.fault f) => jobFault (d.modJob slot (fun j => { j with waiting := some c })) slot 0xFF 0 0xFF 0 f
    | .ok (d, seqs, frames) =>
      let d := reserve d slot frames
      let deferred := seqs.any (fun e => !e.admitted)
      let far := d.far (basinOf slot)
      let wcet := if far then k.wcetFar else k.wcetNear
      let pred := !(c.deadline == 0) && decide (c.deadline.toNat < d.clp.now.toNat + wcet)
      let t : Turn := { card := c, admitClp := d.clp.now, admitElapsed := d.clp.elapsed, wcet := wcet, far := far, predictedLate := pred, seqDeferred := deferred, weirMax := weirNow d, seqs := seqs }
      let d := d.modJob slot (fun j => { j with turn := some t, waiting := none, lastWcet := BitVec.ofNat 32 wcet, started := true })
      let d := d.modTslot slot (fun ts => { ts with phase := .running, domain := k.domain, replaying := false, moves := [], shadows := [], decided := none, aborting := none })
      startCores (writeAdmission d slot) slot c

/-- Steps 1 to 3 of R99 on a card, then its wait or its admission. -/
def checkCard (d : Dev) (slot : Nat) (c : Card) : Dev :=
  let idx := (d.job slot).cardsTaken - 1
  if c.reserved || (turnKind d slot c).isNone then refuseCard d slot c 0x52 idx
  else if c.turn = 0xFFFFFFFFFFFFFFFF then refuseCard d slot c 0x44 idx
  else if !(c.turn == (d.tslot slot).lastCommitted + 1) then refuseCard d slot c 0x51 idx
  else if d.clp.now < c.notBefore then d.modJob slot (fun j => { j with waiting := some c })
  else admitCard d slot c

/-- The slot holds its basin, its job runs, and no core of the basin is being rebound. -/
def holds (d : Dev) (slot : Nat) : Bool :=
  (d.basin (basinOf slot)).holder == some slot && (d.job slot).state == .running && !d.flt.stopActive && !rebinding d (basinOf slot)

/-- CARD_TAKE (R98, R99): poison in the card read is FLT_POISON for the job (R317). -/
def cardTake (d : Dev) (slot : Nat) : Dev :=
  let j := d.job slot
  if !(holds d slot && mayTake j) then d else
    if d.hbmPoisoned (cardOffset j j.cardsTaken) 64 then
      jobFault d slot 0xFF 0 0xFF 0 (fltHbmPoison d (cardOffset j j.cardsTaken) 64 0)
    else
      let c := nextCard d slot
      let d := meetHbm d (cardOffset j j.cardsTaken) 64
      let d := d.modJob slot (fun j => { j with cardsTaken := j.cardsTaken + 1 })
      reschedule (checkCard d slot c) (basinOf slot)

/-- CARD_TAKE. -/
def execCardTake (slot : Nat) (s : State) : Out := onDev (isSlot slot) (fun _ d => cardTake d slot) s

/-- A waiting card whose NOT_BEFORE has passed is admitted once the job holds the basin (R99 step 5 on). -/
def resumeCard (d : Dev) (slot : Nat) : Dev :=
  match (d.job slot).waiting with
  | none => d
  | some c =>
    if d.clp.now < c.notBefore || !holds d slot || (d.job slot).cardsHeld || (d.job slot).parked then d
    else admitCard d slot c

/-- NOT_BEFORE_REACHED (R99, R102, R103). -/
def execNotBeforeReached (slot : Nat) (s : State) : Out :=
  onDev (isSlot slot) (fun _ d => reschedule (resumeCard d slot) (basinOf slot)) s

/-! ## Slices and pre-emption (R103 to R110) -/

/-- SLICE_END (R103): the slice has run SLICE units; it ends when another job is ready, and starts anew otherwise. -/
def sliceEnd (d : Dev) (b : Nat) : Dev :=
  let x := d.basin b
  match x.holder with
  | none => giveBasin d b
  | some s =>
    if d.flt.stopActive || decide (d.clp.elapsed - x.sliceStart < (d.basinRec b).slice) then d
    else if otherReady d b s then
      if (d.job s).live && !([4 * b, 4 * b + 1, 4 * b + 2, 4 * b + 3].any (fun t => !(t == s) && ready d t)) then d
      else preempt d b
    else d.setBasin b { x with sliceStart := d.clp.elapsed }

def execSliceEnd (basin : Nat) (s : State) : Out := onDev (is16 basin) (fun _ d => sliceEnd d basin) s

/-- A shared semaphore of the basin is owned by a logical core of the slot's job. -/
def ownsShared (d : Dev) (slot : Nat) : Bool :=
  (List.range 16).any (fun i => (heldCores d slot).contains (tabGet {} d.sems (16 * basinOf slot + i)).owner)

/-- The mover runs a BULK command (spec/08_vector_engine.md R216). -/
def bulkRuns (x : CoreSt) : Bool := x.tm.any (fun t => t.bulk && tmUnfinished t)

/-- Every non-pre-emptible command of the job has finished and it holds no shared semaphore (R104 step 2). -/
def graceOver (d : Dev) (slot : Nat) : Bool :=
  cascadeDrained d slot && !ownsShared d slot && !((heldCores d slot).any (fun l => bulkRuns (d.core (d.phys l))))

/-- PREEMPT_GRACE_DONE (R104 step 2). -/
def graceDone (d : Dev) (b : Nat) : Dev :=
  let x := d.basin b
  match x.leaving with
  | none => d
  | some s =>
    if !x.grace || x.saving || !graceOver d s then d
    else stopCores (d.setBasin b { x with lastGrace := BitVec.ofNat 32 (d.clp.elapsed - x.stepStart), overran := true }) s

def execPreemptGraceDone (basin : Nat) (s : State) : Out := onDev (is16 basin) (fun _ d => graceDone d basin) s

/-- GRACE_OVERRUN (R109): step 2 runs past GRACE; once for a pre-emption. -/
def execGraceOverrun (basin : Nat) (s : State) : Out :=
  onDev (is16 basin) (fun _ d =>
    let x := d.basin basin
    if x.leaving.isSome && x.grace && !x.saving && !x.overran && decide ((d.basinRec basin).grace < d.clp.elapsed - x.stepStart) then
      let d := d.setBasin basin { x with overran := true, lastGrace := BitVec.ofNat 32 (d.clp.elapsed - x.stepStart) }
      { d with sch := { d.sch with graceOverrun := true, graceOverruns := sat16 d.sch.graceOverruns } }
    else d) s

/-- No request of the job's tensor movers is outstanding (R104 step 3); a command stopped at a 4 KiB boundary keeps its pieces. -/
def tmDrained (d : Dev) (slot : Nat) : Bool :=
  (heldCores d slot).all (fun l => (d.core (d.phys l)).tm.all (fun t => t.waiting == 0))

/-- What a FENCE.C covers has completed (spec/03_turns_and_fences.md R62): the mover's transfers, and every queue is empty. -/
def coreDrained (d : Dev) (core : Nat) : Bool :=
  let x := d.core core
  x.tm.isEmpty && !coreBusy x && x.ctx.arr0.queue.isEmpty && x.ctx.arr1.queue.isEmpty

/-- PREEMPT_DRAIN_DONE (R104 step 3): the save starts. -/
def drainDone (d : Dev) (b : Nat) : Dev :=
  let x := d.basin b
  match x.leaving with
  | none => d
  | some s =>
    if !x.grace || x.saving || !graceOver d s || !tmDrained d s || !cascadeDrained d s then d
    else
      let d := (spoutPark d s).setBasin b { x with grace := false, saving := true, stepStart := d.clp.elapsed }
      (jobCores d s).foldl (fun d l => d.modCore (d.phys l) (fun c => { c with saving := true })) d

def execPreemptDrainDone (basin : Nat) (s : State) : Out := onDev (is16 basin) (fun _ d => drainDone d basin) s

/-- The saved ranges of a logical core: (offset in the save block, local SRAM offset, bytes) (R105, R171). -/
def saveRanges (d : Dev) (l : Nat) (p : ProgCore) : List (Nat × Nat × Nat) :=
  let c := d.coreRec l
  let a := p.scrUnits * 4096
  let b := p.accUnits * 4096
  [(0x10000, (partition c 0).1 + p.scrStart * 4096, a),
   (0x10000 + a, (partition c 1).1 + p.accStart * 4096, b),
   (0x10000 + a + b, (partition c 3).1 + p.exchStart * 4096, p.exchUnits * 4096)].filter (fun r => !(r.2.2 == 0))

/-- Moves one 4 KiB piece between local SRAM and a save block; poison travels with it (R106). -/
def movePiece (d : Dev) (slot va core off : Nat) (save : Bool) : Acc Dev := do
  if save then
    let (d, pl) ← writePlace d slot va 4096 false
    match pl with
    | .cells c => .ok (copyCells d (sramCell core off) c 4096)
    | _ => .error (fltTranslation va)
  else
    match ← readPlace d slot va 4096 with
    | .cells c => .ok (copyCells d c (sramCell core off) 4096)
    | _ => .error (fltTranslation va)

/-- One 4 KiB piece of the 64 KiB context of a save block. Its layout is the part's own: a save leaves free bytes there, and a
restore takes the context State keeps (notes/assumptions/9.md); poison in it is FLT_POISON at the restore (R106). -/
def contextPiece (d : Dev) (slot va : Nat) (save : Bool) : Acc Dev := do
  if save then
    let (d, pl) ← writePlace d slot va 4096 false
    match pl with
    | .cells c => .ok (if stackDead d c then d else d.cellFree c 4096)
    | _ => .error (fltTranslation va)
  else
    match ← readPlace d slot va 4096 with
    | .cells c => if readsPoison d c 4096 then .error { fltPoison va with cells := some (c, 4096) } else .ok (meetCells d c 4096)
    | _ => .error (fltTranslation va)

/-- Saves or restores the context and the ranges of one logical core. -/
def moveCore (d : Dev) (slot l : Nat) (p : ProgCore) (save : Bool) : Acc Dev := do
  let d ← (List.range 16).foldlM (fun d i => contextPiece d slot (p.saveVa + 4096 * i) save) d
  (saveRanges d l p).foldlM (fun d r =>
    (pieces r.1 r.2.2).foldlM (fun d q => movePiece d slot (p.saveVa + q.1) (d.phys l) (r.2.1 + (q.1 - r.1)) save) d) d

/-- The cores of a job's program, with their records. -/
def progCores (d : Dev) (slot : Nat) : List (Nat × ProgCore) :=
  match (d.job slot).image with
  | some p => p.cores
  | none => []

/-- Moves every core of a job; a fault is charged to the job with ENGINE 4 and the index its core stopped at (R106). -/
def moveJob (d : Dev) (slot : Nat) (save : Bool) : Except (Dev × Nat × JFault) Dev :=
  (progCores d slot).foldlM (fun d e =>
    match moveCore d slot e.1 e.2 save with
    | .ok d2 => .ok d2
    | .error f => .error (d, e.1, f)) d

/-- Writes the contexts of a job's cores, with what their movers have left, into the save area kept in State
(R105; notes/assumptions/9.md). -/
def saveCtx (d : Dev) (slot : Nat) : Dev :=
  (jobCores d slot).foldl (fun d l =>
    let x := d.core (d.phys l)
    { d with saved := tabSet none d.saved (256 * slot + l) (some { x.ctx with tm := x.tm }) }) d

def dropSaves (d : Dev) (slot : Nat) : Dev :=
  { d with saved := tabDrop d.saved (256 * slot) (256 * slot + 256) }

/-- SAVE_DONE (R104 step 5, R105): the job is SAVED and the next holder's restore starts. -/
def saveDone (d : Dev) (b : Nat) : Dev :=
  let x := d.basin b
  match x.leaving with
  | none => d
  | some s =>
    if !x.saving then d else
      match moveJob d s true with
      | .error (_, l, f) => jobFault d s (d.phys l) 4 l (d.core (d.phys l)).ctx.pc f
      | .ok d =>
        let d := clearCores (saveCtx d s) s
        let d := d.setBasin b { x with leaving := none, saving := false, grace := false, lastSave := BitVec.ofNat 32 (d.clp.elapsed - x.stepStart) }
        let d := d.modJob s (fun j => { j with state := .saved, parked := j.parked || j.preemptReq, preemptReq := false })
        noteRunning (giveBasin d b)

def execSaveDone (basin : Nat) (s : State) : Out := onDev (is16 basin) (fun _ d => saveDone d basin) s

/-- Loads the command memory and the pattern table of a job's cores from its image (R150, R193). -/
def loadStreams (d : Dev) (slot : Nat) : Dev :=
  match (d.job slot).image with
  | none => d
  | some p => p.cores.foldl (fun d e =>
      let base := (d.job slot).prog.toNat
      let ph := d.phys e.1
      let d := d.cellZero (cmdCell ph 0) 0x100000
      let d := d.cellPut (cmdCell ph 0) (d.hbmRead (base + p.streams + e.2.stream) e.2.bytes)
      d.cellPut (cmdCell ph 0x40000) (d.hbmRead (base + p.patterns + 64 * e.2.patFirst) (64 * e.2.patCount))) d

/-- Gives the cores of a job their saved contexts. -/
def restoreCtx (d : Dev) (slot : Nat) : Dev :=
  (jobCores d slot).foldl (fun d l =>
    let ctx := (tabGet none d.saved (256 * slot + l)).getD {}
    let d := d.modCore (d.phys l) (fun x => { x with slot := some slot, ctx := { ctx with tm := [] }, tm := ctx.tm, active := true, restoring := false, pages := [] })
    spoutUnpark d (d.phys l) l) d

/-- Copies a preload into a core's scratchpad; poison travels with it (R36). -/
def copyPreload (d : Dev) (p : Preload) : Dev :=
  (pieces p.source p.length).foldl (fun d q => copyCells d (hbmCell d q.1) (sramCell (d.phys p.logical) (p.dest + (q.1 - p.source))) q.2) d

/-- The preloads of a logical core. -/
def preloadsOf (d : Dev) (l : Nat) : List Preload :=
  match d.str.inForce with
  | some s => s.preloads.filter (fun p => p.logical == l)
  | none => []

/-- Zero-fills a logical core's partitions and copies its preloads (R32, R34). -/
def fillCore (d : Dev) (l : Nat) : Dev :=
  (preloadsOf d l).foldl copyPreload (d.cellZero (sramCell (d.phys l) 0) 0x3800000)

/-- A job whose save was discarded without an open turn finds its partitions zero-filled and its preloads copied (R115). -/
def fillBlank (d : Dev) (slot : Nat) : Dev :=
  if (d.job slot).blank then ((jobCores d slot).foldl fillCore d).modJob slot (fun j => { j with blank := false }) else d

/-- RESTORE_DONE (R104 step 5, R105): the next holder is RUNNING; a discarded save replays the turn from its start (R115), and a
job that PREEMPT_REQ has parked meanwhile leaves the basin again (R110). -/
def restoreDone (d : Dev) (b : Nat) : Dev :=
  let x := d.basin b
  match x.entering with
  | none => d
  | some s =>
    let hasSave := (jobCores d s).any (fun l => (tabGet none d.saved (256 * s + l)).isSome)
    match (if hasSave then moveJob d s false else .ok d) with
    | .error (_, l, f) => jobFault d s (d.phys l) 4 l ((tabGet none d.saved (256 * s + l)).getD {}).pc f
    | .ok d =>
      let d := fillBlank (loadStreams d s) s
      let d := (jobCores d s).foldl (fun d l => d.modCore (d.phys l) (fun c => { c with slot := some s, restoring := false, pages := [] })) d
      let d := if hasSave then restoreCtx d s else d
      let d := dropSaves d s
      let d := d.setBasin b { x with holder := some s, entering := none, restoring := false, sliceStart := d.clp.elapsed, lastRestore := BitVec.ofNat 32 (d.clp.elapsed - x.stepStart) }
      let d := d.modJob s (fun j => { j with state := .running, started := true })
      let d := if (d.job s).restart then restartTurn d s else d
      let d := wakeBasin (if hasSave then reloadArrays d s else d) b
      if (d.job s).parked then preempt d b else reschedule (noteRunning (resumeCard d s)) b

/-! ## JOB_CTL and doorbells (R92 to R97, R110) -/

/-- The state is one a stop or an ABANDON acts on. -/
def isActive (s : JobState) : Bool :=
  match s with
  | .idle => false | .checking => false | .refused => false
  | _ => true

/-- JOB_ABANDON (R95): the drain starts; a LOST job abandons once DEV_STATE has left STOPPED. -/
def jobAbandon (d : Dev) (slot : Nat) : Dev :=
  let j := d.job slot
  let b := basinOf slot
  if !isActive j.state || d.flt.stopActive then d
  else if j.state == .lost && (d.sys.state == .stopped || d.sys.state == .thermal) then d
  else
    let d := d.modJob slot (fun j => { j with abandon := true })
    if (d.basin b).holder == some slot then
      (preempt d b).modBasin b (fun x => { x with preempts := (d.basin b).preempts })
    else d

def execJobAbandon (slot : Nat) (s : State) : Out := onDev (isSlot slot) (fun _ d => jobAbandon d slot) s

/-- The slot becomes IDLE: held frames back, image released, cores cleared, basin given on. -/
def slotIdle (d : Dev) (slot : Nat) : Dev :=
  let b := basinOf slot
  let d := dropSaves (clearCores (emptyHeld (dropOwners d slot) slot) slot) slot
  let d := d.modJob slot (fun j => { j with state := .idle, enable := false, abandon := false, preemptReq := false, parked := false, cardsHeld := false, image := none, guarded := none, waiting := none, turn := none, started := false, restart := false, askReplay := false, blank := false })
  let d := d.modTslot slot (fun t => { t with root := 0 })
  let x := d.basin b
  let d := d.setBasin b { x with holder := if x.holder == some slot then none else x.holder, leaving := if x.leaving == some slot then none else x.leaving, entering := if x.entering == some slot then none else x.entering, grace := x.grace && !(x.leaving == some slot), saving := x.saving && !(x.leaving == some slot), restoring := x.restoring && !(x.entering == some slot) }
  noteRunning (giveBasin d b)

/-- JOB_ABANDON_DONE (R95): the turn is rolled back with an ABORTED record of reason 0x00, and the slot is IDLE. The wait of
R104 step 2 ends at GRACE, whatever the job still holds; a turn already flipped folds first. TRN_ABORTS counts domain aborts and not
this (DEDUCED, notes/assumptions/91.md). -/
def jobAbandonDone (d : Dev) (slot : Nat) : Dev :=
  let j := d.job slot
  let busy := match (d.tslot slot).phase with | .decided => true | .folding => true | _ => false
  let x := d.basin (basinOf slot)
  let waited := decide ((d.basinRec (basinOf slot)).grace ≤ d.clp.elapsed - x.stepStart)
  let drained := tmDrained d slot && (!(x.leaving == some slot) || waited || graceOver d slot)
  if !j.abandon || busy || !drained || d.flt.stopActive then d
  else slotIdle (endTurn d slot .aborted 0) slot

def execJobAbandonDone (slot : Nat) (s : State) : Out := onDev (isSlot slot) (fun _ d => jobAbandonDone d slot) s

/-- JOB_DISABLE (R95): ENABLE = 0 is honoured in REFUSED, and in ADMITTED or SAVED with no open turn. -/
def jobDisable (d : Dev) (slot : Nat) : Dev :=
  let j := d.job slot
  match j.state with
  | .refused => d.modJob slot (fun j => { j with state := .idle, enable := false, guarded := none, image := none })
  | .admitted => if j.turn.isNone then slotIdle (endTurn d slot .aborted 0) slot else d
  | .saved => if j.turn.isNone then slotIdle (endTurn d slot .aborted 0) slot else d
  | _ => d

def execJobDisable (slot : Nat) (s : State) : Out := onDev (isSlot slot) (fun _ d => jobDisable d slot) s

/-- JOB_RESUME (R110): clears PARKED and CARDS_HELD; the job may be selected, and its waiting card admitted. -/
def jobResume (d : Dev) (slot : Nat) : Dev :=
  reschedule (resumeCard (d.modJob slot (fun j => { j with parked := false, cardsHeld := false })) slot) (basinOf slot)

def execJobResume (slot : Nat) (s : State) : Out := onDev (isSlot slot) (fun _ d => jobResume d slot) s

/-- JOB_PREEMPT_REQ (R110): pre-empts the holder; another job is marked PARKED. -/
def jobPreemptReq (d : Dev) (slot : Nat) : Dev :=
  let j := d.job slot
  match j.state with
  | .running =>
    if (d.basin (basinOf slot)).holder == some slot then preempt (d.modJob slot (fun j => { j with preemptReq := true })) (basinOf slot)
    else d.modJob slot (fun j => { j with parked := true, preemptReq := false })
  | .preempting => d.modJob slot (fun j => { j with preemptReq := true })
  | .admitted => d.modJob slot (fun j => { j with parked := true, preemptReq := false })
  | .saved => d.modJob slot (fun j => { j with parked := true, preemptReq := false })
  | .waitBind => d.modJob slot (fun j => { j with parked := true, preemptReq := false })
  | _ => d

def execJobPreemptReq (slot : Nat) (s : State) : Out := onDev (isSlot slot) (fun _ d => jobPreemptReq d slot) s

/-- A doorbell (R97): ignored, with DOORBELL_IGNORED, when it outruns the ring. -/
def jobDoorbell (d : Dev) (slot : Nat) (v : Word) : Dev :=
  let j := d.job slot
  if 2 ^ j.cardLog2.toNat < (v - j.cardsTaken).toNat then d.modJob slot (fun j => { j with doorbellIgnored := true })
  else reschedule (d.modJob slot (fun j => { j with doorbell := v })) (basinOf slot)

def execJobDoorbell (slot : Nat) (v : Word) (s : State) : Out := onDev (isSlot slot) (fun _ d => jobDoorbell d slot v) s

end Sys2Proof.Machine
end

