-- ==== Sys2Proof/Machine/Clepsydra.lean ====
section
/-! DEFINITION. The Clepsydra: its tick, lock, steps and ARM (spec/04_clepsydra_and_scheduling.md R83 to R91). -/

namespace Sys2Proof.Machine

/-- The Clepsydra runs from the effective release until reset, loss of power or a trip (R84, R474, R485). -/
def clockRuns (d : Dev) : Bool := !(d.sys.state == .reset) && !d.sys.tripped

/-- One phase unit passes: the elapsed count and the Clepsydra advance, and a slew moves the Clepsydra by one unit more or
less in every 1,000 (R83, R87, R88). CYCLES and DIE_CUT take what the unit brings (spec/17_faults_and_counters.md R468), and the
stacks and the ports what befalls them in it (notes/assumptions/24.md). -/
def tick (d : Dev) : Dev :=
  if !clockRuns d then d else
    let c := d.clp
    let turn := c.elapsed % 1000 == 999 && !(c.slew == 0)
    let up := turn && decide (0 < c.slew)
    let down := turn && decide (c.slew < 0)
    let now := if up then c.now + 2 else if down then c.now else c.now + 1
    let slew := if up then c.slew - 1 else if down then c.slew + 1 else c.slew
    let d := { (d.count 0 (Config.cycles c.elapsed)).count 6 (Config.dieCut c.elapsed) with clp := { c with elapsed := c.elapsed + 1, now := now, slew := slew } }
    countFec (strikeHbm d)

/-- Some slot has a turn in PHASE STAGED or DECIDED (R87). -/
def flipPending (d : Dev) : Bool :=
  d.trn.slots.any (fun e => match e.2.phase with | .staged => true | .decided => true | _ => false)

/-- A step by `k` phase units: STEPPED is set, a deferred correction is done with, and every open turn that has not flipped is
marked (R87, R88, R100). -/
def makeStep (d : Dev) (k : Int) : Dev :=
  let c := d.clp
  { d with
    clp := { c with now := c.now + BitVec.ofInt 64 k, stepped := true, stepDeferred := c.pendingArm.isSome, pendingStep := none, slew := 0 }
    jobs := d.jobs.map (fun e => (e.1, { e.2 with turn := e.2.turn.map (fun t =>
      { t with stepped := t.stepped || !((d.tslot e.1).phase == .folding) }) })) }

/-- A step now, or deferred while a flip is pending or an ARM step waits. -/
def stepOrDefer (d : Dev) (k : Int) : Dev :=
  if flipPending d || d.clp.pendingArm.isSome then { d with clp := { d.clp with pendingStep := some k, stepDeferred := true } }
  else makeStep d k

/-- A slew by `k` phase units; it replaces a deferred correction of an earlier error (R87). -/
def slewBy (d : Dev) (k : Int) : Dev :=
  { d with clp := { d.clp with slew := k, pendingStep := none, stepDeferred := d.clp.pendingArm.isSome } }

/-- Corrects an error of `e` phase units (this clock less the source); `near`: it is no more than 1 µs (R87). -/
def correctError (d : Dev) (e : Int) (near : Bool) : Dev :=
  if near || !d.clp.allowStep then slewBy d (-e) else stepOrDefer d (-e)

/-- An error of `v` 2^-32 phase units is no more than `w` ns either way. -/
def withinNs (d : Dev) (v : Int) (w : Nat) : Bool :=
  decide (v.natAbs * (d.clp.den * 1000000000) ≤ w * (d.clp.num * 0x100000000000000))

/-- 2^-32 phase units in whole nanoseconds, towards zero. -/
def fracNs (d : Dev) (v : Int) : Int := (v * d.clp.den * 1000000000).tdiv (d.clp.num * 0x100000000000000)

/-- LOCKED clears: UNLOCK_SEEN is set and the loss counted, when it was set. -/
def unlock (d : Dev) : Dev :=
  if d.clp.locked then
    { d with clp := { d.clp with locked := false, good := 0, unlockSeen := true, unlockCount := sat16 d.clp.unlockCount } }
  else { d with clp := { d.clp with good := 0 } }

/-- One measured error of `v` 2^-32 phase units: CLP_OFFSET, the lock rule with its window in ns (R86), and the correction in
whole phase units (R87). -/
def measure (d : Dev) (v : Int) (window : Nat) : Dev :=
  let near := withinNs d v 1000
  let d := { d with clp := { d.clp with offset := fracNs d v, missing := 0 } }
  let d :=
    if withinNs d v window then
      let g := d.clp.good + 1
      { d with clp := { d.clp with good := g, locked := d.clp.locked || decide (3 ≤ g) } }
    else if near then { d with clp := { d.clp with good := 0 } }
    else unlock d
  correctError d (v / 0x100000000) near

/-- The Clepsydra against the nearest PHASE 0 of a frame that carries a pulse, in phase units. -/
def pulseError (d : Dev) : Int :=
  let p : Nat := (if d.clp.pulseFrames = 0 then 1 else d.clp.pulseFrames.toNat) * 0x1000000
  let r := d.clp.now.toNat % p
  if 2 * r ≤ p then (r : Int) else (r : Int) - p

/-- The same in 2^-32 phase units. -/
def pulseFrac (d : Dev) : Int := pulseError d * 0x100000000

/-- The step ARM asks for: FRAME = CLP_SET_FRAME, PHASE = 0 (R90). -/
def armStep (d : Dev) : Int := (d.clp.setFrame.toNat * 0x1000000 : Nat) - (d.clp.now.toNat : Int)

/-- The ARM step falls due: made, deferred, or dropped when ALLOW_STEP is 0 (R87, R90). -/
def armDue (d : Dev) : Dev :=
  if !d.clp.allowStep then { d with clp := { d.clp with arm := false } }
  else if flipPending d then { d with clp := { d.clp with pendingArm := some (armStep d), stepDeferred := true } }
  else
    let d := makeStep d (armStep d)
    { d with clp := { d.clp with arm := false } }

/-- TIME_FRAME_PULSE (R86, R90): in GENLOCK mode a pulse applies ARM, or is measured against its predicted edge. -/
def timeFramePulse (d : Dev) : Dev :=
  if !(d.clp.source == 1) || !clockRuns d then d
  else if d.clp.arm && d.clp.pendingArm.isNone then armDue d
  else measure d (pulseFrac d) 20

def execTimeFramePulse (s : State) : Out := onDev true (fun _ d => timeFramePulse d) s

/-- TIME_FRAME_MISSING (R86): a predicted pulse did not arrive; the second in a row loses lock. -/
def timeFrameMissing (d : Dev) : Dev :=
  if !(d.clp.source == 1) || !clockRuns d then d else
    let m := d.clp.missing + 1
    let d := { d with clp := { d.clp with pulseMissing := true, missing := m, good := 0 } }
    if 2 ≤ m then unlock d else d

def execTimeFrameMissing (s : State) : Out := onDev true (fun _ d => timeFrameMissing d) s

/-- TIME_CLK_LOSS (R86): no edge for 1 µs loses lock in GENLOCK mode, and holdover moves to SYSCLK. -/
def timeClkLoss (d : Dev) : Dev :=
  let d := { d with clp := { d.clp with timeClk := false } }
  if d.clp.source == 1 then unlock d else d

def execTimeClkLoss (s : State) : Out := onPins (fun _ d => timeClkLoss d) s

/-- TIME_CLK_PRESENT (R86): holdover may use TIME_CLK. -/
def execTimeClkPresent (s : State) : Out := onPins (fun _ d => { d with clp := { d.clp with timeClk := true } }) s

/-- CLP_STATUS.ACTIVE (R86, R91). -/
def clpActive (c : Clp) : Nat :=
  if c.locked then (if c.source == 2 then 3 else 2)
  else if c.source == 0 then 0
  else if c.timeClk then 1 else 0

/-- A deferred ARM step falls due: made, or dropped when ALLOW_STEP is 0. The step sets the time of the pulse that asked for it,
so it takes the place of a deferred correction (R87, R90). -/
def armFallsDue (d : Dev) : Dev :=
  match d.clp.pendingArm with
  | none => d
  | some k =>
    let d := { d with clp := { d.clp with pendingArm := none, stepDeferred := d.clp.pendingStep.isSome, arm := false } }
    if d.clp.allowStep then makeStep d k else d

/-- A deferred correction falls due: made, or a slew when ALLOW_STEP is 0 (R87). -/
def stepFallsDue (d : Dev) : Dev :=
  match d.clp.pendingStep with
  | none => d
  | some k => if d.clp.allowStep then makeStep d k else slewBy d k

/-- DEFERRED_STEP (R87): once no slot is STAGED or DECIDED the step is made; with ALLOW_STEP 0 a correction becomes a slew
and an ARM step is dropped. -/
def deferredStep (d : Dev) : Dev := if flipPending d then d else stepFallsDue (armFallsDue d)

def execDeferredStep (s : State) : Out := onDev true (fun _ d => deferredStep d) s

/-- CLP_ARM (R90): honoured when ALLOW_STEP is 1 and the source is not FABRIC; in FREE mode the step is due at once. -/
def clpArm (d : Dev) : Dev :=
  if !d.clp.allowStep || d.clp.source == 2 then d
  else if d.clp.source == 0 then armDue { d with clp := { d.clp with arm := true } }
  else { d with clp := { d.clp with arm := true } }

def execClpArm (s : State) : Out := onDev true (fun _ d => clpArm d) s

/-- The upstream port in FABRIC mode: the one the route to CLP_MASTER names (spec/13_koliz_fabric.md R352). -/
def upstream (d : Dev) : Option Nat :=
  let r := d.route d.clp.master.toNat
  if d.clp.source == 2 && decide (r < 16) then some r else none

/-- The route to CLP_MASTER is looked up: KLZ_TIME_LINK shows the upstream port, 0 without one, and in FABRIC mode a master
without a route loses lock (R86, spec/13_koliz_fabric.md R353). -/
def masterRoute (d : Dev) : Dev :=
  let d := { d with klz := { d.klz with linkPort := BitVec.ofNat 4 ((upstream d).getD 0) } }
  if d.clp.source == 2 && d.route d.clp.master.toNat == 0xFF then unlock d else d

/-- A write of CLP_SOURCE (R86): 3 is ignored; a change of source starts unlocked. -/
def setSource (d : Dev) (v : Nat) : Dev :=
  if v == 3 || v == d.clp.source then d
  else
    let d := unlock d
    masterRoute { d with clp := { d.clp with source := v, missing := 0, masterFree := false, exchangeAt := d.clp.elapsed } }

end Sys2Proof.Machine
end

