-- ==== Sys2Proof/Machine/Mover.lean ====
section
/-! DEFINITION. The tensor mover (spec/08_vector_engine.md R195, R215, R216; spec/07_loop_nests.md R174, R186). -/

namespace Sys2Proof.Machine

/-- A tensor descriptor (R174). -/
structure Tensor where
  fmt     : Nat
  space   : Nat
  rank    : Nat
  flags   : Nat
  logical : Nat
  base    : Nat
  extent  : Nat → Nat
  pitch   : Nat → Nat
  sbase   : Nat
  spitch  : Nat → Nat

/-- A descriptor from its 96 bytes. -/
def parseTensor (b : List Byte) : Tensor :=
  { fmt := fieldLe b 0 1 % 16, space := fieldLe b 1 1, rank := fieldLe b 2 1, flags := fieldLe b 3 1, logical := fieldLe b 4 2, base := fieldLe b 8 8
    extent := fun i => fieldLe b (0x10 + 4 * i) 4
    pitch := fun i => if i == 0 then 0 else fieldLe b (0x18 + 8 * i) 8
    sbase := fieldLe b 0x38 8
    spitch := fun i => if i == 0 then 0 else fieldLe b (0x38 + 8 * i) 8 }

/-- FLT_POISON at a range of HBM, with the first piece of it whose read is poisoned. -/
def fltRangePoison (d : Dev) (off n : Nat) : JFault :=
  match (pieces off n).find? (fun p => readsPoison d (hbmCell d p.1) p.2) with
  | some p => fltHbmPoison d p.1 p.2 0
  | none => fltPoison 0

/-- Tensor `i` of the program a slot runs, read from its protected image (R170, R215). -/
def jobTensor (d : Dev) (slot i : Nat) : Acc Tensor :=
  match (d.job slot).image with
  | none => .error fltIllegal
  | some p =>
    let off := (d.job slot).prog.toNat + p.tensors + 96 * i
    if p.tensorCount ≤ i then .error fltIllegal
    else if d.hbmPoisoned off 96 then .error (fltRangePoison d off 96)
    else .ok (parseTensor (d.hbmRead off 96))

/-! ## Ends, rows and pieces -/

/-- The byte address of a row of a box, from an adjusted base. -/
def rowAddr (base : Int) (t : Tensor) (i1 i2 i3 : Nat) : Int := base + i1 * t.pitch 1 + i2 * t.pitch 2 + i3 * t.pitch 3

/-- One end of a row: a job virtual address, or an offset in a logical core's local SRAM. It keeps the alignment that
spec/07_loop_nests.md R175 gives BASE and the pitches: 64 B in SPACE 0, 16 B elsewhere (DEDUCED, notes/assumptions/20.md). -/
def tensorSide (d : Dev) (t : Tensor) (addr : Int) (n : Nat) (write : Bool) : Acc TmSide :=
  let al : Int := if t.space == 0 then 64 else 16
  if addr < 0 || !(addr % al == 0) then .error fltIllegal
  else if t.space == 0 then .ok (.va addr.toNat)
  else
    let part := partition (d.coreRec t.logical) (t.space - 1)
    if 4 < t.space || 144 ≤ t.logical || (write && t.space == 3) || decide (part.2 < addr.toNat + n) then .error fltIllegal
    else .ok (.sram t.logical (part.1 + addr.toNat))

/-- The cell of a local SRAM offset of a logical core; one that no physical core is bound to is FLT_ILLEGAL_OP. -/
def sramOf (d : Dev) (logical off : Nat) : Acc Nat :=
  if d.phys logical < 144 then .ok (sramCell (d.phys logical) off) else .error fltIllegal

/-- The position of an end within its 4 KiB. -/
def sidePage (s : TmSide) : Nat :=
  match s with
  | .va a => a % 4096
  | .sram _ o => o % 4096
  | .zeros => 0

/-- An end moved on by `k` bytes. -/
def sideAdd (s : TmSide) (k : Nat) : TmSide :=
  match s with
  | .va a => .va (a + k)
  | .sram l o => .sram l (o + k)
  | .zeros => .zeros

/-- A run put at its place among runs in rising order of address. -/
def insertRun (r : Nat × Nat) : List (Nat × Nat) → List (Nat × Nat)
  | [] => [r]
  | q :: qs => if r.1 ≤ q.1 then r :: q :: qs else q :: insertRun r qs

/-- The next run in rising order: joined to the last one where the two meet. -/
def joinRun (acc : List (Nat × Nat)) (r : Nat × Nat) : List (Nat × Nat) :=
  match acc with
  | [] => [r]
  | q :: qs => if r.1 ≤ q.1 + q.2 then (q.1, max (q.1 + q.2) (r.1 + r.2) - q.1) :: qs else r :: q :: qs

/-- The runs of job virtual addresses a command writes, however its rows lie: in any order, apart, or over one another (R65). -/
def mergeRuns (l : List (Nat × Nat)) : List (Nat × Nat) := (l.foldr insertRun []).foldl joinRun []

/-- The page of an address lies in one of the runs. -/
def runsCover (runs : List (Nat × Nat)) (a : Nat) : Bool :=
  runs.any (fun r => coversPage a r.1 r.2)

/-- A row cut into pieces that cross no 4 KiB boundary of either end (R216). -/
def cutRow (runs : List (Nat × Nat)) : Nat → TmSide → TmSide → Nat → List TmPiece
  | 0, _, _, _ => []
  | fuel + 1, src, dst, n =>
    if n = 0 then [] else
      let k := min n (min (4096 - sidePage src) (4096 - sidePage dst))
      let whole := match dst with
        | .va a => runsCover runs a
        | _ => false
      { src := src, dst := dst, n := k, whole := whole, uses := false } :: cutRow runs fuel (sideAdd src k) (sideAdd dst k) (n - k)

/-- Where a piece's source lies. -/
def pieceSource (d : Dev) (slot : Nat) (p : TmPiece) : Acc Place :=
  match p.src with
  | .va a => readPlace d slot a p.n
  | .sram l o => (sramOf d l o).map .cells
  | .zeros => .ok .zeros

/-- Where a piece goes; a first write to a committed page takes its shadow (R65). -/
def pieceDest (d : Dev) (slot : Nat) (p : TmPiece) : Acc (Dev × Place) :=
  match p.dst with
  | .va a => writePlace d slot a p.n p.whole
  | .sram l o => (sramOf d l o).map (fun c => (d, .cells c))
  | .zeros => .ok (d, .zeros)

/-- The address a fault of a piece names. -/
def pieceVa (p : TmPiece) : Nat :=
  match p.src, p.dst with
  | .va a, _ => a
  | _, .va a => a
  | _, _ => 0

/-- Notes a write to a plain page of the turn (R79). -/
def noteDest (d : Dev) (slot : Nat) (p : TmPiece) (pl : Place) : Dev :=
  match p.dst with
  | .va a => notePlain d slot (vaPlain d slot a) pl p.n
  | _ => d

/-- A local copy of a piece: poison travels with it (R304, R305). -/
def copyPiece (d : Dev) (slot : Nat) (p : TmPiece) (src dst : Place) : Dev :=
  let d := countHbm d false src p.n
  let d := match src, dst with
    | .cells a, .cells b => moveCells d a b p.n
    | _, _ => placeWrite d dst (placeRead d src p.n).1
  countHbm (noteDest d slot p dst) true dst p.n

/-! ## Requests (R216) -/

/-- Updates one command of a core's mover. -/
def modTm (d : Dev) (core ident : Nat) (f : TmCmd → TmCmd) : Dev :=
  d.modCore core (fun x => { x with tm := x.tm.map (fun t => if t.ident == ident then f t else t) })

/-- One more request of a command waits for its answer. -/
def moverWaits (d : Dev) (core ident : Nat) : Dev := modTm d core ident (fun t => { t with waiting := t.waiting + 1 })

/-- The group of 32 consecutive gather sectors that a local SRAM offset lies in. -/
def gatherGroup (base off : Nat) : Nat := (off - base) / 1024

/-- The requests of a gather that have no answer: the groups of the sectors that have none, at other devices or in a hold queue. -/
def gatherGroups (d : Dev) (core ident base : Nat) : List Nat :=
  let far := d.klz.requests.filterMap (fun r => match r.origin with
    | .mover c _ _ _ i (some (.cells a)) => if c == core && i == ident then some (gatherGroup base (a - sramCell core 0)) else none
    | _ => none)
  let held := d.hbm.flatMap (fun e => e.2.hold.filterMap (fun h => match h.piece with
    | some q => (match q.piece.dst with
      | .sram _ o => if q.core == core && q.ident == ident then some (gatherGroup base o) else none
      | _ => none)
    | none => none))
  (far ++ held).eraseDups

/-- Requests of a command that have no answer. -/
def tmOutstanding (d : Dev) (core : Nat) (t : TmCmd) : Nat :=
  match t.gather with
  | some base => (gatherGroups d core t.ident base).length
  | none => t.waiting

/-- Requests of a core that have no answer. -/
def coreOutstanding (d : Dev) (core : Nat) : Nat := ((d.core core).tm.map (tmOutstanding d core)).foldl (· + ·) 0

/-- The piece belongs to a request that is outstanding already: a sector of a group that has begun. -/
def joinsRequest (d : Dev) (core : Nat) (t : TmCmd) (p : TmPiece) : Bool :=
  match t.gather, p.dst with
  | some base, .sram _ o => (gatherGroups d core t.ident base).contains (gatherGroup base o)
  | _, _ => false

/-- One remote request of a command, or FLT_REMOTE with KLZ_UNREACHABLE. -/
def moverRequest (d : Dev) (slot core logical command ident : Nat) (p : TmPiece) (at_ : Place) (write : Option (List Byte)) (poison : Bool)
    (dst : Option Place) : Acc Dev :=
  if !remoteAligned (pieceVa p) p.n then .error fltIllegal else
    match requestPacket d at_ write p.n poison with
    | none => .ok d
    | some q =>
      match sendRequest d q p.n (pieceVa p) (.mover core slot logical command ident dst) with
      | none => .error (fltRemote 0x63 (placeDevice at_) (pieceVa p))
      | some d => .ok (moverWaits d core ident)

/-- The cell of a place that a retrain or a remap holds (spec/12_hbm.md R311). -/
def heldAt (d : Dev) (pl : Place) : Option Nat :=
  match pl with
  | .cells c => if cellHeld d c then some c else none
  | _ => none

/-- One piece, its ends found and free: copied here, or sent as a request. -/
def movePart (d : Dev) (slot core logical command ident : Nat) (p : TmPiece) (src dst : Place) : Acc Dev :=
  if isRemote src then moverRequest d slot core logical command ident p src none false (some dst)
  else
    let bad := (placeRead d src p.n).2
    if bad && p.uses then .error { fltPoison (pieceVa p) with cells := placeCells src p.n }
    else if isRemote dst then
      moverRequest (countHbm d false src p.n) slot core logical command ident p dst (some (placeRead d src p.n).1) bad none
    else .ok (copyPiece d slot p src dst)

/-- One piece. A held end has it wait in that stack's hold queue; none: the queue is full, and the piece is offered again
(spec/12_hbm.md R311). -/
def runPiece (d : Dev) (slot core logical command ident : Nat) (p : TmPiece) : Acc (Option Dev) := do
  let src ← pieceSource d slot p
  let r ← pieceDest d slot p
  match (heldAt d src).orElse (fun _ => heldAt d r.2) with
  | none => (movePart r.1 slot core logical command ident p src r.2).map some
  | some c =>
    if holdFull d c then .ok none
    else .ok (some (moverWaits (pushHold r.1 { cell := c, piece := some { core := core, slot := slot, logical := logical, command := command, ident := ident, piece := p } }) core ident))

/-- Runs the pieces of a command in order, until one waits, 256 requests of the core are outstanding (R216), or one faults. -/
def pumpCmd : Nat → Dev → Nat → Nat → Nat → Nat → Dev × Option JFault
  | 0, d, _, _, _, _ => (d, none)
  | n + 1, d, slot, core, logical, ident =>
    match (d.core core).tm.find? (fun t => t.ident == ident) with
    | none => (d, none)
    | some t =>
      match t.todo with
      | [] => (d, none)
      | p :: rest =>
        if decide (256 ≤ coreOutstanding d core) && !joinsRequest d core t p then (d, none) else
          match runPiece d slot core logical t.command ident p with
          | .error e => (d, some e)
          | .ok none => (d, none)
          | .ok (some d2) => pumpCmd n (modTm d2 core ident (fun t => { t with todo := rest })) slot core logical ident

/-- Goes on with a command; a fault is charged to it. -/
def pumpTm (d : Dev) (slot core logical : Nat) (t : TmCmd) : Dev :=
  match pumpCmd t.todo.length d slot core logical t.ident with
  | (d, none) => d
  | (d, some e) => jobFault d slot core 4 logical t.command e

/-- A command begins: it joins those of the mover, and its pieces go out in order. -/
def startMover (d : Dev) (c : Cmd) (todo : List TmPiece) (signal bulk : Bool) (semCore semIndex : Nat) (semAdd : Word) (gather : Option Nat) :
    Issued :=
  let t : TmCmd := { ident := d.tmNext, todo := todo, command := c.pc, semCore := semCore, semIndex := semIndex, semAdd := semAdd, signal := signal, bulk := bulk, waiting := 0, gather := gather }
  let d := { d.modCore c.core (fun x => { x with tm := x.tm ++ [t] }) with tmNext := d.tmNext + 1 }
  match pumpCmd todo.length d c.slot c.core c.logical t.ident with
  | (d, none) => .next d
  | (d, some e) => .stall (jobFault d c.slot c.core 4 c.logical c.pc e)

/-! ## Commands (R186, R215) -/

/-- The rows of a box as pairs of ends. -/
def boxRows (d : Dev) (s t : Tensor) (sadj tadj : Int) (n : Nat) : Acc (List (TmSide × TmSide)) :=
  let e (i : Nat) : Nat := min (s.extent i) (t.extent i)
  (List.range (e 1 * e 2 * e 3)).mapM (fun k => do
    let i1 := k % e 1
    let i2 := k / e 1 % e 2
    let i3 := k / (e 1 * e 2)
    let a ← tensorSide d s (rowAddr (s.base + sadj) s i1 i2 i3) n false
    let b ← tensorSide d t (rowAddr (t.base + tadj) t i1 i2 i3) n true
    .ok (a, b))

/-- TM.COPY: the box both descriptors cover (R186, R215). -/
def tmCopyCmd (d : Dev) (c : Cmd) : Acc Issued := do
  let ctl := c.u 1 1
  legal (natBits ctl 7 2 == 0 && c.zero 0x1C 4)
  let s ← jobTensor d c.slot (c.u 2 2)
  let t ← jobTensor d c.slot (c.u 4 2)
  legal (s.fmt == t.fmt)
  let o ← if natBit ctl 0 then engineSemTarget d c.slot c.logical (c.u 7 1) (c.u 6 1) else .ok 0
  let n := min (s.extent 0) (t.extent 0) * elemBits s.fmt / 8
  let rows ← boxRows d s t (c.i 8 8) (c.i 0x10 8) n
  let runs := mergeRuns (rows.filterMap (fun r => match r.2 with
    | .va a => some (a, n)
    | _ => none))
  let todo := rows.flatMap (fun r => cutRow runs (n / 1024 + 8) r.1 r.2 n)
  .ok (startMover d c todo (natBit ctl 0) (natBit ctl 1) o (c.u 6 1) (BitVec.ofNat 32 (c.u 0x18 4)) none)

def execTmCopy (core : Nat) (s : State) : Out := onDev (isCore core) (fun _ d => issue core 4 (fun o => o == 0x30) (inQueue .tm tmCopyCmd) d) s

/-- TM.GATHER: 32 bytes from each job virtual address of a list; all ones writes zeros (R215). -/
def tmGatherCmd (d : Dev) (c : Cmd) : Acc Issued := do
  let ctl := c.u 1 1
  let list := c.u 4 4
  let n := c.u 8 4
  let dst := c.u 0xC 4
  legal (natBits ctl 7 1 == 0 && c.zero 2 2 && c.zero 0x12 6 && c.zero 0x1C 4)
  legal (list % 8 == 0 && dst % 32 == 0 && decide (1 ≤ n) && decide (n ≤ 65536))
  let o ← if natBit ctl 0 then engineSemTarget d c.slot c.logical (c.u 0x11 1) (c.u 0x10 1) else .ok 0
  let addrs ← partRead d c.core c.logical 0 list (8 * n)
  let _ ← partCell d c.core c.logical 0 dst (32 * n)
  let todo ← (List.range n).mapM (fun i =>
    let a := fieldLe addrs (8 * i) 8
    if a == 2 ^ 64 - 1 then .ok ({ src := .zeros, dst := .sram c.logical (dst + 32 * i), n := 32, whole := false, uses := true } : TmPiece)
    else if a % 32 == 0 then .ok { src := .va a, dst := .sram c.logical (dst + 32 * i), n := 32, whole := false, uses := true }
    else .error fltIllegal)
  .ok (startMover d c todo (natBit ctl 0) false o (c.u 0x10 1) (BitVec.ofNat 32 (c.u 0x18 4)) (some dst))

def execTmGather (core : Nat) (s : State) : Out := onDev (isCore core) (fun _ d => issue core 4 (fun o => o == 0x31) (inQueue .tm tmGatherCmd) d) s

/-- TM_DONE (R215): the oldest command of the core whose writes are all visible ends, and its signal is made. -/
def tmDone (d : Dev) (core : Nat) : Dev :=
  let x := d.core core
  match x.tm.find? (fun t => t.todo.isEmpty && t.waiting == 0), x.slot with
  | some t, some s =>
    let d := d.setCore core { x with tm := x.tm.filter (fun u => !(u.ident == t.ident)) }
    if t.signal then semSignal d s t.semCore t.semIndex t.semAdd else d
  | _, _ => d

def execTmDone (core : Nat) (s : State) : Out := onDev (isCore core) (fun _ d => tmDone d core) s

/-! ## Responses (R339, R340) -/

/-- The fault a RESPONSE's STATUS charges to the requester's job. -/
def statusFault (st dev va : Nat) : JFault :=
  match st with
  | 3 => fltPoison va
  | 2 => fltRemote 0x64 dev va
  | 4 => fltRemote 0x65 dev va
  | 5 => fltRemote 0x66 dev va
  | 6 => fltRemote 0x67 dev va
  | _ => fltRemote 0x63 dev va

/-- The command is still in its core's queue. -/
def moverLive (d : Dev) (core slot ident : Nat) : Bool :=
  (d.core core).slot == some slot && (d.core core).tm.any (fun t => t.ident == ident)

/-- A request of a mover command has its answer. -/
def moverAnswered (d : Dev) (core ident : Nat) : Dev := modTm d core ident (fun t => { t with waiting := t.waiting - 1 })

/-- A mover's request ends with an OK answer: a READ's data goes to its place, on to another device when it lies there. -/
def moverOk (d : Dev) (r : Req) (core slot logical command ident : Nat) (dst : Option Place) (data : List Byte) : Dev :=
  if !moverLive d core slot ident then d else
    let d := moverAnswered d core ident
    match dst with
    | none => d
    | some pl =>
      if isRemote pl then
        match requestPacket d pl (some (data.take r.bytes)) r.bytes false with
        | none => d
        | some q =>
          match sendRequest d q r.bytes r.va (.mover core slot logical command ident none) with
          | none => jobFault d slot core 4 logical command (fltRemote 0x63 (placeDevice pl) r.va)
          | some d => moverWaits d core ident
      else countHbm (placeWrite d pl (data.take r.bytes)) true pl r.bytes

/-- A mover's request ends with a fault, charged to its job. -/
def moverFault (d : Dev) (core slot logical command ident : Nat) (f : JFault) : Dev :=
  if !moverLive d core slot ident then d else jobFault (moverAnswered d core ident) slot core 4 logical command f

/-- A held piece is free: it takes effect, or waits again (spec/12_hbm.md R311). -/
def heldPieceRuns (d : Dev) (h : HeldPiece) : Dev :=
  if !moverLive d h.core h.slot h.ident then d else
    let d1 := moverAnswered d h.core h.ident
    match runPiece d1 h.slot h.core h.logical h.command h.ident h.piece with
    | .error e => jobFault d1 h.slot h.core 4 h.logical h.command e
    | .ok (some d2) => d2
    | .ok none => modTm d1 h.core h.ident (fun t => { t with todo := h.piece :: t.todo })

end Sys2Proof.Machine
end

