-- ==== Sys2Proof/Machine/SfTable.lean ====
section
/-! DEFINITION. Loaded special-function tables: their layout, the loader's checks and their evaluation
(spec/09_special_functions.md R230 to R234). -/

namespace Sys2Proof.Machine

/-! ## Layout (R230) -/

/-- A signed byte of a body. -/
def sbyte (b : List Byte) (o : Nat) : Int := signedOf 8 (fieldLe b o 1)

/-- An FP32 constant of a body. -/
def bodyF (b : List Byte) (o : Nat) : FVal := decodeElem 8 (fieldLe b o 4)

/-- SYMMETRY is SEPARATE. -/
def sfSeparate (b : List Byte) : Bool := fieldLe b 4 1 == 0
/-- Binades of the positive half. -/
def sfPosCount (b : List Byte) : Nat := (sbyte b 9 - sbyte b 8 + 1).toNat
/-- Binades of the negative half. -/
def sfNegCount (b : List Byte) : Nat := if sfSeparate b then (sbyte b 0xB - sbyte b 0xA + 1).toNat else 0
/-- Subdivision bytes. -/
def sfSubs (b : List Byte) : List Nat :=
  ((b.drop 0x40).take (sfPosCount b + sfNegCount b)).map (·.toNat)
/-- Subdivision bytes with their padding. -/
def sfPadded (b : List Byte) : Nat := (sfPosCount b + sfNegCount b + 15) / 16 * 16
/-- Offset of segment `i`. -/
def sfSegment (b : List Byte) (i : Nat) : Nat := 0x40 + sfPadded b + 16 * i

/-! ## Evaluation (R231, R232) -/

/-- The piece an argument selects: an asymptote, the small-argument rule, or a segment with its local coordinate. -/
inductive Piece where
  | pos
  | neg
  | tiny
  | seg (i : Nat) (t : FVal)
deriving DecidableEq, Repr

/-- 2^e. -/
def pow2 (e : Int) : FVal := .fin false 1 e

/-- The segment of a magnitude m · 2^x within its half: smallest binade, first subdivision byte. -/
def sfLocate (b : List Byte) (elo : Int) (first m : Nat) (x : Int) : Piece :=
  let l := Nat.log2 m
  let k := (ilog m x - elo).toNat
  let subs := sfSubs b
  let s := (subs[first + k]?).getD 0
  let before := ((subs.take (first + k)).map (2 ^ ·)).sum
  let f := (m - 2 ^ l) * 2 ^ s
  .seg (before + f / 2 ^ l) (.fin false (f % 2 ^ l) (-(l : Int)))

/-- The piece R231 selects for an argument that is not NaN. -/
def sfPiece (b : List Byte) (x : FVal) : Piece :=
  if !(x.lt (bodyF b 0x10)) then .pos
  else if !((bodyF b 0xC).lt x) then .neg
  else match x with
    | .fin n m e =>
      let own := n && sfSeparate b
      let elo := sbyte b (if own then 0xA else 8)
      let ehi := sbyte b (if own then 0xB else 9)
      if x.abs.lt (pow2 elo) then .tiny
      else if !(x.abs.lt (pow2 (ehi + 1))) then (if n then .neg else .pos)
      else sfLocate b elo (if own then sfPosCount b else 0) m e
    | _ => .tiny

/-- One fused multiply-add, rounded by RNE. -/
def fma32 (a x c : FVal) : FVal := fp32 ((a.mul x).add c)

/-- An asymptote A + B·x; at an infinite x, A when B is 0. -/
def sfAsym (a k x : FVal) : FVal :=
  match x with
  | .inf n => if k.isZero then a else .inf (xor k.isNeg n)
  | _ => fma32 k x a

/-- A subnormal of a format becomes a zero of its sign (R226). -/
def flushTo (code : Nat) (v : FVal) : FVal :=
  match fmtOf code, v with
  | some f, .fin n m e => if decide (0 < m) && decide (ilog m e < 1 - (f.bias : Int)) then .fin n 0 0 else v
  | _, _ => v

/-- A table at an argument that is not NaN, before any flush (R231). -/
def sfEval (b : List Byte) (x : FVal) : FVal :=
  match sfPiece b x with
  | .pos => sfAsym (bodyF b 0x1C) (bodyF b 0x20) x
  | .neg => sfAsym (bodyF b 0x24) (bodyF b 0x28) x
  | .tiny => fma32 (bodyF b 0x18) x (bodyF b 0x14)
  | .seg i t =>
    let o := sfSegment b i
    let y := fma32 (fma32 (fma32 (bodyF b (o + 12)) t (bodyF b (o + 8))) t (bodyF b (o + 4))) t (bodyF b o)
    if fieldLe b 4 1 == 1 && x.isNeg then y.neg else y

/-! ## Format checks (R233) -/

/-- Offsets of the FP32 header constants. -/
def sfConsts : List Nat := [0xC, 0x10, 0x14, 0x18, 0x1C, 0x20, 0x24, 0x28]

/-- Offsets whose condition fails. -/
def failing (l : List (Bool × Nat)) : List Nat := l.filterMap (fun e => if e.1 then none else some e.2)

/-- The lowest of a list. -/
def lowest : List Nat → Option Nat
  | [] => none
  | x :: xs => some (xs.foldl min x)

/-- A binade range is in order and inside −126 to 127. -/
def sfRange (b : List Byte) (lo hi : Nat) : List (Bool × Nat) :=
  [(decide (-126 ≤ sbyte b lo) && decide (sbyte b lo ≤ sbyte b hi), lo), (decide (-126 ≤ sbyte b hi), hi)]

/-- A constant is neither NaN nor infinite. -/
def sfFinite (b : List Byte) (o : Nat) : Bool := !((bodyF b o).isNan || (bodyF b o).isInf)

/-- The header says how many subdivision bytes there are: SYMMETRY and the binade ranges are sound. -/
def sfCountable (b : List Byte) : Bool :=
  decide (fieldLe b 4 1 ≤ 2) && (failing (sfRange b 8 9)).isEmpty && (!sfSeparate b || (failing (sfRange b 0xA 0xB)).isEmpty)

/-- Header fields at fault, taken one by one. -/
def sfHeaderFaults (b : List Byte) : List Nat :=
  failing ([(fieldLe b 0 4 == 0x46534C47, 0), (decide (fieldLe b 4 1 ≤ 2), 4),
    (decide (fieldLe b 5 1 ≤ 3) && !(fieldLe b 5 1 == 2), 5),
    (decide (1 ≤ fieldLe b 6 2) && decide (fieldLe b 6 2 ≤ 1024), 6)]
    ++ sfRange b 8 9
    ++ (if sfSeparate b then sfRange b 0xA 0xB else [(fieldLe b 0xA 1 == 0, 0xA), (fieldLe b 0xB 1 == 0, 0xB)])
    ++ sfConsts.map (fun o => (sfFinite b o, o))
    ++ (List.range 20).map (fun i => (fieldLe b (0x2C + i) 1 == 0, 0x2C + i)))

/-- Fields at fault beside sound header fields: the domain, the subdivision and padding bytes, SEGMENTS. -/
def sfBodyFaults (b : List Byte) : List Nat :=
  let n := sfPosCount b + sfNegCount b
  let top := pow2 (sbyte b 9 + 1)
  let negTop := if sfSeparate b then pow2 (sbyte b 0xB + 1) else top
  failing ([(((sfSubs b).map (2 ^ ·)).sum == fieldLe b 6 2, 6),
    ((bodyF b 0xC).lt (bodyF b 0x10) && !((bodyF b 0xC).lt negTop.neg), 0xC), (!(top.lt (bodyF b 0x10)), 0x10)]
    ++ (List.range n).map (fun i => (decide (fieldLe b (0x40 + i) 1 ≤ 6), 0x40 + i))
    ++ (List.range (sfPadded b - n)).map (fun i => (fieldLe b (0x40 + n + i) 1 == 0, 0x40 + n + i)))

/-- Coefficients that are NaN or infinite. -/
def sfCoefFaults (b : List Byte) : List Nat :=
  failing ((List.range (4 * fieldLe b 6 2)).map (fun i => (sfFinite b (sfSegment b 0 + 4 * i), sfSegment b 0 + 4 * i)))

/-! ## The seam check (R234) -/

/-- A finite FP32 value as its place in their order, both zeros 0. -/
def ordOf (bits : Nat) : Int := if natBit bits 31 then -((bits % 2 ^ 31 : Nat) : Int) else bits

/-- The value at a place. -/
def ordVal (i : Int) : FVal := decodeElem 8 (if i < 0 then 2 ^ 31 + i.natAbs else i.natAbs)

/-- The places of the magnitudes at which a half changes piece: its segments' starts and its top. -/
def sfEdges (b : List Byte) (elo : Int) (first n : Nat) : List Int :=
  let subs := sfSubs b
  (List.range n).flatMap (fun k =>
    let s := (subs[first + k]?).getD 0
    let base : Int := (elo + k + 127) * 0x800000
    (List.range (2 ^ s)).map (fun i => base + ((i * 2 ^ (23 - s) : Nat) : Int))) ++ [(elo + n + 127) * 0x800000]

/-- The seams as (lower place, place of x_in); the upper place is the next. -/
def sfSeams (b : List Byte) : List (Int × Int) :=
  let lim : Int := 0x7F800000
  let pos := (sfEdges b (sbyte b 8) 0 (sfPosCount b)).filter (fun i => decide (i < lim))
  let neg := (if sfSeparate b then sfEdges b (sbyte b 0xA) (sfPosCount b) (sfNegCount b) else sfEdges b (sbyte b 8) 0 (sfPosCount b)).filter
    (fun i => decide (i < lim))
  let hi := ordOf (fieldLe b 0x10 4)
  let lo := ordOf (fieldLe b 0xC 4)
  [(hi - 1, hi), (lo, lo)] ++ pos.map (fun i => (i - 1, i)) ++ neg.map (fun i => (-i, -i))

/-- Puts a seam in rising order; one already there stays. -/
def insertSeam (x : Int × Int) : List (Int × Int) → List (Int × Int)
  | [] => [x]
  | y :: ys => if x.1 = y.1 then y :: ys else if x.1 < y.1 then x :: y :: ys else y :: insertSeam x ys

/-- The piece without its coordinate. -/
def Piece.which (p : Piece) : Nat :=
  match p with
  | .pos => 0
  | .neg => 1
  | .tiny => 2
  | .seg i _ => 3 + i

/-- Evaluation of a finite value in a lane mode, for the seam check (R226, R231). -/
def sfMode (b : List Byte) (strict : Bool) (x : FVal) : FVal :=
  if strict then sfEval b x else flushTo 8 (sfEval b (flushTo 8 x))

/-- The values are in order for the table's direction. -/
def sfOrdered (b : List Byte) (lo hi : FVal) : Bool := if natBit (fieldLe b 5 1) 1 then !(lo.lt hi) else !(hi.lt lo)

/-- The offset a seam's failure reports: the upper segment's c0, or the header constant of a rule or an asymptote. -/
def sfSeamOffset (b : List Byte) (x : FVal) : Nat :=
  match sfPiece b x with
  | .pos => 0x1C
  | .neg => 0x24
  | .tiny => 0x14
  | .seg i _ => sfSegment b i

/-- The segment or rule a place selects, with the sign its value is taken with. -/
def sfSide (b : List Byte) (i : Int) : Nat × Bool :=
  let w := (sfPiece b (ordVal i)).which
  (w, decide (3 ≤ w) && decide (i < 0))

/-- A seam passes: no change of piece, or values in order in both lane modes. -/
def sfSeamOk (b : List Byte) (lo : Int) : Bool :=
  let x := ordVal lo
  let y := ordVal (lo + 1)
  sfSide b lo == sfSide b (lo + 1)
    || (sfOrdered b (sfMode b false x) (sfMode b false y) && sfOrdered b (sfMode b true x) (sfMode b true y))

/-- A slope has the sign of the table's direction. -/
def sfSlopeOk (b : List Byte) (o : Nat) : Bool :=
  if natBit (fieldLe b 5 1) 1 then !(FVal.zero.lt (bodyF b o)) else !((bodyF b o).lt FVal.zero)

/-- The first failure of the seam check of a MONOTONE table. -/
def sfSeamFault (b : List Byte) : Option Nat :=
  if !natBit (fieldLe b 5 1) 0 then none else
    match [0x18, 0x20, 0x28].find? (fun o => !sfSlopeOk b o) with
    | some o => some o
    | none =>
      let seams := (sfSeams b).foldl (fun l s => insertSeam s l) []
      (seams.find? (fun s => !sfSeamOk b s.1)).map (fun s => sfSeamOffset b (ordVal s.2))

/-- A table body's first fault by offset in the image: the refusal's code and the offset within the body, or none for the BYTES field
of its directory entry, which stands before every body (R233, R234; notes/assumptions/89.md). -/
def tableFault (b : List Byte) : Option (Nat × Option Nat) :=
  let body := sfCountable b && decide (fieldLe b 6 2 ≤ 1024)
  if sfCountable b && !(b.length == 64 + sfPadded b + 16 * fieldLe b 6 2) then some (0x11, none)
  else match lowest (sfHeaderFaults b ++ (if body then sfBodyFaults b ++ sfCoefFaults b else [])) with
    | some o => some (0x11, some o)
    | none => (sfSeamFault b).map (fun o => (0x05, some o))

end Sys2Proof.Machine
end

