-- ==== Sys2Proof/Machine/Vector.lean ====
section
/-! DEFINITION. The vector engine (spec/08_vector_engine.md R204 to R210, spec/11_convolution.md R288, R289). -/

namespace Sys2Proof.Machine

/-! ## Operands (R205, R206) -/

/-- An operand: partition, byte offset, bytes between rows, rows, bytes of a row. -/
structure Opnd where
  part  : Nat
  off   : Nat
  pitch : Nat
  rows  : Nat
  n     : Nat
deriving DecidableEq, Repr

/-- An operand word: space [31:28] and offset [27:0], 16-byte aligned. -/
def opndOf (v pitch rows n : Nat) : Acc Opnd :=
  if 3 < v / 2 ^ 28 || !(v % 16 == 0) then .error fltIllegal
  else .ok { part := v / 2 ^ 28, off := v % 2 ^ 28, pitch := pitch, rows := rows, n := n }

/-- The operand lies inside its partition. -/
def opndFits (d : Dev) (l : Nat) (o : Opnd) : Bool :=
  decide (o.off + (o.rows - 1) * o.pitch + o.n ≤ (partition (d.coreRec l) o.part).2)

/-- Two operands share a byte. -/
def opndMeet (a b : Opnd) : Bool :=
  a.part == b.part && (List.range a.rows).any (fun i => (List.range b.rows).any (fun j =>
    meet (a.off + i * a.pitch) a.n (b.off + j * b.pitch) b.n))

/-- A destination is legal beside the sources: not the page cache, and no overlap but with an identical operand. -/
def destOk (dst : Opnd) (srcs : List Opnd) : Bool :=
  !(dst.part == 2) && srcs.all (fun s => (s.part == dst.part && s.off == dst.off && s.pitch == dst.pitch) || !opndMeet dst s)

/-- First cell of row `r`. -/
def opndCell (d : Dev) (core l : Nat) (o : Opnd) (r : Nat) : Nat :=
  sramCell core ((partition (d.coreRec l) o.part).1 + o.off + r * o.pitch)

/-- The bytes of row `r`. -/
def opndRow (d : Dev) (core l : Nat) (o : Opnd) (r : Nat) : List Byte := memRead d.mem (opndCell d core l o r) o.n

/-- Writes row `r`. -/
def putRow (d : Dev) (core l : Nat) (o : Opnd) (r : Nat) (bs : List Byte) : Dev := d.cellPut (opndCell d core l o r) bs

/-- The runs of set flags of a list: where each starts, and its length. -/
def flagRuns (l : List Bool) : List (Nat × Nat) :=
  (l.zipIdx.foldl (fun (acc : List (Nat × Nat)) e =>
    if !e.1 then acc else match acc with
      | (a, n) :: rest => if a + n == e.2 then (a, n + 1) :: rest else (e.2, 1) :: acc
      | [] => [(e.2, 1)]) []).reverse

/-- The bytes of a row of elements of `b` bits that the elements `on` touch. -/
def touchedBytes (b n : Nat) (on : List Bool) : List Bool :=
  (List.range n).map (fun i => ((on.drop (8 * i / b)).take (8 / b + 2)).zipIdx.any (fun e =>
    e.1 && meet ((8 * i / b + e.2) * b) b (8 * i) 8))

/-- Writes the elements `on` of row `r`, of `b` bits each; every other byte of the row stays unwritten (R208). -/
def putElems (d : Dev) (core l : Nat) (o : Opnd) (r b : Nat) (on : List Bool) (bs : List Byte) : Dev :=
  if on.all id then putRow d core l o r bs
  else (flagRuns (touchedBytes b bs.length on)).foldl (fun d e =>
    d.cellPut (opndCell d core l o r + e.1) ((bs.drop e.1).take e.2)) d

/-- The elements of a row that are written: the active ones, and every one under zeroing (R208). -/
def written (act : List Bool) (zeroing : Bool) : List Bool := if zeroing then act.map (fun _ => true) else act

/-- Bytes of `n` packed elements. -/
def rowBytes (fmt n : Nat) : Nat := (n * elemBits fmt + 7) / 8

/-- The values of a row; only active elements are read, so only they consume poison (R208, R304). -/
def rowValues (d : Dev) (core l : Nat) (o : Opnd) (r fmt : Nat) (act : List Bool) : Acc (List FVal) :=
  let c := opndCell d core l o r
  let b := elemBits fmt
  let hit := poisonedAt d.poison c o.n && (act.zipIdx.any (fun e => e.1 && poisonedAt d.poison (c + e.2 * b / 8) ((b + 7) / 8)))
  if hit then .error (fltPoison 0) else
    let bs := opndRow d core l o r
    .ok ((List.range act.length).map (fun e => decodeElem fmt (elemAt fmt bs e)))

/-- The element codes of a row. -/
def rowCodes (d : Dev) (core l : Nat) (o : Opnd) (r fmt n : Nat) : List Nat :=
  let bs := opndRow d core l o r
  (List.range n).map (elemAt fmt bs)

/-- The active elements of row `r` (R208). -/
def rowMask (d : Dev) (core l : Nat) (m : Option Opnd) (r n : Nat) : Acc (List Bool) :=
  match m with
  | none => .ok (List.replicate n true)
  | some o =>
    if poisonedAt d.poison (opndCell d core l o r) o.n then .error (fltPoison 0) else
      let bs := opndRow d core l o r
      .ok ((List.range n).map (fun e => natBit (fieldLe bs (e / 8) 1) (e % 8)))

/-! ## The command (R205) -/

/-- A vector command's fields. -/
structure VecCmd where
  op      : Nat
  fa      : Nat
  fb      : Nat
  fd      : Nat
  round   : Nat
  zeroing : Bool
  count   : Nat
  pip     : Nat
  deposit : Bool
  immB    : Bool
  rows    : Nat
  dpitch  : Nat
  spitch  : Nat
  aux     : Nat
  dst     : Nat
  srcA    : Nat
  srcB    : Nat
  mask    : Option Opnd

/-- The fields, with the checks every vector command shares; only VEC.CVT names an MX format, in whichever field (R206). -/
def vecFields (d : Dev) (c : Cmd) : Acc VecCmd := do
  let fd := c.u 3 1
  let cnt := c.u 0x14 4
  legal (c.u 0 1 == 0x51 || !(isMx (c.u 2 1 % 16) || isMx (c.u 2 1 / 16) || isMx (fd % 16)))
  legal (decide (c.u 2 1 % 16 ≤ 0xA) && decide (c.u 2 1 / 16 ≤ 0xA) && decide (fd % 16 ≤ 0xA) && !(natBits fd 5 4 == 3)
    && natBits cnt 31 30 == 0 && !(natBits cnt 23 0 == 0) && !(c.u 0x18 2 == 0)
    && (c.u 0x1E 2 == 0 || (c.u 0 1 == 0x53 && c.u 1 1 == 6 && decide (c.u 0x1E 2 ≤ 1))))
  let n := natBits cnt 23 0
  let m ← if natBit fd 7 then (opndOf (c.u 0x10 4) (16 * c.u 0x1C 2) (c.u 0x18 2) ((n + 7) / 8)).map some else .ok none
  match m with
  | some o => legal (opndFits d c.logical o)
  | none => .ok ()
  .ok { op := c.u 1 1, fa := c.u 2 1 % 16, fb := c.u 2 1 / 16, fd := fd % 16, round := natBits fd 5 4, zeroing := natBit fd 6,
        count := n, pip := natBits cnt 27 24, deposit := natBit cnt 28, immB := natBit cnt 29, rows := c.u 0x18 2,
        dpitch := 16 * c.u 0x1A 2, spitch := 16 * c.u 0x1C 2, aux := c.u 0x1E 2, dst := c.u 4 4, srcA := c.u 8 4, srcB := c.u 0xC 4,
        mask := m }

/-- Elements per cycle of the widest of the formats (R204). -/
def vecWidth (fs : List Nat) : Nat :=
  if fs.any (fun f => f == 10) then 64
  else if fs.any (fun f => f == 8 || f == 9 || isMx f) then 256
  else 512

/-- VECTOR_BUSY counts the command's issue cycles (R204, R468). -/
def vecBusy (d : Dev) (v : VecCmd) (fs : List Nat) (extra : Nat) : Dev :=
  d.count 2 (v.rows * (max 1 ((v.count + vecWidth fs - 1) / vecWidth fs) + extra))

/-- What a command threads through its elements: the lane generators, the free values used, and what it met. -/
structure VecSt where
  lanes : Tab Word
  free  : Nat
  nan   : Bool := false
  inf   : Bool := false
  none_ : Bool := false

def vecStart (d : Dev) (core : Nat) : VecSt := { lanes := (d.core core).ctx.lanes, free := d.free }

/-- The generators and the count of free values after a command. -/
def vecEnd (d : Dev) (core : Nat) (v : VecSt) : Dev :=
  { d.modCtx core (fun c => { c with lanes := v.lanes }) with free := v.free }

/-- The rounding mode of an element: under SR its lane's generator steps (R134). -/
def elemMode (round : Nat) (v : VecSt) (e : Nat) : RMode × VecSt :=
  match round with
  | 0 => (.rne, v)
  | 1 => (.rtz, v)
  | _ => let r := srNext v.lanes e
    (.sr r.1, { v with lanes := r.2 })

/-- Notes NaNs and infinities a command reads or produces (R201). -/
def noteVal (v : VecSt) (x : FVal) : VecSt := { v with nan := v.nan || x.isNan, inf := v.inf || x.isInf }

/-- An immediate B: INT32 for an integer operand, else FP32 bits (R205). -/
def immValue (fb raw : Nat) : FVal := if isIntFmt fb then FVal.ofInt (signedOf 32 raw) else decodeElem 8 raw

/-- The integer an exact integer value stands for. -/
def FVal.toInt : FVal → Int
  | .fin n m e => sgn n (if 0 ≤ e then m * 2 ^ e.toNat else m / 2 ^ (-e).toNat)
  | _ => 0

/-- B's row: the immediate, or memory. -/
def rowB (d : Dev) (c : Cmd) (v : VecCmd) (o : Option Opnd) (r : Nat) (act : List Bool) : Acc (List FVal) :=
  match o with
  | none => .ok (act.map (fun _ => immValue v.fb v.srcB))
  | some o => rowValues d c.core c.logical o r v.fb act

/-- An element of a row, NaN past its end. -/
def nth (l : List FVal) (e : Nat) : FVal := (l[e]?).getD .nan

/-- Forms the codes of a row element by element; inactive ones keep their old code or become 0 (R208). -/
def mapElems (act : List Bool) (zeroing : Bool) (old : List Nat) (f : VecSt → Nat → VecSt × Nat) (s : VecSt) : VecSt × List Nat :=
  (act.zipIdx.zip old).foldl (fun acc e =>
    if e.1.1 then
      let r := f acc.1 e.1.2
      (r.1, acc.2 ++ [r.2])
    else (acc.1, acc.2 ++ [if zeroing then 0 else e.2])) (s, [])

/-! ## VEC.ARITH and VEC.FILL (R207) -/

/-- A floating-point operation, exact. -/
def floatOp (op : Nat) (a b x : FVal) : FVal :=
  match op with
  | 0 => a.add b
  | 1 => a.sub b
  | 2 => a.mul b
  | 3 => (a.mul b).add x
  | 4 => a.min b
  | 5 => a.max b
  | 6 => a.abs
  | 7 => a.neg
  | 9 => a.scale (clampInt (-4000) 4000 b.toInt)
  | _ => a

/-- An integer operation, exact; bitwise ones on 32 bits. -/
def intOp (op : Nat) (a b x : Int) : Int :=
  let u := BitVec.ofInt 32 a
  let w := BitVec.ofInt 32 b
  let sh := w.toNat % 32
  match op with
  | 0 => a + b
  | 1 => a - b
  | 2 => a * b
  | 3 => a * b + x
  | 4 => if a ≤ b then a else b
  | 5 => if b ≤ a then a else b
  | 6 => a.natAbs
  | 7 => -a
  | 10 => (u &&& w).toInt
  | 11 => (u ||| w).toInt
  | 12 => (u ^^^ w).toInt
  | 13 => (u <<< sh).toInt
  | 14 => (u >>> sh).toNat
  | 15 => (u.sshiftRight sh).toInt
  | _ => a

/-- An integer result stored: INT8 saturates (R135); INT32 ADD, SUB, MUL and the bitwise operations wrap; the result of any
other operation that leaves INT32 is stated nowhere and is free (notes/assumptions/1.md). -/
def storeInt (fd op : Nat) (v : VecSt) (i : Int) : VecSt × Nat :=
  if fd == 7 then (v, encodeInt 8 .rtz (FVal.ofInt i))
  else if op ≤ 2 || 10 ≤ op || (decide (-(2 ^ 31) ≤ i) && decide (i < 2 ^ 31)) then (v, (i % (2 ^ 32 : Int)).toNat)
  else ({ v with free := v.free + 1 }, (Config.freeDword v.free).toNat % 2 ^ 32)

/-- A value stored in an integer format outside the plain integer operations. -/
def storeRounded (fd round : Nat) (v : VecSt) (e : Nat) (x : FVal) : VecSt × Nat :=
  let m := elemMode round v e
  (noteVal m.2 (roundTo fd m.1 x), encodeElem fd m.1 x)

/-- The formats mix floating point and INT32 (R206). -/
def mixes (fs : List Nat) : Bool := fs.any (fun f => f == 9) && fs.any (fun f => !isIntFmt f)

/-- The formats of an operation agree (R206, R207). -/
def arithFormats (v : VecCmd) (useB : Bool) : Bool :=
  if v.op == 9 then v.fb == 9 && !mixes [v.fa, v.fd]
  else if 10 ≤ v.op then v.fa == 9 && v.fb == 9 && v.fd == 9
  else !mixes ([v.fa, v.fd] ++ (if useB then [v.fb] else []))

/-- Operation and result are of integers alone; B of SCALE2 and of the operations without one does not count. -/
def allInts (v : VecCmd) : Bool :=
  isIntFmt v.fa && isIntFmt v.fd && (isIntFmt v.fb || v.op == 6 || v.op == 7 || v.op == 8 || v.op == 9)

/-- One element of VEC.ARITH. -/
def arithElem (v : VecCmd) (s : VecSt) (e : Nat) (a b x : FVal) : VecSt × Nat :=
  if allInts v && v.op == 9 then
    let m := elemMode v.round s e
    let y := a.scale (clampInt (-4000) 4000 b.toInt)
    let i : Int := match y with
      | .fin n k z => sgn n (roundMag m.1 k z 0)
      | _ => 0
    storeInt v.fd 9 m.2 i
  else if allInts v then storeInt v.fd v.op s (intOp v.op a.toInt b.toInt x.toInt)
  else storeRounded v.fd v.round s e (floatOp v.op a b x)

/-- One row of VEC.ARITH; `bo` none: B is immediate, and so is A with `ao` none. -/
def arithRow (c : Cmd) (v : VecCmd) (ao bo : Option Opnd) (dst : Opnd) (d : Dev) (r : Nat) : Acc Dev := do
  let act ← rowMask d c.core c.logical v.mask r v.count
  let a ← match ao with
    | some o => rowValues d c.core c.logical o r v.fa act
    | none => .ok (act.map (fun _ => immValue v.fa v.srcA))
  let b ← rowB d c v bo r act
  let x ← if v.op == 3 then rowValues d c.core c.logical dst r v.fd act else .ok []
  let old := rowCodes d c.core c.logical dst r v.fd v.count
  let out := mapElems act v.zeroing old (fun s e => arithElem v s e (nth a e) (nth b e) (nth x e)) (vecStart d c.core)
  .ok (putElems (vecEnd d c.core out.1) c.core c.logical dst r (elemBits v.fd) (written act v.zeroing) (packElems v.fd out.2))

/-- The rows of VEC.ARITH. -/
def arithRows (d : Dev) (c : Cmd) (v : VecCmd) (ao bo : Option Opnd) (dst : Opnd) : Acc Dev :=
  (List.range v.rows).foldlM (arithRow c v ao bo dst) d

/-- A range check of each operand. -/
def allFit (d : Dev) (l : Nat) (os : List Opnd) : Bool := os.all (opndFits d l)

/-- The mask as a source. -/
def maskOpnds (v : VecCmd) : List Opnd := v.mask.toList

/-- A vector command whose fields, formats and operands are legal. -/
structure VecPlan where
  v   : VecCmd
  a   : Option Opnd := none
  b   : Option Opnd := none
  sc  : Option Opnd := none
  dst : Opnd

/-- What VEC.ARITH asks of its command (R205 to R207). -/
def vecArithPlan (d : Dev) (c : Cmd) : Acc VecPlan := do
  let v ← vecFields d c
  let useB := !(v.op == 6 || v.op == 7 || v.op == 8)
  legal (decide (v.op ≤ 15) && arithFormats v useB)
  let a ← opndOf v.srcA v.spitch v.rows (rowBytes v.fa v.count)
  let b ← if useB && !v.immB then (opndOf v.srcB v.spitch v.rows (rowBytes v.fb v.count)).map some else .ok none
  let dst ← opndOf v.dst v.dpitch v.rows (rowBytes v.fd v.count)
  let srcs := [a] ++ b.toList ++ maskOpnds v
  legal (allFit d c.logical (dst :: srcs) && destOk dst srcs)
  .ok { v := v, a := some a, b := b, dst := dst }

/-- The formats of VEC.ARITH's operands that it reads or writes. -/
def arithWidths (v : VecCmd) : List Nat := [v.fa, v.fd] ++ (if v.op == 6 || v.op == 7 || v.op == 8 then [] else [v.fb])

/-- VEC.ARITH. -/
def vecArithCmd (d : Dev) (c : Cmd) : Acc Issued := do
  let p ← vecArithPlan d c
  let d ← arithRows d c p.v p.a p.b p.dst
  .ok (.next (vecBusy d p.v (arithWidths p.v) 0))

def execVecArith (core : Nat) (s : State) : Out := onDev (isCore core) (fun _ d => issue core 2 (fun o => o == 0x50) (inQueue .vec vecArithCmd) d) s

/-- What VEC.FILL asks of its command; with IMM_B clear B comes from memory. -/
def vecFillPlan (d : Dev) (c : Cmd) : Acc VecPlan := do
  let v ← vecFields d c
  legal (v.op == 0 && !mixes [v.fb, v.fd])
  let dst ← opndOf v.dst v.dpitch v.rows (rowBytes v.fd v.count)
  let b ← if v.immB then .ok none else (opndOf v.srcB v.spitch v.rows (rowBytes v.fb v.count)).map some
  let srcs := b.toList ++ maskOpnds v
  legal (allFit d c.logical (dst :: srcs) && destOk dst srcs)
  .ok { v := { v with op := 8, fa := v.fb, srcA := v.srcB, immB := true }, a := b, dst := dst }

/-- VEC.FILL: B to every active element. -/
def vecFillCmd (d : Dev) (c : Cmd) : Acc Issued := do
  let p ← vecFillPlan d c
  let d ← arithRows d c p.v p.a none p.dst
  .ok (.next (vecBusy d p.v [p.v.fd] 0))

def execVecFill (core : Nat) (s : State) : Out := onDev (isCore core) (fun _ d => issue core 2 (fun o => o == 0x56) (inQueue .vec vecFillCmd) d) s

/-! ## VEC.CVT (R131 to R135) -/

/-- A conversion that is exact and takes no mode (R131). -/
def exactCvt (fa fd : Nat) : Bool := fd == 10 || (fd == 8 && decide (elemBits fa < 32))

/-- One element converted to a format that is not MX; a NaN made an integer sets NAN_SEEN (R135). -/
def cvtElem (v : VecCmd) (s : VecSt) (e : Nat) (x : FVal) : VecSt × Nat :=
  let m := if exactCvt v.fa v.fd then (RMode.rne, s) else elemMode v.round s e
  let y := if isIntFmt v.fd then x else roundTo v.fd m.1 x
  (noteVal (noteVal m.2 x) y, encodeElem v.fd m.1 x)

/-- The modes of a block's active elements, in order. -/
def blockModes (v : VecCmd) (idx : List Nat) (s : VecSt) : VecSt × List RMode :=
  idx.foldl (fun acc e =>
    let m := elemMode v.round acc.1 e
    (m.2, acc.2 ++ [m.1])) (s, [])

/-- One block of a row made MX (R133): its scale byte and the codes of its 32 elements. -/
def cvtBlock (v : VecCmd) (act : List Bool) (a : List FVal) (old : List Nat) (oldScale : Nat) (s : VecSt) (k : Nat) :
    VecSt × Nat × List Nat :=
  let es := (List.range 32).map (· + 32 * k)
  let on (e : Nat) : Bool := (act[e]?).getD false
  let idx := es.filter on
  let keep (e : Nat) : Nat := if v.zeroing then 0 else (old[e]?).getD 0
  if idx.isEmpty then (s, (if v.zeroing then 0 else oldScale), es.map keep)
  else
    let m := blockModes v idx s
    let q := mxBlock v.fd (idx.map (nth a)) m.2
    let s2 := idx.foldl (fun s e => noteVal s (nth a e)) m.1
    (s2, q.1, es.map (fun e => if on e then ((idx.zip q.2).find? (fun p => p.1 == e)).map (·.2) |>.getD 0 else keep e))

/-- The operand of a row's packed scale bytes (R205). -/
def scaleOpnd (v : VecCmd) : Acc Opnd := opndOf v.srcB ((v.count + 31) / 32) v.rows (v.count / 32)

/-- One row of VEC.CVT. -/
def cvtRow (d : Dev) (c : Cmd) (v : VecCmd) (a dst : Opnd) (sc : Option Opnd) (r : Nat) (s : VecSt) : Acc (Dev × VecSt) := do
  let act ← rowMask d c.core c.logical v.mask r v.count
  let vals ← rowValues d c.core c.logical a r v.fa act
  let scBytes := match sc with
    | some o => opndRow d c.core c.logical o r
    | none => []
  let poisonScale := match sc with
    | some o => isMx v.fa && (List.range (v.count / 32)).any (fun k =>
        ((act.drop (32 * k)).take 32).any id && poisonedAt d.poison (opndCell d c.core c.logical o r + k) 1)
    | none => false
  if poisonScale then .error (fltPoison 0) else
    let vals := if isMx v.fa then vals.zipIdx.map (fun e => scaled e.1 (fieldLe scBytes (e.2 / 32) 1)) else vals
    let old := rowCodes d c.core c.logical dst r v.fd v.count
    if isMx v.fd then
      let out := (List.range (v.count / 32)).foldl (fun acc k =>
        let b := cvtBlock v act vals old (fieldLe scBytes k 1) acc.1 k
        (b.1, acc.2.1 ++ [BitVec.ofNat 8 b.2.1], acc.2.2 ++ b.2.2)) (s, ([], []))
      let on := written act v.zeroing
      let d := putElems d c.core c.logical dst r (elemBits v.fd) on (packElems v.fd out.2.2)
      let blocks := (List.range (v.count / 32)).map (fun k => ((on.drop (32 * k)).take 32).any id)
      match sc with
      | some o => .ok (putElems d c.core c.logical o r 8 blocks out.2.1, out.1)
      | none => .ok (d, out.1)
    else
      let out := mapElems act v.zeroing old (fun s e => cvtElem v s e (nth vals e)) s
      .ok (putElems d c.core c.logical dst r (elemBits v.fd) (written act v.zeroing) (packElems v.fd out.2), out.1)

/-- What VEC.CVT asks of its command (R131, R205). -/
def vecCvtPlan (d : Dev) (c : Cmd) : Acc VecPlan := do
  let v ← vecFields d c
  let mx := isMx v.fa || isMx v.fd
  legal (v.op == 0 && (!mx || v.count % 32 == 0))
  let a ← opndOf v.srcA v.spitch v.rows (rowBytes v.fa v.count)
  let dst ← opndOf v.dst v.dpitch v.rows (rowBytes v.fd v.count)
  let sc ← if mx then (scaleOpnd v).map some else .ok none
  let srcs := [a] ++ maskOpnds v ++ (if isMx v.fa then sc.toList else [])
  legal (allFit d c.logical (dst :: (srcs ++ sc.toList)) && destOk dst srcs)
  legal (!isMx v.fd || sc.all (fun o => destOk o (a :: maskOpnds v)))
  .ok { v := v, a := some a, sc := sc, dst := dst }

/-- VEC.CVT: a NaN that becomes an integer sets NAN_SEEN in PIP (R135). -/
def vecCvtCmd (d : Dev) (c : Cmd) : Acc Issued := do
  let p ← vecCvtPlan d c
  let v := p.v
  let r ← (List.range v.rows).foldlM (fun acc r => cvtRow acc.1 c v (p.a.getD p.dst) p.dst p.sc r acc.2) (d, vecStart d c.core)
  let d := vecBusy (vecEnd r.1 c.core r.2) v [v.fa, v.fd] 0
  .ok (.next (if r.2.nan && isIntFmt v.fd then deposit d c.core v.pip { nanSeen := true } else d))

def execVecCvt (core : Nat) (s : State) : Out := onDev (isCore core) (fun _ d => issue core 2 (fun o => o == 0x51) (inQueue .vec vecCvtCmd) d) s

/-! ## VEC.CMP (R207) -/

/-- One comparison; a NaN compares false except under NE. -/
def cmpElem (op : Nat) (a b : FVal) : Bool :=
  let o := a.cmp b
  match op with
  | 0 => o == some .eq
  | 1 => !(o == some .eq)
  | 2 => o == some .lt
  | 3 => o == some .lt || o == some .eq
  | 4 => o == some .gt
  | 5 => o == some .gt || o == some .eq
  | 6 => a.isNan
  | _ => a.isInf

/-- Packs bits into bytes over the bits already there. -/
def packBits (old : List Byte) (bits : List Bool) : List Byte :=
  old.zipIdx.map (fun e => BitVec.ofNat 8 (((List.range 8).map (fun i =>
    (match bits[8 * e.2 + i]? with
     | some b => bit b
     | none => bit (e.1.getLsbD i)) * 2 ^ i)).foldl (· + ·) 0))

/-- What VEC.CMP asks of its command. -/
def vecCmpPlan (d : Dev) (c : Cmd) : Acc VecPlan := do
  let v ← vecFields d c
  let unary := v.op == 6 || v.op == 7
  legal (decide (v.op ≤ 7) && (unary || !mixes [v.fa, v.fb]))
  let a ← opndOf v.srcA v.spitch v.rows (rowBytes v.fa v.count)
  let b ← if !unary && !v.immB then (opndOf v.srcB v.spitch v.rows (rowBytes v.fb v.count)).map some else .ok none
  let dst ← opndOf v.dst v.dpitch v.rows ((v.count + 7) / 8)
  let srcs := [a] ++ b.toList ++ maskOpnds v
  legal (allFit d c.logical (dst :: srcs) && destOk dst srcs)
  .ok { v := v, a := some a, b := b, dst := dst }

/-- One row of VEC.CMP. -/
def cmpRow (c : Cmd) (v : VecCmd) (a : Opnd) (b : Option Opnd) (dst : Opnd) (d : Dev) (r : Nat) : Acc Dev := do
  let act ← rowMask d c.core c.logical v.mask r v.count
  let x ← rowValues d c.core c.logical a r v.fa act
  let y ← rowB d c v b r act
  let old := opndRow d c.core c.logical dst r
  let bits := act.zipIdx.map (fun e =>
    if e.1 then cmpElem v.op (nth x e.2) (nth y e.2)
    else if v.zeroing then false else natBit (fieldLe old (e.2 / 8) 1) (e.2 % 8))
  .ok (putElems d c.core c.logical dst r 1 (written act v.zeroing) (packBits old bits))

/-- VEC.CMP: one mask bit for each element. -/
def vecCmpCmd (d : Dev) (c : Cmd) : Acc Issued := do
  let p ← vecCmpPlan d c
  let d ← (List.range p.v.rows).foldlM (cmpRow c p.v (p.a.getD p.dst) p.b p.dst) d
  .ok (.next (vecBusy d p.v ([p.v.fa] ++ (if p.v.op == 6 || p.v.op == 7 then [] else [p.v.fb])) 0))

def execVecCmp (core : Nat) (s : State) : Out := onDev (isCore core) (fun _ d => issue core 2 (fun o => o == 0x52) (inQueue .vec vecCmpCmd) d) s

/-! ## VEC.REDUCE (R209, R288, R289) -/

/-- One addition rounded to the accumulation format. -/
def addRound (acc : Nat) (a b : FVal) : FVal := roundTo acc .rne (a.add b)

/-- A fixed pairwise tree over partials; its shape is not the spec's to name. -/
def treeSum (acc : Nat) : Nat → List FVal → FVal
  | 0, l => (l[0]?).getD FVal.zero
  | n + 1, l =>
    let h := l.length / 2
    let at_ (i : Nat) : FVal := (l[i]?).getD FVal.zero
    if l.length ≤ 1 then at_ 0
    else if Config.laneTree % 2 == 0 then treeSum acc n ((List.range h).map (fun i => addRound acc (at_ (2 * i)) (at_ (2 * i + 1))))
    else treeSum acc n ((List.range h).map (fun i => addRound acc (at_ i) (at_ (h + i))))

/-- SUM or SUMSQ of indexed values by `w` lanes. -/
def laneSum (acc w : Nat) (sq : Bool) (items : List (Nat × FVal)) : FVal :=
  let lane (j : Nat) : FVal := (items.filter (fun e => e.1 % w == j)).foldl (fun s e => addRound acc s (if sq then e.2.mul e.2 else e.2)) FVal.zero
  treeSum acc 16 ((List.range w).map lane)

/-- A floating-point reduction over the active items of a row (R209). -/
def floatReduce (op acc w : Nat) (items : List (Nat × FVal)) : FVal :=
  let vs := items.map (·.2)
  let best (f : FVal → FVal → FVal) (z : FVal) (l : List FVal) : FVal := match l with
    | [] => z
    | x :: xs => xs.foldl f x
  if vs.any FVal.isNan then .nan
  else match op with
    | 0 => if vs.any (· == .inf true) && vs.any (· == .inf false) then .nan else laneSum acc w false items
    | 1 => if vs.any (· == .inf true) && vs.any (· == .inf false) then .nan else laneSum acc w true items
    | 2 => best FVal.max (.inf true) vs
    | 3 => best FVal.min (.inf false) vs
    | _ => best FVal.max FVal.zero (vs.map FVal.abs)

/-- An integer reduction; none when the spec states no result (an empty MAX or MIN). -/
def intReduce (op : Nat) (vs : List Int) : Option Int :=
  match op with
  | 0 => some (vs.foldl (· + ·) 0)
  | 1 => some ((vs.map (fun x => x * x)).foldl (· + ·) 0)
  | 2 => match vs with
    | [] => none
    | x :: xs => some (xs.foldl max x)
  | 3 => match vs with
    | [] => none
    | x :: xs => some (xs.foldl min x)
  | _ => some ((vs.map (fun x => (x.natAbs : Int))).foldl max 0)

/-- R288: the index, and the line of its table that settled the row. -/
def argmaxOf (strict : Bool) (items : List (Nat × FVal)) : Int × Nat :=
  match items with
  | [] => (-1, 1)
  | _ =>
    match (if strict then items.find? (fun e => e.2.isNan) else none) with
    | some e => (e.1, 2)
    | none =>
      let live := items.filter (fun e => !e.2.isNan)
      match live with
      | [] => (0, 3)
      | x :: xs =>
        let b := xs.foldl (fun (m : Nat × FVal) e => if m.2.lt e.2 then e else m) x
        (b.1, if live.length < items.length then 4 else 5)

/-- What VEC.REDUCE gathers over its rows. -/
structure RedSt where
  d       : Dev
  v       : VecSt
  floats  : List FVal := []
  ints    : List Int := []
  settled : Nat := 0

/-- The integer a stored result of an integer reduction stands for. -/
def storedInt (fd q : Nat) : Int := if isIntFmt fd then signedOf (elemBits fd) q else (decodeElem fd q).toInt

/-- One row of VEC.REDUCE: its result is written and noted. -/
def reduceRow (c : Cmd) (v : VecCmd) (a dst : Opnd) (s : RedSt) (r : Nat) : Acc RedSt := do
  let d := s.d
  let act ← rowMask d c.core c.logical v.mask r v.count
  let x ← rowValues d c.core c.logical a r v.fa act
  let items := (x.zipIdx.zip act).filterMap (fun e => if e.2 then some (e.1.2, e.1.1) else none)
  let st := { s.v with none_ := s.v.none_ || items.isEmpty }
  let st := items.foldl (fun st e => noteVal st e.2) st
  let put (i : Int) : Dev := putRow d c.core c.logical dst r (leBytes 4 (i % (2 ^ 32 : Int)).toNat)
  match v.op with
  | 6 =>
    let m := argmaxOf (v.aux == 1) items
    .ok { s with d := put m.1, v := { st with nan := st.nan || m.2 == 2 || m.2 == 3 || m.2 == 4 }, settled := s.settled + bit (decide (m.2 ≤ 4)) }
  | 5 => .ok { s with d := put items.length, v := st, ints := s.ints ++ [(items.length : Int)] }
  | op =>
    if isIntFmt v.fa then
      match intReduce op (items.map (fun e => e.2.toInt)) with
      | some i =>
        let q := if isIntFmt v.fd then storeInt v.fd (if op ≤ 1 then 0 else 6) st i else storeRounded v.fd v.round st 0 (FVal.ofInt i)
        .ok { s with d := putRow d c.core c.logical dst r (packElems v.fd [q.2]), v := q.1, ints := s.ints ++ [storedInt v.fd q.2] }
      | none =>
        let q := (Config.freeDword st.free).toNat % 2 ^ elemBits v.fd
        .ok { s with d := putRow d c.core c.logical dst r (packElems v.fd [q]), v := { st with free := st.free + 1 }, ints := s.ints ++ [storedInt v.fd q] }
    else
      let y := floatReduce op (if v.fa == 10 then 10 else 8) (vecWidth [v.fa]) items
      let m := elemMode v.round st 0
      let z := if isIntFmt v.fd then decodeElem v.fd (encodeElem v.fd m.1 y) else roundTo v.fd m.1 y
      .ok { s with d := putRow d c.core c.logical dst r (packElems v.fd [encodeElem v.fd m.1 y]), v := noteVal m.2 z, floats := s.floats ++ [z] }

/-- The deposit of a REDUCE: the same reduction over the rows' results in row order, integer sums wrapping as INT32; COUNT adds them; ARGMAX counts the rows
settled by lines 1 to 4 (R209, R289). -/
def reduceDeposit (v : VecCmd) (s : RedSt) : Pip :=
  let flags : Pip := { nanSeen := s.v.nan, infSeen := s.v.inf, allMasked := s.v.none_ }
  if v.op == 6 then { flags with value := BitVec.ofNat 64 s.settled, type := .int64 }
  else if v.op == 5 then { flags with value := BitVec.ofInt 64 ((intReduce 0 s.ints).getD 0), type := .int64 }
  else if isIntFmt v.fa then
    let i := (intReduce v.op s.ints).getD 0
    { flags with value := BitVec.ofInt 64 (if v.op ≤ 1 then signedOf 32 (i % (2 ^ 32 : Int)).toNat else i), type := .int64 }
  else
    let y := floatReduce v.op (if v.fa == 10 then 10 else 8) 1 (s.floats.zipIdx.map (fun e => (e.2, e.1)))
    { flags with value := BitVec.ofNat 64 (encodeElem 10 .rne y), type := .fp64, nanSeen := flags.nanSeen || y.isNan, infSeen := flags.infSeen || y.isInf }

/-- What VEC.REDUCE asks of its command. -/
def vecReducePlan (d : Dev) (c : Cmd) : Acc VecPlan := do
  let v ← vecFields d c
  let idx := v.op == 5 || v.op == 6
  legal (decide (v.op ≤ 6) && (idx || !mixes [v.fa, v.fd])
    && (!(v.op == 6) || v.fa == 0 || v.fa == 1 || v.fa == 8))
  let a ← opndOf v.srcA v.spitch v.rows (rowBytes v.fa v.count)
  let dst ← opndOf v.dst v.dpitch v.rows (if idx then 4 else rowBytes v.fd 1)
  let srcs := a :: maskOpnds v
  legal (allFit d c.logical (dst :: srcs) && destOk dst srcs)
  .ok { v := v, a := some a, dst := dst }

/-- VEC.REDUCE. -/
def vecReduceCmd (d : Dev) (c : Cmd) : Acc Issued := do
  let p ← vecReducePlan d c
  let v := p.v
  let s ← (List.range v.rows).foldlM (reduceRow c v (p.a.getD p.dst) p.dst) { d := d, v := vecStart d c.core }
  let d := vecBusy (vecEnd s.d c.core s.v) v [v.fa] 4
  .ok (.next (if v.deposit then deposit d c.core v.pip (reduceDeposit v s) else d))

def execVecReduce (core : Nat) (s : State) : Out := onDev (isCore core) (fun _ d => issue core 2 (fun o => o == 0x53) (inQueue .vec vecReduceCmd) d) s

/-! ## VEC.GATHER and VEC.SCATTER (R210) -/

/-- The offset of an indexed element inside a partition, from an operand's base. -/
def indexed (d : Dev) (l part base fmt : Nat) (i : Int) : Acc Nat :=
  let b := elemBits fmt / 8
  let o := (base : Int) + i * b
  if i < 0 || decide (((partition (d.coreRec l) part).2 : Int) < o + b) then .error fltIllegal else .ok o.toNat

/-- Formats of a gather or a scatter: A and D do not mix, B is INT32. -/
def moveFormats (v : VecCmd) : Bool := v.fb == 9 && !mixes [v.fa, v.fd]

/-- An indexed element of `n` bytes at `off` of an operand's partition meets rows of another operand, when the two operands are not
identical (R206). -/
def elemMeets (a : Opnd) (off n : Nat) (o : Opnd) (pitchA : Nat) : Bool :=
  !(a.part == o.part && a.off == o.off && pitchA == o.pitch) && opndMeet { part := a.part, off := off, pitch := 0, rows := 1, n := n } o

/-- A value converted between formats of one kind. -/
def moveElem (v : VecCmd) (s : VecSt) (e : Nat) (x : FVal) : VecSt × Nat :=
  if v.fa == v.fd then (s, encodeElem v.fd .rne x) else storeRounded v.fd v.round s e x

/-- What VEC.GATHER asks of its command. -/
def vecGatherPlan (d : Dev) (c : Cmd) : Acc VecPlan := do
  let v ← vecFields d c
  legal (moveFormats v)
  let a ← opndOf v.srcA 0 1 0
  let b ← if v.immB then .ok none else (opndOf v.srcB v.spitch v.rows (rowBytes v.fb v.count)).map some
  let dst ← opndOf v.dst v.dpitch v.rows (rowBytes v.fd v.count)
  let srcs := b.toList ++ maskOpnds v
  legal (allFit d c.logical (dst :: srcs) && destOk dst srcs)
  .ok { v := v, a := some a, b := b, dst := dst }

/-- The value index `i` supplies: −1 supplies 0. The element is part of the source that DST may not overlap (R206). -/
def gatherElem (d : Dev) (c : Cmd) (v : VecCmd) (a dst : Opnd) (act : Bool) (i : Int) : Acc FVal :=
  if !act || i == -1 then .ok FVal.zero else do
    let o ← indexed d c.logical a.part a.off v.fa i
    legal (!elemMeets a o (elemBits v.fa / 8) dst v.spitch)
    let bs ← partRead d c.core c.logical a.part o (elemBits v.fa / 8)
    .ok (decodeElem v.fa (leNat bs))

/-- One row of VEC.GATHER. -/
def gatherRow (c : Cmd) (v : VecCmd) (a : Opnd) (b : Option Opnd) (dst : Opnd) (d : Dev) (r : Nat) : Acc Dev := do
  let act ← rowMask d c.core c.logical v.mask r v.count
  let ix ← rowB d c v b r act
  let vals ← (ix.zip act).mapM (fun e => gatherElem d c v a dst e.2 e.1.toInt)
  let old := rowCodes d c.core c.logical dst r v.fd v.count
  let out := mapElems act v.zeroing old (fun s e => moveElem v s e (nth vals e)) (vecStart d c.core)
  .ok (putElems (vecEnd d c.core out.1) c.core c.logical dst r (elemBits v.fd) (written act v.zeroing) (packElems v.fd out.2))

/-- VEC.GATHER: element e of D is element B[e] of A. -/
def vecGatherCmd (d : Dev) (c : Cmd) : Acc Issued := do
  let p ← vecGatherPlan d c
  let d ← (List.range p.v.rows).foldlM (gatherRow c p.v (p.a.getD p.dst) p.b p.dst) d
  .ok (.next (vecBusy d p.v [p.v.fa, p.v.fd] 0))

def execVecGather (core : Nat) (s : State) : Out := onDev (isCore core) (fun _ d => issue core 2 (fun o => o == 0x54) (inQueue .vec vecGatherCmd) d) s

/-- One element of a scatter, in row-major position order; it may lie in no source that DST is not identical to (R206). -/
def scatterElem (c : Cmd) (v : VecCmd) (dst : Opnd) (srcs : List Opnd) (d : Dev) (e : Nat) (x i : FVal) : Acc Dev :=
  if i.toInt == -1 then .ok d else do
    let part := dst.part
    let o ← indexed d c.logical part dst.off v.fd i.toInt
    legal (!srcs.any (fun s => elemMeets dst o (elemBits v.fd / 8) s v.dpitch))
    let s := vecStart d c.core
    let q ← if v.op == 0 then .ok (moveElem v s e x) else do
      let bs ← partRead d c.core c.logical part o (elemBits v.fd / 8)
      let old := decodeElem v.fd (leNat bs)
      .ok (if isIntFmt v.fa && isIntFmt v.fd then storeInt v.fd 0 s (old.toInt + x.toInt) else storeRounded v.fd v.round s e (old.add x))
    partWrite (vecEnd d c.core q.1) c.core c.logical part o (packElems v.fd [q.2])

/-- What VEC.SCATTER asks of its command. -/
def vecScatterPlan (d : Dev) (c : Cmd) : Acc VecPlan := do
  let v ← vecFields d c
  legal (decide (v.op ≤ 1) && moveFormats v)
  let a ← opndOf v.srcA v.spitch v.rows (rowBytes v.fa v.count)
  let b ← if v.immB then .ok none else (opndOf v.srcB v.spitch v.rows (rowBytes v.fb v.count)).map some
  let dst ← opndOf v.dst v.dpitch v.rows 0
  legal (allFit d c.logical ([a] ++ b.toList ++ maskOpnds v) && !(dst.part == 2))
  .ok { v := v, a := some a, b := b, dst := dst }

/-- The sources of a scatter. -/
def scatterSrcs (v : VecCmd) (a : Opnd) (b : Option Opnd) : List Opnd := a :: (b.toList ++ maskOpnds v)

/-- One row of VEC.SCATTER. -/
def scatterRow (c : Cmd) (v : VecCmd) (a : Opnd) (b : Option Opnd) (dst : Opnd) (d : Dev) (r : Nat) : Acc Dev := do
  let act ← rowMask d c.core c.logical v.mask r v.count
  let x ← rowValues d c.core c.logical a r v.fa act
  let ix ← rowB d c v b r act
  (act.zipIdx).foldlM (fun d e => if e.1 then scatterElem c v dst (scatterSrcs v a b) d e.2 (nth x e.2) (nth ix e.2) else .ok d) d

/-- VEC.SCATTER: element e of A goes to element B[e] of D, or is added to it; −1 writes nothing. -/
def vecScatterCmd (d : Dev) (c : Cmd) : Acc Issued := do
  let p ← vecScatterPlan d c
  let d ← (List.range p.v.rows).foldlM (scatterRow c p.v (p.a.getD p.dst) p.b p.dst) d
  .ok (.next (vecBusy d p.v [p.v.fa, p.v.fd] 0))

def execVecScatter (core : Nat) (s : State) : Out := onDev (isCore core) (fun _ d => issue core 2 (fun o => o == 0x55) (inQueue .vec vecScatterCmd) d) s

end Sys2Proof.Machine
end

