-- ==== Sys2Proof/Machine/Special.lean ====
section
/-! DEFINITION. The special-function and row-statistics units (spec/09_special_functions.md R220 to R245). -/

namespace Sys2Proof.Machine

/-! ## Built-in functions (R227 to R229)

Only the accuracy bounds bind a built-in function. Each function is computed to far more than FP32 precision in fixed point
(400 fraction bits); the result is the free FP32 value of `Config.sfBits` where that lies within the bound, and the correctly
rounded value elsewhere (notes/assumptions/1.md). -/

/-- ln 2 in units of 2^-400. -/
def ln2Fix : Nat := 0xb17217f7d1cf79abc9e3b39803f2f6af40f343267298b62d8a0d175b8baafa2be7b876206debac98559552fb4afa1b10ed2e
/-- π/2 in units of 2^-600. -/
def halfPiFix : Nat := 0x1921fb54442d18469898cc51701b839a252049c1114cf98e804177d4c76273644a29410f31c6809bbdf2a33679a748636605614dbe4be286e9fc26adadaa3848bc90b6aecc4bcfd8de89885
/-- π in units of 2^-400. -/
def piFix : Nat := 0x3243f6a8885a308d313198a2e03707344a4093822299f31d0082efa98ec4e6c89452821e638d01377be5466cf34e90c6cc0ac

/-- One, in units of 2^-400. -/
def oneFix : Nat := 2 ^ 400

/-- A sum of t^k / k! from a term on, in fixed point; `step` says how k rises, `alt` alternates the signs. -/
def powerSum (t step : Nat) (alt : Bool) : Nat → Nat → Nat → Int
  | 0, _, _ => 0
  | fuel + 1, k, term =>
    let next := (List.range step).foldl (fun (x : Nat) i => x * t / oneFix / (k + 1 + i)) term
    (term : Int) + (if alt then -1 else 1) * powerSum t step alt fuel (k + step) next

/-- e^t for 0 ≤ t < 1, in fixed point. -/
def expFix (t : Nat) : Int := powerSum t 1 false 100 0 oneFix
/-- cos t and sin t for 0 ≤ t < 1, in fixed point. -/
def cosFix (t : Nat) : Int := powerSum t 2 true 50 0 oneFix
def sinFix (t : Nat) : Int := powerSum t 2 true 50 1 t

/-- m · 2^e in units of 2^-p. -/
def toFix (p m : Nat) (e : Int) : Nat := if 0 ≤ e + p then m * 2 ^ (e + p).toNat else m / 2 ^ (-(e + p)).toNat

/-- 2^x, near enough; below 2^-200 a value that rounds alike. -/
def exp2Near (x : FVal) : FVal :=
  match x with
  | .fin n m e =>
    if x.lt (.fin true 200 0) then .fin false 1 (-300) else
      let f := toFix 400 m e
      let v : Int := if n then -(f : Int) else f
      let i := v / (oneFix : Int)
      let r := (v % (oneFix : Int)).toNat
      .fin false (expFix (r * ln2Fix / oneFix)).toNat (i - 400)
  | _ => .nan

/-- The first 160 fraction bits of log2 y, y in [1, 2) in fixed point, most significant first. -/
def log2Bits : Nat → Nat → Nat → Nat
  | 0, _, acc => acc
  | fuel + 1, y, acc =>
    let z := y * y / oneFix
    if 2 * oneFix ≤ z then log2Bits fuel (z / 2) (2 * acc + 1) else log2Bits fuel z (2 * acc)

/-- log2 x of a positive x, near enough. -/
def log2Near (x : FVal) : FVal :=
  match x with
  | .fin _ m e =>
    let l := Nat.log2 m
    ofSigned ((e + l) * (2 ^ 160 : Nat) + (log2Bits 160 (m * 2 ^ 400 / 2 ^ l) 0 : Nat)) (-160)
  | _ => .nan

/-- The quadrant of |x| and what is left of it, in units of 2^-400: radians, or half-turns turned into radians. -/
def reduceAngle (half : Bool) (m : Nat) (e : Int) : Nat × Int :=
  if half then
    let v := toFix 600 m e
    let unit := 2 ^ 599
    let k := (v + unit / 2) / unit
    (k, ((v : Int) - (k * unit : Nat)) * (piFix : Int) / (2 ^ 600 : Nat))
  else
    let v := toFix 600 m e
    let k := (v + halfPiFix / 2) / halfPiFix
    (k, ((v : Int) - (k * halfPiFix : Nat)) / (2 ^ 200 : Nat))

/-- sin or cos of x, near enough. -/
def trigNear (cos half : Bool) (x : FVal) : FVal :=
  match x with
  | .fin n m e =>
    let q := reduceAngle half m e
    let s := if q.2 < 0 then -(sinFix q.2.natAbs) else sinFix q.2.natAbs
    let c := cosFix q.2.natAbs
    let v := match (if cos then q.1 + 1 else q.1) % 4 with
      | 0 => s
      | 1 => c
      | 2 => -s
      | _ => -c
    ofSigned (if n && !cos then -v else v) (-400)
  | _ => .nan

/-- The exponent of the spacing of FP32 values at a finite value. -/
def ulpExp (v : FVal) : Int :=
  match v with
  | .fin _ m e => if m = 0 then -149 else max (ilog m e) (-126) - 23
  | _ => 104

/-- How far a result may lie from the exact one: a count of ulps, or an absolute 2^b (R227). -/
inductive Bound where
  /-- `sub`: subnormal results are bound too. -/
  | ulps (n : Nat) (sub : Bool)
  | absolute (b : Int)
deriving DecidableEq, Repr

/-- The result: the part's own value where it keeps the bound and the sign, else the correctly rounded one. An exact value
below the normal range of FP32 has no bound; the result is then zero or subnormal of its sign. -/
def sfPick (key : Nat) (exact : FVal) (b : Bound) : FVal :=
  let r := fp32 exact
  let z := decodeElem 8 (Config.sfBits key).toNat
  if z.isNan || z.isInf then r
  else match b with
    | .absolute k => if (pow2 k).lt (z.sub exact).abs then r else z
    | .ulps n sub =>
      if exact.isZero then (if (pow2 (-149)).lt z.abs then r else z)
      else if !(z.isNeg == exact.isNeg) then r
      else if exact.abs.lt (pow2 (-126)) && !sub then (if z.abs.lt (pow2 (-126)) then z else r)
      else if (FVal.fin false n (ulpExp r)).lt (z.sub exact).abs then r else z

/-- The index of a built-in's value in `Config.sfBits`. -/
def sfKey (fn : Nat) (half strict : Bool) (fmt bits : Nat) : Nat :=
  (((fn * 2 + bit half) * 2 + bit strict) * 16 + fmt) * 2 ^ 32 + bits

/-- The bound of a function at an argument (R227); the absolute bounds of LOG2 hold on [0.5, 2]. -/
def sfBound (fn : Nat) (strict : Bool) (x : FVal) : Bound :=
  match fn with
  | 1 =>
    if !(x.lt (pow2 (-1))) && !((pow2 1).lt x) then .absolute (if strict then -24 else -22)
    else .ulps (if strict then 1 else 2) false
  | 2 => .ulps 1 false
  | 4 => if strict then .ulps 1 false else .absolute (-22)
  | 5 => if strict then .ulps 1 false else .absolute (-22)
  | 0 => .ulps (if strict then 1 else 2) strict
  | _ => .ulps (if strict then 1 else 2) false

/-- The cases of R228, and otherwise a value within R227. `x` is not NaN and has been flushed where R226 asks. -/
def builtinCore (fn : Nat) (half strict : Bool) (fmt : Nat) (x : FVal) : FVal :=
  let pick (v : FVal) : FVal := sfPick (sfKey fn half strict fmt (encodeElem 8 .rne x)) v (sfBound fn strict x)
  match fn, x with
  | 0, .inf n => if n then FVal.zero else x
  | 0, .fin _ 0 _ => FVal.ofNat 1
  | 0, _ =>
    if !(x.lt (FVal.ofNat 128)) then .inf false
    else if !strict && x.lt (.fin true 126 0) then FVal.zero
    else pick (exp2Near x)
  | 1, .inf n => if n then .nan else x
  | 1, .fin n m _ => if m = 0 then .inf true else if n then .nan else pick (log2Near x)
  | 2, .inf n => .fin n 0 0
  | 2, .fin n m _ =>
    if m = 0 then .inf n
    else
      let q := (FVal.ofNat 1).div x
      if strict || (fp32 q).isInf then fp32 q else pick q
  | 3, .inf n => if n then .nan else FVal.zero
  | 3, .fin n m _ => if m = 0 then .inf n else if n then .nan else pick ((FVal.ofNat 1).div (x.sqrt))
  | 4, .inf _ => .nan
  | 4, .fin n m _ => if m = 0 then .fin n 0 0 else pick (trigNear false half x)
  | 5, .inf _ => .nan
  | 5, .fin _ m _ => if m = 0 then FVal.ofNat 1 else pick (trigNear true half x)
  | _, _ => x

/-- L2E. -/
def l2e : FVal := decodeElem 8 0x3FB8AA3B

/-- A built-in function in FP32 (R226 to R228); EXP takes EXP2 of its rounded product. -/
def builtin (fn : Nat) (half strict : Bool) (fmt : Nat) (x : FVal) : FVal :=
  if x.isNan then (if strict then .nan else FVal.zero)
  else if fn == 6 then builtinCore 0 half strict fmt (fp32 (x.mul l2e))
  else builtinCore fn half strict fmt x

/-! ## The command (R221, R222) -/

/-- Fields of a special-function or row command. -/
structure SfCmd where
  op      : Nat
  fn      : Nat
  fa      : Nat
  fd      : Nat
  strict  : Bool
  half    : Bool
  zeroing : Bool
  param   : Nat
  valid   : Nat
  pip     : Nat
  deposit : Bool
  rows    : Nat
  pad     : Nat
  dpitch  : Nat
  spitch  : Nat
  dst     : Nat
  src     : Nat
  mask    : Option Opnd

/-- BF16, FP16 or FP32. -/
def sfFmt (f : Nat) : Bool := f == 0 || f == 1 || f == 8

/-- The PARAM of a command is in range. -/
def paramOk (op param : Nat) : Bool :=
  let v := decodeElem 8 param
  match op with
  | 0x62 => !(v.isNan || v.isInf) && !(v.lt FVal.zero)
  | 0x63 => decide (1 ≤ param) && decide (param ≤ 4096)
  | 0x64 => !(v.isNan || v.isInf) && FVal.zero.lt v
  | _ => param == 0

/-- The fields, with the checks of R221 and R222 that they alone decide. -/
def sfFields (d : Dev) (c : Cmd) : Acc SfCmd := do
  let op := c.u 0 1
  let m := c.u 3 1
  let v := c.u 0x14 4
  let n := natBits v 23 0
  let merge := op == 0x63
  let outFmt := !(op == 0x62 || merge)
  legal ((if merge then c.u 2 1 == 0 else sfFmt (c.u 2 1)) && (if outFmt then sfFmt (m % 16) else m % 16 == 0)
    && natBits v 31 29 == 0 && (if merge then n == 0 else !(n == 0)) && !(c.u 0x18 2 == 0)
    && (outFmt || c.u 0x1E 2 == 0) && (op == 0x60 || op == 0x61 || c.u 1 1 == 0)
    && (!natBit m 5 || (op == 0x60 && (c.u 1 1 == 4 || c.u 1 1 == 5))) && paramOk op (c.u 0xC 4))
  let mask ← if natBit m 7 then (opndOf (c.u 0x10 4) (16 * c.u 0x1C 2) (c.u 0x18 2) ((n + 7) / 8)).map some else .ok none
  match mask with
  | some o => legal (opndFits d c.logical o)
  | none => .ok ()
  .ok { op := op, fn := c.u 1 1, fa := c.u 2 1, fd := m % 16, strict := natBit m 4, half := natBit m 5, zeroing := natBit m 6,
        param := c.u 0xC 4, valid := n, pip := natBits v 27 24, deposit := natBit v 28, rows := c.u 0x18 2, pad := c.u 0x1E 2,
        dpitch := 16 * c.u 0x1A 2, spitch := 16 * c.u 0x1C 2, dst := c.u 4 4, src := c.u 8 4, mask := mask }

/-- SF_BUSY counts the cycles of R224. -/
def sfBusy (d : Dev) (v : SfCmd) (perRow : Nat) : Dev := d.count 3 (v.rows * perRow)

/-- Lanes: 128 fast, 16 strict. -/
def sfLanes (v : SfCmd) : Nat := if v.strict then 16 else 128

/-- Ceiling of a quotient. -/
def ceilDiv (a b : Nat) : Nat := (a + b - 1) / b

/-- The source and destination operands, checked as R206 asks. -/
def sfOperands (d : Dev) (c : Cmd) (v : SfCmd) (srcBytes dstBytes : Nat) : Acc (Opnd × Opnd) := do
  let a ← opndOf v.src v.spitch v.rows srcBytes
  let dst ← opndOf v.dst v.dpitch v.rows dstBytes
  let srcs := a :: v.mask.toList
  legal (allFit d c.logical (dst :: srcs) && destOk dst srcs)
  .ok (a, dst)

/-! ## SF.BUILTIN and SF.TABLE -/

/-- What a special-function command threads through its elements: the flags it raises and the count it deposits. -/
structure SfSt where
  nan    : Bool := false
  inf    : Bool := false
  /-- A row had no active element. -/
  masked : Bool := false
  hits   : Nat := 0

/-- One active element: read, flushed, evaluated, rounded once, flushed (R226). -/
def sfElem (v : SfCmd) (table : Option (List Byte)) (s : SfSt) (x : FVal) : SfSt × Nat :=
  let y := if v.strict then x else flushTo v.fa x
  let asym := match table with
    | some b => !x.isNan && (match sfPiece b y with | .pos => true | .neg => true | _ => false)
    | none => false
  let f := match table with
    | some b => if x.isNan then (if v.strict then FVal.nan else FVal.zero) else sfEval b y
    | none => builtin v.fn v.half v.strict v.fd y
  let r := roundTo v.fd .rne f
  let r := if v.strict then r else flushTo v.fd r
  ({ s with nan := s.nan || x.isNan || r.isNan, inf := s.inf || x.isInf || r.isInf, hits := s.hits + bit (x.isNan || x.isInf || asym) },
    encodeElem v.fd .rne r)

/-- One row: active elements evaluated, inactive ones merged or zeroed, the PAD columns +0. -/
def sfRow (c : Cmd) (v : SfCmd) (table : Option (List Byte)) (a dst : Opnd) (acc : Dev × SfSt) (r : Nat) : Acc (Dev × SfSt) := do
  let d := acc.1
  let act ← rowMask d c.core c.logical v.mask r v.valid
  let vals ← rowValues d c.core c.logical a r v.fa act
  let old := rowCodes d c.core c.logical dst r v.fd v.valid
  let out := ((act.zip vals).zip old).foldl (fun (q : SfSt × List Nat) e =>
    if e.1.1 then
      let x := sfElem v table q.1 e.1.2
      (x.1, q.2 ++ [x.2])
    else (q.1, q.2 ++ [if v.zeroing then 0 else e.2])) ({ acc.2 with masked := acc.2.masked || act.all (fun x => !x) }, [])
  .ok (putElems d c.core c.logical dst r (elemBits v.fd) (written act v.zeroing ++ List.replicate v.pad true)
    (packElems v.fd (out.2 ++ List.replicate v.pad 0)), out.1)

/-- A special-function or row command whose fields and operands are legal. -/
structure SfPlan where
  v   : SfCmd
  a   : Opnd
  dst : Opnd

/-- The operands of SF.BUILTIN, SF.TABLE and ROW.SOFTMAX, PAD columns among the destination's. -/
def padPlan (d : Dev) (c : Cmd) (v : SfCmd) : Acc SfPlan := do
  let o ← sfOperands d c v (rowBytes v.fa v.valid) (rowBytes v.fd (v.valid + v.pad))
  .ok { v := v, a := o.1, dst := o.2 }

/-- Both special-function commands over their rows, and the deposit of R225. -/
def sfRun (d : Dev) (c : Cmd) (p : SfPlan) (table : Option (List Byte)) : Acc Issued := do
  let v := p.v
  let r ← (List.range v.rows).foldlM (sfRow c v table p.a p.dst) (d, {})
  let d := sfBusy r.1 v (ceilDiv (v.valid + v.pad) (sfLanes v))
  .ok (.next (if v.deposit then
    deposit d c.core v.pip { value := BitVec.ofNat 64 r.2.hits, type := .int64, nanSeen := r.2.nan, infSeen := r.2.inf, allMasked := r.2.masked } else d))

/-- What SF.BUILTIN asks of its command. -/
def sfBuiltinPlan (d : Dev) (c : Cmd) : Acc SfPlan := do
  let v ← sfFields d c
  legal (decide (v.fn ≤ 6))
  padPlan d c v

/-- SF.BUILTIN. -/
def sfBuiltinCmd (d : Dev) (c : Cmd) : Acc Issued := do
  let p ← sfBuiltinPlan d c
  sfRun d c p none

def execSfBuiltin (core : Nat) (s : State) : Out := onDev (isCore core) (fun _ d => issue core 3 (fun o => o == 0x60) (inQueue .row sfBuiltinCmd) d) s

/-- The table loaded in a slot; an empty body is an empty slot. -/
def Dev.sfTable (d : Dev) (slot : Nat) : List Byte :=
  match d.str.inForce with
  | some s => tabGet [] s.tables slot
  | none => []

/-- What SF.TABLE asks of its command: the slot it names is loaded. -/
def sfTablePlan (d : Dev) (c : Cmd) : Acc SfPlan := do
  let v ← sfFields d c
  legal (decide (v.fn ≤ 31) && !(d.sfTable v.fn).isEmpty)
  padPlan d c v

/-- SF.TABLE. -/
def sfTableCmd (d : Dev) (c : Cmd) : Acc Issued := do
  let p ← sfTablePlan d c
  sfRun d c p (some (d.sfTable p.v.fn))

def execSfTable (core : Nat) (s : State) : Out := onDev (isCore core) (fun _ d => issue core 3 (fun o => o == 0x61) (inQueue .row sfTableCmd) d) s

/-! ## Row statistics (R237 to R241) -/

/-- A count with Welford's mean and sum of squared deviations, and the maximum and the sum beside them. -/
structure Stat where
  n    : Nat := 0
  mean : FVal := FVal.zero
  m2   : FVal := FVal.zero
  max  : FVal := .inf true
  sum  : FVal := FVal.zero
  /-- An operation on the way has produced an infinity (spec/08_vector_engine.md R201). -/
  overflowed : Bool := false

/-- One FP32 operation. -/
def add32 (a b : FVal) : FVal := fp32 (a.add b)
def sub32 (a b : FVal) : FVal := fp32 (a.sub b)
def mul32 (a b : FVal) : FVal := fp32 (a.mul b)
def div32 (a b : FVal) : FVal := fp32 (a.div b)
def nat32 (n : Nat) : FVal := fp32 (FVal.ofNat n)

/-- Welford's rule for one element (R238). -/
def welford (s : Stat) (x : FVal) : Stat :=
  let n := s.n + 1
  let dlt := sub32 x s.mean
  let q := div32 dlt (nat32 n)
  let mean := add32 s.mean q
  let e := sub32 x mean
  let p := mul32 dlt e
  let m2 := add32 s.m2 p
  let sum := add32 s.sum x
  { n := n, mean := mean, m2 := m2, max := s.max.max x, sum := sum, overflowed := s.overflowed || [dlt, q, mean, e, p, m2, sum].any FVal.isInf }

/-- Chan's rule for mean and M2, with the maximum and the sum beside them; a side without elements is skipped, and the other stands
as it is (R238). -/
def chan (a b : Stat) : Stat :=
  if b.n = 0 then a else if a.n = 0 then b else
    let n := a.n + b.n
    let dlt := sub32 b.mean a.mean
    let na := nat32 a.n
    let nb := nat32 b.n
    let t := nat32 n
    let q := mul32 dlt (div32 nb t)
    let mean := add32 a.mean q
    let s := add32 a.m2 b.m2
    let sq := mul32 dlt dlt
    let w := mul32 sq (div32 (mul32 na nb) t)
    let m2 := add32 s w
    let sum := add32 a.sum b.sum
    { n := n, mean := mean, m2 := m2, max := a.max.max b.max, sum := sum
      overflowed := a.overflowed || b.overflowed || [dlt, q, mean, s, sq, w, m2, sum].any FVal.isInf }

/-- A fixed pairwise tree: neighbours, then pairs of neighbours (R223). -/
def pairTree {α : Type} (f : α → α → α) (z : α) : Nat → List α → α
  | 0, l => (l.head?).getD z
  | fuel + 1, l =>
    pairTree f z fuel ((List.range (l.length / 2)).map (fun i => f ((l[2 * i]?).getD z) ((l[2 * i + 1]?).getD z)))

/-- The elements of each of the 128 lanes, in increasing index (R223). -/
def lanesOf {α : Type} (l : List (Nat × α)) : List (List α) :=
  (List.range 128).map (fun k => (l.filter (fun e => e.1 % 128 == k)).map (·.2))

/-- The statistics of indexed elements. -/
def rowStat (l : List (Nat × FVal)) : Stat := pairTree chan {} 7 ((lanesOf l).map (fun xs => xs.foldl welford {}))

/-- VAR and RSTD of a record: M2 clamped at 0 before the division, epsilon after it (R237, R240). -/
def statVar (s : Stat) : FVal := if s.n = 0 then FVal.zero else div32 (s.m2.max FVal.zero) (nat32 s.n)
def statRstd (s : Stat) (eps : FVal) : FVal :=
  let a := add32 (statVar s) eps
  if a.isNan then .nan else builtinCore 3 false true 8 a

/-- The 32 bytes of a record (R237). -/
def statBytes (s : Stat) (var rstd : FVal) : List Byte :=
  let f (x : FVal) : List Byte := leBytes 4 (encodeElem 8 .rne x)
  leBytes 8 s.n ++ f s.mean ++ f s.m2 ++ f var ++ f rstd ++ f s.max ++ f s.sum

/-- What a row command gathers over its rows: the flags and the FP64 sum of the rows' SUM fields. -/
structure StatSt where
  nan   : Bool := false
  inf   : Bool := false
  none_ : Bool := false
  total : FVal := FVal.zero

/-- The statistics of a row under R241, with VAR and RSTD. -/
def statRow (strict : Bool) (eps : FVal) (l : List (Nat × FVal)) : Stat × FVal × FVal :=
  let vs := l.map (·.2)
  let nan := vs.any FVal.isNan
  if nan && strict then ({ n := l.length, mean := .nan, m2 := .nan, max := .nan, sum := .nan }, .nan, .nan)
  else
    let live := l.filter (fun e => !e.2.isNan)
    let s := rowStat live
    let pos := vs.any (· == .inf false)
    let neg := vs.any (· == .inf true)
    if pos && neg then ({ s with mean := .nan, m2 := .nan, max := .inf false, sum := .nan }, .nan, .nan)
    else if pos || neg then ({ s with m2 := .nan }, .nan, .nan)
    else (s, statVar s, statRstd s eps)

/-- The fields of a record that counts elements. -/
def statFields (s : Stat) (var rstd : FVal) : List FVal := if s.n = 0 then [] else [s.mean, s.m2, var, rstd, s.max, s.sum]

/-- A record that counts elements has, or has met, an infinity; or it holds a NaN (spec/08_vector_engine.md R201). -/
def statInf (s : Stat) (var rstd : FVal) : Bool := s.overflowed || (statFields s var rstd).any FVal.isInf
def statNan (s : Stat) (var rstd : FVal) : Bool := (statFields s var rstd).any FVal.isNan

/-- One row of ROW.STATS. -/
def statsRow (c : Cmd) (v : SfCmd) (a dst : Opnd) (acc : Dev × StatSt) (r : Nat) : Acc (Dev × StatSt) := do
  let d := acc.1
  let act ← rowMask d c.core c.logical v.mask r v.valid
  let vals ← rowValues d c.core c.logical a r v.fa act
  let l := (act.zip vals.zipIdx).filterMap (fun e => if e.1 then some (e.2.2, e.2.1) else none)
  let q := statRow v.strict (decodeElem 8 v.param) l
  let st := acc.2
  .ok (putRow d c.core c.logical dst r (statBytes q.1 q.2.1 q.2.2),
    { nan := st.nan || l.any (fun e => e.2.isNan) || statNan q.1 q.2.1 q.2.2, inf := st.inf || l.any (fun e => e.2.isInf) || statInf q.1 q.2.1 q.2.2,
      none_ := st.none_ || q.1.n == 0, total := fp64 (st.total.add q.1.sum) })

/-- The deposit of the row statistics commands (R225). -/
def statDeposit (d : Dev) (c : Cmd) (v : SfCmd) (s : StatSt) : Dev :=
  if v.deposit then
    deposit d c.core v.pip { value := BitVec.ofNat 64 (encodeElem 10 .rne s.total), type := .fp64, nanSeen := s.nan, infSeen := s.inf, allMasked := s.none_ }
  else d

/-- What ROW.STATS asks of its command. -/
def rowStatsPlan (d : Dev) (c : Cmd) : Acc SfPlan := do
  let v ← sfFields d c
  let o ← sfOperands d c v (rowBytes v.fa v.valid) 32
  legal (v.dst % 32 == 0)
  .ok { v := v, a := o.1, dst := o.2 }

/-- ROW.STATS. -/
def rowStatsCmd (d : Dev) (c : Cmd) : Acc Issued := do
  let p ← rowStatsPlan d c
  let v := p.v
  let r ← (List.range v.rows).foldlM (statsRow c v p.a p.dst) (d, {})
  .ok (.next (statDeposit (sfBusy r.1 v (ceilDiv v.valid 128 + 8)) c v r.2))

def execRowStats (core : Nat) (s : State) : Out := onDev (isCore core) (fun _ d => issue core 3 (fun o => o == 0x62) (inQueue .row rowStatsCmd) d) s

/-- A record read back. -/
def statOf (b : List Byte) (i : Nat) : Stat :=
  let o := 32 * i
  { n := fieldLe b o 8, mean := bodyF b (o + 8), m2 := bodyF b (o + 0xC), max := bodyF b (o + 0x18), sum := bodyF b (o + 0x1C) }

/-- One row of ROW.MERGE: the records fold from left to right (R239). -/
def mergeRow (c : Cmd) (v : SfCmd) (a dst : Opnd) (acc : Dev × StatSt) (r : Nat) : Acc (Dev × StatSt) := do
  let d := acc.1
  let cell := opndCell d c.core c.logical a r
  if poisonedAt d.poison cell a.n then .error (fltPoison 0) else
    let b := opndRow d c.core c.logical a r
    let rs := (List.range v.param).map (statOf b)
    let s := rs.tail.foldl chan ((rs.head?).getD {})
    let s := { s with n := s.n % 2 ^ 64 }
    let var := statVar s
    let rstd := statRstd s FVal.zero
    let read := rs.flatMap (fun x => statFields x FVal.zero FVal.zero)
    let st := acc.2
    .ok (putRow d c.core c.logical dst r (statBytes s var rstd),
      { nan := st.nan || read.any FVal.isNan || statNan s var rstd, inf := st.inf || read.any FVal.isInf || statInf s var rstd, none_ := st.none_ || s.n == 0, total := fp64 (st.total.add s.sum) })

/-- What ROW.MERGE asks of its command. -/
def rowMergePlan (d : Dev) (c : Cmd) : Acc SfPlan := do
  let v ← sfFields d c
  let o ← sfOperands d c v (32 * v.param) 32
  legal (v.dst % 32 == 0)
  .ok { v := v, a := o.1, dst := o.2 }

/-- ROW.MERGE. -/
def rowMergeCmd (d : Dev) (c : Cmd) : Acc Issued := do
  let p ← rowMergePlan d c
  let v := p.v
  let r ← (List.range v.rows).foldlM (mergeRow c v p.a p.dst) (d, {})
  .ok (.next (statDeposit (sfBusy r.1 v (4 * v.param + 4)) c v r.2))

def execRowMerge (core : Nat) (s : State) : Out := onDev (isCore core) (fun _ d => issue core 3 (fun o => o == 0x63) (inQueue .row rowMergeCmd) d) s

/-! ## Softmax (R242, R243) -/

/-- The sum of indexed values in the order of R223. -/
def laneTotal (l : List FVal) : FVal :=
  pairTree add32 FVal.zero 7 ((lanesOf (l.zipIdx.map (fun e => (e.2, e.1)))).map (fun xs => xs.foldl add32 FVal.zero))

/-- The largest of a list; −∞ when empty. -/
def maxOf (l : List FVal) : FVal := l.foldl FVal.max (.inf true)

/-- exp2 of an FP32 value in a lane mode (R226, R242). -/
def exp2Lane (strict : Bool) (x : FVal) : FVal :=
  if x.isNan then (if strict then .nan else FVal.zero)
  else if strict then builtinCore 0 false true 8 x
  else flushTo 8 (builtinCore 0 false false 8 (flushTo 8 x))

/-- exp2 of the scaled difference of a score and the row's maximum (R242). -/
def expDiff (strict : Bool) (s m : FVal) : FVal :=
  if s == .inf true then FVal.zero else exp2Lane strict (fp32 ((sub32 s m).mul l2e))

/-- A row of softmax. -/
structure SoftRow where
  out     : List FVal
  settled : Bool
  masked  : Bool
  infRow  : Bool

/-- The case table of R243, then R242; a masked column's score is −∞. -/
def softRow (strict : Bool) (scores : List FVal) : SoftRow :=
  let nan := scores.any FVal.isNan
  if nan && strict then { out := scores.map (fun _ => .nan), settled := true, masked := false, infRow := false }
  else
    let s := scores.map (fun x => if x.isNan then FVal.inf true else x)
    let k := (s.filter (· == .inf false)).length
    if s.all (· == .inf true) then { out := s.map (fun _ => FVal.zero), settled := true, masked := true, infRow := false }
    else if 0 < k then
      let p := div32 (FVal.ofNat 1) (nat32 k)
      { out := s.map (fun x => if x == .inf false then p else FVal.zero), settled := true, masked := false, infRow := true }
    else
      let m := maxOf s
      let e := s.map (fun x => expDiff strict x m)
      let r := div32 (FVal.ofNat 1) (laneTotal e)
      { out := e.map (fun x => mul32 x r), settled := nan, masked := false, infRow := false }

/-- What ROW.SOFTMAX gathers over its rows. -/
structure SoftSt where
  nan    : Bool := false
  inf    : Bool := false
  masked : Bool := false
  infRow : Bool := false
  count  : Nat := 0

/-- One row of ROW.SOFTMAX. -/
def softmaxRow (c : Cmd) (v : SfCmd) (a dst : Opnd) (acc : Dev × SoftSt) (r : Nat) : Acc (Dev × SoftSt) := do
  let d := acc.1
  let act ← rowMask d c.core c.logical v.mask r v.valid
  let vals ← rowValues d c.core c.logical a r v.fa act
  let p := decodeElem 8 v.param
  let scores := (act.zip vals).map (fun e => if e.1 then mul32 e.2 p else FVal.inf true)
  let q := softRow v.strict scores
  let live := (act.zip (vals.zip scores)).filter (·.1)
  let codes := q.out.map (encodeElem v.fd .rne)
  let st := acc.2
  .ok (putRow d c.core c.logical dst r (packElems v.fd (codes ++ List.replicate v.pad 0)),
    { nan := st.nan || live.any (fun e => e.2.1.isNan)
      inf := st.inf || live.any (fun e => e.2.1.isInf || e.2.2.isInf)
      masked := st.masked || q.masked
      infRow := st.infRow || q.infRow
      count := st.count + bit q.settled })

/-- What ROW.SOFTMAX asks of its command. -/
def rowSoftmaxPlan (d : Dev) (c : Cmd) : Acc SfPlan := do
  let v ← sfFields d c
  padPlan d c v

/-- ROW.SOFTMAX. -/
def rowSoftmaxCmd (d : Dev) (c : Cmd) : Acc Issued := do
  let p ← rowSoftmaxPlan d c
  let v := p.v
  let r ← (List.range v.rows).foldlM (softmaxRow c v p.a p.dst) (d, {})
  let d := sfBusy r.1 v (ceilDiv v.valid 128 + ceilDiv v.valid (sfLanes v) + ceilDiv (v.valid + v.pad) 128 + 12)
  .ok (.next (if v.deposit then
    deposit d c.core v.pip { value := BitVec.ofNat 64 r.2.count, type := .int64, nanSeen := r.2.nan, infSeen := r.2.inf, allMasked := r.2.masked, infRow := r.2.infRow }
    else d))

def execRowSoftmax (core : Nat) (s : State) : Out := onDev (isCore core) (fun _ d => issue core 3 (fun o => o == 0x64) (inQueue .row rowSoftmaxCmd) d) s

end Sys2Proof.Machine
end

