-- ==== Sys2Proof/Machine/Attention.lean ====
section
/-! DEFINITION. Fused attention and the paged key-value cache (spec/10_attention.md R246 to R270). -/

namespace Sys2Proof.Machine

/-! ## Shared parts -/

/-- Keys of a key step, B_k (R246). -/
def keyStep (kv : Nat) : Nat := if kv == 2 then 128 else 64

/-- Bytes of `n` elements of a format. -/
def elemBytes (fmt n : Nat) : Nat := n * elemBits fmt / 8

/-- HEAD_DIM is one the GL9 has. -/
def dimOk (n : Nat) : Bool := n == 64 || n == 128 || n == 256

/-- An address of R205 form: the space and the offset. -/
def spaceOf (v : Nat) : Nat × Nat := (v / 2 ^ 28, v % 2 ^ 28)

/-- Scratchpad or exchange buffers. -/
def localSpace (v : Nat) : Bool := v / 2 ^ 28 == 0 || v / 2 ^ 28 == 3

/-- A range lies inside a partition of a logical core. -/
def inPart (d : Dev) (l part off n : Nat) : Bool := decide (off + n ≤ (partition (d.coreRec l) part).2)

/-- `rows` rows of `n` bytes at a pitch lie inside a partition. -/
def rowsInPart (d : Dev) (l v pitch rows n : Nat) : Bool := inPart d l (spaceOf v).1 (spaceOf v).2 ((rows - 1) * pitch + n)

/-- Bytes at an address of R205 form. -/
def readAt (d : Dev) (core l v off n : Nat) : Acc (List Byte) := partRead d core l (spaceOf v).1 ((spaceOf v).2 + off) n

/-- alpha of R246. -/
def alphaOf (strict : Bool) (m mn : FVal) : FVal :=
  if m.cmp mn == some .eq then FVal.ofNat 1
  else if m == .inf true then FVal.zero
  else exp2Lane strict (fp32 ((sub32 m mn).mul l2e))

/-- A triple (R246). -/
structure Triple where
  m : FVal
  l : FVal
  o : List FVal

/-- The triple a command with FIRST starts from. -/
def freshTriple (dim : Nat) : Triple := { m := .inf true, l := FVal.zero, o := List.replicate dim FVal.zero }

/-- FP32 values of bytes. -/
def floatsOf (b : List Byte) (n : Nat) : List FVal := (List.range n).map (fun i => bodyF b (4 * i))

/-- The bytes of FP32 values. -/
def floatBytes (l : List FVal) : List Byte := l.flatMap (fun x => leBytes 4 (encodeElem 8 .rne x))

/-- The triple of row `r` in its regions (R252). -/
def readTriple (d : Dev) (core l acc dim r : Nat) : Acc Triple := do
  let ml ← partRead d core l 1 (acc + r * 256) 8
  let o ← (List.range (dim / 64)).foldlM (fun o q => do
    let b ← partRead d core l 1 (acc + (q + 1) * 32768 + r * 256) 256
    .ok (o ++ floatsOf b 64)) []
  .ok { m := bodyF ml 0, l := bodyF ml 4, o := o }

/-- Writes the triple of row `r`. -/
def writeTriple (d : Dev) (core l acc dim r : Nat) (t : Triple) : Acc Dev := do
  let d ← partWrite d core l 1 (acc + r * 256) (floatBytes [t.m, t.l])
  (List.range (dim / 64)).foldlM (fun d q =>
    partWrite d core l 1 (acc + (q + 1) * 32768 + r * 256) (floatBytes ((t.o.drop (64 * q)).take 64))) d

/-- Bytes of a triple's regions. -/
def tripleBytes (dim : Nat) : Nat := (1 + dim / 64) * 32768

/-! ## The descriptor of ATT.RUN (R250, R251) -/

/-- The command and its descriptor. -/
structure AttCmd where
  first     : Bool
  paged     : Bool
  strict    : Bool
  cache     : Bool
  keyFirst  : Nat
  keyCount  : Nat
  acc       : Nat
  score     : Nat
  sep       : Bool
  fq        : Nat
  kv        : Nat
  dim       : Nat
  rows      : Nat
  posDiv    : Nat
  maskMode  : Nat
  scale     : FVal
  q         : Nat
  qScale    : Nat
  qPitch    : Nat
  kvPitch   : Nat
  pBase     : Nat
  qPos      : Nat
  keyPos    : Nat
  window    : Nat
  mask      : Nat
  maskPitch : Nat
  seq       : Nat
  layer     : Nat
  head      : Nat
  k         : Nat
  v         : Nat
  kScale    : Nat
  vScale    : Nat

/-- The fields as they stand. -/
def attFields (c : Cmd) (b : List Byte) : AttCmd :=
  let ctl := c.u 1 1
  { first := natBit ctl 0, paged := natBit ctl 1, strict := natBit ctl 2, cache := natBit ctl 3, sep := natBit ctl 4
    keyFirst := c.u 8 4, keyCount := c.u 0xC 4, acc := c.u 0x10 4, score := c.u 0x14 4
    fq := fieldLe b 0 1, kv := fieldLe b 1 1, dim := fieldLe b 2 2, rows := fieldLe b 4 2, posDiv := fieldLe b 6 2
    maskMode := fieldLe b 8 1, scale := bodyF b 0xC, q := fieldLe b 0x10 4, qScale := fieldLe b 0x14 4
    qPitch := 16 * fieldLe b 0x18 2, kvPitch := 16 * fieldLe b 0x1A 2, pBase := fieldLe b 0x1C 4, qPos := fieldLe b 0x20 4
    keyPos := fieldLe b 0x24 4, window := fieldLe b 0x28 4, mask := fieldLe b 0x2C 4, maskPitch := 16 * fieldLe b 0x30 2
    seq := fieldLe b 0x32 2, layer := fieldLe b 0x34 1, head := fieldLe b 0x35 1, k := fieldLe b 0x38 4, v := fieldLe b 0x3C 4
    kScale := fieldLe b 0x40 4, vScale := fieldLe b 0x44 4 }

/-- Where the score regions begin (R252). -/
def AttCmd.scoreAt (a : AttCmd) : Nat := if a.sep then a.score else a.acc + tripleBytes a.dim
/-- Bytes of the score regions. -/
def AttCmd.scoreBytes (a : AttCmd) : Nat := 2 * (keyStep a.kv / 64) * 32768
/-- Bytes of the two P buffers, with scales for E4M3. -/
def AttCmd.pBytes (a : AttCmd) : Nat :=
  2 * (elemBytes a.kv (128 * keyStep a.kv) + (if a.kv == 2 then 128 * keyStep a.kv / 32 else 0))

/-- The ranges of R250 and R251 that no other state decides. -/
def attRanges (c : Cmd) (b : List Byte) (a : AttCmd) : Bool :=
  natBits (c.u 1 1) 7 5 == 0 && c.zero 2 2 && c.zero 0x18 8
    && decide (a.keyFirst < 2 ^ 24) && decide (1 ≤ a.keyCount) && decide (a.keyCount ≤ 1048576)
    && decide (a.keyFirst + a.keyCount ≤ 2 ^ 24) && a.acc % 4096 == 0 && a.score % 4096 == 0 && (a.sep || a.score == 0)
    && fieldLe b 9 3 == 0 && fieldLe b 0x36 2 == 0 && ((b.drop 0x48).take 24).all (· == 0)
    && decide (a.kv ≤ 2) && (pairK a.fq a.kv).isSome && dimOk a.dim && decide (1 ≤ a.rows) && decide (a.rows ≤ 128)
    && decide (1 ≤ a.posDiv) && decide (a.posDiv ≤ 128) && decide (a.maskMode ≤ 3)
    && !(a.scale.isNan || a.scale.isInf) && FVal.zero.lt a.scale
    && localSpace a.q && (isMx a.fq || a.qScale == 0) && decide (a.qPos < 2 ^ 24)
    && (if a.maskMode == 2 then decide (1 ≤ a.window) && decide (a.window ≤ 2 ^ 24) else a.window == 0)
    && (a.maskMode == 3 || a.mask == 0)
    && (if a.paged then a.kvPitch == 0 && a.keyPos == 0 && a.k == 0 && a.v == 0
        else decide (a.keyPos < 2 ^ 24) && localSpace a.k && localSpace a.v)
    && ((!a.paged && a.kv == 2) || (a.kScale == 0 && a.vScale == 0))
    && (!(a.maskMode == 1 || a.maskMode == 2)
      || (decide (a.qPos + (a.rows - 1) / a.posDiv < 2 ^ 24) && decide (a.keyPos + a.keyFirst + a.keyCount ≤ 2 ^ 24)))

/-- Regions, buffers, bitmap and key ranges stay inside their partitions (R253). -/
def attFits (d : Dev) (l : Nat) (a : AttCmd) : Bool :=
  let keys := a.keyFirst + a.keyCount
  inPart d l 1 a.acc (tripleBytes a.dim) && inPart d l 1 a.scoreAt a.scoreBytes
    && !(a.sep && meet a.acc (tripleBytes a.dim) a.score a.scoreBytes)
    && inPart d l 0 a.pBase a.pBytes
    && rowsInPart d l a.q a.qPitch a.rows (elemBytes a.fq a.dim)
    && (!isMx a.fq || (localSpace a.qScale && rowsInPart d l a.qScale (a.dim / 32) a.rows (a.dim / 32)))
    && (!(a.maskMode == 3) || inPart d l 0 a.mask ((a.rows - 1) * a.maskPitch + (a.keyCount + 7) / 8))
    && (a.paged || (rowsInPart d l a.k a.kvPitch keys (elemBytes a.kv a.dim) && rowsInPart d l a.v a.kvPitch keys (elemBytes a.kv a.dim)
      && (!(a.kv == 2) || (localSpace a.kScale && localSpace a.vScale && rowsInPart d l a.kScale (a.dim / 32) keys (a.dim / 32)
        && rowsInPart d l a.vScale (a.dim / 32) keys (a.dim / 32)))))

/-! ## Where keys come from (R261, R262, R267, R269) -/

/-- The layout and the sequence a command names in the open turn; FLT_ILLEGAL_OP outside them. -/
def kvTarget (d : Dev) (slot seq layer head : Nat) : Acc (KvLayout × SeqEntry) :=
  match ((d.job slot).image).bind (·.kv), (d.job slot).turn with
  | some k, some t =>
    match t.seqs[seq]? with
    | some e => if layer < k.layers && head < k.heads then .ok (k, e) else .error fltIllegal
    | none => .error fltIllegal
  | _, _ => .error fltIllegal

/-- KEY_ADDR of R261. -/
def keyAddr (k : KvLayout) (e : SeqEntry) (layer head t : Nat) : Nat :=
  e.base + ((layer * k.heads + head) * 4096 + t / 256) * k.pageBytes + t % 256 * elemBytes k.fmt k.dim

/-- The scale bytes of a layer-head: key, then value; none without scales (R262). -/
def kvScales (d : Dev) (slot : Nat) (k : KvLayout) (e : SeqEntry) (layer head : Nat) : Acc (Dev × Nat × Nat) := do
  if !(k.fmt == 2) then .ok (d, 127, 127) else
    let r ← vaRead d slot (e.scaleVa + 2 * (layer * k.heads + head)) 2
    .ok (r.1, fieldLe r.2 0 1, fieldLe r.2 1 1)

/-- Frame slots of a core's page cache. -/
def cacheSlots (d : Dev) (l : Nat) : Nat := (d.coreRec l).page * 16

/-- The slot a missing frame goes to: the lowest unused, or the least recently used (R269). -/
def victim (pages : List (Nat × Nat)) (n : Nat) : Nat :=
  match (List.range n).find? (fun i => !pages.any (fun p => p.1 == i)) with
  | some i => i
  | none => ((pages.getLast?).map (·.1)).getD 0

/-- Cell of byte `off` of a page-cache slot. -/
def cacheCell (d : Dev) (core l slot off : Nat) : Nat := sramCell core ((partition (d.coreRec l) 2).1 + slot * 0x10000 + off)

/-- Copies a frame into a slot, with its poison. -/
def installFrame (d : Dev) (core l slot f : Nat) : Dev :=
  (List.range 16).foldl (fun d i =>
    let src := hbmCell d (f * 0x10000 + i * 4096)
    moveCells (countHbm d false (.cells src) 4096) src (cacheCell d core l slot (i * 4096)) 4096) d

/-- A lookup: the frame becomes the most recently used, installed on a miss. -/
def cacheLookup (d : Dev) (core l f : Nat) : Dev :=
  let x := d.core core
  match x.pages.find? (fun p => p.2 == f) with
  | some p => (d.setCore core { x with pages := p :: x.pages.filter (fun q => !(q.2 == f)) }).count 11 1
  | none =>
    let s := victim x.pages (cacheSlots d l)
    let d := d.setCore core { x with pages := (s, f) :: x.pages.filter (fun q => !(q.1 == s)) }
    (installFrame d core l s f).count 12 1

/-- What reading keys threads through a command: the device, and the frames looked up; one that has been evicted since is looked up
again (R269). -/
structure KeySt where
  d    : Dev
  seen : List Nat := []

/-- One row of a page: from the page cache with CACHE, else through translation. -/
def pageRow (a : AttCmd) (core slot l va n : Nat) (s : KeySt) : Acc (KeySt × List Byte) := do
  let d := s.d
  match ← walk d slot va with
  | .committed _ cur next flags ep =>
    let f := currentFrame (d.tslot slot).epoch cur next flags ep
    if !granted flags false || !curMapped d cur then .error (fltTranslation va)
    else if !a.cache || cacheSlots d l == 0 || f == noFrame then
      let r ← vaRead d slot va n
      .ok ({ s with d := r.1 }, r.2)
    else
      let s := if s.seen.contains f && (d.core core).pages.any (fun p => p.2 == f) then s else { d := cacheLookup d core l f, seen := f :: s.seen }
      match (s.d.core core).pages.find? (fun p => p.2 == f) with
      | some p =>
        let c := cacheCell s.d core l p.1 (va % 0x10000)
        if poisonedAt s.d.poison c n then .error (fltPoison va) else .ok (s, memRead s.d.mem c n)
      | none =>
        let r ← vaRead s.d slot va n
        .ok ({ s with d := r.1 }, r.2)
  | _ =>
    let r ← vaRead d slot va n
    .ok ({ s with d := r.1 }, r.2)

/-- Where the keys lie, once the command has started. -/
structure KeySrc where
  kv  : Option (KvLayout × SeqEntry)
  ks  : Nat
  vs  : Nat

/-- The HEAD_DIM values of a key or a value row, with its scales. -/
def keyValues (a : AttCmd) (c : Cmd) (src : KeySrc) (isV : Bool) (t : Nat) (s : KeySt) : Acc (KeySt × List FVal) := do
  let n := elemBytes a.kv a.dim
  let vals (b : List Byte) (sc : Nat → Nat) : List FVal := (List.range a.dim).map (fun i =>
    let x := decodeElem a.kv (elemAt a.kv b i)
    if a.kv == 2 then scaled x (sc (i / 32)) else x)
  match src.kv with
  | some (k, e) =>
    let va := keyAddr k e a.layer a.head t + (if isV then k.pageBytes / 2 else 0)
    let r ← pageRow a c.core c.slot c.logical va n s
    .ok (r.1, vals r.2 (fun _ => if isV then src.vs else src.ks))
  | none =>
    let b ← readAt s.d c.core c.logical (if isV then a.v else a.k) (t * a.kvPitch) n
    if a.kv == 2 then
      let sc ← readAt s.d c.core c.logical (if isV then a.vScale else a.kScale) (t * (a.dim / 32)) (a.dim / 32)
      .ok (s, vals b (fun i => fieldLe sc i 1))
    else .ok (s, vals b (fun _ => 127))

/-! ## A key step (R246 to R248) -/

/-- The mask mode hides key `i` (from KEY_FIRST) from query row `r` (R247). -/
def hidden (a : AttCmd) (bitmap : List Byte) (r i : Nat) : Bool :=
  let qp := a.qPos + r / a.posDiv
  let kp := a.keyPos + a.keyFirst + i
  match a.maskMode with
  | 0 => false
  | 1 => decide (qp < kp)
  | 2 => decide (qp < kp) || decide (a.window ≤ qp - kp)
  | _ => !natBit (fieldLe bitmap (r * a.maskPitch + i / 8) 1) (i % 8)

/-- P converted to the key-value format, with its block scales, as exact values (R132, R133). -/
def convertP (kv : Nat) (p : List FVal) : List FVal :=
  if kv == 2 then
    (List.range ((p.length + 31) / 32)).flatMap (fun b =>
      let vs := (p.drop (32 * b)).take 32
      let q := mxBlock kv vs (vs.map (fun _ => RMode.rne))
      q.2.map (fun e => scaled (decodeElem kv e) q.1))
  else p.map (fun x => roundTo kv .rne x)

/-- One row's update by one step: `scores` has none for a masked key; the flag says a NaN score was ignored. A score of −∞ has weight 0
also while m is −∞ (R249). -/
def stepRow (strict : Bool) (kv : Nat) (t : Triple) (scores : List (Option FVal)) (vcols : List (List FVal)) : Triple × Bool :=
  let ignored := !strict && scores.any (fun s => (s.map FVal.isNan).getD false)
  let s := scores.map (fun x => match x with
    | some y => if y.isNan && !strict then none else some y
    | none => none)
  let mb := maxOf (s.filterMap id)
  let mn := t.m.max mb
  let al := alphaOf strict t.m mn
  let p := s.map (fun x => match x with
    | none => FVal.zero
    | some y =>
      if y == .inf true then FVal.zero
      else if y.cmp mn == some .eq then FVal.ofNat 1
      else exp2Lane strict (fp32 ((sub32 y mn).mul l2e)))
  let l := add32 (mul32 al t.l) (laneTotal p)
  let q := convertP kv p
  let o := (t.o.zip vcols).map (fun e => dotGroups (q.length / 32 + 1) (mul32 al e.1) q e.2 false)
  ({ m := mn, l := l, o := o }, ignored)

/-- Column `i` of value rows, a missing row 0. -/
def colsOf (dim n : Nat) (rows : List (List FVal)) : List (List FVal) :=
  (List.range dim).map (fun i => (List.range n).map (fun j => (((rows[j]?).getD [])[i]?).getD FVal.zero))

/-- What ATT.RUN threads through its steps. -/
structure AttSt where
  key     : KeySt
  triples : List Triple
  nan     : Bool := false

/-- One key step over all rows. -/
def attStep (c : Cmd) (a : AttCmd) (src : KeySrc) (bitmap : List Byte) (qs : List (List FVal)) (st : AttSt) (k : Nat) : Acc AttSt := do
  let bk := keyStep a.kv
  let n := min bk (a.keyCount - k * bk)
  let first := a.keyFirst + k * bk
  let skip := (a.maskMode == 1 || a.maskMode == 2)
    && (List.range a.rows).all (fun r => (List.range n).all (fun i => hidden a bitmap r (k * bk + i)))
  if skip then .ok st else
    let ks ← (List.range n).foldlM (fun (acc : KeySt × List (List FVal)) i => do
      let r ← keyValues a c src false (first + i) acc.1
      .ok (r.1, acc.2 ++ [r.2])) (st.key, [])
    let vs ← (List.range n).foldlM (fun (acc : KeySt × List (List FVal)) i => do
      let r ← keyValues a c src true (first + i) acc.1
      .ok (r.1, acc.2 ++ [r.2])) (ks.1, [])
    let cols := colsOf a.dim bk vs.2
    let rows := (List.range a.rows).map (fun r =>
      let scores := (List.range bk).map (fun i =>
        if n ≤ i || hidden a bitmap r (k * bk + i) then none
        else some (mul32 (dotGroups (a.dim / 32 + 1) FVal.zero ((qs[r]?).getD []) ((ks.2[i]?).getD []) false) a.scale))
      stepRow a.strict a.kv ((st.triples[r]?).getD (freshTriple a.dim)) scores cols)
    let q := max a.rows 32
    let d := vs.1.d.count 1 ((bk / 64) * ceilDiv a.dim ((pairK a.fq a.kv).getD 64) * q + ceilDiv a.dim 64 * q)
    let d := d.count 3 (if a.strict then ceilDiv (a.rows * bk) 128 + ceilDiv (a.rows * bk) 16 else 2 * ceilDiv (a.rows * bk) 128)
    .ok { key := { vs.1 with d := d }, triples := rows.map (·.1), nan := st.nan || rows.any (·.2) }

/-! ## ATT.RUN (R250 to R255) -/

/-- The values of a query row, with its scales. -/
def queryRow (d : Dev) (c : Cmd) (a : AttCmd) (r : Nat) : Acc (List FVal) := do
  let b ← readAt d c.core c.logical a.q (r * a.qPitch) (elemBytes a.fq a.dim)
  let sc ← if isMx a.fq then readAt d c.core c.logical a.qScale (r * (a.dim / 32)) (a.dim / 32) else .ok []
  .ok ((List.range a.dim).map (fun i =>
    let x := decodeElem a.fq (elemAt a.fq b i)
    if isMx a.fq then scaled x (fieldLe sc (i / 32) 1) else x))

/-- Free bytes in a range of a partition: working space whose contents a command leaves undefined. -/
def havocPart (d : Dev) (core l part off n : Nat) : Dev :=
  match partCell d core l part off n with
  | .ok c => d.cellHavoc c n
  | .error _ => d

/-- Notes or forgets that the triples at a base met a NaN score that was ignored (R258). -/
def noteNan (d : Dev) (core acc : Nat) (first nan : Bool) : Dev :=
  d.modCtx core (fun x =>
    let l := if first then x.attNan.filter (fun b => !(b == acc)) else x.attNan
    { x with attNan := if nan && !l.contains acc then l ++ [acc] else l })

/-- The fields of an ATT.RUN that keeps R250, R251 and R253. -/
def attRunPlan (d : Dev) (c : Cmd) : Acc AttCmd := do
  legal (!arrWide d c.logical 0 && !arrWide d c.logical 1 && c.u 4 4 % 32 == 0)
  let b ← partRead d c.core c.logical 0 (c.u 4 4) 96
  let a := attFields c b
  legal (attRanges c b a && attFits d c.logical a)
  .ok a

/-- ATT.RUN at the heads of its queues. -/
def attRunCmd (d : Dev) (c : Cmd) : Acc Issued := do
    let a ← attRunPlan d c
    let (d, src) ← if a.paged then do
        let t ← kvTarget d c.slot a.seq a.layer a.head
        legal (decide (a.keyFirst + a.keyCount ≤ t.2.length))
        let s ← kvScales d c.slot t.1 t.2 a.layer a.head
        .ok (s.1, ({ kv := some t, ks := s.2.1, vs := s.2.2 } : KeySrc))
      else .ok (d, { kv := none, ks := 127, vs := 127 })
    let bitmap ← if a.maskMode == 3 then partRead d c.core c.logical 0 a.mask ((a.rows - 1) * a.maskPitch + (a.keyCount + 7) / 8) else .ok []
    let qs ← (List.range a.rows).mapM (queryRow d c a)
    let ts ← if a.first then .ok ((List.range a.rows).map (fun _ => freshTriple a.dim))
      else (List.range a.rows).mapM (readTriple d c.core c.logical a.acc a.dim)
    let st ← (List.range (ceilDiv a.keyCount (keyStep a.kv))).foldlM (attStep c a src bitmap qs) { key := { d := d }, triples := ts }
    let d := noteNan st.key.d c.core a.acc a.first st.nan
    let d := havocPart (havocPart d c.core c.logical 1 a.scoreAt a.scoreBytes) c.core c.logical 0 a.pBase a.pBytes
    let d ← st.triples.zipIdx.foldlM (fun d e => writeTriple d c.core c.logical a.acc a.dim e.2 e.1) d
    .ok (.next d)

/-- ATT.RUN enters the queues of both arrays and of the row units, and starts at the head of all three (R254). -/
def attQueue (d : Dev) (c : Cmd) : Acc Issued :=
  if arraysBusy (d.core c.core) then .ok (joinQueue d c .row 0) else inQueue .row attRunCmd d c

def execAttRun (core : Nat) (s : State) : Out := onDev (isCore core) (fun _ d => issue core 1 (fun o => o == 0x70) attQueue d) s

/-! ## ATT.FINAL, ATT.EXPORT and ATT.MERGE (R256 to R258) -/

/-- Fields the three share. -/
structure AttRows where
  acc     : Nat
  addr    : Nat
  rows    : Nat
  dim     : Nat
  pitch   : Nat
  count   : Nat
  pip     : Nat
  deposit : Bool

/-- The fields, with the checks of R256; `ctl` masks the CTL bits a command has. -/
def attRows (d : Dev) (c : Cmd) (ctl : Nat) (final merge : Bool) : Acc AttRows := do
  let p := c.u 0x14 4
  let a : AttRows := { acc := c.u 4 4, addr := c.u 8 4, rows := c.u 0xC 2, dim := c.u 0xE 2, pitch := 16 * c.u 0x10 2,
                       count := c.u 0x12 2, pip := p % 16, deposit := natBit p 4 }
  legal ((c.u 1 1 ||| ctl) == ctl && (if final then sfFmt (c.u 2 1) else c.u 2 1 == 0) && c.zero 3 1 && c.zero 0x18 8
    && a.acc % 4096 == 0 && decide (1 ≤ a.rows) && decide (a.rows ≤ 128) && dimOk a.dim && natBits p 31 5 == 0
    && (if merge then decide (1 ≤ a.count) && decide (a.count ≤ 4096) else a.count == 0)
    && decide (a.addr < 2 ^ 30) && inPart d c.logical 1 a.acc (tripleBytes a.dim))
  .ok a

/-- Bytes of a triple record (R256). -/
def recordLen (dim : Nat) : Nat := 16 + 4 * dim

/-- How a row is settled, and the flags (R258). -/
def finalRow (fd : Nat) (t : Triple) : List FVal × Nat × Pip :=
  if t.m.isNan then (t.o.map (fun _ => .nan), 1, { nanSeen := true })
  else if t.l.isZero then (t.o.map (fun _ => FVal.zero), 1, { allMasked := true })
  else
    let r := div32 (FVal.ofNat 1) t.l
    let out := t.o.map (fun x => roundTo fd .rne (mul32 x r))
    let nan := t.o.any FVal.isNan || out.any FVal.isNan
    let inf := t.o.any FVal.isInf || out.any FVal.isInf
    let top := t.m == .inf false
    (out, bit top, { nanSeen := nan, infSeen := inf, infRow := top })

/-- What ATT.FINAL asks of its command. -/
def attFinalPlan (d : Dev) (c : Cmd) : Acc AttRows := do
  let a ← attRows d c 0 true false
  legal (!((spaceOf a.addr).1 == 2) && rowsInPart d c.logical a.addr a.pitch a.rows (elemBytes (c.u 2 1) a.dim))
  .ok a

/-- ATT.FINAL. -/
def attFinalCmd (d : Dev) (c : Cmd) : Acc Issued := do
  let a ← attFinalPlan d c
  let fd := c.u 2 1
  let r ← (List.range a.rows).foldlM (fun (acc : Dev × Nat × Pip) r => do
    let t ← readTriple acc.1 c.core c.logical a.acc a.dim r
    let q := finalRow fd t
    let d ← partWrite acc.1 c.core c.logical (spaceOf a.addr).1 ((spaceOf a.addr).2 + r * a.pitch)
      (packElems fd (q.1.map (encodeElem fd .rne)))
    .ok (d, acc.2.1 + q.2.1, landPip acc.2.2 q.2.2)) (d, 0, {})
  let ignored := (d.core c.core).ctx.attNan.contains a.acc
  let flags := r.2.2
  .ok (.next (if a.deposit then
    deposit r.1 c.core a.pip { flags with value := BitVec.ofNat 64 r.2.1, type := .int64, nanSeen := flags.nanSeen || ignored }
    else r.1))

def execAttFinal (core : Nat) (s : State) : Out := onDev (isCore core) (fun _ d => issue core 3 (fun o => o == 0x71) (inQueue .row attFinalCmd) d) s

/-- What ATT.EXPORT asks of its command. -/
def attExportPlan (d : Dev) (c : Cmd) : Acc AttRows := do
  let a ← attRows d c 0 false false
  legal (localSpace a.addr && rowsInPart d c.logical a.addr a.pitch a.rows (recordLen a.dim))
  .ok a

/-- ATT.EXPORT: one unnormalised record per row. -/
def attExportCmd (d : Dev) (c : Cmd) : Acc Issued := do
  let a ← attExportPlan d c
  let d ← (List.range a.rows).foldlM (fun d r => do
    let t ← readTriple d c.core c.logical a.acc a.dim r
    partWrite d c.core c.logical (spaceOf a.addr).1 ((spaceOf a.addr).2 + r * a.pitch)
      (floatBytes [t.m, t.l] ++ leBytes 8 0 ++ floatBytes t.o)) d
  .ok (.next d)

def execAttExport (core : Nat) (s : State) : Out := onDev (isCore core) (fun _ d => issue core 3 (fun o => o == 0x72) (inQueue .row attExportCmd) d) s

/-- Two triples folded (R257). -/
def mergeTriple (strict : Bool) (a b : Triple) : Triple :=
  let mn := a.m.max b.m
  let aa := alphaOf strict a.m mn
  let ab := alphaOf strict b.m mn
  { m := mn
    l := add32 (mul32 aa a.l) (mul32 ab b.l)
    o := (a.o.zip b.o).map (fun e => add32 (mul32 aa e.1) (mul32 ab e.2)) }

/-- What ATT.MERGE asks of its command. -/
def attMergePlan (d : Dev) (c : Cmd) : Acc AttRows := do
  let a ← attRows d c 5 false true
  legal (rowsInPart d c.logical a.addr a.pitch a.rows (a.count * recordLen a.dim))
  .ok a

/-- ATT.MERGE: the records of each row fold into its triple in increasing index. -/
def attMergeCmd (d : Dev) (c : Cmd) : Acc Issued := do
  let a ← attMergePlan d c
  let first := natBit (c.u 1 1) 0
  let n := recordLen a.dim
  let d ← (List.range a.rows).foldlM (fun d r => do
    let b ← readAt d c.core c.logical a.addr (r * a.pitch) (a.count * n)
    let recs := (List.range a.count).map (fun i =>
      ({ m := bodyF b (i * n), l := bodyF b (i * n + 4), o := floatsOf (b.drop (i * n + 16)) a.dim } : Triple))
    let own ← if first then .ok [] else (readTriple d c.core c.logical a.acc a.dim r).map (fun t => [t])
    match own ++ recs with
    | [] => .ok d
    | t :: ts => writeTriple d c.core c.logical a.acc a.dim r (ts.foldl (mergeTriple (natBit (c.u 1 1) 2)) t)) d
  .ok (.next (noteNan d c.core a.acc first false))

def execAttMerge (core : Nat) (s : State) : Out := onDev (isCore core) (fun _ d => issue core 3 (fun o => o == 0x73) (inQueue .row attMergeCmd) d) s

/-! ## KV.APPEND (R266) -/

/-- A value converted into the layout's format; into E4M3 divided by the sequence scale and saturated. -/
def kvConvert (k : KvLayout) (src scale bits : Nat) : Nat :=
  if src == k.fmt then bits
  else if k.fmt == 2 then
    let x := decodeElem src bits
    match fmtOf 2, x with
    | some f, .fin n m e =>
      if scale == 0xFF then canonNan 2
      else (if n then 128 else 0) + min (roundField f .rne m (e - scaleExp scale)) (fieldEnd f - 1)
    | some f, .inf n => if scale == 0xFF then canonNan 2 else (if n then 128 else 0) + (fieldEnd f - 1)
    | _, _ => canonNan 2
  else encodeElem k.fmt .rne (decodeElem src bits)

/-- Writes bytes of one page, which `whole` says the command covers. -/
def kvWrite (d : Dev) (slot va : Nat) (bs : List Byte) (whole : Bool) : Acc Dev := vaPut d slot va bs (fun _ => whole)

/-- The tokens from `t0` on, grouped by page: first token and count. -/
def tokenPages (t0 n : Nat) : List (Nat × Nat) :=
  (List.range ((t0 + n - 1) / 256 - t0 / 256 + 1)).map (fun i =>
    let p := t0 / 256 + i
    let a := max t0 (256 * p)
    (a, min (t0 + n) (256 * p + 256) - a))

/-- One page's rows of keys and values. -/
def kvPage (c : Cmd) (k : KvLayout) (e : SeqEntry) (fs layer head t0 ks vs : Nat) (d : Dev) (p : Nat × Nat) : Acc Dev := do
  let rows (v scale : Nat) : Acc (List Byte) := (List.range p.2).foldlM (fun acc i => do
    let b ← readAt d c.core c.logical v ((p.1 + i - t0) * (16 * c.u 0x18 2)) (elemBytes fs k.dim)
    .ok (acc ++ packElems k.fmt ((List.range k.dim).map (fun j => kvConvert k fs scale (elemAt fs b j))))) []
  let kb ← rows (c.u 0x10 4) ks
  let vb ← rows (c.u 0x14 4) vs
  let va := keyAddr k e layer head p.1
  let whole := p.2 == 256
  let d ← kvWrite d c.slot va kb whole
  kvWrite d c.slot (va + k.pageBytes / 2) vb whole

/-- KV.APPEND: a sequence that was not admitted is not written, and the signal is made all the same. -/
def kvAppendCmd (d : Dev) (c : Cmd) : Acc Issued := do
  let ctl := c.u 1 1
  legal (natBits ctl 7 1 == 0 && c.zero 3 1)
  let t ← kvTarget d c.slot (c.u 4 2) (c.u 6 1) (c.u 7 1)
  let k := t.1
  let e := t.2
  let fs := c.u 2 1
  let rows := c.u 0xC 4
  legal ((fs == k.fmt || sfFmt fs) && decide (1 ≤ rows) && decide (c.u 8 4 + rows ≤ e.append)
    && localSpace (c.u 0x10 4) && localSpace (c.u 0x14 4)
    && rowsInPart d c.logical (c.u 0x10 4) (16 * c.u 0x18 2) rows (elemBytes fs k.dim)
    && rowsInPart d c.logical (c.u 0x14 4) (16 * c.u 0x18 2) rows (elemBytes fs k.dim))
  let o ← if natBit ctl 0 then engineSemTarget d c.slot c.logical (c.u 0x1B 1) (c.u 0x1A 1) else .ok 0
  let d ← if !e.admitted then .ok d else do
      let s ← if fs == k.fmt then .ok (d, 127, 127) else kvScales d c.slot k e (c.u 6 1) (c.u 7 1)
      let t0 := e.length + c.u 8 4
      (tokenPages t0 rows).foldlM (kvPage c k e fs (c.u 6 1) (c.u 7 1) t0 s.2.1 s.2.2) s.1
  .ok (startMover d c [] (natBit ctl 0) false o (c.u 0x1A 1) (BitVec.ofNat 32 (c.u 0x1C 4)) none)

def execKvAppend (core : Nat) (s : State) : Out := onDev (isCore core) (fun _ d => issue core 4 (fun o => o == 0x74) (inQueue .tm kvAppendCmd) d) s

end Sys2Proof.Machine
end

