-- ==== Sys2Proof/Machine/Domain.lean ====
section
/-! DEFINITION. Domain turns: the barrier, the decision, aborts and replays of a domain group
(spec/03_turns_and_fences.md R71 to R77, spec/13_koliz_fabric.md R348 to R351). -/

namespace Sys2Proof.Machine

/-! ## Rolling a participant back (R77, R350) -/

/-- A participant that is not yet DECIDED rolls back: the abort is logged and counted, its engines are ended, its cores stop with
nothing left to do, and its turn ends with an ABORTED record. The job stays admitted. -/
def domainRollback (d : Dev) (slot : Nat) (reason : Byte) : Dev :=
  let ph := (d.tslot slot).phase
  if (d.job slot).turn.isNone || !(ph == .running || ph == .ending || ph == .staged) then d
  else
    let info : FltInfo := { valid := true, cls := 3, reason := reason, slot := BitVec.ofNat 8 slot }
    let d := logAppend d info 0
    let d := { d with flt := { d.flt with domainAborts := sat16 d.flt.domainAborts, abortSeen := true } }
    let d := endTurn (haltCores (dropOwners d slot) slot) slot .aborted reason
    let d := d.modTslot slot (fun t => { t with aborts := sat16 t.aborts })
    reschedule d (basinOf slot)

/-- An abort reaches a participant (R350): one that is RUNNING or ENDING ends its group's Cascade commands and stops its cores, and
rolls back once its movers have no request outstanding, as an ABANDON drains (R95); one that is STAGED rolls back at once. -/
def domainAbort (d : Dev) (slot : Nat) (reason : Byte) : Dev :=
  let ph := (d.tslot slot).phase
  if (d.job slot).turn.isNone || !(ph == .running || ph == .ending) then domainRollback d slot reason
  else
    let d := stopCores (cascadeEnd d (fun c => c.slot == slot)) slot
    if tmDrained d slot then domainRollback d slot reason
    else d.modTslot slot (fun t => { t with aborting := some reason })

/-- An abort that waited for the drain goes on once it is over. -/
def settleAbort (d : Dev) (slot : Nat) : Dev :=
  match (d.tslot slot).aborting with
  | some r => if tmDrained d slot then domainRollback (d.modTslot slot (fun t => { t with aborting := none })) slot r else d
  | none => d

/-- The root aborts its group's turn: ABORT down the tree, then its own part (R77). -/
def rootAbort (d : Dev) (g : Nat) : Dev :=
  let r := abortReason (d.grp g)
  domainAbort (abortDown d g) (d.grp g).slot r

/-! ## The barrier (R71, R349) -/

/-- The group works on turn `t`: a first message of a new turn starts its barrier. -/
def openBarrier (d : Dev) (g : Nat) (t : Dword) : Dev :=
  let x := d.grp g
  if x.turn == t && (x.barrier == .waiting || x.barrier == .arrived) then d
  else d.setGrp g { x with turn := t, barrier := .waiting, arrived := 0, own := false, first := none }

/-- A participant takes the decision S: it flips at S, or at once when S has passed (R71, R73). -/
def takeDecision (d : Dev) (g : Nat) (t s : Dword) : Dev :=
  let x := d.grp g
  let ts := d.tslot x.slot
  let own := match (d.job x.slot).turn with
    | some u => u.card.turn == t
    | none => false
  let d := d.setGrp g { x with barrier := .decided, turn := t }
  if !own || !(ts.phase == .staged) then d
  else
    let d := d.modTslot x.slot (fun u => { u with phase := .decided, decided := some s })
    if s < d.clp.now then flipTurn d x.slot true else d

/-- The root's commit slot: the smallest slot at or after T + H + 2q (R71). -/
def chooseSlot (d : Dev) : Dword :=
  let h := match d.str.inForce with
    | some s => s.horizon
    | none => 0
  BitVec.ofNat 64 (slotAtOrAfter (d.clp.now.toNat + nsUnits d h + 8192))

/-- Once the member's own turn has staged and every child has arrived: the root decides, another member arrives upward. -/
def tryArrive (d : Dev) (g : Nat) : Dev :=
  let x := d.grp g
  if !x.own || !(x.arrived &&& x.children == x.children) || !(x.barrier == .waiting) then d
  else if x.root then
    let s := chooseSlot d
    let d := sendDown (d.setGrp g { x with barrier := .arrived }) g .decide 0 0 x.turn s
    takeDecision d g x.turn s
  else sendUp (d.setGrp g { x with barrier := .arrived }) g .arrive x.turn

/-- The root's timer starts at the first arrival (R349). -/
def noteFirst (d : Dev) (g : Nat) : Dev :=
  let x := d.grp g
  if x.first.isSome then d else d.setGrp g { x with first := some d.clp.elapsed }

/-- A participant has staged its turn: its own arrival (R71 step 5). -/
def ownArrival (d : Dev) (slot : Nat) : Dev :=
  match groupOf d slot, (d.job slot).turn with
  | some g, some t =>
    let d := d.modJob slot (fun j => { j with turn := some { t with arrived := some d.clp.elapsed } })
    let d := noteFirst (openBarrier d g t.card.turn) g
    let x := d.grp g
    tryArrive (d.setGrp g { x with own := true }) g
  | _, _ => d

/-! ## Replays (R75) -/

/-- A participant still RUNNING, ENDING or STAGED replays: its writes are discarded now, and it starts again at once when it holds
its basin with every core bound, else when it next does. -/
def domainReplay (d : Dev) (slot : Nat) : Dev :=
  let ph := (d.tslot slot).phase
  if (d.job slot).turn.isNone || (d.tslot slot).aborting.isSome || !(ph == .running || ph == .ending || ph == .staged) then d
  else
    let d := if (d.job slot).restart then d else discardTurn d slot
    if holds d slot then restartTurn d slot else d

/-- REPLAY at a member: down to its children, and its own replay; the barrier starts again. -/
def replayDown (d : Dev) (g origin : Nat) (t : Dword) : Dev :=
  let d := sendDown d g .replay 0 origin t 0
  let x := d.grp g
  let d := if x.turn == t && !(x.barrier == .decided) then
      d.setGrp g { x with barrier := .idle, arrived := 0, own := false, first := none } else d
  domainReplay d x.slot

/-- The participant whose core was rebound asks the root for a replay (R75); the root sends it to every member. A slot that
no group serves replays alone. -/
def sendReplay (d : Dev) (slot : Nat) : Dev :=
  match groupOf d slot with
  | none => domainReplay d slot
  | some g =>
    if !(d.grp g).root then sendUp d g .replay (grpTurn d g)
    else if grpDecided d g then d else replayDown d g d.ownDevice (grpTurn d g)

/-! ## Messages (R349 to R351) -/

/-- A FENCE payload's fields. -/
structure FenceMsg where
  kind   : Nat
  reason : Byte
  origin : Nat
  turn   : Dword
  slot   : Dword

def parseFence (b : List Byte) : FenceMsg :=
  { kind := fieldLe b 0 1, reason := BitVec.ofNat 8 (fieldLe b 1 1), origin := fieldLe b 2 2, turn := BitVec.ofNat 64 (fieldLe b 8 8),
    slot := BitVec.ofNat 64 (fieldLe b 0x10 8) }

/-- The port is one of a group's children, or its parent. -/
def fromChild (x : Grp) (port : Nat) : Bool := x.children.getLsbD port
def fromParent (x : Grp) (port : Nat) : Bool := x.parentValid && x.parent == port

/-- A message on its way to the root: forwarded, or handled when this device is the root. -/
def towardsRoot (d : Dev) (g : Nat) (m : FenceMsg) (k : FenceKind) (atRoot : Dev → Dev) : Dev :=
  if (d.grp g).root then atRoot d else sendFence d g (d.grp g).parent k m.reason m.origin m.turn 0

/-- A FENCE message for a served group. -/
def fenceMessage (d : Dev) (g port : Nat) (m : FenceMsg) : Dev :=
  let x := d.grp g
  match m.kind with
  | 1 =>
    if !fromChild x port || !(m.turn == grpTurn d g || (grpDecided d g && m.turn == grpTurn d g + 1)) then d
    else
      let d := noteFirst (openBarrier d g m.turn) g
      let x := d.grp g
      tryArrive (d.setGrp g { x with arrived := x.arrived ||| (1 <<< port), absent := x.absent &&& ~~~(1#16 <<< port) }) g
  | 2 => if !fromParent x port then d else takeDecision (sendDown d g .decide 0 0 m.turn m.slot) g m.turn m.slot
  | 3 =>
    if !fromParent x port then d
    else
      let d := sendDown d g .abort m.reason 0 m.turn 0
      let own := match (d.job x.slot).turn with
        | some u => u.card.turn == m.turn
        | none => false
      let d := d.setGrp g { x with barrier := .aborted, abortReason := m.reason, turn := m.turn, arrived := 0, own := false, first := none }
      let d := cascadeEnd d (fun c => c.group == g)
      if own then domainAbort d x.slot m.reason else d
  | 4 =>
    if fromParent x port then replayDown d g m.origin m.turn
    else if !fromChild x port then d
    else towardsRoot d g m .replay (fun d => if grpDecided d g || !(m.turn == grpTurn d g) then d else replayDown d g m.origin m.turn)
  | 5 =>
    if !fromChild x port then d
    else towardsRoot d g m .stop (fun d => if grpDecided d g || !(m.turn == grpTurn d g) then d else rootAbort d g)
  | 6 =>
    if !fromChild x port then d
    else towardsRoot d g m .absent (fun d => d.setGrp g { d.grp g with absent := (d.grp g).absent ||| (1 <<< port) })
  | _ => d

/-- A FENCE packet on a port. -/
def fencePacket (d : Dev) (port : Nat) (p : Packet) : Dev :=
  let g := p.slotGroup.toNat
  if 16 ≤ g || !serves d g then d else fenceMessage d g port (parseFence p.payload)

/-- A port has left ACTIVE: each valid group with it in its tree sets ABSENT_SEEN and tells the root (R351). -/
def portAbsent (d : Dev) (port : Nat) : Dev :=
  (List.range 16).foldl (fun d g =>
    let x := d.grp g
    if !x.valid || !(fromChild x port || fromParent x port) then d
    else
      let d := d.setGrp g { x with absentSeen := true, absent := if x.root then x.absent ||| (1 <<< port) else x.absent }
      if x.root then d else sendUp d g .absent (grpTurn d g)) d

/-! ## Timers (R77) -/

/-- TRN_KFENCE_TIMEOUT; a value below 0x1000 acts as 0x1000 (R82). -/
def kfenceTime (d : Dev) : Nat := max 0x1000 d.trn.kfenceTimeout.toNat

/-- KFENCE_TIMEOUT: TRN_KFENCE_TIMEOUT has passed since the first arrival at the root without every arrival. -/
def kfenceTimeout (d : Dev) (g : Nat) : Dev :=
  let x := d.grp g
  match x.first with
  | none => d
  | some t =>
    if !serves d g || !x.root || !(x.barrier == .waiting) || decide (d.clp.elapsed < t + kfenceTime d) then d
    else rootAbort d g

def execKfenceTimeout (group : Nat) (s : State) : Out := onDev (is16 group) (fun _ d => kfenceTimeout d group) s

/-- SELF_ABORT_TIMEOUT: a staged participant has heard nothing for twice the timeout since its own arrival. -/
def selfAbortTimeout (d : Dev) (slot : Nat) : Dev :=
  match (d.job slot).turn.bind (·.arrived), (d.tslot slot).phase with
  | some t, .staged =>
    if !(d.tslot slot).domain || decide (d.clp.elapsed < t + 2 * kfenceTime d) then d
    else
      let r : Byte := match groupOf d slot with
        | some g => if (d.grp g).absentSeen then 0x60 else 0x61
        | none => 0x61
      let d := match groupOf d slot with
        | some g => d.setGrp g { d.grp g with barrier := .aborted, abortReason := r, arrived := 0, own := false, first := none }
        | none => d
      let d := domainRollback d slot r
      { d with trn := { d.trn with selfAbort := true } }
  | _, _ => d

def execSelfAbortTimeout (slot : Nat) (s : State) : Out := onDev (isSlot slot) (fun _ d => selfAbortTimeout d slot) s

end Sys2Proof.Machine
end

