-- ==== Sys2Proof/Machine/Links.lean ====
section
/-! DEFINITION. Koliz ports: their states and training, the loss of a link, identity, forwarding, echo and time over the
fabric, and the FENCE packets (spec/13_koliz_fabric.md R325 to R335, R340, R343 to R345, R348 to R354). -/

namespace Sys2Proof.Machine

/-! ## Port states (R325, R328) -/

/-- The ports a Cascade ring, or the tree (8), of a group uses. -/
def cscPorts (x : Grp) (ring : Nat) : List Nat :=
  if ring == 8 then (if x.parentValid then [x.parent] else []) ++ (List.range 16).filter (fun i => x.children.getLsbD i)
  else
    let r := tabGet {} x.rings ring
    [r.nextA] ++ (if r.nextBValid then [r.nextB] else []) ++ [r.prevA] ++ (if r.prevBValid then [r.prevB] else [])

/-- A port of running Cascade commands has left ACTIVE: each of their jobs takes FLT_REMOTE, and FAILED is set (R361). -/
def cascadeLost (d : Dev) (n dev : Nat) : Dev :=
  (d.klz.cascade.filter (fun c => (cscPorts (d.grp c.group) c.ring).contains n)).foldl (fun d c =>
    if d.flt.faulted.contains c.slot then d
    else jobFault { d with klz := { d.klz with failed := true } } c.slot c.core 7 c.logical c.command (fltRemote 0x63 dev 0)) d

/-- A port enters a state; NEIGHBOUR shows in ACTIVE and MISMATCH alone. Leaving ACTIVE is an absent member (R351) and ends
the Cascade commands that use the port (R361). -/
def changePort (d : Dev) (n : Nat) (s : PortState) (reason : Byte) : Dev :=
  let was := d.port n
  let shown := s == .active || s == .mismatch
  let d := d.modPort n (fun x => { x with
    state := s
    reason := reason
    retrain := x.retrain && !(s == .detect)
    neighbour := if shown then x.neighbour else 0
    neighbourPort := if shown then x.neighbourPort else 0 })
  if was.state == .active && !(s == .active) then cascadeLost (portAbsent d n) n was.neighbour.toNat else d

/-- A port loses its link: everything in its buffers is discarded and the loss is counted (R325). -/
def dropLink (d : Dev) (n : Nat) (dest : PortState) : Dev :=
  if !linkUp (d.port n).state then d else
    let d := d.modPort n (fun x => { x with
      linkLost := true
      losses := sat16 x.losses
      txSeq := 0
      rxSeq := 0
      dropping := false
      replaying := false
      retry := []
      sent := []
      ahead := 0
      used := []
      waiting := []
      rx := []
      ident := none })
    changePort d n dest 0

/-- LANE_SIGNAL_LOSS (R325). -/
def execLaneSignalLoss (port : Nat) (s : State) : Out := onDev (is16 port) (fun _ d => dropLink d port .backoff) s

/-- REPLAY_TIMEOUT (R325): a replay asked for or under way has not recovered within 10 µs. -/
def execReplayTimeout (port : Nat) (s : State) : Out :=
  onDev (is16 port) (fun _ d => if (d.port port).replaying || (d.port port).dropping then dropLink d port .backoff else d) s

/-- UNCORRECTABLE_CODE_WORDS (R325, R365): eight in a row lose the link. -/
def execUncorrectableCodeWords (port : Nat) (s : State) : Out :=
  onDev (is16 port) (fun _ d =>
    if !linkUp (d.port port).state then d
    else dropLink (d.modPort port (fun x => { x with fecUncorrected := satAdd16 x.fecUncorrected 8 })) port .backoff) s

/-- KLZ_RETRAIN (R325, R328, R365): the link drops and the port trains; the bit clears on entering DETECT. An IDLE port keeps
it until then. -/
def klzRetrain (d : Dev) (n : Nat) : Dev :=
  let d := d.modPort n (fun x => { x with retrain := true })
  match (d.port n).state with
  | .idle => d
  | .up => dropLink d n .detect
  | .active => dropLink d n .detect
  | .mismatch => dropLink d n .detect
  | _ => changePort d n .detect 0

def execKlzRetrain (port : Nat) (s : State) : Out := onDev (is16 port) (fun _ d => klzRetrain d port) s

/-- KLZ_DISABLE (R325, R328): DISABLE set holds the port IDLE; cleared, a port whose group has started enters DETECT. -/
def klzDisable (d : Dev) (n : Nat) (on : Bool) : Dev :=
  let d := d.modPort n (fun x => { x with disable := on })
  let x := d.port n
  if on then
    (if linkUp x.state then dropLink d n .idle else changePort d n .idle 0)
  else if x.state == .idle && x.started then changePort d n .detect 0
  else d

def execKlzDisable (port : Nat) (on : Bool) (s : State) : Out := onDev (is16 port) (fun _ d => klzDisable d port on) s

/-! ## Training (R328 to R330, R344) -/

/-- The device is out of reset. -/
def awake (d : Dev) : Bool := !(d.sys.state == .reset) && !d.sys.tripped

/-- KLZ_TRAIN_GROUP_START (R330): the group's four ports may train; those not held IDLE enter DETECT. -/
def klzTrainGroupStart (d : Dev) (g : Nat) : Dev :=
  if !awake d then d else
    [4 * g, 4 * g + 1, 4 * g + 2, 4 * g + 3].foldl (fun d n =>
      let d := d.modPort n (fun x => { x with started := true })
      if (d.port n).state == .idle && !(d.port n).disable then changePort d n .detect 0 else d) d

def execKlzTrainGroupStart (group : Nat) (s : State) : Out :=
  onDev (decide (group < 4)) (fun _ d => klzTrainGroupStart d group) s

/-- A port moves on from the state an event belongs to. -/
def portStep (d : Dev) (n : Nat) (source dest : PortState) : Dev :=
  if (d.port n).state == source then changePort d n dest 0 else d

/-- PORT_SIGNAL_SEEN (R328). -/
def execPortSignalSeen (port : Nat) (s : State) : Out := onDev (is16 port) (fun _ d => portStep d port .detect .train) s

/-- PORT_DETECT_TIMEOUT (R328). -/
def execPortDetectTimeout (port : Nat) (s : State) : Out := onDev (is16 port) (fun _ d => portStep d port .detect .backoff) s

/-- PORT_BACKOFF_EXPIRE (R328). -/
def execPortBackoffExpire (port : Nat) (s : State) : Out := onDev (is16 port) (fun _ d => portStep d port .backoff .detect) s

/-! ## Identity (R330, R332, R333) -/

/-- Sends IDENT by a port that has a link, once a structure is in force. -/
def sendIdent (d : Dev) (n : Nat) : Dev :=
  if d.str.inForce.isNone || !linkUp (d.port n).state then d
  else emit d n (newPacket d tyIdent 0 (leBytes 2 d.ownDevice ++ leBytes 1 n ++ [0] ++ leBytes 4 d.clp.num ++ leBytes 4 d.clp.den ++ leBytes 4 0))

/-- The neighbour's IDENT against our own: ACTIVE, or MISMATCH with KLZ_CADENCE or KLZ_DUPLICATE (R333). -/
def identEval (d : Dev) (n : Nat) : Dev :=
  let x := d.port n
  match d.str.inForce, x.ident with
  | some _, some (dev, pt, num, den) =>
    if !linkUp x.state then d else
      let d := d.setPort n { x with neighbour := BitVec.ofNat 12 dev, neighbourPort := BitVec.ofNat 4 pt }
      if !(num * d.clp.den == d.clp.num * den) then changePort d n .mismatch 0x68
      else if dev % 4096 == d.ownDevice then changePort d n .mismatch 0x69
      else changePort d n .active 0
  | _, _ => d

/-- A received IDENT is kept, and judged once a structure is in force. -/
def identTaken (d : Dev) (n : Nat) (p : Packet) : Dev :=
  let b := p.payload
  identEval (d.modPort n (fun x => { x with ident := some (fieldLe b 0 2, fieldLe b 2 1, fieldLe b 4 4, fieldLe b 8 4) })) n

/-- After a structure load every port with a link exchanges IDENT anew (R328, R330 step 8). -/
def reident (d : Dev) : Dev := (List.range 16).foldl (fun d n => identEval (sendIdent d n) n) d

/-- The reference clock of the die that a port sits on runs: REFCLK_A for K0 to K7 and E0, REFCLK_B for the others
(spec/18_power_and_package.md R480, R490; notes/assumptions/92.md). -/
def refclkRuns (d : Dev) (dieB : Bool) : Bool := if dieB then !d.sys.refclkBAbsent else !d.sys.refclkAAbsent

/-- PORT_TRAIN_DONE (R328, R344): the round trip is measured and the requested horizon applied; over 2,000 ns is TOO_FAR. Without
its reference clock a port never trains (spec/18_power_and_package.md R490). -/
def portTrainDone (d : Dev) (n : Nat) (ok : Bool) (rtt : Nat) : Dev :=
  if !((d.port n).state == .train) then d
  else if !ok then changePort d n .backoff 0
  else if !refclkRuns d (decide (8 ≤ n)) then d
  else
    let d := { d with klz := { d.klz with trained := some (clampHorizon d.klz.requested) } }
    let d := d.modPort n (fun x => { x with rtt := BitVec.ofNat 16 (min rtt 0xFFFF) })
    if 2000 < rtt then changePort d n .tooFar 0x62 else sendIdent (changePort d n .up 0) n

def execPortTrainDone (port : Nat) (ok : Bool) (rttNs : Nat) (s : State) : Out :=
  onDev (is16 port) (fun _ d => portTrainDone d port ok rttNs) s

/-! ## Arrival and forwarding (R328, R331, R334, R338 to R340, R343) -/

/-- Types that go from a port to its neighbour alone. -/
def hopType (t : Byte) : Bool :=
  t == tyCscData || t == tyCscReady || t == tyFence || t == tyTimeReq || t == tyTimeResp || t == tyIdent

/-- A channel-0 request. -/
def isRequest (p : Packet) : Bool := decide (1 ≤ p.type.toNat) && decide (p.type.toNat ≤ 4)

/-- What the destination accepts (R338). -/
def intact (p : Packet) : Bool :=
  p.crcOk && knownType p.type && p.payload.length % 16 == 0 && decide (p.payload.length ≤ 4096)

/-- A port in this state carries the packet (R328). -/
def carries (s : PortState) (p : Packet) : Bool :=
  match s with
  | .active => true
  | _ => linkUp s && (p.type == tyIdent || p.type == tyEcho || p.type == tyEchoResp || p.type == tyTimeReq || p.type == tyTimeResp
      || (p.type == tyResponse && p.status == 6))

/-- A RESPONSE to a request, without its route. -/
def responseTo (d : Dev) (p : Packet) (status : Byte) (data : List Byte) : Packet :=
  { newPacket d tyResponse p.src.toNat data with tag := p.tag, status := status }

/-- A RESPONSE goes back by the route of its requester; without one it is dropped. -/
def sendResponse (d : Dev) (p : Packet) (status : Byte) (data : List Byte) : Dev :=
  match routePort d p.src.toNat with
  | some n => emit d n (responseTo d p status data)
  | none => d

/-- NOT_READY out of the arrival port, at most once per port and microsecond (R331). -/
def answerNotReady (d : Dev) (port : Nat) (p : Packet) : Dev :=
  let last := (d.port port).lastNotReady
  if last == 0 || decide (nsUnits d 1000 ≤ d.clp.elapsed + 1 - last) then
    emit (d.modPort port (fun x => { x with lastNotReady := d.clp.elapsed + 1 })) port (responseTo d p 6 [])
  else d

/-- A packet for another device (R339, R340, R343): one more hop, by the route; over 64 hops it is dropped, and a request
whose route is gone is answered UNREACHABLE. -/
def forward (d : Dev) (p : Packet) : Dev :=
  if 64 ≤ p.hops.toNat then { d with klz := { d.klz with ttlDrops := sat16 d.klz.ttlDrops, ttlDrop := true } }
  else match routePort d p.dest.toNat with
    | some n => emit d n { p with hops := p.hops + 1 }
    | none => if isRequest p then sendResponse d p 1 [] else d

/-- What a device does with a packet that a port delivers: `own` when the packet ends here. -/
def arrive (d : Dev) (port : Nat) (p : Packet) (own : Dev → Dev) : Dev :=
  let st := (d.port port).state
  if !linkUp st then d else
    let d := d.count 8 ((p.payload.length + 63) / 64)
    if d.str.inForce.isNone && isRequest p then answerNotReady d port p
    else if !carries st p then d
    else if !hopType p.type && d.str.inForce.isNone then d
    else if !hopType p.type && !(p.dest.toNat == d.ownDevice) then forward d p
    else if !intact p then d.modPort port (fun x => { x with bad := sat16 x.bad })
    else own d

/-- IDENT_RECEIVE (R333). -/
def execIdentReceive (port : Nat) (p : Packet) (s : State) : Out :=
  onDev (is16 port) (fun _ d => if p.type == tyIdent then arrive d port p (fun d => identTaken d port p) else d) s

/-- KLZ_FORWARD (R343): a packet for another device. -/
def execKlzForward (port : Nat) (p : Packet) (s : State) : Out :=
  onDev (is16 port) (fun _ d =>
    if hopType p.type || p.dest.toNat == d.ownDevice then d else arrive d port p (fun d => d)) s

/-! ## Echo (R345) -/

/-- KLZ_ECHO_GO: ECHO to DEVICE; GO reads 1 until it has left. An unreachable device is FAILED at once, and this device itself is
answered at once. -/
def klzEchoGo (d : Dev) : Dev :=
  let dev := d.klz.echoDevice.toNat
  if d.str.inForce.isSome && dev == d.ownDevice then { d with klz := { d.klz with echoDone := true, echoRtt := 0 } }
  else match routePort d dev with
    | none => { d with klz := { d.klz with echoFailed := true } }
    | some n =>
      let t := d.klz.tagNext
      let d := { d with klz := { d.klz with tagNext := t + 1, echoTag := some t, echoGo := true } }
      emit d n { newPacket d tyEcho dev [] with tag := t }

def execKlzEchoGo (s : State) : Out := onDev true (fun _ d => klzEchoGo d) s

/-- An ECHO that ends here is answered. -/
def echoTaken (d : Dev) (p : Packet) : Dev :=
  match routePort d p.src.toNat with
  | some n => emit d n { newPacket d tyEchoResp p.src.toNat [] with tag := p.tag }
  | none => d

/-- ECHO_RECEIVE. -/
def execEchoReceive (port : Nat) (p : Packet) (s : State) : Out :=
  onDev (is16 port) (fun _ d => if p.type == tyEcho then arrive d port p (fun d => echoTaken d p) else d) s

/-- An ECHO_RESP for the outstanding ECHO: DONE and the round trip. -/
def echoAnswered (d : Dev) (p : Packet) (ns : Nat) : Dev :=
  if d.klz.echoTag == some p.tag then { d with klz := { d.klz with echoDone := true, echoRtt := BitVec.ofNat 32 ns, echoTag := none, echoGo := false } } else d

/-- ECHO_RESP_RECEIVE: the response with its round trip in ns. -/
def execEchoRespReceive (p : Packet) (rttNs : Nat) (s : State) : Out :=
  onDev true (fun _ d => if p.type == tyEchoResp && intact p && p.dest.toNat == d.ownDevice then echoAnswered d p rttNs else d) s

/-- ECHO_TIMEOUT: no response within 2 × TRAINED. -/
def execEchoTimeout (s : State) : Out :=
  onDev true (fun _ d => if d.klz.echoTag.isSome then { d with klz := { d.klz with echoFailed := true, echoTag := none, echoGo := false } } else d) s

/-! ## Time over the fabric (R86, R352, R353) -/

/-- A stamp: the Clepsydra with 32 bits of fraction, 12 bytes. -/
def stampBytes (c : Dword) (frac : Word) : List Byte := leBytes 4 frac.toNat ++ leBytes 8 c.toNat

/-- TIME_REQ_SEND: once per millisecond in FABRIC mode, stamped t1, on an upstream port that carries TIME packets (R328). -/
def timeReqSend (d : Dev) (frac : Word) : Dev :=
  if !(d.clp.source == 2) || !clockRuns d then d
  else match upstream d with
    | none => masterRoute d
    | some n =>
      if !linkUp (d.port n).state then d else
        let t := d.klz.tagNext
        let d := { d with klz := { d.klz with tagNext := t + 1, timeTag := some t }, clp := { d.clp with reqT1 := some (d.clp.now, frac) } }
        emit d n { newPacket d tyTimeReq (d.port n).neighbour.toNat [] with tag := t }

def execTimeReqSend (frac : Word) (s : State) : Out := onDev true (fun _ d => timeReqSend d frac) s

/-- The answer to a TIME_REQ: t2, t3, LOCKED and MASTER_FREE. -/
def timeAnswer (d : Dev) (port : Nat) (p : Packet) (fracRx fracTx : Word) : Dev :=
  if !linkUp (d.port port).state || !clockRuns d then d else
    let free := d.clp.source == 0 || (d.clp.source == 2 && d.clp.masterFree)
    let flags := bit d.clp.locked + 2 * bit free
    emit d port { newPacket d tyTimeResp (d.port port).neighbour.toNat (stampBytes d.clp.now fracRx ++ stampBytes d.clp.now fracTx ++ leBytes 1 flags) with tag := p.tag }

/-- TIME_REQ_RECEIVE. -/
def execTimeReqReceive (port : Nat) (p : Packet) (fracRx fracTx : Word) (s : State) : Out :=
  onDev (is16 port) (fun _ d => if p.type == tyTimeReq then arrive d port p (fun d => timeAnswer d port p fracRx fracTx) else d) s

/-- A signed difference of two 96-bit stamps. -/
def stampDiff (a b : Nat) : Int := (BitVec.ofNat 96 a - BitVec.ofNat 96 b).toInt

/-- The link delay and the offset (neighbour minus this device) of four stamps. -/
def timeExchange (t1 t2 t3 t4 : Nat) : Int × Int :=
  ((stampDiff t4 t1 - stampDiff t3 t2) / 2, (stampDiff t2 t1 + stampDiff t3 t4) / 2)

/-- The neighbour on a port is the master; a port that is UP has not identified its neighbour. -/
def isMaster (d : Dev) (port : Nat) : Bool :=
  !((d.port port).state == .up) && (d.port port).neighbour == d.clp.master

/-- A TIME_RESP to our TIME_REQ: the delay is shown; the offset is used when the neighbour is the master or LOCKED, with the
lock window of 10 ns. -/
def timeTaken (d : Dev) (port : Nat) (p : Packet) (frac : Word) : Dev :=
  match d.clp.reqT1 with
  | none => d
  | some (c1, f1) =>
    if !(d.klz.timeTag == some p.tag) || !(upstream d == some port) || !(d.clp.source == 2) || !clockRuns d then d
    else
      let t1 := c1.toNat * 2 ^ 32 + f1.toNat
      let t4 := d.clp.now.toNat * 2 ^ 32 + frac.toNat
      let x := timeExchange t1 (fieldLe p.payload 0 12) (fieldLe p.payload 12 12) t4
      let flags := fieldLe p.payload 24 1
      let ns := clampInt 0 0xFFFF (fracNs d x.1)
      let d := { d with
        klz := { d.klz with timeTag := none, linkDelay := BitVec.ofInt 16 ns }
        clp := { d.clp with reqT1 := none, masterFree := natBit flags 1, exchangeAt := d.clp.elapsed } }
      if isMaster d port || natBit flags 0 then measure d (-x.2) 10 else d

/-- TIME_RESP_RECEIVE. -/
def execTimeRespReceive (port : Nat) (p : Packet) (fracRx : Word) (s : State) : Out :=
  onDev (is16 port) (fun _ d => if p.type == tyTimeResp then arrive d port p (fun d => timeTaken d port p fracRx) else d) s

/-- FABRIC_TIME_TIMEOUT (R86): no time exchange for 4 ms of elapsed count in FABRIC mode (R88). -/
def fabricTimeTimeout (d : Dev) : Dev :=
  if d.clp.source == 2 && decide (d.clp.exchangeAt + nsUnits d 4000000 ≤ d.clp.elapsed) then unlock d else d

def execFabricTimeTimeout (s : State) : Out := onDev true (fun _ d => fabricTimeTimeout d) s

/-! ## FENCE packets (R348 to R351) -/

/-- A FENCE packet of one kind arrives. -/
def fenceArrives (kind port : Nat) (p : Packet) (s : State) : Out :=
  onDev (is16 port) (fun _ d =>
    if p.type == tyFence && fieldLe p.payload 0 1 == kind then arrive d port p (fun d => fencePacket d port p) else d) s

def execFenceArriveReceive (port : Nat) (p : Packet) (s : State) : Out := fenceArrives 1 port p s
def execFenceDecideReceive (port : Nat) (p : Packet) (s : State) : Out := fenceArrives 2 port p s
def execFenceAbortReceive (port : Nat) (p : Packet) (s : State) : Out := fenceArrives 3 port p s
def execFenceReplayReceive (port : Nat) (p : Packet) (s : State) : Out := fenceArrives 4 port p s
def execFenceStopReceive (port : Nat) (p : Packet) (s : State) : Out := fenceArrives 5 port p s
def execFenceAbsentReceive (port : Nat) (p : Packet) (s : State) : Out := fenceArrives 6 port p s

end Sys2Proof.Machine
end

