-- ==== Sys2Proof/Machine/Cascade.lean ====
section
/-! DEFINITION. The Cascade engines: CSC.RUN and CSC.PASS, their packets, and their end
(spec/13_koliz_fabric.md R355 to R361). -/

namespace Sys2Proof.Machine

/-! ## A command's geometry (R355, R356) -/

/-- The members of a command's ring. -/
def CscCmd.members (c : CscCmd) (d : Dev) : Nat := (tabGet {} (d.grp c.group).rings c.ring).size
/-- This member's position. -/
def CscCmd.position (c : CscCmd) (d : Dev) : Nat := (tabGet {} (d.grp c.group).rings c.ring).position
/-- The command is on the tree. -/
def CscCmd.tree (c : CscCmd) : Bool := c.ring == 8
/-- The command reduces. -/
def CscCmd.reduces (c : CscCmd) : Bool := !c.pass && decide (c.op ≤ 1)
/-- The format of a reduction's wire elements: FP32, or BF16 with NARROW (R357). -/
def CscCmd.wireFmt (c : CscCmd) : Nat := if c.narrow then 0 else 8
/-- Bytes of a wire element; moves count bytes. -/
def CscCmd.width (c : CscCmd) : Nat := if c.reduces then (if c.narrow then 2 else 4) else 1
/-- E, in elements of a reduction or bytes of a move. -/
def CscCmd.total (c : CscCmd) : Nat := c.bytes / c.width

/-- The first element of chunk `k` of `p` (R356). -/
def chunkStart (e p k : Nat) : Nat := k * e / p

/-- The chunk element `i` lies in. -/
def chunkOf (e p i : Nat) : Nat := ((List.range p).find? (fun k => decide (i < chunkStart e p (k + 1)))).getD 0

/-- What the TAG of Cascade packets carries: OP, FMT and REDOP, so that a receiver can compare them (R358). -/
def CscCmd.tag (c : CscCmd) : Word := BitVec.ofNat 32 (c.op + 16 * c.fmt + 256 * c.redop + 4096 * bit c.narrow + 8192 * bit c.pass)

/-- The combination of an arriving partial with this member's value (R357). -/
def CscCmd.combine (c : CscCmd) (a b : FVal) : FVal :=
  match c.redop with
  | 0 => fp32 (a.add b)
  | 1 => a.max b
  | _ => a.min b

/-- This member's value of element `i`. -/
def CscCmd.own (c : CscCmd) (i : Nat) : FVal := decodeElem c.fmt (elemAt c.fmt c.src i)

/-- Wire elements of a payload. -/
def CscCmd.unpack (c : CscCmd) (b : List Byte) (n : Nat) : List FVal :=
  (List.range n).map (fun i => decodeElem c.wireFmt (elemAt c.wireFmt b i))

/-- Values as wire bytes; BF16 partials round at every hop with NARROW (R357). -/
def CscCmd.pack (c : CscCmd) (vs : List FVal) : List Byte :=
  packElems c.wireFmt (vs.map (encodeElem c.wireFmt .rne))

/-! ## Sending (R327, R355, R360) -/

/-- A Cascade packet to the neighbour on a port; a port that is not ACTIVE sends nothing. -/
def cscEmit (d : Dev) (c : CscCmd) (port : Nat) (type : Byte) (off : Nat) (body : List Byte) : Dev :=
  if !((d.port port).state == .active) then d
  else emit d port { newPacket d type (d.port port).neighbour.toNat body with
    tag := c.tag
    slotGroup := BitVec.ofNat 8 c.group
    ring := BitVec.ofNat 8 c.ring
    address := BitVec.ofNat 64 (off * 2 ^ 32 + c.seq)
    bytes := BitVec.ofNat 32 c.bytes }

/-- Bytes from offset `off` of the transfer by one port, in packets of up to 4 KiB. -/
def cscSend (d : Dev) (c : CscCmd) (port off : Nat) (bs : List Byte) : Dev :=
  (List.range ((bs.length + 4095) / 4096)).foldl (fun d k => cscEmit d c port tyCscData (off + 4096 * k) ((bs.drop (4096 * k)).take 4096)) d

/-- The part of the transfer that goes round the ring together: a chunk of a reduction or of an ALL_GATHER, else all of it. Its first
byte, and the one past its last. -/
def CscCmd.span (c : CscCmd) (d : Dev) (off : Nat) : Nat × Nat :=
  if c.pass || c.tree || c.op == 3 then (0, c.bytes)
  else
    let p := c.members d
    let k := chunkOf c.total p (off / c.width)
    (chunkStart c.total p k * c.width, chunkStart c.total p (k + 1) * c.width)

/-- PREV_A, and PREV_B. -/
def prevPorts (d : Dev) (c : CscCmd) : List Nat :=
  let r := tabGet {} (d.grp c.group).rings c.ring
  [r.prevA] ++ (if r.prevBValid then [r.prevB] else [])

/-- To the next member of the ring: on NEXT_A, or striped, the first half of each part on NEXT_A, in whole units of 16 B, and the rest
on NEXT_B (R360; notes/assumptions/61.md). -/
def cscNext (d : Dev) (c : CscCmd) (off : Nat) (bs : List Byte) : Dev :=
  let r := tabGet {} (d.grp c.group).rings c.ring
  if !r.nextBValid then cscSend d c r.nextA off bs
  else
    let q := c.span d off
    let n := q.1 + ((q.2 - q.1 + 1) / 2 + 15) / 16 * 16 - off
    cscSend (cscSend d c r.nextA off (bs.take n)) c r.nextB (off + n) (bs.drop n)

/-- To every child of the tree. -/
def cscDown (d : Dev) (c : CscCmd) (off : Nat) (bs : List Byte) : Dev :=
  (childPorts (d.grp c.group)).foldl (fun d n => cscSend d c n off bs) d

/-! ## Storing -/

/-- The same command: group, ring and number. -/
def CscCmd.same (a b : CscCmd) : Bool := a.group == b.group && a.ring == b.ring && a.seq == b.seq

/-- A command's record is replaced; what it keeps for other devices stands. -/
def cscPut (d : Dev) (c : CscCmd) : Dev :=
  { d with klz := { d.klz with cascade := d.klz.cascade.map (fun x => if x.same c then { c with far := x.far } else x) } }

/-- Keeps bytes that go to another device when the command ends. -/
def farPut (d : Dev) (c : CscCmd) (key : Nat) (bs : List Byte) : Dev :=
  { d with klz := { d.klz with cascade := d.klz.cascade.map (fun x => if x.same c then { x with far := memWrite x.far key bs } else x) } }

/-- Writes bytes at an offset of a list of runs; bytes past its end are not written (spec/07_loop_nests.md R186). `key`: where the first
run stands in what the command keeps for other devices. -/
def putRuns (d : Dev) (c : CscCmd) : List CscRun → Nat → Nat → List Byte → Dev
  | [], _, _, _ => d
  | r :: rest, key, off, bs =>
    if r.n ≤ off then putRuns d c rest (key + r.n) (off - r.n) bs
    else
      let k := min (r.n - off) bs.length
      let d := match r.place with
        | .cells a => countHbm (placeWrite d (.cells (a + off)) (bs.take k)) true (.cells (a + off)) k
        | _ => farPut d c (key + off) (bs.take k)
      putRuns d c rest (key + r.n) 0 (bs.drop k)

/-- The first key of a receiver's destination in what the command keeps for other devices. -/
def farKey (receiver : Nat) : Nat := 2 ^ 40 * receiver

/-- Writes bytes at an offset of a command's destination, in every core that receives it. -/
def cscStore (d : Dev) (c : CscCmd) (off : Nat) (bs : List Byte) : Dev :=
  c.dst.zipIdx.foldl (fun d e => putRuns d c e.1 (farKey e.2) off bs) d

/-- Stores final values of a reduction from element `i` on (R356, R357). -/
def cscStoreVals (d : Dev) (c : CscCmd) (i : Nat) (vs : List FVal) : Dev :=
  let w := elemBits c.fmt / 8
  let base := if c.op == 1 then chunkStart c.total (c.members d) (c.position d) else 0
  cscStore d c ((i - base) * w) (packElems c.fmt (vs.map (encodeElem c.fmt .rne)))

/-! ## The commands in progress -/

/-- Elements `i` to `i + vs.length` arrive on a ring: combined and passed on, or final (R357). -/
def ringReduce (d : Dev) (c : CscCmd) (i : Nat) (vs : List FVal) : Dev :=
  let p := c.members d
  let pos := c.position d
  let k := chunkOf c.total p i
  let c2 := { c with got := c.got + vs.length }
  if !(pos == (k + 1) % p) && tabGet 0 c.seen i == 0 then
    let c3 := { c2 with seen := (List.range vs.length).foldl (fun t j => tabSet 0 t (i + j) 1) c2.seen }
    let out := vs.zipIdx.map (fun e => c.combine e.1 (c.own (i + e.2)))
    let d := cscPut d c3
    if pos == k then
      let d := cscStoreVals d c3 i out
      if c.op == 0 && decide (1 < p) then cscNext d c3 (i * c.width) (c.pack out) else d
    else cscNext d c3 (i * c.width) (c.pack out)
  else
    let d := cscStoreVals (cscPut d c2) c2 i vs
    if (pos + 1) % p == k then d else cscNext d c2 (i * c.width) (c.pack vs)

/-- A final range on the tree: stored, and sent to every child. -/
def treeFinal (d : Dev) (c : CscCmd) (i : Nat) (vs : List FVal) : Dev :=
  cscDown (cscStoreVals d c i vs) c (i * c.width) (c.pack vs)

/-- The partial of element `i` with every child's in it: up to the parent, or final at the root. -/
def treeUp (d : Dev) (c : CscCmd) (i : Nat) (vs : List FVal) : Dev :=
  let x := d.grp c.group
  if x.root then treeFinal d c i vs else cscSend d c x.parent (i * c.width) (c.pack vs)

/-- A child's partials, combined in the order they arrive (R357); the elements that now hold every child's go on. -/
def treeReduce (d : Dev) (c : CscCmd) (i : Nat) (vs : List FVal) : Dev :=
  let kids := (childPorts (d.grp c.group)).length
  let r := vs.zipIdx.foldl (fun (acc : CscCmd × List (Nat × FVal)) e =>
    let j := i + e.2
    let n := tabGet 0 acc.1.seen j
    let old := if n == 0 then c.own j else decodeElem 8 (tabGet 0 acc.1.part j)
    let new := c.combine old e.1
    let c1 := { acc.1 with seen := tabSet 0 acc.1.seen j (n + 1), part := tabSet 0 acc.1.part j (encodeElem 8 .rne new) }
    (c1, if n + 1 == kids then acc.2 ++ [(j, new)] else acc.2)) ({ c with got := c.got + vs.length }, [])
  let d := cscPut d r.1
  if r.2.length == vs.length then treeUp d r.1 i (r.2.map (·.2))
  else r.2.foldl (fun d e => treeUp d r.1 e.1 [e.2]) d

/-- Bytes of a move arrive (R356, R359). -/
def cscMove (d : Dev) (c : CscCmd) (off : Nat) (bs : List Byte) : Dev :=
  let c := { c with got := c.got + bs.length }
  let d := cscPut d c
  if c.op == 3 && !c.pass && (d.grp c.group).root then d else
  let d := cscStore d c off bs
  if c.pass then d
  else if c.tree then cscDown d c off bs
  else if c.op == 3 then cscNext d c off bs
  else
    let p := c.members d
    if (c.position d + 1) % p == chunkOf c.bytes p off then d else cscNext d c off bs

/-! ## Packets (R358, R359) -/

/-- A packet that disagrees with its command: FLT_ILLEGAL_OP with detail KLZ_GROUP (R358). -/
def cscFault (d : Dev) (c : CscCmd) (f : JFault) : Dev := jobFault d c.slot c.core 7 c.logical c.command f
def fltGroup : JFault := { reason := 0xA2, sub := 0x6A }

/-- A PASS sends its block once the receiver is ready (R359). -/
def passSend (d : Dev) (c : CscCmd) : Dev :=
  if c.pass && c.ready && !c.sent then cscNext (cscPut d { c with sent := true }) c 0 c.src else d

/-- A Cascade packet for a command in progress. The padding of its payload ends with the part it belongs to (R338). -/
def cscData (d : Dev) (c : CscCmd) (port : Nat) (p : Packet) : Dev :=
  let off := natBits p.address.toNat 63 32
  if !(p.bytes.toNat == c.bytes) || !(p.tag == c.tag) then cscFault d c fltGroup
  else if p.type == tyCscReady then passSend (cscPut d { c with ready := true }) { c with ready := true }
  else if p.flags.getLsbD 1 then cscFault d c (fltPoison 0)
  else
    let n := min p.payload.length ((c.span d off).2 - off)
    if !c.reduces then cscMove d c off (p.payload.take n)
    else
      let i := off / c.width
      let vs := c.unpack p.payload (n / c.width)
      if !c.tree then ringReduce d c i vs
      else if fromParent (d.grp c.group) port then treeFinal (cscPut d { c with got := c.got + vs.length }) c i vs
      else treeReduce d c i vs

/-- The port is one that the group's ring, or tree, receives this packet on. -/
def cscFrom (d : Dev) (g ring port : Nat) (ready : Bool) : Bool :=
  let x := d.grp g
  let r := tabGet {} x.rings ring
  if ring == 8 then fromChild x port || fromParent x port
  else if 8 < ring then false
  else if ready then r.nextA == port || (r.nextBValid && r.nextB == port)
  else r.prevA == port || (r.prevBValid && r.prevB == port)

/-- A Cascade packet: for its command, or kept until that is issued, in this turn or the next (R358). -/
def cscPacket (d : Dev) (port : Nat) (p : Packet) : Dev :=
  let g := p.slotGroup.toNat
  let ring := p.ring.toNat
  let seq := natBits p.address.toNat 15 0
  if 16 ≤ g || !serves d g || !cscFrom d g ring port (p.type == tyCscReady) then d
  else match d.klz.cascade.find? (fun c => c.group == g && c.ring == ring && c.seq == seq) with
    | some c => cscData d c port p
    | none => { d with klz := { d.klz with early := d.klz.early ++ [(port, p)] } }

/-- CSC_DATA_RECEIVE (R359). -/
def execCscDataReceive (port : Nat) (p : Packet) (s : State) : Out :=
  onDev (is16 port) (fun _ d => if p.type == tyCscData then arrive d port p (fun d => cscPacket d port p) else d) s

/-- CSC_READY_RECEIVE (R359). -/
def execCscReadyReceive (port : Nat) (p : Packet) (s : State) : Out :=
  onDev (is16 port) (fun _ d => if p.type == tyCscReady then arrive d port p (fun d => cscPacket d port p) else d) s

/-! ## Issue (R355 to R359) -/

/-- The rows of a descriptor's box, and the bytes of one. -/
def descRows (d : Dev) (t : Tensor) (adj : Int) (e : Nat → Nat) (write : Bool) : Acc (List TmSide × Nat) := do
  let n := e 0 * elemBits t.fmt / 8
  let rows ← (List.range (e 1 * e 2 * e 3)).mapM (fun k =>
    tensorSide d t (rowAddr (t.base + adj) t (k % e 1) (k / e 1 % e 2) (k / (e 1 * e 2))) n write)
  .ok (rows, n)

/-- The bytes of the rows; poison is FLT_POISON. -/
def readRows (d : Dev) (slot : Nat) (rows : List TmSide) (n : Nat) : Acc (Dev × List Byte) :=
  rows.foldlM (fun (acc : Dev × List Byte) r =>
    match r with
    | .va a => (vaRead acc.1 slot a n).map (fun x => (x.1, acc.2 ++ x.2))
    | .sram l o => do
      let c ← sramOf acc.1 l o
      if poisonedAt acc.1.poison c n then .error (fltPoison 0) else .ok (acc.1, acc.2 ++ memRead acc.1.mem c n)
    | .zeros => .ok (acc.1, acc.2 ++ List.replicate n 0)) (d, [])

/-- Where the rows lie; committed pages take their shadows. A piece on another device is written there when the command ends. -/
def rowRuns (d : Dev) (slot : Nat) (rows : List TmSide) (n : Nat) : Acc (Dev × List CscRun) :=
  rows.foldlM (fun (acc : Dev × List CscRun) r =>
    match r with
    | .sram l o => (sramOf acc.1 l o).map (fun c => (acc.1, acc.2 ++ [{ place := .cells c, n := n }]))
    | .zeros => .ok acc
    | .va a => (vaPieces a n).foldlM (fun (acc : Dev × List CscRun) q => do
        let (d, pl) ← writePlace acc.1 slot q.1 q.2 false
        match pl with
        | .cells _ => .ok (notePlain d slot (vaPlain acc.1 slot q.1) pl q.2, acc.2 ++ [{ place := pl, n := q.2 }])
        | _ =>
          if !isRemote pl then .error (fltTranslation q.1)
          else if !remoteAligned q.1 q.2 then .error fltIllegal
          else if (routePort d (placeDevice pl)).isNone then .error (fltRemote 0x63 (placeDevice pl) q.1)
          else .ok (d, acc.2 ++ [{ place := pl, va := q.1, n := q.2 }])) acc) (d, [])

/-- What a command of R355 asks for is allowed (R355, R356). -/
def cscLegal (pass : Bool) (ring op fmt redop fan : Nat) (narrow : Bool) (s t : Tensor) : Bool :=
  let space (x : Nat) : Bool := x == 0 || x == 1 || x == 4
  let reduces := !pass && decide (op ≤ 1)
  space s.space && space t.space && s.fmt == fmt && t.fmt == fmt && decide (ring ≤ 8) && decide (fmt ≤ 10)
    && (if pass then op == 0 && decide (ring < 8) && decide (1 ≤ fan) && decide (fan ≤ 12) && (fan == 1 || !(t.space == 0))
        else decide (op ≤ 3) && fan == 0 && (decide (ring < 8) || op == 0 || op == 3))
    && (if reduces then (fmt == 8 || fmt == 0) && decide (redop ≤ 2) && (!narrow || fmt == 0) else redop == 0 && !narrow)

/-- What a new command does at once: its first sends, and results that need no other member. -/
def cscBegin (d : Dev) (c : CscCmd) : Dev :=
  let p := c.members d
  let pos := c.position d
  let kids := childPorts (d.grp c.group)
  let vals (a b : Nat) : List FVal := (List.range (b - a)).map (fun j => c.own (a + j))
  if c.pass then
    if p == 1 then
      let c := { c with got := c.bytes, ready := true, sent := true }
      cscStore (cscPut d c) c 0 c.src
    else match (prevPorts d c).head? with
      | some n => cscEmit d c n tyCscReady 0 []
      | none => d
  else if c.tree then
    if c.reduces then (if kids.isEmpty then treeUp d c 0 (vals 0 c.total) else d)
    else if (d.grp c.group).root then cscDown (cscStore d c 0 c.src) c 0 c.src
    else d
  else if c.reduces then
    if p == 1 then cscStoreVals d c 0 (vals 0 c.total)
    else
      let k := (pos + p - 1) % p
      let a := chunkStart c.total p k
      cscNext d c (a * c.width) (c.pack (vals a (chunkStart c.total p (k + 1))))
  else if c.op == 2 then
    let d := cscStore d c (pos * c.src.length) c.src
    if p == 1 then d else cscNext d c (pos * c.src.length) c.src
  else if (d.grp c.group).root then
    let d := cscStore d c 0 c.src
    if p == 1 then d else cscNext d c 0 c.src
  else d

/-- How much a command receives before it is complete, in elements or bytes. -/
def cscExpected (d : Dev) (c : CscCmd) : Nat :=
  let p := c.members d
  let e := c.total
  let pos := c.position d
  let len (k : Nat) : Nat := chunkStart e p (k + 1) - chunkStart e p k
  let kids := (childPorts (d.grp c.group)).length
  let root := (d.grp c.group).root
  if c.pass then e
  else if c.tree then (if c.reduces then kids * e else 0) + (if root then 0 else e)
  else if p ≤ 1 then 0
  else match c.op with
    | 0 => ((List.range p).map (fun k => (if pos == (k + 1) % p then 0 else len k) + (if pos == k then 0 else len k))).foldl (· + ·) 0
    | 1 => ((List.range p).map (fun k => if pos == (k + 1) % p then 0 else len k)).foldl (· + ·) 0
    | 2 => e - len pos
    | _ => e

/-- Takes the packets that came before their command (R358). -/
def takeEarly (d : Dev) (c : CscCmd) : Dev :=
  let mine (e : Nat × Packet) : Bool :=
    e.2.slotGroup.toNat == c.group && e.2.ring.toNat == c.ring && natBits e.2.address.toNat 15 0 == c.seq
  let got := d.klz.early.filter mine
  let d := { d with klz := { d.klz with early := d.klz.early.filter (fun e => !mine e) } }
  got.foldl (fun d e => cscPacket d e.1 e.2) d

/-- The destinations of FAN consecutive logical cores (R355). -/
def fanTensors (t : Tensor) (fan : Nat) : List Tensor := (List.range (max 1 fan)).map (fun i => { t with logical := t.logical + i })

/-- What a command asks for, once it is known to be legal: its group, its descriptors and the semaphore its signal names. -/
structure CscPlan where
  group : Nat
  src   : Tensor
  dst   : Tensor
  owner : Nat

/-- Field RING of a command. -/
def cscRing (c : Cmd) : Nat := natBits (c.u 1 1) 4 1
/-- The command is CSC.PASS. -/
def cscIsPass (c : Cmd) : Bool := c.u 0 1 == 0x7D

/-- The plan of a command, or what is wrong with it (R355, R358). -/
def cscPlan (d : Dev) (c : Cmd) : Acc CscPlan := do
  let ctl := c.u 1 1
  let ring := cscRing c
  legal (natBits ctl 7 6 == 0 && c.zero 0x16 2 && c.zero 0x1A 2 && decide (ring ≤ 8))
  match groupOf d c.slot with
  | none => .error fltGroup
  | some g =>
    if !(ring == 8) && !(tabGet ({} : Ring) (d.grp g).rings ring).valid then .error fltGroup
    else
    let s ← jobTensor d c.slot (c.u 4 2)
    let t ← jobTensor d c.slot (c.u 6 2)
    legal (cscLegal (cscIsPass c) ring (c.u 2 1) (natBits (c.u 3 1) 3 0) (natBits (c.u 3 1) 7 4) (c.u 0x14 2) (natBit ctl 5) s t)
    let o ← if natBit ctl 0 then engineSemTarget d c.slot c.logical (c.u 0x19 1) (c.u 0x18 1) else .ok 0
    .ok { group := g, src := s, dst := t, owner := o }

/-- The member's own bytes, and the runs of the destination in every core that receives. -/
def cscSides (d : Dev) (c : Cmd) (p : CscPlan) : Acc (Dev × List Byte × List (List CscRun)) := do
  let whole := !cscIsPass c && !(cscRing c == 8) && (c.u 2 1 == 1 || c.u 2 1 == 2)
  let box (i : Nat) : Nat := min (p.src.extent i) (p.dst.extent i)
  let (srcRows, sn) ← descRows d p.src (c.i 8 8) (if whole then p.src.extent else box) false
  let (d, src) ← readRows d c.slot srcRows sn
  let (d, dst) ← (fanTensors p.dst (c.u 0x14 2)).foldlM (fun (acc : Dev × List (List CscRun)) t => do
    let (rows, n) ← descRows acc.1 t (c.i 0x10 4) (if whole then p.dst.extent else box) true
    let (d, runs) ← rowRuns acc.1 c.slot rows n
    .ok (d, acc.2 ++ [runs])) (d, [])
  .ok (d, src, dst)

/-- The record of a new command: the next number of its ring in this turn (R358). -/
def cscNew (d : Dev) (c : Cmd) (p : CscPlan) (src : List Byte) (dst : List (List CscRun)) : CscCmd :=
  let pass := cscIsPass c
  let ctl := c.u 1 1
  let ring := cscRing c
  let op := c.u 2 1
  let fmt := natBits (c.u 3 1) 3 0
  let elems := src.length * 8 / elemBits fmt
  let bytes := if !pass && decide (op ≤ 1) then elems * (if natBit ctl 5 then 2 else 4)
    else if op == 2 then src.length * (tabGet ({} : Ring) (d.grp p.group).rings ring).size else src.length
  let x : CscCmd := { core := c.core, slot := c.slot, logical := c.logical, command := c.pc, group := p.group, ring := ring, seq := tabGet 0 d.klz.issued (16 * c.slot + ring) + 1, pass := pass, op := op, fmt := fmt, redop := natBits (c.u 3 1) 7 4, narrow := natBit ctl 5, bytes := bytes, src := src, dst := dst, expected := 0, signal := natBit ctl 0, semCore := p.owner, semIndex := c.u 0x18 1, semAdd := BitVec.ofNat 32 (c.u 0x1C 4) }
  { x with expected := cscExpected d x }

/-- A port the command needs that is not ACTIVE (R361). -/
def cscDeadPort (d : Dev) (c : Cmd) (p : CscPlan) : Option Nat :=
  (cscPorts (d.grp p.group) (cscRing c)).find? (fun n => !((d.port n).state == .active))

/-- CSC.RUN and CSC.PASS. -/
def cscCmd (d : Dev) (c : Cmd) : Acc Issued := do
  let p ← cscPlan d c
  match cscDeadPort d c p with
  | some n =>
    .ok (.next (jobFault { d with klz := { d.klz with failed := true } } c.slot c.core 7 c.logical c.pc (fltRemote 0x63 (d.port n).neighbour.toNat 0)))
  | none =>
    if 4 ≤ (d.klz.cascade.filter (fun x => x.core == c.core)).length then .ok (queueStall d c.core) else
      let (d, src, dst) ← cscSides d c p
      let x := cscNew d c p src dst
      let d := { d with klz := { d.klz with cascade := d.klz.cascade ++ [x], issued := tabSet 0 d.klz.issued (16 * c.slot + x.ring) x.seq } }
      .ok (.next (takeEarly (cscBegin d x) x))

/-- CSC.RUN. -/
def execCscRun (core : Nat) (s : State) : Out := onDev (isCore core) (fun _ d => issue core 7 (fun o => o == 0x7C) (fun d c => behind (coreBusy (d.core c.core)) d (cscCmd d c)) d) s

/-- CSC.PASS. -/
def execCscPass (core : Nat) (s : State) : Out := onDev (isCore core) (fun _ d => issue core 7 (fun o => o == 0x7D) (fun d c => behind (coreBusy (d.core c.core)) d (cscCmd d c)) d) s

/-! ## The end of a command (R359) -/

/-- A packet of the command has not been acknowledged. -/
def cscUnacked (d : Dev) (c : CscCmd) : Bool :=
  let mine (p : Packet) : Bool :=
    p.type == tyCscData && p.slotGroup.toNat == c.group && p.ring.toNat == c.ring && natBits p.address.toNat 15 0 == c.seq
  d.klz.ports.any (fun e => e.2.retry.any (fun r => mine r.2) || e.2.waiting.any mine)

/-- Everything the command sends is acknowledged and everything it receives has come. -/
def cscComplete (d : Dev) (c : CscCmd) : Bool := decide (c.expected ≤ c.got) && (!c.pass || c.sent) && !cscUnacked d c

/-- Bytes that a command's destination receives (R356). -/
def CscCmd.stored (c : CscCmd) (d : Dev) : Nat :=
  if !c.reduces then c.bytes
  else
    let p := c.members d
    let k := c.position d
    (if c.op == 1 then chunkStart c.total p (k + 1) - chunkStart c.total p k else c.total) * (elemBits c.fmt / 8)

/-- Writes to other devices what the command has kept for them. -/
def farSend (d : Dev) (c : CscCmd) : Acc Dev :=
  let n := c.stored d
  c.dst.zipIdx.foldlM (fun d e => do
    let r ← e.1.foldlM (fun (acc : Dev × Nat) r => do
      let k := min r.n (n - acc.2)
      let d ← if isRemote r.place && decide (0 < k) then remoteWrite acc.1 r.place r.va (memRead c.far (farKey e.2 + acc.2) k) else .ok acc.1
      .ok (d, acc.2 + r.n)) (d, 0)
    .ok r.1) d

/-- CSC_DONE: the oldest command of a group's ring, once it is complete, ends with its signal. -/
def cscDone (d : Dev) (g ring : Nat) : Dev :=
  match d.klz.cascade.find? (fun c => c.group == g && c.ring == ring) with
  | none => d
  | some c =>
    if !cscComplete d c || d.flt.stopActive then d
    else
      let d := { d with klz := { d.klz with cascade := d.klz.cascade.filter (fun x => !x.same c) } }
      match farSend d c with
      | .error f => cscFault d c f
      | .ok d => if c.signal then semSignal d c.slot c.semCore c.semIndex c.semAdd else d

def execCscDone (group ring : Nat) (s : State) : Out :=
  onDev (is16 group && decide (ring ≤ 8)) (fun _ d => cscDone d group ring) s

end Sys2Proof.Machine
end

