-- ==== Sys2Proof/Machine/Codec.lean ====
section
/-! DEFINITION. Video codec streams and pictures (spec/14_video_codec.md R367 to R391). What an encoder codes and what a
bitstream decodes to are set by the codec standards, which this manual does not restate: those values are free
(notes/assumptions/17.md). -/

namespace Sys2Proof.Machine

/-! ## Streams (R371 to R374, R383) -/

/-- The combinations of STANDARD, DIRECTION, PROFILE and FORMAT of R367. -/
def formatRow (std dir prof depth : Nat) (wide : Bool) : Bool :=
  let bits := depth == 8 || depth == 10
  match std with
  | 0 => decide (dir ≤ 1) && bits && ((prof == 0 && depth == 8 && !wide) || (prof == 1 && !wide) || prof == 2)
  | 1 => decide (dir ≤ 1) && prof == 0 && bits && !wide
  | 2 => dir == 1 && prof == 0 && depth == 8 && !wide
  | _ => false

/-- A power of two between two bounds. -/
def powerIn (v lo hi : Nat) : Bool := v == 2 ^ Nat.log2 v && decide (lo ≤ v) && decide (v ≤ hi)

/-- The sizes and the splitting of R368 and R370. -/
def sizeOk (x : Stream) : Bool :=
  let std := x.u 0 1
  let split := x.u 5 1
  let mode := x.u 6 1
  let w := x.u 8 2
  let h := x.u 0xA 2
  (split == 1 || split == 2 || split == 4)
    && (if split == 1 || x.u 1 1 == 1 then mode == 0
        else (mode == 0 && decide (std ≤ 1)) || ((mode == 1 || mode == 2) && std == 0))
    && decide (64 ≤ w) && decide (64 ≤ h) && decide (w ≤ if split == 4 then 8192 else 4096)
    && decide (h ≤ if split == 4 then 4352 else 2304) && w % 2 == 0 && h % (if x.wide then 2 else 4) == 0

/-- The fields of an encoder's descriptor (R371, R372). -/
def encFieldsOk (x : Stream) : Bool :=
  let rc := x.u 0xE 1
  let maxB := x.u 0x1C 4
  decide (1 ≤ x.u 0xD 1) && decide (x.u 0xD 1 ≤ 4) && decide (x.u 0xD 1 + 1 ≤ x.u 0xC 1) && decide (rc ≤ 2)
    && (if rc == 0 then decide (x.u 0xF 1 ≤ if x.u 0 1 == 0 then 51 else 255) && x.u 0x10 4 == 0 && x.u 0x14 4 == 0
        else x.u 0xF 1 == 0 && decide (100 ≤ x.u 0x10 4) && decide (x.u 0x10 4 ≤ 2000000) && decide (maxB ≤ x.u 0x14 4))
    && maxB % 4096 == 0 && decide (4096 ≤ maxB) && decide (maxB ≤ 0x4000000)
    && x.u 0x28 8 % 4096 == 0 && powerIn (x.u 0x30 4) 0x100000 0x40000000
    && decide (x.u 0x36 2 ≤ (x.u 0xA 2 + 63) / 64) && x.u 0x4C 4 == 0

/-- The fields of a decoder's descriptor (R371). -/
def decFieldsOk (x : Stream) : Bool :=
  x.u 0xD 1 == 0 && x.u 0xE 1 == 0 && decide (x.u 0xF 1 ≤ if x.u 0 1 == 0 then 51 else if x.u 0 1 == 1 then 255 else 0)
    && x.u 0x10 4 == 0 && x.u 0x14 4 == 0 && x.u 0x1C 4 == 0 && x.u 0x28 8 == 0 && x.u 0x30 4 == 0

/-- Step 2 of R372. -/
def descOk (x : Stream) : Bool :=
  let live := x.u 4 1 == 1
  formatRow (x.u 0 1) (x.u 1 1) (x.u 2 1) (natBits (x.u 3 1) 3 0) x.wide && natBits (x.u 3 1) 7 5 == 0 && decide (x.u 4 1 ≤ 1)
    && sizeOk x && decide (x.u 7 1 ≤ 63) && decide (1 ≤ x.u 0xC 1) && decide (x.u 0xC 1 ≤ 64)
    && (if x.u 1 1 == 0 then encFieldsOk x else decFieldsOk x)
    && x.u 0x20 8 % 0x10000 == 0 && decide (4 ≤ x.u 0x34 1) && decide (x.u 0x34 1 ≤ 16)
    && (live || (x.u 0x35 1 == 0 && x.u 0x40 4 == 0)) && decide (x.u 0x40 4 < 0x1000000)
    && x.u 0x38 8 % 4096 == 0 && x.u 0x44 4 % 256 == 0 && x.u 0x50 8 % 0x10000 == 0 && x.u 0x58 8 == 0

/-- The areas of a stream: pool, ring, record ring, context area (R372, R374). -/
def streamAreas (x : Stream) : List (Nat × Nat) :=
  [(x.u 0x20 8, x.u 0xC 1 * x.entryBytes), (x.u 0x28 8, if x.u 1 1 == 0 then x.u 0x30 4 else 0),
   (x.u 0x38 8, 32 * 2 ^ min (x.u 0x34 1) 16), (x.u 0x50 8, 0x100000)]

/-- The rings of every slot that is not IDLE. -/
def jobRings (d : Dev) : List (Nat × Nat) :=
  (List.range 64).flatMap (fun s =>
    let j := d.job s
    if j.state == .idle then [] else [(j.cardRing.toNat, 64 * 2 ^ j.cardLog2.toNat), (j.cplRing.toNat, 32 * 2 ^ j.cplLog2.toNat)])

/-- No two ranges of a list meet. -/
def apart : List (Nat × Nat) → Bool
  | [] => true
  | a :: rest => rest.all (fun b => !meet a.1 a.2 b.1 b.2) && apart rest

/-- Step 3 of R372. -/
def areasOk (d : Dev) (k : Nat) (x : Stream) : Bool :=
  let mine := streamAreas x
  let others := (d.cod.streams.filter (fun e => !(e.1 == k) && (e.2.state == .opened || e.2.state == .closing))).flatMap (fun e => e.2.areas) ++ jobRings d
  mine.all (fun a => decide (a.1 + a.2 ≤ hbmEnd d) && !(decide (0 < a.2) && rangeGuarded d a.1 a.2) && others.all (fun b => !meet a.1 a.2 b.1 b.2)) && apart mine

/-- A POOL takes a class: 1 LIVE only, 2 BATCH only, 3 both (R40). -/
def poolTakes (pool : Nat) (live : Bool) : Bool := natBit pool (if live then 0 else 1)

/-- The cores of codec core `c`'s group; `c` alone when it has none. -/
def groupCores (d : Dev) (c : Nat) : List Nat :=
  let g := (codecRec d c).group
  if g == 0xFF then [c] else (List.range 16).filter (fun i => (codecRec d i).group == g)

/-- Step 4 of R372. -/
def hasCore (d : Dev) (x : Stream) : Bool :=
  (List.range 16).any (fun c =>
    poolTakes (codecRec d c).pool (x.u 4 1 == 1) && (x.u 5 1 == 1 || (!((codecRec d c).group == 0xFF) && (groupCores d c).length == x.u 5 1)))

/-- COD_STREAM_OPEN: a CLOSED stream reads its descriptor and is CHECKING. -/
def streamOpen (d : Dev) (k : Nat) : Dev :=
  let x := d.stream k
  if !(x.state == .closed) then d else
    let a := x.descAddr.toNat
    let inside := hbmOk d a && decide (a % 2 ^ 40 + 96 ≤ hbmEnd d) && a % 64 == 0 && !natBit a 47
    let d := if inside then meetHbm d a 96 else d
    let ok := inside && !d.hbmPoisoned a 96
    let y := { x with state := .checking, reason := 0, desc := if ok then d.hbmRead a 96 else [] }
    d.setStream k { y with areas := if ok && descOk y then streamAreas y else [] }

def execCodStreamOpen (stream : Nat) (s : State) : Out := onDev (decide (stream < 32)) (fun _ d => streamOpen d stream) s

/-- The outcome of the checks of R372: the code of the first failure. -/
def streamCheck (d : Dev) (k : Nat) : Option Byte :=
  let x := d.stream k
  if d.str.inForce.isNone then some 0x72
  else if x.desc.length != 96 || !descOk x then some 0x70
  else if !areasOk d k x then some 0x71
  else if !hasCore d x then some 0x72
  else none

/-- COD_STREAM_CHECK_DONE. An opened stream has no marks, as its context area then shows too (R394). -/
def streamCheckDone (d : Dev) (k : Nat) : Dev :=
  let x := d.stream k
  if !(x.state == .checking) then d
  else match streamCheck d k with
    | some r => d.setStream k { x with state := .refused, reason := r, areas := [] }
    | none => (d.setStream k { x with state := .opened }).hbmWrite (x.u 0x50 8) (markBytes [])

def execCodStreamCheckDone (stream : Nat) (s : State) : Out := onDev (decide (stream < 32)) (fun _ d => streamCheckDone d stream) s

/-- COD_STREAM_CLOSE. -/
def streamClose (d : Dev) (k : Nat) : Dev :=
  match (d.stream k).state with
  | .opened => settleClosing (d.modStream k (fun x => { x with state := .closing }))
  | .refused => d.modStream k Stream.shut
  | _ => d

def execCodStreamClose (stream : Nat) (s : State) : Out := onDev (decide (stream < 32)) (fun _ d => streamClose d stream) s

/-- COD_KEY_REQ: KEY_PENDING, with the time of the write that set it. -/
def keyReq (d : Dev) (k : Nat) : Dev :=
  d.modStream k (fun x => if x.keyPending then x else { x with keyPending := true, keyAt := d.clp.elapsed })

def execCodKeyReq (stream : Nat) (s : State) : Out := onDev (decide (stream < 32)) (fun _ d => keyReq d stream) s

/-! ## Hand-over (R378, R379) -/

/-- FLT_ILLEGAL_OP with detail COD_STREAM_STATE. -/
def fltStream : JFault := { reason := 0xA2, sub := 0x73 }

/-- The Clepsydra value of a LIVE picture's deadline (R387). -/
def picDeadline (d : Dev) (x : Stream) : Dword :=
  BitVec.ofNat 64 ((d.clp.now.toNat / 0x1000000 + x.u 0x35 1) * 0x1000000 + x.u 0x40 4)

/-- The command is COD.ENC. -/
def Cmd.codes (c : Cmd) : Bool := c.u 0 1 == 0x79

/-- The checks of R378; the owner of the semaphore it signals. -/
def codCheck (d : Dev) (c : Cmd) : Acc Nat := do
  let ctl := c.u 1 1
  let k := c.u 2 1
  let x := d.stream k
  let len := c.u 4 4
  let zeros := c.zero 0x19 3 && (!c.codes || c.zero 0x10 8) && natBits ctl 7 (if c.codes then 2 else 1) == 0
  if !decide (k < 32) || !(x.state == .opened) || !(x.u 7 1 == c.slot) || !((x.u 1 1 == 0) == c.codes) || !zeros then .error fltStream
  else
    legal (c.codes || (decide (1 ≤ len) && decide (len ≤ 0x10000000)))
    if natBit ctl 0 then engineSemTarget d c.slot c.logical (c.u 0x18 1) (c.u 3 1) else .ok 0

/-- Hand-over: the picture joins its stream's queue (R379). -/
def codHand (d : Dev) (c : Cmd) (owner : Nat) : Dev :=
  let ctl := c.u 1 1
  let x := d.stream (c.u 2 1)
  let p : Pic := { stream := c.u 2 1, enc := c.codes, core := c.core, slot := c.slot, logical := c.logical, command := c.pc, word := c.u 4 4, src := c.u 8 8, dst := c.u 0x10 8, signal := natBit ctl 0, semCore := owner, semIndex := c.u 3 1, semAdd := BitVec.ofNat 32 (c.u 0x1C 4), keyAsked := c.codes && natBit ctl 1, live := x.u 4 1 == 1, deadline := picDeadline d x }
  { d with cod := { d.cod with pics := d.cod.pics ++ [p] } }

/-- COD.ENC and COD.DEC: the picture is handed over; behind a full stream queue, or behind a command that waits for one, the command
waits in the core's own queue of 4, and when that is full the core stalls (R379, spec/08_vector_engine.md R195). -/
def codCmd (d : Dev) (c : Cmd) : Acc Issued := do
  let o ← codCheck d c
  let q := (d.core c.core).ctx.codQueue
  if q.isEmpty && !codFull d (c.u 2 1) then .ok (.next (codHand d c o))
  else if 4 ≤ q.length then .ok (queueStall d c.core)
  else .ok (.next { d.modCtx c.core (fun x => { x with codQueue := q ++ [{ stamp := d.tmNext, pc := c.pc, b := c.b }] }) with tmNext := d.tmNext + 1 })

/-- A job's waiting codec commands whose turn it is: the first of each of its running cores, where the stream has room. -/
def codReady (d : Dev) (slot : Nat) : List (Nat × Queued) :=
  (jobCores d slot).filterMap (fun l =>
    let x := d.core (d.phys l)
    if x.active && x.slot == some slot then
      (x.ctx.codQueue.head?.filter (fun q => !codFull d (fieldLe q.b 2 1))).map (fun q => (l, q))
    else none)

/-- Hands over what waits, in order of issue, while there is room. -/
def codPump : Nat → Dev → Nat → Dev
  | 0, d, _ => d
  | n + 1, d, slot =>
    if d.flt.stopActive then d else
      let l := codReady d slot
      match minBy (fun n => n) (l.map (·.2.stamp)) with
      | none => d
      | some t =>
        match l.find? (fun e => e.2.stamp == t) with
        | none => d
        | some (g, q) =>
          let core := d.phys g
          let c : Cmd := { core := core, slot := slot, logical := g, pc := q.pc, b := q.b }
          let d := d.modCtx core (fun x => { x with codQueue := x.codQueue.tail })
          match codCheck d c with
          | .error e => jobFault d slot core 6 g q.pc e
          | .ok o => codPump n (codHand d c o) slot

/-- Every command that a job's cores have waiting for the codec. -/
def codDrain (d : Dev) (slot : Nat) : Dev :=
  codPump (((jobCores d slot).map (fun l => (d.core (d.phys l)).ctx.codQueue.length)).sum) d slot

/-- COD.ENC. -/
def execCodEnc (core : Nat) (s : State) : Out := onDev (isCore core) (fun _ d => issue core 6 (fun o => o == 0x79) (fun d c => behind (coreBusy (d.core c.core)) d (codCmd d c)) d) s

/-- COD.DEC. -/
def execCodDec (core : Nat) (s : State) : Out := onDev (isCore core) (fun _ d => issue core 6 (fun o => o == 0x7A) (fun d c => behind (coreBusy (d.core c.core)) d (codCmd d c)) d) s

/-! ## Choosing a picture (R369, R382, R387) -/

/-- The codec core is in use, and runs nothing. -/
def coreFree (d : Dev) (c : Nat) : Bool :=
  !((codecRec d c).pool == 0) && !d.cod.failed.getLsbD c && (codPicOf d c).isNone

/-- No core of `c`'s group runs a picture (R369). -/
def groupIdle (d : Dev) (c : Nat) : Bool := (groupCores d c).all (fun i => (codPicOf d i).isNone)

/-- The cores that a picture of a stream would take, starting from free core `c`; none: it may not run there. -/
def runsOn (d : Dev) (x : Stream) (c : Nat) : Option (List Nat) :=
  let live := x.u 4 1 == 1
  let takes (i : Nat) : Bool := poolTakes (codecRec d i).pool live
  let alone (i : Nat) : Bool := (codecRec d i).group == 0xFF
  if !coreFree d c || !takes c then none
  else if x.u 5 1 == 1 then
    if alone c then some [c]
    else if (List.range 16).any (fun i => alone i && coreFree d i && takes i) || !groupIdle d c then none
    else if ((groupCores d c).filter (fun i => coreFree d i && takes i)).head? == some c then some [c] else none
  else if !alone c && (groupCores d c).length == x.u 5 1 && (groupCores d c).all (coreFree d) then some (groupCores d c)
  else none

/-- The picture a free core takes: LIVE by deadline, ties to the lower stream; else a suspended picture; else BATCH in order of
hand-over. -/
def choosePic (d : Dev) (c : Nat) : Option Pic :=
  let heads := (List.range 32).filterMap (fun k => (headPic d k).filter (fun _ => (runsOn d (d.stream k) c).isSome))
  let live := heads.filter (fun p => p.live)
  let best := live.foldl (fun (m : Option Pic) p => match m with
    | some q => if p.deadline < q.deadline then some p else m
    | none => some p) none
  best.orElse (fun _ => (heads.find? (fun p => p.suspended)).orElse (fun _ => d.cod.pics.find? (fun p => heads.contains p)))

/-- Replaces a picture. -/
def putPic (d : Dev) (old new : Pic) : Dev := { d with cod := { d.cod with pics := d.cod.pics.map (fun p => if p == old then new else p) } }

/-! ## Starting (R377, R383) -/

/-- Pool entries a stream's next picture may take: UNUSED at the last commit and not taken in the open turn (R377). -/
def freeEntries (d : Dev) (k : Nat) : List Nat :=
  let x := d.stream k
  let taken := (streamPics d k).filterMap (fun p => p.entry)
  (List.range (x.u 0xC 1)).filter (fun e => tabGet 0 x.marks e == 0 && !taken.contains e)

/-- R383: the picture is a key picture. -/
def keyDue (d : Dev) (p : Pic) : Bool :=
  let x := streamNow d p.stream
  let interval := x.u 0x18 4
  p.keyAsked || (match x.sinceKey with
    | none => true
    | some n => !(interval == 0) && decide (interval ≤ n))
    || (x.keyPending && decide (x.keyAt + nsUnits d 1000 ≤ d.clp.elapsed))

/-- The rows of a picture as job virtual address ranges: luma, then chroma (R375). -/
def picRows (x : Stream) (a w h : Nat) : List (Nat × Nat) :=
  let pitch := x.u 0x44 4
  let n := w * x.sample
  (List.range h).map (fun r => (a + r * pitch, n))
    ++ (List.range (if x.wide then h else h / 2)).map (fun r => (a + x.u 0x48 4 + r * pitch, n))

/-- A picture's input is read through the job's translation; its faults are job faults (R378). -/
def readInput (d : Dev) (p : Pic) : Acc (Dev × List Byte) :=
  let x := d.stream p.stream
  let rows := if p.enc then picRows x p.src (x.u 8 2) (x.u 0xA 2) else [(p.src, p.word)]
  rows.foldlM (fun acc r => (vaRead acc.1 p.slot r.1 r.2).map (fun e => (e.1, acc.2 ++ e.2))) (d, [])

/-- Bytes before the first start code 00 00 01 of Annex B; none when there is no start code. -/
def startCode : Nat → List Byte → Option Nat
  | _, [] => none
  | n, b :: bs => if b == 0 && bs.take 2 == [0, 1] then some n else startCode (n + 1) bs

/-- A leb128 number (the size of an AV1 temporal unit), and the bytes after it. -/
def leb128 : Nat → List Byte → Option (Nat × List Byte)
  | 0, _ => none
  | _, [] => none
  | n + 1, b :: bs =>
    if b.toNat < 128 then some (b.toNat, bs) else (leb128 n bs).map (fun r => (b.toNat % 128 + 128 * r.1, r.2))

/-- What the decoder finds before it parses (R367, R384): damaged bytes ahead of the first start code, which zeros are not, and
whether the bytes end before a picture does for certain. -/
def unitHead (std : Nat) (bs : List Byte) : Nat × Bool :=
  if std == 1 then
    (match leb128 8 bs with
     | some (n, rest) => (0, decide (rest.length < n))
     | none => (0, true))
  else match startCode 0 bs with
    | some n => (if (bs.take n).all (· == 0) then 0 else n, false)
    | none => (0, true)

/-- SPLIT shares of `n` units as equal as may be: share i runs from floor(i n / SPLIT) on (R370). -/
def evenShares (cores : List Nat) (n : Nat) : List Share :=
  cores.zipIdx.map (fun e => { core := e.1, first := e.2 * n / cores.length, count := (e.2 + 1) * n / cores.length - e.2 * n / cores.length })

/-- A split encode by SPLIT_MODE: tile columns, slices of rows, or every SPLIT-th row (R370). -/
def encodeShares (x : Stream) (cores : List Nat) : List Share :=
  let cols := (x.u 8 2 + 63) / 64
  let rows := (x.u 0xA 2 + 63) / 64
  match x.u 6 1 with
  | 0 => evenShares cores cols
  | 1 => evenShares cores rows
  | _ => cores.zipIdx.map (fun e => { core := e.1, first := e.2, count := (rows - e.2 + cores.length - 1) / cores.length, step := cores.length })

/-- A split decode of a bitstream that carries `n` parts: each core a contiguous share, cut at free places (R370). -/
def decodeShares (d : Dev) (cores : List Nat) (n : Nat) : List Share :=
  let cuts := 0 :: (sortNat ((List.range (cores.length - 1)).map (fun i => Config.freeNat (d.free + i) % (n + 1))) ++ [n])
  cores.zipIdx.map (fun e =>
    let lo := (cuts[e.2]?).getD 0
    { core := e.1, first := lo, count := (cuts[e.2 + 1]?).getD n - lo })

/-- The group divides the picture; a decode whose bitstream carries no parts runs on its lowest core alone, SINGLE (R370). -/
def splitPic (d : Dev) (p : Pic) (on : List Nat) : Dev × Pic :=
  let x := d.stream p.stream
  if x.u 5 1 == 1 then (d, { p with runs := on })
  else if p.enc then (d, { p with runs := on, shares := encodeShares x on })
  else
    let n := Config.freeNat d.free
    if n ≤ 1 then ({ d with free := d.free + 1 }, { p with runs := on.take 1, single := true })
    else ({ d with free := d.free + 4 }, { p with runs := on, shares := decodeShares { d with free := d.free + 1 } on n })

/-- The state of a suspended picture has been saved: its cores are free (R388). -/
def settleSuspend (d : Dev) (c : Nat) : Dev :=
  { d with cod := { d.cod with pics := d.cod.pics.map (fun p => if p.suspended && p.runs.contains c then { p with runs := [] } else p) } }

/-- The free core, or its group, takes the picture R387 chooses. -/
def startPic (d : Dev) (c : Nat) : Dev :=
  match choosePic d c with
  | none => d
  | some p =>
    let on := (runsOn d (d.stream p.stream) c).getD []
    if p.started then
      putPic d p { p with runs := if p.single then on.take 1 else on, shares := p.shares.zipIdx.map (fun e => { e.1 with core := (on[e.2]?).getD c }), suspended := false }
    else match readInput d p with
      | .error f => jobFault d p.slot p.core 6 p.logical p.command f
      | .ok (d2, bs) =>
        let x := d.stream p.stream
        let es := freeEntries d p.stream
        let pick := if es.isEmpty then none else es[Config.freeNat d2.free % es.length]?
        let h := if p.enc then (0, false) else unitHead (x.u 0 1) bs
        let r := splitPic { d2 with free := d2.free + 1 } p on
        putPic r.1 p { r.2 with started := true, key := p.enc && keyDue d p, entry := pick, lead := h.1, cut := h.2 }

/-- COD_PICTURE_START: what the core was saving is saved, and it takes its next picture. -/
def pictureStart (d : Dev) (c : Nat) : Dev := startPic (settleSuspend d c) c

def execCodPictureStart (codec : Nat) (s : State) : Out := onDev (is16 codec) (fun _ d => if d.flt.stopActive then d else pictureStart d codec) s

/-- Free bytes over a range of HBM offsets. -/
def hbmFree (d : Dev) (off n : Nat) : Dev :=
  (pieces off n).foldl (fun d q => if stackDead d (hbmCell d q.1) then d else d.cellFree (hbmCell d q.1) q.2) d

/-- COD_BATCH_SUSPEND (R388): a POOL-3 core begins to give up its BATCH picture while a LIVE picture waits that no free core can take;
the context area beyond its marks takes the core's state. -/
def batchSuspend (d : Dev) (c : Nat) : Dev :=
  let waits (k : Nat) : Bool :=
    let x := d.stream k
    (headPic d k).any (fun p => p.live) && (List.range 16).all (fun i => (runsOn d x i).isNone)
      && (if x.u 5 1 == 1 then true else (groupCores d c).length == x.u 5 1)
  match codPicOf d c with
  | none => d
  | some p =>
    if p.live || p.suspended || !((codecRec d c).pool == 3) || !(List.range 32).any waits then d
    else putPic (hbmFree d ((d.stream p.stream).u 0x50 8 + 8) (0x100000 - 8)) p { p with suspended := true, paused := true }

def execCodBatchSuspend (codec : Nat) (s : State) : Out := onDev (is16 codec) (fun _ d => batchSuspend d codec) s

/-- COD_CORE_ERROR (R391): the core is FAILED until reset, and its picture is coded again from its start. -/
def codecError (d : Dev) (c : Nat) : Dev :=
  let d := { d with cod := { d.cod with failed := d.cod.failed ||| (1#16 <<< c) } }
  match codPicOf d c with
  | none => d
  | some p => putPic d p { p with started := false, runs := [], key := false, entry := none, suspended := false, lead := 0, cut := false, shares := [], single := false }

def execCodCoreError (codec : Nat) (s : State) : Out := onDev (is16 codec) (fun _ d => codecError d codec) s

/-! ## Encoding (R380, R382) -/

/-- `n` free bytes. -/
def freeBytes (d : Dev) (n : Nat) : Dev × List Byte :=
  ({ d with free := d.free + n }, (List.range n).map (fun i => Config.freeByte (d.free + i)))

/-- A size as a leb128 number. -/
def leb128Bytes : Nat → Nat → List Byte
  | 0, v => [BitVec.ofNat 8 (v % 128)]
  | n + 1, v => if v < 128 then [BitVec.ofNat 8 v] else BitVec.ofNat 8 (128 + v % 128) :: leb128Bytes n (v / 128)

/-- What the bytes of a coded picture begin with, before `n` more: in H.265 a start code, and at a key picture the header of the VPS
that leads its parameter sets; in AV1 the size of the temporal unit (R367, R382). -/
def codedHead (std : Nat) (key : Bool) (n : Nat) : List Byte :=
  if std == 1 then leb128Bytes 4 n else [0, 0, 0, 1] ++ (if key then [0x40, 0x01] else [])

/-- Bytes into the ring from a ring offset on, past its end round to its start (R382). -/
def ringPut (d : Dev) (base size off : Nat) (bs : List Byte) : Dev :=
  let k := min bs.length (size - off)
  (d.hbmWrite (base + off) (bs.take k)).hbmWrite base (bs.drop k)

/-- An encoder's picture: its coded size is free; one that would pass MAX_PICTURE_BYTES, or has no entry, is a skipped picture. -/
def encodeDone (d : Dev) (p : Pic) : Dev × Pic :=
  let x := streamNow d p.stream
  let maxB := x.u 0x1C 4
  let want := 1 + Config.freeNat d.free
  let long := decide (maxB < (codedHead (x.u 0 1) p.key want).length + want)
  let skip := long || p.entry.isNone
  let body := if skip then 1 + Config.freeNat (d.free + 1) % (maxB - 8) else want
  let head := codedHead (x.u 0 1) (p.key && !skip) body
  let n := head.length + body
  let off := x.ringWritten.toNat % x.u 0x30 4
  let r := freeBytes { d with free := d.free + 2 } body
  let d := ringPut r.1 (x.u 0x28 8) (x.u 0x30 4) off (head ++ r.2)
  let d := match p.entry with
    | some e => if skip then d else hbmFree d (x.u 0x20 8 + e * x.entryBytes) x.entryBytes
    | none => d
  let late := p.live && decide (p.deadline < d.clp.now)
  let o : PicOut := { offset := off, bytes := n, finish := d.clp.now, poc := 0, status := if skip then 3 else 0, reason := if !skip then 0 else if long then 0x77 else 0x78, key := p.key && !skip, late := late, tainted := false, single := false }
  (d, { p with runs := [], entry := if skip then none else p.entry, done := some o })

/-! ## Decoding (R376, R384 to R386) -/

/-- How a decode settles, by the first line of R384 that applies: STATUS, REASON and whether it is TAINTED. Of `w`, 1 is a syntax
error, 2 a missing reference, 3 unsupported; a picture that predicts from a tainted entry is concealed too. -/
def decodeStatus (w : Nat) (cut key resync noEntry anyTaint : Bool) : Nat × Byte × Bool :=
  if resync && !key then (2, 0x76, true)
  else if cut || w % 4 == 1 then (1, 0x74, true)
  else if w % 4 == 2 then (1, 0x75, true)
  else if w % 4 == 3 then (2, 0x76, true)
  else if noEntry then (2, 0x78, true)
  else if anyTaint && !key && natBit w 2 then (1, if natBit w 3 then 0x74 else 0x75, true)
  else (0, 0, false)

/-- An entry that a mark still keeps is TAINTED (R386). -/
def taintHeld (x : Stream) : Bool := x.taint.any (fun e => e.2 && !(tabGet 0 x.marks e.1 == 0))

/-- The fill of a block (R385): decoded, copied in place, copied displaced, or mid-grey. -/
inductive Fill where
  | decoded | still | displaced | grey
deriving DecidableEq, Repr

/-- The byte of the concealment map. -/
def Fill.code : Fill → Byte
  | .decoded => 0
  | .still => 1
  | .displaced => 2
  | .grey => 3

/-- How a concealed block `i` is filled. -/
def concealFill (src : Option Recon) (i : Nat) : Fill :=
  match src with
  | none => .grey
  | some s => if (s.moved[i]?).getD false then .displaced else .still

/-- A picture as it is decoded: its size, the fill of each block, the source, and the count of free values from which its decoded
samples, and the vectors of its displaced blocks, are drawn. -/
structure Decoding where
  width  : Nat
  height : Nat
  wide   : Bool
  levels : Nat
  fills  : List Fill
  source : Option Recon
  base   : Nat

def Decoding.blocks (g : Decoding) : Nat := (g.width + 15) / 16
def Decoding.count (g : Decoding) : Nat := g.blocks * ((g.height + 15) / 16)

/-- A place moved by a vector and clamped to the picture. -/
def movedBy (at_ vector size : Nat) : Nat := min (at_ + vector - size) (size - 1)

/-- A sample of a plane `m` of the source; outside the source, its nearest. -/
def planeAt (m : List (List Nat)) (r c : Nat) : Nat :=
  let row := (m[min r (m.length - 1)]?).getD []
  (row[min c (row.length - 1)]?).getD 0

/-- The sample at row `r` and column `c` of the luma plane, or of the chroma plane with its pairs. -/
def Decoding.sample (g : Decoding) (luma : Bool) (r c : Nat) : Nat :=
  let rows := if luma || g.wide then g.height else g.height / 2
  let block := r * (g.height / rows) / 16 * g.blocks + c / 16
  let plane (s : Recon) : List (List Nat) := if luma then s.luma else s.chroma
  let free (i : Nat) : Nat := Config.freeNat (g.base + i)
  match (g.fills[block]?).getD .decoded, g.source with
  | .decoded, _ => free (2 * g.count + ((if luma then 0 else g.height) + r) * g.width + c) % g.levels
  | .still, some s => planeAt (plane s) r c
  | .displaced, some s =>
    let v := movedBy r (free (2 * block) % (2 * rows)) rows
    let h := free (2 * block + 1)
    if luma then planeAt (plane s) v (movedBy c (h % (2 * g.width)) g.width)
    else planeAt (plane s) v (2 * movedBy (c / 2) (h % g.width) (g.width / 2) + c % 2)
  | _, _ => g.levels / 2

/-- The decoded picture; which of its blocks have a vector is free. -/
def Decoding.recon (g : Decoding) : Recon :=
  let plane (luma : Bool) (rows : Nat) : List (List Nat) :=
    (List.range rows).map (fun r => (List.range g.width).map (fun c => g.sample luma r c))
  { width := g.width
    height := g.height
    luma := plane true g.height
    chroma := plane false (if g.wide then g.height else g.height / 2)
    moved := (List.range g.count).map (fun i => natBit (Config.freeNat (g.base + 2 * g.count + 2 * g.height * g.width + i)) 0) }

/-- Free values a decode draws. -/
def Decoding.drawn (g : Decoding) : Nat := 3 * g.count + 2 * g.height * g.width

/-- A row of samples in memory: a byte each, or two for 10 bits (R375). -/
def sampleRow (x : Stream) (l : List Nat) : List Byte := l.flatMap (leBytes x.sample)

/-- Writes the decoded picture and its concealment map through the job's translation (R375, R380). -/
def writePicture (d : Dev) (p : Pic) (x : Stream) (g : Decoding) : Acc Dev := do
  if p.dst == 0 then .ok d else
    let rows := (g.recon.luma ++ g.recon.chroma).map (sampleRow x)
    let d ← ((picRows x p.dst g.width g.height).zip rows).foldlM (fun d e => vaWrite d p.slot e.1.1 e.2 false) d
    vaWrite d p.slot (p.dst + x.u 0x4C 4) (g.fills.map Fill.code) false

/-- The marks after a decode (R376): of an entry that had none, only the picture's own may take one. AV1's refresh flags `w` put the
picture's entry into reference slots, and the entries that slots name are SHORT_TERM. -/
def decodeMarks (x : Stream) (entry : Option Nat) (w : Nat → Nat) : Tab Nat × Tab Nat :=
  if x.u 0 1 == 1 then
    let slots := match entry with
      | none => x.slots
      | some e => (List.range 8).foldl (fun t i => if natBit (w 64) i then tabSet 0 t i (e + 1) else t) x.slots
    (tabOfList 0 ((List.range 64).map (fun e => if slots.any (fun s => s.2 == e + 1) then 1 else 0)), slots)
  else
    (tabOfList 0 ((List.range (x.u 0xC 1)).map (fun e => if entry == some e || !(tabGet 0 x.marks e == 0) then w e % 3 else 0)), x.slots)

/-- A decoder's picture: what its bits decode to is free within R384 to R386. -/
def decodeDone (d : Dev) (p : Pic) : Acc (Dev × Pic) := do
  let x := streamNow d p.stream
  let f (i : Nat) : Nat := Config.freeNat (d.free + i)
  let key := natBit (f 1) 0
  let st := decodeStatus (f 0) p.cut key x.resync p.entry.isNone (taintHeld x)
  let entry := if st.1 == 2 then none else p.entry
  let w := 2 + 2 * (f 2 % (x.u 8 2 / 2))
  let h := 2 + 2 * (f 3 % (x.u 0xA 2 / 2))
  let n := ((w + 15) / 16) * ((h + 15) / 16)
  let fills := (List.range n).map (fun i =>
    if st.1 == 0 || (st.1 == 1 && natBit (f (80 + i)) 0 && !(st.2.1 == 0x74 && i == f 6 % n)) then .decoded else concealFill x.source i)
  let g : Decoding := { width := w, height := h, wide := x.wide, levels := if x.sample == 1 then 256 else 1024, fills := fills, source := x.source, base := d.free + 80 + n }
  let m := if st.1 == 2 then (x.marks, x.slots) else decodeMarks x entry (fun i => f (8 + i))
  let d ← writePicture { d with free := d.free + 80 + n + g.drawn } p x g
  let d := match entry with
    | some e => hbmFree d (x.u 0x20 8 + e * x.entryBytes) x.entryBytes
    | none => d
  let late := p.live && decide (p.deadline < d.clp.now)
  let resync := if st.2.1 == 0x76 then true else x.resync && !key
  let o : PicOut := { offset := 0, bytes := p.lead + f 4 % (p.word - p.lead + 1), finish := d.clp.now, poc := BitVec.ofNat 32 (f 5), status := st.1, reason := st.2.1, key := key && !(st.1 == 2), late := late, tainted := st.2.2, single := p.single, marks := m.1, slots := m.2, resync := resync, recon := some g.recon }
  .ok (d, { p with runs := [], entry := entry, done := some o })

/-! ## Finishing (R379 to R381, R387) -/

/-- A finished picture: LATE is shown and counted, the signal made, and its stream's queue has room for one more (R379, R387). -/
def finishPic (d : Dev) (old new : Pic) : Dev :=
  let d := putPic d old new
  let d := match new.done with
    | some o =>
      if o.late then
        let d := d.modStream new.stream (fun x => { x with late := true, latePictures := sat16 x.latePictures })
        { d with cod := { d.cod with lateCount := sat16 d.cod.lateCount } }
      else d
    | none => d
  codDrain (if new.signal then semSignal d new.slot new.semCore new.semIndex new.semAdd else d) new.slot

/-- COD_PICTURE_DONE: the picture that codec core `c` runs is finished. -/
def pictureDone (d : Dev) (c : Nat) : Dev :=
  match codPicOf d c with
  | none => d
  | some p =>
    if p.suspended then d
    else if p.enc then
      let r := encodeDone d p
      finishPic r.1 p r.2
    else match decodeDone d p with
      | .error f => jobFault d p.slot p.core 6 p.logical p.command f
      | .ok r => finishPic r.1 p r.2

def execCodPictureDone (codec : Nat) (s : State) : Out := onDev (is16 codec) (fun _ d => if d.flt.stopActive then d else pictureDone d codec) s

end Sys2Proof.Machine
end

