-- ==== Sys2Proof/Machine/Control.lean ====
section
/-! DEFINITION. The control core's own commands: scalar, pip and branch commands, fences, semaphores and turn commands
(spec/08_vector_engine.md R196 to R203, R211 to R214, R217, R218). -/

namespace Sys2Proof.Machine

/-! ## Fields (R197) -/

/-- Bytes 0x07 and 0x18 to 0x1F are reserved. -/
def ctlOk (c : Cmd) : Bool := c.zero 7 1 && c.zero 0x18 8

/-- A register number the command uses. -/
def regOk (n : Nat) : Bool := decide (n ≤ 31)

/-- Value of scalar register `n` of the issuing core. -/
def sregOf (d : Dev) (c : Cmd) (n : Nat) : Dword := (d.core c.core).ctx.sreg n

/-- Writes scalar register SD. -/
def setSd (d : Dev) (c : Cmd) (v : Dword) : Dev := d.modCtx c.core (fun x => x.setSreg (c.u 2 1) v)

/-- B: SB, or IMM when SUBOP bit 7 is set (R198). -/
def operandB (d : Dev) (c : Cmd) : Dword :=
  if natBit (c.u 1 1) 7 then BitVec.ofNat 64 (c.u 8 8) else sregOf d c (c.u 4 1)

/-- SB is a legal number when it is used. -/
def sbOk (c : Cmd) : Bool := natBit (c.u 1 1) 7 || regOk (c.u 4 1)

/-! ## Scalar commands (R198) -/

/-- NOP. -/
def nopCmd (d : Dev) (c : Cmd) : Acc Issued := do
  legal (ctlOk c)
  .ok (.next d)

def execNop (core : Nat) (s : State) : Out := onDev (isCore core) (fun _ d => issue core 0 (fun o => o == 0x00) nopCmd d) s

/-- SETI: SD ← IMM. -/
def setiCmd (d : Dev) (c : Cmd) : Acc Issued := do
  legal (ctlOk c && regOk (c.u 2 1))
  .ok (.next (setSd d c (BitVec.ofNat 64 (c.u 8 8))))

def execSeti (core : Nat) (s : State) : Out := onDev (isCore core) (fun _ d => issue core 0 (fun o => o == 0x01) setiCmd d) s

/-- The ALU's operations; none for a reserved one. -/
def aluOp (op : Nat) (a b : Dword) : Option Dword :=
  let sh := b.toNat % 64
  match op with
  | 0 => some (a + b)
  | 1 => some (a - b)
  | 2 => some (a * b)
  | 3 => some (a &&& b)
  | 4 => some (a ||| b)
  | 5 => some (a ^^^ b)
  | 6 => some (a <<< sh)
  | 7 => some (a >>> sh)
  | 8 => some (a.sshiftRight sh)
  | 9 => some (if a.toInt ≤ b.toInt then a else b)
  | 10 => some (if b.toInt ≤ a.toInt then a else b)
  | _ => none

/-- ALU: SD ← SA op B. -/
def aluCmd (d : Dev) (c : Cmd) : Acc Issued := do
  legal (ctlOk c && regOk (c.u 2 1) && regOk (c.u 3 1) && sbOk c)
  match aluOp (natBits (c.u 1 1) 3 0) (sregOf d c (c.u 3 1)) (operandB d c) with
  | none => .error fltIllegal
  | some v => .ok (.next (setSd d c v))

def execAlu (core : Nat) (s : State) : Out := onDev (isCore core) (fun _ d => issue core 0 (fun o => o == 0x02) aluCmd d) s

/-- The scratchpad offset of LOAD and STORE: SA + IMM, 8-byte aligned. -/
def scalarOffset (d : Dev) (c : Cmd) : Acc Nat :=
  let o := (sregOf d c (c.u 3 1) + BitVec.ofNat 64 (c.u 8 8)).toNat
  if o % 8 == 0 then .ok o else .error fltIllegal

/-- LOAD: SD ← 8 bytes of scratchpad, once no earlier command of an engine is unfinished (R161; notes/assumptions/19.md). -/
def loadCmd (d : Dev) (c : Cmd) : Acc Issued := do
  legal (ctlOk c && regOk (c.u 2 1) && regOk (c.u 3 1))
  let o ← scalarOffset d c
  behind (coreBusy (d.core c.core)) d (do
    let b ← partRead d c.core c.logical 0 o 8
    .ok (.next (setSd d c (BitVec.ofNat 64 (leNat b)))))

def execLoad (core : Nat) (s : State) : Out := onDev (isCore core) (fun _ d => issue core 0 (fun o => o == 0x03) loadCmd d) s

/-- STORE: 8 bytes of SB → scratchpad, as LOAD waits; an array command that waits may still read. -/
def storeCmd (d : Dev) (c : Cmd) : Acc Issued := do
  legal (ctlOk c && regOk (c.u 3 1) && regOk (c.u 4 1))
  let o ← scalarOffset d c
  behind (coreBusy (d.core c.core) || arraysBusy (d.core c.core)) d (do
    let d ← partWrite d c.core c.logical 0 o (leBytes 8 (sregOf d c (c.u 4 1)).toNat)
    .ok (.next d))

def execStore (core : Nat) (s : State) : Out := onDev (isCore core) (fun _ d => issue core 0 (fun o => o == 0x04) storeCmd d) s

/-- PIPREAD: SD ← value bits of the pip, once its deposits have landed (R203). -/
def pipreadCmd (d : Dev) (c : Cmd) : Acc Issued := do
  legal (ctlOk c && regOk (c.u 2 1) && decide (c.u 5 1 ≤ 15))
  let x := (d.core c.core).ctx
  if pipWaits x (c.u 5 1) then .ok (.stall d)
  else .ok (.next (setSd d c (tabGet {} x.pips (c.u 5 1)).value))

def execPipread (core : Nat) (s : State) : Out := onDev (isCore core) (fun _ d => issue core 0 (fun o => o == 0x05) pipreadCmd d) s

/-- PIPCLR: the pips of IMM[15:0] become EMPTY with their flags clear, after every earlier deposit into them. -/
def pipclrCmd (d : Dev) (c : Cmd) : Acc Issued := do
  legal (ctlOk c)
  let x := (d.core c.core).ctx
  let ps := (List.range 16).filter (fun i => natBit (c.u 8 8) i)
  if ps.any (pipWaits x) then .ok (.stall d)
  else .ok (.next (d.modCtx c.core (fun x => { x with pips := ps.foldl (fun t i => tabErase t i) x.pips })))

def execPipclr (core : Nat) (s : State) : Out := onDev (isCore core) (fun _ d => issue core 0 (fun o => o == 0x06) pipclrCmd d) s

/-- A word offset ADDF may name: a multiple of 4 from 0x04 to 0x1C. -/
def addfOffset (o : Nat) : Bool := o % 4 == 0 && decide (4 ≤ o) && decide (o ≤ 0x1C)

/-- ADDF: SA[31:0] joins the addition pending at offset SUBOP, and SB[31:0] that at COND when COND is not 0. -/
def addfCmd (d : Dev) (c : Cmd) : Acc Issued := do
  let o1 := c.u 1 1
  let o2 := c.u 6 1
  legal (ctlOk c && regOk (c.u 3 1) && addfOffset o1 && (o2 == 0 || (addfOffset o2 && regOk (c.u 4 1))))
  let add (t : Tab Word) (o : Nat) (v : Dword) : Tab Word := tabSet 0 t o (tabGet 0 t o + lo32 v)
  let va := sregOf d c (c.u 3 1)
  let vb := sregOf d c (c.u 4 1)
  .ok (.next (d.modCtx c.core (fun x =>
    let t := add x.addf o1 va
    { x with addf := if o2 == 0 then t else add t o2 vb })))

def execAddf (core : Nat) (s : State) : Out := onDev (isCore core) (fun _ d => issue core 0 (fun o => o == 0x07) addfCmd d) s

/-! ## Branches (R199) -/

/-- A branch whose condition is `take`: the target, the bound of a backward branch, and its count. -/
def branch (d : Dev) (c : Cmd) (take : Bool) : Acc Issued :=
  let target := c.u 0x10 4
  let back := decide (target ≤ c.pc)
  let n := tabGet 0 (d.core c.core).ctx.taken c.pc
  let count (d : Dev) (k : Nat) : Dev := d.modCtx c.core (fun x => { x with taken := tabSet 0 x.taken c.pc k })
  let jump (d : Dev) : Acc Issued :=
    if streamBytes d c.slot c.logical < 32 * target + 32 then .error fltIllegal else .ok (.goto d target)
  if !take then .ok (.next (if back then count d 0 else d))
  else if !back then jump d
  else if n == c.u 0x14 4 then
    .ok (.next ((count d 0).modCore c.core (fun x => { x with boundHit := true, boundHits := sat16 x.boundHits })))
  else jump (count d (n + 1))

/-- BR's condition; none for a reserved one. -/
def brCond (cond : Nat) (a b : Dword) : Option Bool :=
  match cond with
  | 0 => some true
  | 1 => some (a == b)
  | 2 => some (!(a == b))
  | 3 => some (decide (a.toInt < b.toInt))
  | 4 => some (decide (b.toInt ≤ a.toInt))
  | 5 => some (decide (a < b))
  | 6 => some (decide (b ≤ a))
  | _ => none

/-- BR. -/
def brCmd (d : Dev) (c : Cmd) : Acc Issued := do
  legal (ctlOk c && regOk (c.u 3 1) && sbOk c)
  match brCond (c.u 6 1) (sregOf d c (c.u 3 1)) (operandB d c) with
  | none => .error fltIllegal
  | some t => branch d c t

def execBr (core : Nat) (s : State) : Out := onDev (isCore core) (fun _ d => issue core 0 (fun o => o == 0x08) brCmd d) s

/-- The pip test of R203; none for a reserved condition. -/
def pipTest (p : Pip) (cond imm : Nat) : Option Bool :=
  let cmp : Option Ordering := match p.type with
    | .empty => none
    | .fp64 => (decodeElem 10 p.value.toNat).cmp (decodeElem 10 imm)
    | .int64 => some (compare p.value.toInt (BitVec.ofNat 64 imm).toInt)
  let live := !(p.type == .empty)
  match cond with
  | 1 => some (cmp == some .eq)
  | 2 => some (live && !(cmp == some .eq))
  | 3 => some (cmp == some .lt)
  | 4 => some (cmp == some .gt || cmp == some .eq)
  | 8 => some p.nanSeen
  | 9 => some p.infSeen
  | 10 => some p.allMasked
  | 11 => some p.infRow
  | 12 => some (p.type == .empty)
  | _ => none

/-- BRP, once the pip's deposits have landed. -/
def brpCmd (d : Dev) (c : Cmd) : Acc Issued := do
  legal (ctlOk c && decide (c.u 5 1 ≤ 15))
  let x := (d.core c.core).ctx
  match pipTest (tabGet {} x.pips (c.u 5 1)) (c.u 6 1) (c.u 8 8) with
  | none => .error fltIllegal
  | some t => if pipWaits x (c.u 5 1) then .ok (.stall d) else branch d c t

def execBrp (core : Nat) (s : State) : Out := onDev (isCore core) (fun _ d => issue core 0 (fun o => o == 0x09) brpCmd d) s

/-- LOOP: SD ← SD − 1, then a branch when SD, as it then reads, is not 0. -/
def loopCmd (d : Dev) (c : Cmd) : Acc Issued := do
  legal (ctlOk c && regOk (c.u 2 1))
  let d := setSd d c (sregOf d c (c.u 2 1) - 1)
  branch d c (!(sregOf d c (c.u 2 1) == 0))

def execLoop (core : Nat) (s : State) : Out := onDev (isCore core) (fun _ d => issue core 0 (fun o => o == 0x0A) loopCmd d) s

/-- SEED: the seed and every lane's generator (spec/05_number_formats.md R134). -/
def seedCmd (d : Dev) (c : Cmd) : Acc Issued := do
  legal (ctlOk c && regOk (c.u 3 1))
  let v := lo32 (sregOf d c (c.u 3 1))
  .ok (.next (d.modCtx c.core (fun x => { x with seed := v, lanes := seedLanes v })))

def execSeed (core : Nat) (s : State) : Out := onDev (isCore core) (fun _ d => issue core 0 (fun o => o == 0x0B) seedCmd d) s

/-- TIME: SD ← the Clepsydra now. -/
def timeCmd (d : Dev) (c : Cmd) : Acc Issued := do
  legal (ctlOk c && regOk (c.u 2 1))
  .ok (.next (setSd d c d.clp.now))

def execTime (core : Nat) (s : State) : Out := onDev (isCore core) (fun _ d => issue core 0 (fun o => o == 0x0C) timeCmd d) s

/-- PIP_DEPOSIT (R202): the oldest deposit on its way to the pip lands, at one instant. -/
def execPipDeposit (core pip : Nat) (s : State) : Out := onDev (isCore core && is16 pip) (fun _ d => landDeposit d core pip) s

/-! ## Fences (R62, R217) -/

/-- The core waits at the command it has issued. -/
def waitAt (d : Dev) (core : Nat) (w : Wait) : Dev := d.modCtx core (fun x => { x with wait := w })

/-- FENCE.C: the core waits until what it covers is visible. -/
def fenceCCmd (d : Dev) (c : Cmd) : Acc Issued := do
  legal (c.zero 1 31)
  .ok (.stall (waitAt d c.core .fenceC))

def execFenceC (core : Nat) (s : State) : Out := onDev (isCore core) (fun _ d => issue core 0 (fun o => o == 0x20) fenceCCmd d) s

/-- FENCE.B: the k-th of this core in the turn. -/
def fenceBCmd (d : Dev) (c : Cmd) : Acc Issued := do
  legal (c.zero 1 31)
  .ok (.stall (d.modCtx c.core (fun x => { x with fencesB := x.fencesB + 1, wait := .fenceB (x.fencesB + 1) })))

def execFenceB (core : Nat) (s : State) : Out := onDev (isCore core) (fun _ d => issue core 0 (fun o => o == 0x21) fenceBCmd d) s

/-- FENCE.D: the k-th of this core in the turn. -/
def fenceDCmd (d : Dev) (c : Cmd) : Acc Issued := do
  legal (c.zero 1 31)
  .ok (.stall (d.modCtx c.core (fun x => { x with fencesD := x.fencesD + 1, wait := .fenceD (x.fencesD + 1) })))

def execFenceD (core : Nat) (s : State) : Out := onDev (isCore core) (fun _ d => issue core 0 (fun o => o == 0x22) fenceDCmd d) s

/-- The core leaves its wait for the next command. -/
def passFence (d : Dev) (core : Nat) : Dev := d.modCtx core leaveWait

/-- Every core of a job that stands at this wait goes on. -/
def passAll (d : Dev) (slot : Nat) : Dev := (jobCores d slot).foldl (fun d l => passFence d (d.phys l)) d

/-- Every core of the job stands at the same fence with its own operations drained. -/
def allAt (d : Dev) (slot : Nat) (w : Wait) : Bool :=
  (jobCores d slot).all (fun l =>
    let x := d.core (d.phys l)
    x.active && x.ctx.wait == w && coreDrained d (d.phys l))

/-- FENCE_COMPLETE (R62): the fence the core stands at completes, when what it covers is visible and its participants have
come. A FENCE.C inside SEM.SIGNAL lets the signal be made. -/
def fenceComplete (d : Dev) (core : Nat) : Dev :=
  let x := d.core core
  match x.slot, x.ctx.wait with
  | some s, .fenceC =>
    if !x.active || !coreDrained d core then d
    else if fieldLe (memRead d.mem (cmdCell core (32 * x.ctx.pc)) 1) 0 1 == 0x20 then passFence d core
    else waitAt d core .none
  | some s, .fenceB k => if allAt d s (.fenceB k) then passAll d s else d
  | some s, .fenceD k => if allAt d s (.fenceD k) && enginesDrained d s then passAll d s else d
  | _, _ => d

def execFenceComplete (core : Nat) (s : State) : Out := onDev (isCore core) (fun _ d => fenceComplete d core) s

/-! ## Semaphore commands (R212) -/

/-- The reserved bytes of a semaphore command. CTL bit 0 is FENCE. -/
def semFieldsOk (c : Cmd) : Bool := decide (c.u 1 1 ≤ 1) && c.zero 3 1 && c.zero 6 2 && c.zero 0xC 20

/-- SEM.SIGNAL: after a FENCE.C when FENCE is set, VALUE is added and waiters look again. -/
def semSignalCmd (d : Dev) (c : Cmd) : Acc Issued := do
  legal (semFieldsOk c)
  let o ← semTarget d c.slot c.logical (c.u 4 2) (c.u 2 1)
  if c.u 1 1 == 1 && !coreDrained d c.core then .ok (.stall (waitAt d c.core .fenceC))
  else .ok (.next (semAddTo d (basinOf c.slot) o (c.u 2 1) (BitVec.ofNat 32 (c.u 8 4))))

def execSemSignal (core : Nat) (s : State) : Out := onDev (isCore core) (fun _ d => issue core 0 (fun o => o == 0x24) semSignalCmd d) s

/-- SEM.WAIT: goes on when the comparison holds, and waits otherwise. -/
def semWaitCmd (d : Dev) (c : Cmd) : Acc Issued := do
  legal (semFieldsOk c)
  let o ← semTarget d c.slot c.logical (c.u 4 2) (c.u 2 1)
  let t := BitVec.ofNat 32 (c.u 8 4)
  if semReached (semValue d (basinOf c.slot) o (c.u 2 1)) t then .ok (.next d)
  else .ok (.stall (waitAt d c.core (.sem o (c.u 2 1) t)))

def execSemWait (core : Nat) (s : State) : Out := onDev (isCore core) (fun _ d => issue core 0 (fun o => o == 0x25) semWaitCmd d) s

/-- SEM.ACQUIRE: takes a shared semaphore without an owner, and waits otherwise. -/
def semAcquireCmd (d : Dev) (c : Cmd) : Acc Issued := do
  legal (semFieldsOk c && decide (c.u 2 1 ≤ 15))
  let _ ← semTarget d c.slot c.logical (c.u 4 2) (c.u 2 1)
  let b := basinOf c.slot
  let x := d.sem b (c.u 2 1)
  if x.owner == 0xFF then .ok (.next (d.setSem b (c.u 2 1) { x with owner := c.logical }))
  else .ok (.stall (waitAt d c.core (.acquire (c.u 2 1))))

def execSemAcquire (core : Nat) (s : State) : Out := onDev (isCore core) (fun _ d => issue core 0 (fun o => o == 0x26) semAcquireCmd d) s

/-- A core that still issued because it held a shared semaphore stops once it holds none (R104 steps 1 and 2). -/
def stopIfLeaving (d : Dev) (c : Cmd) : Dev :=
  let b := basinOf c.slot
  if (d.basin b).leaving == some c.slot && !ownsSharedCore d b c.logical then
    d.modCore c.core (fun x => { x with active := false })
  else d

/-- SEM.RELEASE: only by the owner; a waiting core takes the semaphore. -/
def semReleaseCmd (d : Dev) (c : Cmd) : Acc Issued := do
  legal (semFieldsOk c && decide (c.u 2 1 ≤ 15))
  let _ ← semTarget d c.slot c.logical (c.u 4 2) (c.u 2 1)
  let b := basinOf c.slot
  let x := d.sem b (c.u 2 1)
  if x.owner == c.logical then
    .ok (.next (stopIfLeaving (grantSem (d.setSem b (c.u 2 1) { x with owner := 0xFF }) b (c.u 2 1)) c))
  else .error fltIllegal

def execSemRelease (core : Nat) (s : State) : Out := onDev (isCore core) (fun _ d => issue core 0 (fun o => o == 0x27) semReleaseCmd d) s

/-- CORE_SEM_ADD (R213, R218, R219): adds to a shared semaphore of the core's basin; ignored from SHARED_SEM on. -/
def coreSemAdd (d : Dev) (core n : Nat) (v : Word) : Dev :=
  let l := d.logical core
  let b := (d.coreRec l).basin
  if b == 0xFF || decide ((d.basinRec b).sharedSem ≤ n) then d else semAddTo d b 0xFF n v

def execCoreSemAdd (core n : Nat) (v : Word) (s : State) : Out :=
  onDev (isCore core && decide (n < 64)) (fun _ d => coreSemAdd d core n v) s

/-! ## Turn commands (R62, R67, R69, R217) -/

/-- Every core of the job stands at TRN.END. -/
def allEnded (d : Dev) (slot : Nat) : Bool := (jobCores d slot).all (fun l => (d.core (d.phys l)).ctx.wait == .ended)

/-- TRN.END: the core idles; with the last core PHASE becomes ENDING. A DOMAIN turn without a consistent group is
FLT_ILLEGAL_OP with KLZ_GROUP (R347). -/
def trnEndCmd (d : Dev) (c : Cmd) : Acc Issued := do
  legal (c.zero 1 31)
  if (d.tslot c.slot).domain && (groupOf d c.slot).isNone then .error { reason := 0xA2, sub := 0x6A }
  else
    let d := waitAt d c.core .ended
    .ok (.stall (if allEnded d c.slot && (d.tslot c.slot).phase == .running then
      d.modTslot c.slot (fun t => { t with phase := .ending }) else d))

def execTrnEnd (core : Nat) (s : State) : Out := onDev (isCore core) (fun _ d => issue core 0 (fun o => o == 0x28) trnEndCmd d) s

/-- A committed page with a flag: its entry and its current frame (R67). -/
def committedPage (d : Dev) (slot va : Nat) (write : Bool) : Acc (Nat × Nat) := do
  match ← walk d slot va with
  | .committed entry cur next flags ep =>
    if granted flags write && curMapped d cur then .ok (entry, currentFrame (d.tslot slot).epoch cur next flags ep)
    else .error (fltTranslation va)
  | _ => .error (fltTranslation va)

/-- One entry joins the move list, of at most 16,384 (R66). -/
def appendMove (d : Dev) (slot va : Nat) (m : Move) : Acc Dev :=
  let t := d.tslot slot
  if 16384 ≤ t.moves.length then .error (fltTranslation va) else .ok (d.setTslot slot { t with moves := t.moves ++ [m] })

/-- The pages of a 64 KiB aligned range. -/
def pagesOf (n : Nat) : List Nat := List.range (n / 0x10000)

/-- TRN.SHARE: one SHARE move for each page (R67). -/
def trnShareCmd (d : Dev) (c : Cmd) : Acc Issued := do
  let src := c.u 8 8
  let dst := c.u 0x10 8
  let n := c.u 0x18 8
  legal (c.zero 1 7 && src % 0x10000 == 0 && dst % 0x10000 == 0 && n % 0x10000 == 0)
  let d ← (pagesOf n).foldlM (fun d i => do
    let s ← committedPage d c.slot (src + i * 0x10000) false
    let t ← committedPage d c.slot (dst + i * 0x10000) true
    appendMove d c.slot (dst + i * 0x10000) { kind := .share, old := t.2, new := s.2, leaf := t.1, src := s.1 }) d
  .ok (.next d)

def execTrnShare (core : Nat) (s : State) : Out := onDev (isCore core) (fun _ d => issue core 0 (fun o => o == 0x29) trnShareCmd d) s

/-- TRN.RELEASE: one RELEASE move for each page (R67). -/
def trnReleaseCmd (d : Dev) (c : Cmd) : Acc Issued := do
  let va := c.u 8 8
  let n := c.u 0x10 8
  legal (c.zero 1 7 && c.zero 0x18 8 && va % 0x10000 == 0 && n % 0x10000 == 0)
  let d ← (pagesOf n).foldlM (fun d i => do
    let t ← committedPage d c.slot (va + i * 0x10000) true
    appendMove d c.slot (va + i * 0x10000) { kind := .release, old := t.2, new := noFrame, leaf := t.1 }) d
  .ok (.next d)

def execTrnRelease (core : Nat) (s : State) : Out := onDev (isCore core) (fun _ d => issue core 0 (fun o => o == 0x2A) trnReleaseCmd d) s

end Sys2Proof.Machine
end

