-- ==== Sys2Proof/Machine/Queues.lean ====
section
/-! DEFINITION. The queues of a core's engines: what starts once the commands before it have ended (spec/06_matrix_arrays.md R161,
R162, spec/08_vector_engine.md R195, spec/10_attention.md R254). -/

namespace Sys2Proof.Machine

/-- A queued command as it was issued. -/
def queuedCmd (d : Dev) (slot core : Nat) (q : Queued) : Cmd := { core := core, slot := slot, logical := d.logical core, pc := q.pc, b := q.b }

/-- The queue's head has started. -/
def popQueue (d : Dev) (core : Nat) (k : Engine) : Dev := d.modCtx core (fun x => x.setQueue k (x.queue k).tail)

/-- A queued command has run; a fault is charged to its command index. -/
def queuedRan (d : Dev) (c : Cmd) (engine : Nat) (r : Acc Issued) : Dev :=
  match r with
  | .ok (.next d2) => d2
  | .ok (.goto d2 _) => d2
  | .ok (.stall d2) => d2
  | .error e => jobFault d c.slot c.core engine c.logical c.pc e

/-- Number in a fault record, and meaning, of a command of the vector engine, the row units or the tensor mover, by opcode. -/
def queuedMeaning (op : Nat) : Nat × (Dev → Cmd → Acc Issued) :=
  match op with
  | 0x30 => (4, tmCopyCmd)
  | 0x31 => (4, tmGatherCmd)
  | 0x50 => (2, vecArithCmd)
  | 0x51 => (2, vecCvtCmd)
  | 0x52 => (2, vecCmpCmd)
  | 0x53 => (2, vecReduceCmd)
  | 0x54 => (2, vecGatherCmd)
  | 0x55 => (2, vecScatterCmd)
  | 0x56 => (2, vecFillCmd)
  | 0x60 => (3, sfBuiltinCmd)
  | 0x61 => (3, sfTableCmd)
  | 0x62 => (3, rowStatsCmd)
  | 0x63 => (3, rowMergeCmd)
  | 0x64 => (3, rowSoftmaxCmd)
  | 0x70 => (1, attRunCmd)
  | 0x71 => (3, attFinalCmd)
  | 0x72 => (3, attExportCmd)
  | 0x73 => (3, attMergeCmd)
  | _ => (4, kvAppendCmd)

def Queued.op (q : Queued) : Nat := fieldLe q.b 0 1

/-- The stamp of a queue's head. -/
def headStamp (l : List Queued) : Option Nat := l.head?.map (·.stamp)

/-- An ATT.RUN that stands before stamp `n` takes both arrays at the head of their queues (R254). -/
def attBefore (x : Ctx) (n : Nat) : Bool := x.sfQueue.any (fun q => q.op == 0x70 && decide (q.stamp < n))

/-- An array command stands before stamp `n`. -/
def arrBefore (x : Ctx) (n : Nat) : Bool := (x.arr0.queue ++ x.arr1.queue).any (fun q => decide (q.stamp < n))

/-- The head of an array's queue, when it may start; a TILE still waits while the shadow is full (R155, R181). -/
def arrHead (d : Dev) (slot core a : Nat) : Option (Nat × Dev) :=
  let x := (d.core core).ctx
  let k := arrEngine a
  match x.queue k with
  | [] => none
  | q :: rest =>
    if attBefore x q.stamp then none else
      let c := queuedCmd d slot core q
      let d1 := popQueue d core k
      match q.op with
      | 0x40 =>
        if arrFieldsOk c false && (getArr x a).shadow.isSome then none
        else some (q.stamp, queuedRan d1 c 1 ((tileNow d1 c).map .next))
      | 0x41 => some (q.stamp, queuedRan d1 c 1 ((runNow d1 c).map .next))
      | _ =>
        match listNow d1 c q.entry with
        | (d2, .done) => some (q.stamp, d2)
        | (d2, .fault e) => some (q.stamp, jobFault d2 slot core 1 c.logical c.pc e)
        | (d2, .waits i) =>
          if i == q.entry then none else some (q.stamp, d2.modCtx core (fun y => y.setQueue k ({ q with entry := i } :: rest)))

/-- The first in program order of the heads of the other queues, when it may start. -/
def otherHead (d : Dev) (slot core : Nat) : Option (Nat × Dev) :=
  let x := (d.core core).ctx
  let heads := [Engine.vec, Engine.row, Engine.tm].filterMap (fun k => (x.queue k).head?.map (fun q => (k, q)))
  match minBy (fun n => n) (heads.map (·.2.stamp)) with
  | none => none
  | some n =>
    match heads.find? (fun h => h.2.stamp == n) with
    | none => none
    | some (k, q) =>
      if q.op == 0x70 && arrBefore x n then none else
        let c := queuedCmd d slot core q
        let d1 := popQueue d core k
        let m := queuedMeaning q.op
        some (n, queuedRan d1 c m.1 (m.2 d1 c))

/-- The first in program order of the queued commands that may start. -/
def startHead (d : Dev) (slot core : Nat) : Option Dev :=
  let l := [arrHead d slot core 0, arrHead d slot core 1, otherHead d slot core].filterMap id
  match minBy (fun n => n) (l.map (·.1)) with
  | none => none
  | some n => (l.find? (fun e => e.1 == n)).map (·.2)

/-- The mover goes on with a command: its core runs, or a pre-emption lets the BULK command end (R104, R216). -/
def mayPump (d : Dev) (slot core : Nat) (t : TmCmd) : Bool :=
  (d.core core).active || (t.bulk && (d.basin (basinOf slot)).leaving == some slot)

/-- The core's engines go on until each waits. -/
def drainLoop : Nat → Dev → Nat → Dev
  | 0, d, _ => d
  | n + 1, d, core =>
    let x := d.core core
    match x.slot with
    | none => d
    | some s =>
      if d.flt.stopActive then d else
        match x.tm.find? tmUnfinished with
        | some t =>
          if t.todo.isEmpty || !mayPump d s core t then d else
            let d2 := pumpTm d s core (d.logical core) t
            if (d2.core core).tm.any tmUnfinished then d2 else drainLoop n d2 core
        | none =>
          if !x.active then d else
            match startHead d s core with
            | none => d
            | some d2 => drainLoop n d2 core

/-- How many commands wait in the core's queues. -/
def queuedCount (x : Ctx) : Nat :=
  x.arr0.queue.length + x.arr1.queue.length + x.vecQueue.length + x.sfQueue.length + x.tmQueue.length

/-- Goes on with what a core's engines have waiting. -/
def drainCore (d : Dev) (core : Nat) : Dev := drainLoop (2 * queuedCount (d.core core).ctx + 2) d core

/-- Goes on with the engines of a job's cores. -/
def drainJob (d : Dev) (slot : Nat) : Dev := (jobCores d slot).foldl (fun d l => drainCore d (d.phys l)) d

/-- A request of a mover has had its answer: its core goes on, and an abort that waited for the answers is made. -/
def afterAnswer (d : Dev) (slot core : Nat) : Dev := settleAbort (drainCore d core) slot

/-- RESTORE_DONE: the job is restored, and its engines go on with what they had left (spec/04_clepsydra_and_scheduling.md R105). -/
def execRestoreDone (basin : Nat) (s : State) : Out :=
  onDev (is16 basin) (fun _ d => match (d.basin basin).entering with
    | some t => codDrain (drainJob (restoreDone d basin) t) t
    | none => d) s

end Sys2Proof.Machine
end

