-- ==== Sys2Proof/Machine/Crypto.lean ====
section
/-! DEFINITION. The cryptographic primitives the security chapter names (spec/16_security.md R436, R446, R448): SHA-384
(FIPS 180-4), ECDSA verification on brainpoolP384r1 (RFC 5639). Their constants come from those standards, which the spec
cites by name (notes/assumptions/12.md). -/

namespace Sys2Proof.Machine

/-! ## SHA-384 -/

def shaK0 : List Nat :=
  [0x428A2F98D728AE22, 0x7137449123EF65CD, 0xB5C0FBCFEC4D3B2F, 0xE9B5DBA58189DBBC,
   0x3956C25BF348B538, 0x59F111F1B605D019, 0x923F82A4AF194F9B, 0xAB1C5ED5DA6D8118,
   0xD807AA98A3030242, 0x12835B0145706FBE, 0x243185BE4EE4B28C, 0x550C7DC3D5FFB4E2,
   0x72BE5D74F27B896F, 0x80DEB1FE3B1696B1, 0x9BDC06A725C71235, 0xC19BF174CF692694,
   0xE49B69C19EF14AD2, 0xEFBE4786384F25E3, 0x0FC19DC68B8CD5B5, 0x240CA1CC77AC9C65]
def shaK1 : List Nat :=
  [0x2DE92C6F592B0275, 0x4A7484AA6EA6E483, 0x5CB0A9DCBD41FBD4, 0x76F988DA831153B5,
   0x983E5152EE66DFAB, 0xA831C66D2DB43210, 0xB00327C898FB213F, 0xBF597FC7BEEF0EE4,
   0xC6E00BF33DA88FC2, 0xD5A79147930AA725, 0x06CA6351E003826F, 0x142929670A0E6E70,
   0x27B70A8546D22FFC, 0x2E1B21385C26C926, 0x4D2C6DFC5AC42AED, 0x53380D139D95B3DF,
   0x650A73548BAF63DE, 0x766A0ABB3C77B2A8, 0x81C2C92E47EDAEE6, 0x92722C851482353B]
def shaK2 : List Nat :=
  [0xA2BFE8A14CF10364, 0xA81A664BBC423001, 0xC24B8B70D0F89791, 0xC76C51A30654BE30,
   0xD192E819D6EF5218, 0xD69906245565A910, 0xF40E35855771202A, 0x106AA07032BBD1B8,
   0x19A4C116B8D2D0C8, 0x1E376C085141AB53, 0x2748774CDF8EEB99, 0x34B0BCB5E19B48A8,
   0x391C0CB3C5C95A63, 0x4ED8AA4AE3418ACB, 0x5B9CCA4F7763E373, 0x682E6FF3D6B2B8A3,
   0x748F82EE5DEFB2FC, 0x78A5636F43172F60, 0x84C87814A1F0AB72, 0x8CC702081A6439EC]
def shaK3 : List Nat :=
  [0x90BEFFFA23631E28, 0xA4506CEBDE82BDE9, 0xBEF9A3F7B2C67915, 0xC67178F2E372532B,
   0xCA273ECEEA26619C, 0xD186B8C721C0C207, 0xEADA7DD6CDE0EB1E, 0xF57D4F7FEE6ED178,
   0x06F067AA72176FBA, 0x0A637DC5A2C898A6, 0x113F9804BEF90DAE, 0x1B710B35131C471B,
   0x28DB77F523047D84, 0x32CAAB7B40C72493, 0x3C9EBE0A15C9BEBC, 0x431D67C49C100D4C,
   0x4CC5D4BECB3E42B6, 0x597F299CFC657E2A, 0x5FCB6FAB3AD6FAEC, 0x6C44198C4A475817]

/-- The 80 round constants of SHA-512. -/
def shaK : List (BitVec 64) := (shaK0 ++ shaK1 ++ shaK2 ++ shaK3).map (BitVec.ofNat 64)

/-- The initial hash value of SHA-384. -/
def shaInit : List (BitVec 64) :=
  [0xCBBB9D5DC1059ED8, 0x629A292A367CD507, 0x9159015A3070DD17, 0x152FECD8F70E5939,
   0x67332667FFC00B31, 0x8EB44A8768581511, 0xDB0C2E0D64F98FA7, 0x47B5481DBEFA4FA4]

def rotr64 (x : BitVec 64) (n : Nat) : BitVec 64 := x.rotateRight n

/-- The message schedule: 16 words extended by `n` more; words are kept newest first. -/
def shaExtend : Nat → List (BitVec 64) → List (BitVec 64)
  | 0, w => w
  | n + 1, w =>
    let g (i : Nat) := (w[i - 1]?).getD 0
    let s0 := rotr64 (g 15) 1 ^^^ rotr64 (g 15) 8 ^^^ (g 15 >>> 7)
    let s1 := rotr64 (g 2) 19 ^^^ rotr64 (g 2) 61 ^^^ (g 2 >>> 6)
    shaExtend n ((g 16 + s0 + g 7 + s1) :: w)

/-- One round of the compression on the eight working words. -/
def shaRound (v : List (BitVec 64)) (kw : BitVec 64 × BitVec 64) : List (BitVec 64) :=
  match v with
  | [a, b, c, d, e, f, g, h] =>
    let s1 := rotr64 e 14 ^^^ rotr64 e 18 ^^^ rotr64 e 41
    let ch := (e &&& f) ^^^ (~~~e &&& g)
    let t1 := h + s1 + ch + kw.1 + kw.2
    let s0 := rotr64 a 28 ^^^ rotr64 a 34 ^^^ rotr64 a 39
    let maj := (a &&& b) ^^^ (a &&& c) ^^^ (b &&& c)
    [t1 + s0 + maj, a, b, c, d + t1, e, f, g]
  | _ => v

/-- One block of 128 bytes. -/
def shaBlock (hs : List (BitVec 64)) (block : List Byte) : List (BitVec 64) :=
  let w := (List.range 16).map (fun i => BitVec.ofNat 64 (beNat ((block.drop (8 * i)).take 8)))
  let sched := (shaExtend 64 w.reverse).reverse
  List.zipWith (· + ·) hs ((shaK.zip sched).foldl shaRound hs)

/-- The message cut into blocks, with fuel. -/
def shaBlocks : Nat → List (BitVec 64) → List Byte → List (BitVec 64)
  | 0, hs, _ => hs
  | n + 1, hs, m => if m.isEmpty then hs else shaBlocks n (shaBlock hs (m.take 128)) (m.drop 128)

/-- SHA-384 of bytes: 48 bytes. -/
def sha384 (m : List Byte) : List Byte :=
  let z := (239 - m.length % 128) % 128
  let p := m ++ [0x80] ++ List.replicate z 0 ++ beBytes 16 (8 * m.length)
  ((shaBlocks (p.length / 128 + 1) shaInit p).take 6).flatMap (fun x => beBytes 8 x.toNat)

/-! ## brainpoolP384r1 -/

def ecP : Nat := 0x8CB91E82A3386D280F5D6F7E50E641DF152F7109ED5456B412B1DA197FB71123ACD3A729901D1A71874700133107EC53
def ecA : Nat := 0x7BC382C63D8C150C3C72080ACE05AFA0C2BEA28E4FB22787139165EFBA91F90F8AA5814A503AD4EB04A8C7DD22CE2826
def ecB : Nat := 0x04A8C7DD22CE28268B39B55416F0447C2FB77DE107DCD2A62E880EA53EEB62D57CB4390295DBC9943AB78696FA504C11
def ecGx : Nat := 0x1D1C64F068CF45FFA2A63A81B7C13F6B8847A3E77EF14FE3DB7FCAFE0CBD10E8E826E03436D646AAEF87B2E247D4AF1E
def ecGy : Nat := 0x8ABE1D7520F9C2A45CB1EB8E95CFD55262B70B29FEEC5864E19C054FF99129280E4646217791811142820341263C5315
def ecN : Nat := 0x8CB91E82A3386D280F5D6F7E50E641DF152F7109ED5456B31F166E6CAC0425A7CF3AB6AF6B7FC3103B883202E9046565

/-- `b ^ e` modulo `m`, `n` bits of the exponent. -/
def powMod : Nat → Nat → Nat → Nat → Nat
  | 0, _, _, _ => 1
  | n + 1, b, e, m =>
    let r := powMod n (b * b % m) (e / 2) m
    if e % 2 = 1 then r * b % m else r

/-- Inverse modulo a prime. -/
def invMod (x m : Nat) : Nat := powMod 384 (x % m) (m - 2) m

/-- Twice a point (X : Y : Z) of Jacobian coordinates, which stands for (X / Z², Y / Z³), and for infinity when Z is 0. -/
def ecDouble (p : Nat × Nat × Nat) : Nat × Nat × Nat :=
  match p with
  | (x, y, z) =>
    let yy := y * y % ecP
    let t := 4 * x * yy % ecP
    let m := (3 * x * x + ecA * (z * z % ecP * (z * z % ecP) % ecP)) % ecP
    let x3 := (m * m + 2 * (ecP - t)) % ecP
    (x3, (m * (t + (ecP - x3)) + 8 * (ecP - yy * yy % ecP)) % ecP, 2 * y * z % ecP)

/-- Sum of two points of Jacobian coordinates. -/
def ecSum (p q : Nat × Nat × Nat) : Nat × Nat × Nat :=
  match p, q with
  | (x1, y1, z1), (x2, y2, z2) =>
    if z1 = 0 then q else if z2 = 0 then p else
      let u1 := x1 * (z2 * z2 % ecP) % ecP
      let u2 := x2 * (z1 * z1 % ecP) % ecP
      let s1 := y1 * (z2 * z2 % ecP * z2 % ecP) % ecP
      let s2 := y2 * (z1 * z1 % ecP * z1 % ecP) % ecP
      let h := (u2 + (ecP - u1)) % ecP
      let r := (s2 + (ecP - s1)) % ecP
      if h = 0 then (if r = 0 then ecDouble p else (1, 1, 0)) else
        let hh := h * h % ecP
        let hhh := h * hh % ecP
        let v := u1 * hh % ecP
        let x3 := (r * r + (ecP - hhh) + 2 * (ecP - v)) % ecP
        (x3, (r * (v + (ecP - x3)) + s1 * (ecP - hhh)) % ecP, h * z1 % ecP * z2 % ecP)

/-- `k` times a point of Jacobian coordinates, `n` bits of `k`. -/
def ecTimes : Nat → Nat → Nat × Nat × Nat → Nat × Nat × Nat
  | 0, _, _ => (1, 1, 0)
  | n + 1, k, p =>
    let r := ecTimes n (k / 2) (ecDouble p)
    if k % 2 = 1 then ecSum r p else r

/-- The affine coordinates of a point; none at infinity. -/
def ecAffine (p : Nat × Nat × Nat) : Option (Nat × Nat) :=
  match p with
  | (x, y, z) =>
    if z = 0 then none else
      let i := invMod z ecP
      some (x * (i * i % ecP) % ecP, y * (i * i % ecP * i % ecP) % ecP)

/-- ECDSA with SHA-384: the signature (r, s) of a message under an uncompressed public key of 97 bytes. -/
def ecdsaVerify (pubkey : List Byte) (msg : List Byte) (r s : Nat) : Bool :=
  let x := beNat ((pubkey.drop 1).take 48)
  let y := beNat ((pubkey.drop 49).take 48)
  if !(pubkey.length == 97) || !((pubkey[0]?).getD 0 == 4) || decide (ecP ≤ x) || decide (ecP ≤ y)
    || !(y * y % ecP == (x * x % ecP * x + ecA * x + ecB) % ecP)
    || r == 0 || decide (ecN ≤ r) || s == 0 || decide (ecN ≤ s) then false
  else
    let z := beNat (sha384 msg)
    let w := invMod s ecN
    match ecAffine (ecSum (ecTimes 384 (z * w % ecN) (ecGx, ecGy, 1)) (ecTimes 384 (r * w % ecN) (x, y, 1))) with
    | none => false
    | some (px, _) => px % ecN == r

/-- The trailer of R21 at the end of a signed object of `bytes`: its key, and whether the signature over everything up to
the signature verifies. -/
def trailerKey (obj : List Byte) : List Byte := (obj.drop (obj.length - 208)).take 97
def trailerSigned (obj : List Byte) : Bool :=
  ecdsaVerify (trailerKey obj) (obj.take (obj.length - 96))
    (beNat ((obj.drop (obj.length - 96)).take 48)) (beNat ((obj.drop (obj.length - 48)).take 48))

/-- The key of a signed object is the signer's: SIGNER 0 the vendor, 1 the enrolled owner (R436). -/
def signerOk (vendor owner : List Byte) (signer : Nat) (pubkey : List Byte) : Bool :=
  match signer with
  | 0 => sha384 pubkey == vendor
  | 1 => !(owner.all (· == 0)) && sha384 pubkey == owner
  | _ => false

/-- The controller refuses an object: LAST_REASON and REFUSALS (R452). -/
def secRefuse (d : Dev) (reason : Byte) : Dev :=
  { d with sec := { d.sec with lastReason := reason, refusals := sat16 d.sec.refusals } }

/-- The rollback rule of R437. -/
def rollbackOk (counter v : Nat) : Bool := decide (counter ≤ v) && decide (v ≤ 64)

end Sys2Proof.Machine
end

