-- ==== Sys2Proof/Machine/StructImage.lean ====
section
/-! DEFINITION. The structure image: its layout and every check of a load, in the order the GL9 makes them
(spec/02_structure_image.md R19 to R45). -/

namespace Sys2Proof.Machine

/-- A check: passes, or refuses with a code and a detail. -/
abbrev Chk (α : Type) := Except (Nat × Nat) α

/-- Refuses with a code and a detail unless the condition holds. -/
def need (c : Bool) (code detail : Nat) : Chk Unit := if c then .ok () else .error (code, detail)

/-- The offset of the first byte that is not 0 among `n` bytes from `off`. -/
def firstNonzero (img : List Byte) (off n : Nat) : Option Nat :=
  ((List.range n).find? (fun i => !((img[off + i]?).getD 0 == 0))).map (· + off)

/-- Reserved bytes are 0; the detail is the byte at fault. -/
def needZero (img : List Byte) (off n code : Nat) : Chk Unit :=
  match firstNonzero img off n with
  | none => .ok ()
  | some i => .error (code, i)

/-- Runs a check for each element, in order. -/
def checkAll (l : List Nat) (f : Nat → Chk Unit) : Chk Unit := l.foldlM (fun _ i => f i) ()

/-! ## The section directory (R20, R168) -/

/-- One row of a section table: TYPE, required, and which sizes fit. -/
structure SectionRow where
  type     : Nat
  required : Bool
  sizeOk   : Nat → Bool

/-- The offset and size of the section of a type; absent: none. -/
def findSection (img : List Byte) (type : Nat) : Option (Nat × Nat) :=
  let n := fieldLe img 0x0C 2
  ((List.range n).find? (fun i => fieldLe img (0x80 + 16 * i) 2 == type)).map
    (fun i => (fieldLe img (0x84 + 16 * i) 4, fieldLe img (0x88 + 16 * i) 4))

/-- One used entry of the directory, its fields in offset order. -/
def checkEntry (img : List Byte) (rows : List SectionRow) (code i : Nat) : Chk Unit := do
  let e := 0x80 + 16 * i
  let trailer := img.length - 208
  let ty := fieldLe img e 2
  let off := fieldLe img (e + 4) 4
  let n := fieldLe img (e + 8) 4
  match rows.find? (fun r => r.type == ty) with
  | none => .error (code, e)
  | some r =>
    need (!((List.range i).any (fun k => fieldLe img (0x80 + 16 * k) 2 == ty))) code e
    needZero img (e + 2) 2 code
    need (off % 16 == 0 && decide (0x180 ≤ off) && decide (off ≤ trailer)
      && !((List.range i).any (fun k => meet off n (fieldLe img (0x84 + 16 * k) 4) (fieldLe img (0x88 + 16 * k) 4)))) code (e + 4)
    need (r.sizeOk n && decide (off + n ≤ trailer)) code (e + 8)
    needZero img (e + 12) 4 code

/-- The directory check of R20. -/
def checkDirectory (img : List Byte) (rows : List SectionRow) (code : Nat) : Chk Unit := do
  let n := fieldLe img 0x0C 2
  need (decide (1 ≤ n) && decide (n ≤ 16)) code 0x0C
  checkAll (List.range 16) (fun i => if i < n then checkEntry img rows code i else needZero img (0x80 + 16 * i) 16 code)
  checkAll (List.range rows.length) (fun i => match rows[i]? with
    | some r => need (!r.required || (findSection img r.type).isSome) code 0x80
    | none => .ok ())

/-- The section table of a structure image (R20). -/
def structRows : List SectionRow :=
  [⟨1, true, fun n => n == 144 * 16⟩, ⟨2, true, fun n => n == 16 * 32⟩, ⟨3, true, fun n => n == 144 * 4⟩,
   ⟨4, false, fun n => n % 24 == 0 && decide (n ≤ 4096 * 24)⟩, ⟨5, false, fun n => decide (512 ≤ n)⟩,
   ⟨6, true, fun n => n == 16⟩, ⟨7, true, fun n => n == 4112⟩, ⟨8, true, fun n => n == 64⟩,
   ⟨9, true, fun n => n == 16⟩, ⟨10, true, fun n => n == 16⟩]

/-- The start of a required section. -/
def sectionAt (img : List Byte) (type : Nat) : Nat := ((findSection img type).map (·.1)).getD 0

/-! ## Records -/

def parseCore (img : List Byte) (o : Nat) : CoreRec :=
  { basin := fieldLe img o 1, home := fieldLe img (o + 1) 1, scratch := fieldLe img (o + 2) 1, acc := fieldLe img (o + 3) 1,
    page := fieldLe img (o + 4) 1, exch := fieldLe img (o + 5) 1, form0 := fieldLe img (o + 6) 1, form1 := fieldLe img (o + 7) 1 }

def parseBasin (img : List Byte) (o : Nat) : BasinRec :=
  { valid := fieldLe img o 1 == 1, sharedSem := fieldLe img (o + 1) 1, slice := fieldLe img (o + 4) 4, grace := fieldLe img (o + 8) 4,
    shadowFrames := fieldLe img (o + 12) 4, shadowBase := fieldLe img (o + 16) 8 }

def parsePreload (img : List Byte) (o : Nat) : Preload :=
  { logical := fieldLe img o 2, dest := fieldLe img (o + 4) 4, source := fieldLe img (o + 8) 8, length := fieldLe img (o + 16) 8 }

/-- The end of HBM a load checks against: that of the image's own MODE (R27). -/
def imageHbmEnd (img : List Byte) : Nat :=
  if fieldLe img (sectionAt img 10) 1 == 1 then 12 * 285696 * 262144 else 12 * 294912 * 262144

/-- CORES (R22 to R25). -/
def checkCore (img : List Byte) (l : Nat) : Chk Unit := do
  let o := sectionAt img 1 + 16 * l
  let c := parseCore img o
  if c.basin == 0xFF then needZero img (o + 1) 15 0x08
  else
    need (decide (c.home ≤ 11)) 0x03 (o + 1)
    need (decide (8 ≤ c.scratch)) 0x03 (o + 2)
    need (decide (4 ≤ c.acc)) 0x03 (o + 3)
    need (decide (c.page ≤ 32)) 0x03 (o + 4)
    need (decide (c.exch ≤ 8)) 0x03 (o + 5)
    need (c.scratch + c.acc + c.page + c.exch == 56) 0x03 o
    need (decide (c.form0 ≤ 1)) 0x08 (o + 6)
    need (decide (c.form1 ≤ 1)) 0x08 (o + 7)
    needZero img (o + 8) 8 0x03

/-- The offset of the BASINS field that holds byte `i` of a record. -/
def basinField (i : Nat) : Nat :=
  if i < 4 then i else if i < 8 then 4 else if i < 12 then 8 else if i < 16 then 12 else if i < 24 then 16 else i

/-- The basins before `b` that are valid. -/
def earlierBasins (img : List Byte) (b : Nat) : List BasinRec :=
  ((List.range b).map (fun k => parseBasin img (sectionAt img 2 + 32 * k))).filter (·.valid)

/-- BASINS (R26, R27, R58). A pool past the end of HBM names SHADOW_BASE, and two pools that overlap the later record (DESIGN CHOICE,
notes/assumptions/85.md). -/
def checkBasin (img : List Byte) (b : Nat) : Chk Unit := do
  let o := sectionAt img 2 + 32 * b
  let r := parseBasin img o
  match fieldLe img o 1 with
  | 0 =>
    match (firstNonzero img (o + 1) 1).orElse (fun _ => firstNonzero img (o + 4) 20) with
    | none => .ok ()
    | some i => .error (0x10, o + basinField (i - o))
    needZero img (o + 2) 2 0x10
    needZero img (o + 24) 8 0x10
  | 1 =>
    need (decide (r.sharedSem ≤ 16)) 0x10 (o + 1)
    need (decide (1 ≤ r.slice)) 0x10 (o + 4)
    need (decide (r.grace ≤ r.slice)) 0x10 (o + 8)
    need (decide (1 ≤ r.shadowFrames)) 0x10 (o + 12)
    need (r.shadowBase % 0x10000 == 0) 0x10 (o + 16)
    need ((List.range 144).any (fun l => fieldLe img (sectionAt img 1 + 16 * l) 1 == b)) 0x10 o
    need (decide (r.shadowBase + r.shadowFrames * 0x10000 ≤ imageHbmEnd img)) 0x10 (o + 16)
    need (!((earlierBasins img b).any (fun e => meet r.shadowBase (r.shadowFrames * 0x10000) e.shadowBase (e.shadowFrames * 0x10000)))) 0x10 o
    need (decide (((earlierBasins img b).map (·.shadowFrames)).sum + r.shadowFrames ≤ 6815744)) 0x10 o
    needZero img (o + 2) 2 0x10
    needZero img (o + 24) 8 0x10
  | _ => .error (0x10, o)

/-- A basin number names a valid basin. -/
def imageBasinValid (img : List Byte) (b : Nat) : Bool := decide (b < 16) && (parseBasin img (sectionAt img 2 + 32 * b)).valid

/-- A logical core is defined. -/
def imageCoreDefined (img : List Byte) (l : Nat) : Bool := decide (l < 144) && !(fieldLe img (sectionAt img 1 + 16 * l) 1 == 0xFF)

/-- BINDING (R29, R30). A fenced core is refused after the LOGICAL checks and before those of SPARE_BASIN, and again after them for a
spare (DESIGN CHOICE, notes/assumptions/86.md). -/
def checkBinding (fenced : BitVec 144) (img : List Byte) (p : Nat) : Chk Unit := do
  let o := sectionAt img 3 + 4 * p
  let l := fieldLe img o 1
  let sp := fieldLe img (o + 1) 1
  need (l == 0xFF || imageCoreDefined img l) 0x04 o
  need (l == 0xFF || !((List.range p).any (fun q => fieldLe img (sectionAt img 3 + 4 * q) 1 == l))) 0x04 o
  need (l == 0xFF || !(fenced.getLsbD p)) 0x0F o
  need (sp == 0xFF || (l == 0xFF && imageBasinValid img sp)) 0x04 (o + 1)
  need (sp == 0xFF || !(fenced.getLsbD p)) 0x0F (o + 1)
  needZero img (o + 2) 2 0x04

/-- PRELOAD (R35). -/
def checkPreload (img : List Byte) (i : Nat) : Chk Unit := do
  let o := sectionAt img 4 + 24 * i
  let r := parsePreload img o
  let earlier := (List.range i).map (fun k => parsePreload img (sectionAt img 4 + 24 * k))
  let pools := earlierBasins img 16
  need (imageCoreDefined img r.logical) 0x0C o
  need (r.dest % 4096 == 0) 0x0C (o + 4)
  need (r.source % 4096 == 0) 0x0C (o + 8)
  need (r.length % 4096 == 0 && decide (0 < r.length)) 0x0C (o + 16)
  need (decide (r.dest + r.length ≤ (parseCore img (sectionAt img 1 + 16 * r.logical)).scratch * 0x100000)) 0x0C o
  need (!(earlier.any (fun e => e.logical == r.logical && meet r.dest r.length e.dest e.length))) 0x0C o
  need (decide (r.source + r.length ≤ imageHbmEnd img)) 0x0C (o + 8)
  need (!(pools.any (fun e => meet r.source r.length e.shadowBase (e.shadowFrames * 0x10000)))) 0x0C (o + 8)
  needZero img (o + 2) 2 0x0C

/-- SF_TABLES directory entries and bodies (R37): each body right after its entry (DESIGN CHOICE, notes/assumptions/87.md). -/
def checkTableSlot (img : List Byte) (o n i : Nat) : Chk Unit := do
  let e := o + 16 * i
  let off := fieldLe img e 4
  let len := fieldLe img (e + 4) 4
  if off == 0 then need (len == 0) 0x11 (e + 4)
  else
    need (decide (0x200 ≤ off) && decide (off ≤ n)) 0x11 e
    need (decide (off + len ≤ n)) 0x11 (e + 4)
  needZero img (e + 8) 8 0x11
  if off == 0 then .ok () else
    match tableFault ((img.drop (o + off)).take len) with
    | none => .ok ()
    | some (code, some at_) => .error (code, o + off + at_)
    | some (code, none) => .error (code, e + 4)

/-- ROUTES (R39). -/
def checkRoutes (horizon : Nat) (img : List Byte) : Chk Unit := do
  let o := sectionAt img 7
  let own := fieldLe img o 2
  need (decide (own ≤ 4095)) 0x06 o
  need (decide (fieldLe img (o + 2) 1 ≤ 64)) 0x06 (o + 2)
  need (decide (fieldLe img (o + 4) 4 ≤ 50000) && decide (fieldLe img (o + 4) 4 ≤ horizon)) 0x06 (o + 4)
  checkAll (List.range 4096) (fun dv =>
    let e := fieldLe img (o + 16 + dv) 1
    need ((if dv == own then e == 0xFE else !(e == 0xFE)) && (decide (e ≤ 0x0F) || e == 0xFE || e == 0xFF)) 0x06 (o + 16 + dv))
  needZero img (o + 3) 1 0x06
  needZero img (o + 8) 8 0x06

/-- The codec cores of a group, lowest first. -/
def imageGroup (img : List Byte) (g : Nat) : List Nat :=
  (List.range 16).filter (fun i => fieldLe img (sectionAt img 8 + 4 * i + 1) 1 == g)

/-- CODEC (R40): entries, then groups in increasing number. -/
def checkCodec (img : List Byte) : Chk Unit := do
  let o := sectionAt img 8
  checkAll (List.range 16) (fun i => do
    need (decide (fieldLe img (o + 4 * i) 1 ≤ 3)) 0x0D (o + 4 * i)
    needZero img (o + 4 * i + 2) 2 0x0D)
  checkAll (List.range 255) (fun g =>
    match imageGroup img g with
    | [] => .ok ()
    | c :: cs =>
      need ((cs.length == 1 || cs.length == 3) && cs.all (fun x => x / 8 == c / 8)
        && cs.all (fun x => fieldLe img (o + 4 * x) 1 == fieldLe img (o + 4 * c) 1)) 0x0D (o + 4 * c))

/-- CADENCE (R41). -/
def checkCadence (img : List Byte) : Chk Unit := do
  let o := sectionAt img 9
  let num := fieldLe img o 4
  let den := fieldLe img (o + 4) 4
  need (!(den == 0)) 0x0B (o + 4)
  need (decide (den ≤ 100 * num) && decide (num ≤ 2000 * den)) 0x0B o
  needZero img (o + 8) 8 0x0B

/-- MEMORY (R42, R43). -/
def checkMemory (fixed pinsafe : Bool) (img : List Byte) : Chk Unit := do
  let o := sectionAt img 10
  let mode := fieldLe img o 1
  need (decide (mode ≤ 1)) 0x0E o
  need (!fixed || (mode == 1) == pinsafe) 0x0E o
  need (decide (fieldLe img (o + 1) 1 ≤ (if mode == 1 then 0 else 1))) 0x0E (o + 1)
  need (decide (1 ≤ fieldLe img (o + 2) 2)) 0x0E (o + 2)
  needZero img (o + 4) 12 0x0E

/-- Steps 4 to 6 of R45 on an image of STR_IMAGE_BYTES bytes at `addr`. -/
def checkStruct (d : Dev) (img : List Byte) (addr : Nat) : Chk Unit := do
  need (fieldLe img 0 4 == 0x54534C47) 0x09 0
  need (fieldLe img 4 2 == 1) 0x09 4
  need (fieldLe img 8 4 % 16 == 0 && decide (fieldLe img 8 4 ≤ 0x1000000) && fieldLe img 8 4 == img.length) 0x09 8
  need (addr % 4096 == 0) 0x09 0
  needZero img 0x0F 1 0x09
  needZero img 0x14 12 0x09
  needZero img 0x50 48 0x09
  checkDirectory img structRows 0x09
  need (fieldLe img 6 2 == 9) 0x02 6
  checkAll (List.range 144) (checkCore img)
  checkAll (List.range 16) (checkBasin img)
  checkAll (List.range 144) (fun l =>
    need (!(imageCoreDefined img l) || imageBasinValid img (fieldLe img (sectionAt img 1 + 16 * l) 1)) 0x10 (sectionAt img 1 + 16 * l))
  checkAll (List.range 144) (checkBinding d.flt.fenced img)
  checkAll (List.range 144) (fun l =>
    need (!(imageCoreDefined img l) || (List.range 144).any (fun p => fieldLe img (sectionAt img 3 + 4 * p) 1 == l)) 0x04 (sectionAt img 1 + 16 * l))
  match findSection img 4 with
  | none => .ok ()
  | some s => checkAll (List.range (s.2 / 24)) (checkPreload img)
  match findSection img 5 with
  | none => .ok ()
  | some s => checkAll (List.range 32) (checkTableSlot img s.1 s.2)
  needZero img (sectionAt img 6 + 4) 12 0x09
  checkRoutes (trainedHorizon d) img
  checkCodec img
  checkCadence img
  checkMemory d.str.protectFixed d.str.pinsafe img

/-- The structure a checked image describes. -/
def parseStruct (img : List Byte) : Structure :=
  let bind := sectionAt img 3
  let mem := sectionAt img 10
  let rt := sectionAt img 7
  { hash := (img.drop 0x20).take 48
    rollback := BitVec.ofNat 32 (fieldLe img 0x10 4)
    cores := tabOfList {} ((List.range 144).map (fun l => parseCore img (sectionAt img 1 + 16 * l)))
    basins := tabOfList {} ((List.range 16).map (fun b => parseBasin img (sectionAt img 2 + 32 * b)))
    bound := tabOfList 0xFF ((List.range 144).map (fun p => fieldLe img (bind + 4 * p) 1))
    spares := tabOfList 0xFF ((List.range 144).map (fun p => fieldLe img (bind + 4 * p + 1) 1))
    preloads := match findSection img 4 with
      | none => []
      | some s => (List.range (s.2 / 24)).map (fun i => parsePreload img (s.1 + 24 * i))
    tables := match findSection img 5 with
      | none => []
      | some s => tabOfList [] ((List.range 32).map (fun i =>
          let off := fieldLe img (s.1 + 16 * i) 4
          if off == 0 then [] else (img.drop (s.1 + off)).take (fieldLe img (s.1 + 16 * i + 4) 4)))
    spreadKey := BitVec.ofNat 32 (fieldLe img (sectionAt img 6) 4)
    ownDevice := fieldLe img rt 2
    maxHops := fieldLe img (rt + 2) 1
    horizon := fieldLe img (rt + 4) 4
    routes := tabOfList 0xFF ((List.range 4096).map (fun dv => fieldLe img (rt + 16 + dv) 1))
    codec := tabOfList {} ((List.range 16).map (fun i =>
      ({ pool := fieldLe img (sectionAt img 8 + 4 * i) 1, group := fieldLe img (sectionAt img 8 + 4 * i + 1) 1 } : CodecRec)))
    num := fieldLe img (sectionAt img 9) 4
    den := fieldLe img (sectionAt img 9 + 4) 4
    pinsafe := fieldLe img mem 1 == 1
    remap := fieldLe img (mem + 1) 1 == 1
    threshold := fieldLe img (mem + 2) 2 }

/-- Step 2 of R45: a verifiable span, the signer's key, the signature and STRUCT_HASH. The zero bytes of the trailer (R21) are not looked
at (DESIGN CHOICE, notes/assumptions/88.md). -/
def verifyStruct (vendor owner img : List Byte) : Bool :=
  signerOk vendor owner (fieldLe img 0x0E 1) (trailerKey img) && trailerSigned img
    && (img.drop 0x20).take 48 == sha384 ((img.take (img.length - 208)).drop 0x80)

end Sys2Proof.Machine
end

