-- ==== Sys2Proof/Machine/Structure.lean ====
section
/-! DEFINITION. Structure loads, rebinding and core hardware faults (spec/02_structure_image.md R18, R30 to R36, R44 to R47,
R58; spec/17_faults_and_counters.md R454). -/

namespace Sys2Proof.Machine

/-- Every codec stream is CLOSED or REFUSED (R18). -/
def streamsQuiet (d : Dev) : Bool := (List.range 32).all (fun k => (d.stream k).state == .closed || (d.stream k).state == .refused)

/-- R18: the device is quiescent. -/
def quiescent (d : Dev) : Bool :=
  (d.sys.state == .ready || d.sys.state == .structured)
    && (List.range 64).all (fun j => (d.job j).state == .idle) && streamsQuiet d

/-- A structure load is between STR_CTL.LOAD and LOADED or REFUSED. -/
def loading (d : Dev) : Bool :=
  match d.str.state with
  | .verifying => true | .checking => true | .applying => true
  | _ => false

/-- The load ends REFUSED with a reason and a detail; the structure in force stays (R44). -/
def strRefuse (d : Dev) (reason detail : Nat) : Dev :=
  { d with str := { d.str with state := .refused, loadBit := false, reason := BitVec.ofNat 8 reason, detail := BitVec.ofNat 32 detail, candidate := none } }

/-- STR_LOAD (R44 step 2, R46): ignored during a load; refused at once when the device is not quiescent. -/
def strLoad (d : Dev) : Dev :=
  if loading d then d
  else if quiescent d then { d with str := { d.str with state := .verifying, loadBit := true, range := (d.str.image.toNat, d.str.imageBytes.toNat) } }
  else strRefuse d 0x07 0

def execStrLoad (s : State) : Out := onDev true (fun _ d => strLoad d) s

/-- The image a load reads. -/
def strImage (d : Dev) : List Byte := d.hbmRead d.str.range.1 d.str.range.2

/-- The span an image's size sets lies in HBM (R45). -/
def spanFits (d : Dev) (addr n lim : Nat) : Bool :=
  decide (0x250 ≤ n) && decide (n ≤ lim) && hbmOk d addr && decide (addr % 2 ^ 40 + n ≤ hbmEnd d)

/-- The span can be verified: it lies in HBM, and its read meets no poison (R45). -/
def spanOk (d : Dev) (addr n lim : Nat) : Bool := spanFits d addr n lim && !d.hbmPoisoned addr n

/-- The read of an image, with the errors it meets (spec/12_hbm.md R304). -/
def meetSpan (d : Dev) (addr n lim : Nat) : Dev := if spanFits d addr n lim then meetHbm d addr n else d

/-- STR_VERIFY_DONE (R44 step 3, R45 steps 2 and 3). -/
def strVerifyDone (nv : Nv) (d : Dev) : Dev :=
  if !(d.str.state == .verifying) then d
  else
    let d := meetSpan d d.str.range.1 d.str.range.2 0x1000000
    if !spanOk d d.str.range.1 d.str.range.2 0x1000000 then secRefuse (strRefuse d 0x01 0) 0x01
    else
    let img := strImage d
    if !verifyStruct nv.vendorHash nv.ownerHash img then secRefuse (strRefuse d 0x01 0) 0x01
    else if !rollbackOk nv.strCounter (fieldLe img 0x10 4) then secRefuse (strRefuse d 0x0A 0) 0x0A
    else { d with str := { d.str with state := .checking, loadBit := false } }

def execStrVerifyDone (s : State) : Out := onDev true strVerifyDone s

/-- A fuse counter raised to `v`, never lowered and never past 64 (R437). -/
def raiseCounter (c v : Nat) : Nat := max c (min v 64)

/-- STR_CHECK_DONE (R44 steps 4 and 5, R437): the checks end; a load that passes enters APPLYING, DEV_STATE reads READY and
STR_COUNTER rises. -/
def strCheckDone (nv : Nv) (d : Dev) : Nv × Dev :=
  if !(d.str.state == .checking) then (nv, d)
  else
    let img := strImage d
    match checkStruct d img d.str.range.1 with
    | .error e => (nv, strRefuse d e.1 e.2)
    | .ok _ =>
      ({ nv with strCounter := raiseCounter nv.strCounter (fieldLe img 0x10 4) },
       { d with str := { d.str with state := .applying, candidate := some (parseStruct img) }, sys := { d.sys with state := .ready } })

def execStrCheckDone (s : State) : Out := onBoth true strCheckDone s

/-! ## Binding (R30 to R33) -/

/-- The unfenced spares of a basin, in order (R32). -/
def sparesOf (d : Dev) (b : Nat) : List Nat :=
  (List.range 144).filter (fun p => tabGet 0xFF d.str.spare p == b && !d.fenced p)

/-- The spare R32 chooses for a logical core: its home cluster's, then its home die's, then any, lowest number first. -/
def chooseSpare (d : Dev) (l : Nat) : Option Nat :=
  let r := d.coreRec l
  let sp := sparesOf d r.basin
  ((sp.filter (fun p => p / 12 == r.home)).head?).orElse (fun _ =>
    ((sp.filter (fun p => p / 72 == r.home / 6)).head?).orElse (fun _ => sp.head?))

/-- The job's side of a physical core goes over to another; what its engines had begun is lost with the old one, and its bound counts
are its own (R219 in spec/08_vector_engine.md). -/
def moveCoreTo (d : Dev) (old new : Nat) : Dev :=
  let x := d.core old
  let y := d.core new
  let d := d.setCore old { boundHit := x.boundHit, boundHits := x.boundHits }
  d.setCore new { x with boundHit := y.boundHit, boundHits := y.boundHits, active := false, tm := [], pages := [] }

/-- A rebind of the logical core that STR_REBIND asked for is under way. -/
def rebindAsked (d : Dev) (l : Nat) : Bool := match tabGet none d.str.rebinds l with
  | some r => r.asked
  | none => false

/-- A rebind starts: the target stops being a spare and the logical core, with its job's state, is bound to it (R32). A request of
STR_REBIND whose target is fenced meanwhile goes on with the new target. -/
def startRebind (d : Dev) (l target : Nat) (asked : Bool) : Dev :=
  let d := moveCoreTo d (d.phys l) target
  { d with str := { d.str with spare := tabSet 0xFF d.str.spare target 0xFF, bind := tabSet 0xFF d.str.bind l target, rebinds := tabSet none d.str.rebinds l (some { target := target, asked := asked || rebindAsked d l }) } }

/-- The rebind of a logical core whose target is fenced, with no spare left, ends: GO clears without DONE
(DESIGN CHOICE, notes/assumptions/82.md). -/
def dropRebind (d : Dev) (l : Nat) : Dev :=
  { d with str := { d.str with rebindGo := d.str.rebindGo && !rebindAsked d l, rebinds := tabSet none d.str.rebinds l none } }

/-- A turn of a basin's jobs is marked FAR when the basin becomes FAR before the flip (R114). -/
def markFar (d : Dev) (b : Nat) : Dev :=
  if !d.far b then d else
    [4 * b, 4 * b + 1, 4 * b + 2, 4 * b + 3].foldl (fun d s =>
      match (d.job s).turn with
      | none => d
      | some t =>
        if t.far || (d.tslot s).phase == .folding then d else
          let w := ((turnKind d s t.card).map (·.wcetFar)).getD t.wcet
          d.modJob s (fun j => { j with turn := some { t with far := true, wcet := w }, lastWcet := BitVec.ofNat 32 w })) d

/-- STR_REBIND (R33): accepted when the logical core's core is fenced and the target is unfenced, unbound and no spare of
another basin; otherwise REFUSED with STR_BASIN_OVERLAP. DONE, REFUSED and REASON of an earlier request stay as they are
(DESIGN CHOICE, notes/assumptions/83.md). -/
def strRebind (d : Dev) (l p : Nat) : Dev :=
  let r := d.coreRec l
  let sp := tabGet 0xFF d.str.spare p
  let ok := decide (l < 144) && !(r.basin == 0xFF) && decide (d.phys l < 144) && d.fenced (d.phys l)
    && decide (p < 144) && !d.fenced p && d.logical p == 0xFF && (sp == 0xFF || sp == r.basin)
  let d := { d with str := { d.str with rebindLog := BitVec.ofNat 8 l, rebindPhys := BitVec.ofNat 8 p } }
  if ok then startRebind { d with str := { d.str with rebindGo := true } } l p true
  else { d with str := { d.str with rebindRefused := true, rebindReason := 0x04, rebindGo := false } }

def execStrRebind (logical physical : Byte) (s : State) : Out :=
  onDev true (fun _ d => strRebind d logical.toNat physical.toNat) s

/-- A job in WAIT_BIND runs once its cores are bound (R33, R94): with its state still on them it holds the basin again; otherwise the
basin is restored to it. PARKED takes it off again (R110). -/
def leaveWaitBind (d : Dev) (b s : Nat) : Dev :=
  let d := d.modJob s (fun j => { j with state := .running })
  if (heldCores d s).isEmpty then enterBasin d b s
  else
    let d := (loadStreams d s).modBasin b (fun x => { x with holder := some s, sliceStart := d.clp.elapsed })
    let d := if (d.job s).parked then preempt d b else d
    d

/-- A job of a basin whose cores are all bound again: one in WAIT_BIND runs; a domain turn asks its root for the replay (R75); the
holder's discarded turn starts again (R74). -/
def resumeJob (d : Dev) (b s : Nat) : Dev :=
  let free := (d.basin b).holder.isNone && (d.basin b).entering.isNone && (d.basin b).leaving.isNone
  let d := if (d.job s).state == .waitBind && free then leaveWaitBind d b s else d
  let d := if (d.job s).askReplay then sendReplay (d.modJob s (fun j => { j with askReplay := false })) s else d
  if (d.job s).restart && holds d s then restartTurn d s else d

/-- What follows the rebind of a core once every core of its basin is bound (R33, R74, R75). The commands of a holder's rebound core
are loaded in any case: they serve its next turn. -/
def afterRebind (d : Dev) (b : Nat) : Dev :=
  if unbound d b || rebinding d b || d.flt.stopActive then d else
    let d := match (d.basin b).holder with
      | some s => loadStreams d s
      | none => d
    let d := [4 * b, 4 * b + 1, 4 * b + 2, 4 * b + 3].foldl (fun d s => resumeCard (resumeJob d b s) s) d
    reschedule (noteRunning d) b

/-- REBIND_COMPLETE (R32, R33): zero fill and preloads are done; DONE is set when STR_REBIND asked, and the job goes on. -/
def rebindComplete (d : Dev) (l : Nat) : Dev :=
  match tabGet none d.str.rebinds l with
  | none => d
  | some r =>
    let d := fillCore { d with str := { d.str with rebinds := tabSet none d.str.rebinds l none } } l
    let d := if r.asked then { d with str := { d.str with rebindDone := true, rebindGo := false } } else d
    let d := markFar d (d.coreRec l).basin
    afterRebind d (d.coreRec l).basin

def execRebindComplete (logical : Nat) (s : State) : Out := onDev (isCore logical) (fun _ d => rebindComplete d logical) s

/-! ## Core hardware faults (R32, R74, R115, R454, R460) -/

/-- The reason code of a core hardware fault. -/
def coreFaultCode (f : CoreFault) : Byte :=
  match f with
  | .sram => 0xB0 | .arrayCheck => 0xB1 | .lockstep => 0xB2

/-- A core fault meets a job's open turn: in PHASE RUNNING or ENDING its writes are discarded, to start again once its cores can
(R74); a turn of a domain stops until the root's REPLAY (R75). A staged turn commits, and one that is being aborted does not replay. -/
def spoilTurn (d : Dev) (s : Nat) : Dev :=
  let t := d.tslot s
  if (d.job s).turn.isNone || t.aborting.isSome || !(t.phase == .running || t.phase == .ending) then d
  else if t.domain then (stopCores d s).modJob s (fun j => { j with askReplay := true })
  else discardTurn d s

/-- A job that a core fault meets in its pre-emption or its restore loses its save: its open turn replays when it next holds the
basin, and without one that can replay its cores start zero-filled and with their preloads (R115). It is SAVED, or in WAIT_BIND when
its core has no spare. -/
def spoilSave (d : Dev) (b : Nat) (state : JobState) : Dev :=
  let x := d.basin b
  match x.leaving.orElse (fun _ => x.entering) with
  | none => d
  | some s =>
    let d := spoilTurn d s
    let d := if (d.job s).askReplay then (discardTurn d s).modJob s (fun j => { j with askReplay := true }) else d
    let d := clearCores (dropSaves d s) s
    let d := d.modJob s (fun j => { j with state := state, blank := j.blank || !j.restart, parked := j.parked || j.preemptReq, preemptReq := false })
    noteRunning (giveBasin (d.setBasin b { x with leaving := none, entering := none, grace := false, saving := false, restoring := false }) b)

/-- What the fence of the core bound to logical core `l` does to the basin's jobs (R32, R74, R94). While a structure is being applied
the core is rebound once that ends (R46). -/
def fenceBound (d : Dev) (l : Nat) : Dev :=
  let b := (d.coreRec l).basin
  if d.str.state == .applying then d.modCore (d.phys l) (fun c => { c with active := false }) else
  match chooseSpare d l with
  | some p =>
    let d := startRebind d l p false
    if d.flt.stopActive then d else
      match (d.basin b).holder with
      | some s => spoilTurn d s
      | none => spoilSave d b .saved
  | none =>
    let d := dropRebind (d.modCore (d.phys l) (fun c => { c with active := false })) l
    if d.flt.stopActive then d else
      match (d.basin b).holder with
      | some s =>
        let d := (stopCores (spoilTurn d s) s).modJob s (fun j => { j with state := .waitBind })
        noteRunning (d.modBasin b (fun x => { x with holder := none }))
      | none => spoilSave d b .waitBind

/-- CORE_HW_FAULT (R454): the physical core is fenced until reset, counted and logged; work bound to it is rebound. -/
def coreHwFault (d : Dev) (core : Nat) (f : CoreFault) (unit : BitVec 4) : Dev :=
  if d.fenced core then d else
    let l := d.logical core
    let slot := match (d.core core).slot with
      | some s => s
      | none => 0xFF
    let info : FltInfo := { valid := true, cls := 2, reason := coreFaultCode f, core := BitVec.ofNat 8 core, slot := BitVec.ofNat 8 slot }
    let d := logAppend d info (BitVec.ofNat 32 (l * 0x200000 + unit.toNat))
    let d := { d with flt := { d.flt with fenced := d.flt.fenced ||| (1#144 <<< core), fenceSeen := true, coreFences := sat16 d.flt.coreFences } }
    if l == 0xFF then d else fenceBound d l

def execCoreHwFault (core : Nat) (f : CoreFault) (unit : BitVec 4) (s : State) : Out :=
  onDev (isCore core) (fun _ d => coreHwFault d core f unit) s

/-! ## Applying a structure (R44 step 5, R58, R84) -/

/-- The frames of every valid basin's pool, lowest first. -/
def poolFrames (r : BasinRec) : List Nat :=
  if r.valid then (List.range r.shadowFrames).map (· + r.shadowBase / 0x10000) else []

/-- FREE_STACK_SETUP (R58): MAPPED and PINNED frames keep state and count, every other frame of a pool is FREE and pushed,
every other frame is OUTSIDE, and the held lists are empty. -/
def setupFrames (d : Dev) : Dev :=
  let keep := d.trn.frames.filter (fun e => e.2.pinned || e.2.state == .mapped)
  let kept (f : Nat) : Bool := keep.any (fun e => e.1 == f)
  let d := { d with trn := { d.trn with frames := keep, freeStack := [] } }
  let d := (List.range 64).foldl (fun d j => d.modTslot j (fun t => { t with held := [] })) d
  (List.range 16).foldl (fun d b => pushFrames d b ((poolFrames (d.basinRec b)).filter (fun f => !kept f))) d

/-- What other blocks do at a structure load: ports exchange IDENT anew, the time master's route is looked up, and measurement 5
takes in the structure hash (spec/13_koliz_fabric.md R328; R86; spec/16_security.md R445). -/
def applyOthers (d : Dev) : Dev :=
  let h := match d.str.inForce with
    | some s => s.hash
    | none => []
  masterRoute (reident { d with sec := { d.sec with history := sha384 (d.sec.history ++ h) } })

/-- What a core keeps over a structure load: its bound counts, until reset (spec/08_vector_engine.md R219, spec/17_faults_and_counters.md R464). -/
def keptCore (c : CoreSt) : CoreSt := { boundHit := c.boundHit, boundHits := c.boundHits }

/-- Every core without a job's state. -/
def emptyCores (l : Tab CoreSt) : Tab CoreSt :=
  l.filterMap (fun e => if keptCore e.2 = {} then none else some (e.1, keptCore e.2))

/-- A rebind that STR_REBIND asked for is under way. -/
def anyAsked (d : Dev) : Bool := d.str.rebinds.any (fun e => match e.2 with
  | some r => r.asked
  | none => false)

/-- STR_APPLY_DONE (R44 step 6): the structure is in force. STR_REASON and STR_DETAIL become 0 (R47; DESIGN CHOICE,
notes/assumptions/84.md); a rebind that STR_REBIND asked for is done with the load. DEV_STATE becomes STRUCTURED, unless a thermal stop
came during the load (spec/18_power_and_package.md R476). -/
def strApplyDone (d : Dev) : Dev :=
  match d.str.state, d.str.candidate with
  | .applying, some s =>
    let sameCadence := s.num == d.clp.num && s.den == d.clp.den
    let bind := tabOfList 0xFF ((List.range 144).map (fun l => ((s.bound.find? (fun e => e.2 == l)).map (·.1)).getD 0xFF))
    let asked := anyAsked d
    let d := { d with str := { d.str with state := .loaded, inForce := some s, candidate := none, bind := bind, spare := s.spares, rebinds := [], rebindDone := d.str.rebindDone || asked, rebindGo := d.str.rebindGo && !asked, reason := 0, detail := 0, protectFixed := true, pinsafe := s.pinsafe, loadCount := sat16 d.str.loadCount } }
    let d := { d with mem := tabDrop d.mem sramBase cmdBase, poison := tabDrop d.poison (sramBase / 64) (cmdBase / 64), cores := emptyCores d.cores, sems := [], saved := [] }
    let d := setupFrames d
    let d := if sameCadence then d else
      let d := unlock' d
      { d with clp := { d.clp with num := s.num, den := s.den } }
    let d := (List.range 12).foldl (fun d k => d.modStack k (fun x => { x with threshold := BitVec.ofNat 16 s.threshold })) d
    let d := s.preloads.foldl copyPreload d
    let d := applyOthers { d with sys := { d.sys with state := if d.sys.state == .ready then .structured else d.sys.state } }
    (List.range 144).foldl (fun d l =>
      if !((d.coreRec l).basin == 0xFF) && d.fenced (d.phys l) then
        (match chooseSpare d l with
         | some p => startRebind d l p false
         | none => d)
      else d) d
  | _, _ => d
where
  /-- LOCKED clears at a change of cadence (R41, R84); another NUM and DEN of the same ratio is one too (DESIGN CHOICE,
  notes/assumptions/90.md). -/
  unlock' (d : Dev) : Dev :=
    if d.clp.locked then
      { d with clp := { d.clp with locked := false, good := 0, unlockSeen := true, unlockCount := sat16 d.clp.unlockCount } }
    else { d with clp := { d.clp with good := 0 } }

def execStrApplyDone (s : State) : Out := onDev true (fun _ d => strApplyDone d) s

end Sys2Proof.Machine
end

