-- ==== Sys2Proof/Machine/Stops.lean ====
section
/-! DEFINITION. The end of a device stop and of a thermal stop, CLEAR_STOP, and the commit commands of a turn
(spec/17_faults_and_counters.md R455 to R458, spec/12_hbm.md R315, spec/03_turns_and_fences.md R68 to R76). -/

namespace Sys2Proof.Machine

/-- Some slot still has a decided turn to flip, or a flipped turn to fold (R76). -/
def decidedLeft (d : Dev) : Bool :=
  d.trn.slots.any (fun e => e.2.phase == .decided)
def foldsLeft (d : Dev) : Bool :=
  d.trn.slots.any (fun e => e.2.phase == .folding)

/-- One job at the end of a stop (R192, R214, R455, R456): a checking slot is REFUSED, an admitted one LOST, its open turn
discarded with a record; the job that raised the fault keeps its own code. -/
def loseJob (reason : Byte) (cause : Nat → Bool) (d : Dev) (slot : Nat) : Dev :=
  let j := d.job slot
  let code := if cause slot then j.reason else reason
  match j.state with
  | .idle => d
  | .refused => d
  | .lost => d
  | .checking => d.modJob slot (fun j => { j with state := .refused, reason := reason, detail := 0 })
  | _ =>
    let flipped := (d.tslot slot).phase == .folding
    let d := if flipped then d else endTurn d slot .discarded code
    let d := clearCores (dropOwners d slot) slot
    d.modJob slot (fun j => { j with state := .lost, reason := code, abandon := false, preemptReq := false })

/-- Tensor-mover requests the fabric has not answered are counted as timeouts (R455 step 3). -/
def loseRequests (d : Dev) : Dev :=
  let mine (r : Req) : Bool := match r.origin with
    | .mover _ _ _ _ _ _ => true
    | .host _ _ _ => false
  let lost := d.klz.requests.filter mine
  let d := { d with klz := { d.klz with requests := d.klz.requests.filter (fun r => !mine r) } }
  lost.foldl (fun d _ => { d with klz := { d.klz with timeouts := sat16 d.klz.timeouts, timeoutSeen := true } }) d

/-- Every basin is left without a holder. -/
def emptyBasins (d : Dev) : Dev :=
  { d with sch := { d.sch with basins := d.sch.basins.filterMap (fun e =>
      let b := { e.2 with holder := none, leaving := none, entering := none, grace := false, saving := false, restoring := false }
      if b = {} then none else some (e.1, b)) } }

/-- Steps 3 to 5 of R455. -/
def finishStop (d : Dev) (reason : Byte) (st : DevState) : Dev :=
  let d := loseRequests d
  let d := (List.range 64).foldl (loseJob reason (fun k => d.flt.faulted.contains k)) d
  let d := emptyBasins d
  { d with
    flt := { d.flt with stopActive := false, thermal := false, faulted := [], stopSeen := true, stops := sat16 d.flt.stops }
    sys := { d.sys with state := st } }

/-- DEVICE_STOP_COMPLETE (R455): once every decided turn has flipped and every flipped turn has folded. -/
def deviceStopComplete (d : Dev) : Dev :=
  if !d.flt.stopActive || d.flt.thermal || decidedLeft d || foldsLeft d then d
  else finishStop d 0xA5 .stopped

def execDeviceStopComplete (s : State) : Out := onDev true (fun _ d => deviceStopComplete d) s

/-- The reason a thermal stop gives the jobs it loses (R456): that of the sample that started it, THM_HBM_STOP or THM_DIE_STOP. -/
def thermalReason (d : Dev) : Byte := d.flt.thermReason

/-- THERMAL_STOP_COMPLETE (R315 step 3): stacks enter SELF_REFRESH and DEV_STATE becomes THERMAL; a fold the self-refresh
interrupts stays pending (R76). -/
def thermalStopComplete (d : Dev) : Dev :=
  if !d.flt.thermal || decidedLeft d then d
  else
    let r := thermalReason d
    let pending := foldsLeft d
    let d := finishStop d r .thermal
    let d := (List.range 12).foldl (fun d k => d.modStack k (fun x => if x.state == .ready then { x with state := .selfRefresh } else x)) d
    { d with weir := { d.weir with thermalStop := true }, trn := { d.trn with foldPending := pending } }

def execThermalStopComplete (s : State) : Out := onDev true (fun _ d => thermalStopComplete d) s

/-- CLEAR_STOP is honoured (R457). -/
def clearStopOk (d : Dev) : Bool :=
  !d.flt.stopActive && !d.flt.thermal &&
  (match d.sys.state with
   | .stopped => true
   | .thermal => (List.range 12).all (fun k => decide ((d.stack k).temp < 85))
       && (List.range 4).all (fun k => decide ((tabGet {} d.sys.dies k).temp < 95))
   | _ => false)

/-- CLEAR_STOP (R457): finishes any pending fold, and DEV_STATE becomes STRUCTURED or READY; ignored otherwise. -/
def clearStop (d : Dev) : Dev :=
  if !clearStopOk d then { d with flt := { d.flt with clearRefused := true } }
  else
    let d := (List.range 12).foldl (fun d k => d.modStack k (fun x => if x.state == .selfRefresh then { x with state := .ready } else x)) d
    let d := (List.range 64).foldl (fun d j => if (d.tslot j).phase == .folding then foldTurn d j else d) d
    let st : DevState := if d.str.inForce.isSome then .structured else .ready
    { d with trn := { d.trn with foldPending := false }, sys := { d.sys with state := st } }

def execClearStop (s : State) : Out := onDev true (fun _ d => clearStop d) s

/-! ## Commit commands (R68, R69, R71) -/

/-- FENCE.D of the slot's turn is complete: every core of the job has passed TURN.END and its operations are drained. -/
def turnDrained (d : Dev) (slot : Nat) : Bool :=
  (jobCores d slot).all (fun l =>
    (d.core (d.phys l)).slot == some slot && (d.core (d.phys l)).ctx.wait == .ended && coreDrained d (d.phys l)) && enginesDrained d slot

/-- The turn replays or is being aborted, or its job waits for a core: it does not stage (R74, R75, R77). -/
def turnHeld (d : Dev) (slot : Nat) : Bool :=
  let j := d.job slot
  j.restart || j.askReplay || j.state == .waitBind || (d.tslot slot).aborting.isSome

/-- COMMIT_STAGE_DONE (R68, R69 step 5): staging after FENCE.D. -/
def commitStageDone (d : Dev) (slot : Nat) : Dev :=
  if !((d.tslot slot).phase == .ending) || !turnDrained d slot || turnHeld d slot || d.flt.stopActive then d
  else
    let d := stageMoves d slot
    if (d.tslot slot).domain then ownArrival d slot else d

def execCommitStageDone (slot : Nat) (s : State) : Out := onDev (isSlot slot) (fun _ d => commitStageDone d slot) s

/-- COMMIT_FLIP (R68): a staged device turn flips at a commit slot; a decided turn at S, or late on a decision after S. -/
def commitFlip (d : Dev) (slot : Nat) : Dev :=
  let t := d.tslot slot
  match t.phase with
  | .staged => if t.domain || d.flt.stopActive || !(d.clp.now.toNat % 4096 == 0) then d else flipTurn d slot false
  | .decided => match t.decided with
    | some sl => if d.clp.now < sl then d else flipTurn d slot false
    | none => d
  | _ => d

def execCommitFlip (slot : Nat) (s : State) : Out := onDev (isSlot slot) (fun _ d => commitFlip d slot) s

/-- COMMIT_FOLD_DONE (R68, R69 steps 7 and 8): the fold ends and the record is written; the basin may change hands. -/
def commitFoldDone (d : Dev) (slot : Nat) : Dev :=
  if !((d.tslot slot).phase == .folding) || d.trn.foldPending then d
  else reschedule (foldTurn d slot) (basinOf slot)

def execCommitFoldDone (slot : Nat) (s : State) : Out := onDev (isSlot slot) (fun _ d => commitFoldDone d slot) s

/-- TRN_FLUSH (R54, R81): ignored, with FLUSH_IGNORED, while the slot has an open turn. -/
def trnFlush (d : Dev) (slot : Nat) : Dev :=
  if (d.job slot).turn.isSome then { d with trn := { d.trn with flushIgnored := true } }
  else d.modTslot slot (fun t => { t with flush := true })

def execTrnFlush (slot : Nat) (s : State) : Out := onDev (isSlot slot) (fun _ d => trnFlush d slot) s

/-- TRN_FLUSH_DONE (R54): the slot's translations are gone; FLUSH clears. -/
def execTrnFlushDone (slot : Nat) (s : State) : Out :=
  onDev (isSlot slot) (fun _ d => d.modTslot slot (fun t => { t with flush := false })) s

/-- CNT_CLEAR (R465): every performance counter is 0 and every OVF clear. -/
def execCntClear (s : State) : Out := onDev true (fun _ d => { d with cnt := { d.cnt with values := [] } }) s

/-- CLEAR_PEAK (R491): every PEAK and MAX telemetry field is cleared. -/
def clearPeak (d : Dev) : Dev :=
  { d with sys := { d.sys with peak := 0, dies := d.sys.dies.filterMap (fun e =>
      let x : DieTemp := { e.2 with max := none }
      if x = {} then none else some (e.1, x)) } }

def execClearPeak (s : State) : Out := onDev true (fun _ d => clearPeak d) s

/-- WEIR_CLEAR_MAX (R319): every MAX field becomes its stack's current level. -/
def weirClearMax (d : Dev) : Dev :=
  (List.range 12).foldl (fun d k => d.modStack k (fun x => { x with maxLevel := x.level })) d

def execWeirClearMax (s : State) : Out := onDev true (fun _ d => weirClearMax d) s

end Sys2Proof.Machine
end

