-- ==== Sys2Proof/Machine/Hbm.lean ====
section
/-! DEFINITION. HBM stacks: scrub, errors, rows, remaps, retraining and training (spec/12_hbm.md R302 to R311), the Weir and
thermal trips (R313 to R315, spec/18_power_and_package.md R485). -/

namespace Sys2Proof.Machine

/-- The state after reset or loss of power: every register at its reset value, the pins as they stand. A dead pin of a stack stays
dead, and the repair records that wait are still written (notes/assumptions/25.md). -/
def clearDev (d : Dev) : Dev :=
  { hbm := d.hbm.foldl (fun t e => tabSet {} t e.1 { deadPins := e.2.deadPins }) []
    repairsDue := d.repairsDue
    sys := { vinMv := d.sys.vinMv, rails := d.sys.rails, powerOk := d.sys.powerOk, refclkAAbsent := d.sys.refclkAAbsent, refclkBAbsent := d.sys.refclkBAbsent }
    clp := { timeClk := d.clp.timeClk }
    free := d.free }

/-- A trip (R485): THERMTRIP_N falls and every internal clock stops; nothing answers until reset. -/
def trip (d : Dev) : Dev :=
  let e := clearDev d
  { e with sys := { e.sys with tripped := true, thermtripN := false, resetN := d.sys.resetN } }

/-! ## Scrub and repair records (R306 to R308) -/

/-- An error is in a burst when a scrub comes to it. -/
def plantErr (d : Dev) (unit : Nat) : CellErr → Dev
  | .correctable p => strikeBurst d unit false p
  | .uncorrectable p => strikeBurst d unit true p

/-- The correctable errors of the bursts that satisfy `p` have been written back corrected. -/
def healBursts (d : Dev) (p : Nat → Bool) : Dev :=
  { d with upsets := d.upsets.filter (fun e => !(p e.1 && (match e.2 with | some (.correctable _) => true | _ => false))) }

/-- HBM_SCRUB (R306): every burst of the slot is read, and written back corrected; the scrub pauses at Weir level 2 or higher. -/
def hbmScrub (d : Dev) (s pc slot : Nat) (errs : List (Nat × CellErr)) : Dev :=
  let x := d.stack s
  if !(x.state == .ready) || !x.scrub || decide (2 ≤ x.level) || decide (slotsPerPc d ≤ slot) then d
  else
    let u0 := ((64 * s + pc) * 294912 + slot) * 64
    let d := errs.foldl (fun d e => if e.1 < 64 then plantErr d (u0 + e.1) e.2 else d) d
    healBursts ((List.range 64).foldl (fun d b => meetUnit d (u0 + b)) d) (fun u => u / 64 == u0 / 64)

def execHbmScrub (stack pc slot : Nat) (errs : List (Nat × CellErr)) (s : State) : Out :=
  onDev (is12 stack && isPc pc && decide (slot < 294912)) (fun _ d => hbmScrub d stack pc slot errs) s

/-- The service processor writes the repair records of a stack that wait; one that finds the area of 256 full is dropped, and
REPAIR_FULL is set (R308). -/
def flushStack (acc : Nv × Dev) (s : Nat) : Nv × Dev :=
  let r := (tabGet [] acc.2.repairsDue s).foldl (fun (acc : Nv × Dev) r =>
    let l := tabGet [] acc.1.repairs s
    if l.contains r then acc
    else if 256 ≤ l.length then (acc.1, acc.2.modStack s (fun x => { x with repairFull := true }))
    else ({ acc.1 with repairs := tabSet [] acc.1.repairs s (l ++ [r]) }, acc.2)) acc
  (r.1, { r.2 with repairsDue := tabSet [] r.2.repairsDue s [] })

/-- The service processor writes what waits for it (R308; notes/assumptions/25.md). -/
def flushRepairs (nv : Nv) (d : Dev) : Nv × Dev :=
  if d.repairsDue.isEmpty then (nv, d) else (List.range 12).foldl flushStack (nv, d)

/-! ## Remaps and retraining (R307, R311) -/

/-- What a hold queue holds no longer goes on in order; the movers' pieces take effect now, and the cores that a full queue had
refused offer theirs again. -/
def releaseHold (d : Dev) (s : Nat) : Dev :=
  let x := d.stack s
  let freed := x.hold.filter (fun h => !cellHeld d h.cell)
  let d := d.setStack s { x with hold := x.hold.filter (fun h => cellHeld d h.cell) }
  let d := freed.foldl (fun d h => match h.piece with
    | some q => afterAnswer (heldPieceRuns d q) q.slot q.core
    | none => d) d
  ((List.range 144).filter (fun c => (d.core c).tm.any (fun t => !t.todo.isEmpty))).foldl drainCore d

/-- HBM_REMAP_START (R311): a waiting remap of the pseudo-channel starts once the spacing allows. -/
def hbmRemapStart (d : Dev) (s pc : Nat) : Dev :=
  let x := d.stack s
  match x.remapQueue.find? (fun r => r.pc == pc) with
  | none => d
  | some r => if remapAllowed d x pc && x.state == .ready then d.setStack s (startRemap d x r) else d

def execHbmRemapStart (stack pc : Nat) (s : State) : Out := onDev (is12 stack && isPc pc) (fun _ d => hbmRemapStart d stack pc) s

/-- HBM_REMAP_DONE (R307): the corrected copy of the row stands in its spare and the row's bank is released; poisoned bursts stay
poisoned. -/
def hbmRemapDone (d : Dev) (s pc : Nat) : Dev :=
  let x := d.stack s
  let gone := x.remapping.filter (fun r => r.pc == pc)
  let d := healBursts d (fun u => stackOfCell (64 * u) == s && gone.contains (rowAt (pcOfCell (64 * u)) (u / 64 % 294912)))
  releaseHold (d.setStack s { x with remapping := x.remapping.filter (fun r => !(r.pc == pc)) }) s

def execHbmRemapDone (stack pc : Nat) (s : State) : Out :=
  onDev (is12 stack && isPc pc) (fun _ d => hbmRemapDone d stack pc) s

/-- HBM_RETRAIN_START (R311): one pseudo-channel at a time, no sooner than 10 ms after its last unless link errors force it. -/
def hbmRetrainStart (d : Dev) (s pc : Nat) (forced : Bool) : Dev :=
  let x := d.stack s
  let last := tabGet 0 x.lastRetrain pc
  let lastR := tabGet 0 x.lastRemap pc
  let early := !(last == 0) && decide (d.clp.elapsed + 1 - last < tenMs d)
  let close := !(lastR == 0) && decide (d.clp.elapsed + 1 - lastR < tenMs d)
  if !(x.state == .ready) || x.retrainPc.isSome || (!forced && (early || close)) then d
  else d.setStack s { x with retrainPc := some pc, retrains := sat16 x.retrains, retrainsEarly := if early then sat16 x.retrainsEarly else x.retrainsEarly, lastRetrain := tabSet 0 x.lastRetrain pc (d.clp.elapsed + 1) }

def execHbmRetrainStart (stack pc : Nat) (forced : Bool) (s : State) : Out :=
  onDev (is12 stack && isPc pc) (fun _ d => hbmRetrainStart d stack pc forced) s

/-- HBM_RETRAIN_DONE (R311): the retrain ends and the hold queue drains in order. -/
def execHbmRetrainDone (stack : Nat) (s : State) : Out :=
  onDev (is12 stack) (fun _ d => releaseHold (d.modStack stack (fun x => { x with retrainPc := none })) stack) s

/-- HBM_TRAIN_GROUP_START (R310): four stacks begin training. -/
def hbmTrainGroupStart (d : Dev) (g : Nat) : Dev :=
  if !(d.sys.state == .boot || d.sys.state == .train) then d else
    [4 * g, 4 * g + 1, 4 * g + 2, 4 * g + 3].foldl (fun d k => d.modStack k (fun x => if x.state == .off then { x with state := .training } else x)) d

def execHbmTrainGroupStart (group : Nat) (s : State) : Out :=
  onDev (decide (group < 3)) (fun _ d => hbmTrainGroupStart d group) s

/-- The recorded rows of a stack are repaired as it trains: by the stack while the row's bank has repair resources, else by a
controller remap while the pseudo-channel's spares last; a record that finds neither stays (R308; notes/assumptions/25.md).
The spares used, the records left, and how many hard repairs were applied (R318). -/
def applyRepairs (free : Nat) (l : List Row) : Tab Nat × List Row × Nat :=
  l.zipIdx.foldl (fun acc e =>
    if Config.repairTaken (free + e.2) then (acc.1, acc.2.1, acc.2.2 + 1)
    else if tabGet 0 acc.1 e.1.pc < 16 then (tabSet 0 acc.1 e.1.pc (tabGet 0 acc.1 e.1.pc + 1), acc.2.1, acc.2.2)
    else (acc.1, acc.2.1 ++ [e.1], acc.2.2)) ([], [], 0)

/-- HBM_TRAIN_DONE (R303, R308, R309): an attempt ends; success repairs the recorded rows, zero-fills every cell and makes the
stack READY; the third failure makes it FAILED. -/
def hbmTrainDone (nv : Nv) (d : Dev) (s : Nat) (ok : Bool) : Nv × Dev :=
  let x := d.stack s
  if !(x.state == .training) then (nv, d)
  else if ok then
    let lo := 64 * s * 294912 * 4096
    let hi := 64 * (s + 1) * 294912 * 4096
    let f := flushStack (nv, d) s
    let l := tabGet [] f.1.repairs s
    let r := applyRepairs f.2.free l
    let d := { f.2 with mem := tabDrop d.mem lo hi, poison := tabDrop d.poison (lo / 64) (hi / 64), upsets := tabDrop d.upsets (lo / 64) (hi / 64), free := f.2.free + l.length }
    ({ f.1 with repairs := tabSet [] f.1.repairs s r.2.1 },
     d.modStack s (fun y => { y with state := .ready, applied := BitVec.ofNat 16 r.2.2, attempts := 0, sparesUsed := r.1 }))
  else (nv, d.setStack s { x with attempts := x.attempts + 1, state := if 3 ≤ x.attempts + 1 then .failed else .training })

def execHbmTrainDone (stack : Nat) (ok : Bool) (s : State) : Out := onBoth (is12 stack) (fun nv d => hbmTrainDone nv d stack ok) s

/-! ## The Weir (R313, R314) -/

/-- The threshold of a level, lowered by WEIR_CTL.OFFSET. -/
def weirThreshold (d : Dev) (level : Nat) : Int :=
  (match level with | 1 => 80 | 2 => 85 | 3 => 90 | _ => 95) - (d.weir.offset.toNat : Int)

/-- The highest level whose threshold a temperature reaches. -/
def weirTarget (d : Dev) (t : Int) : Nat :=
  if weirThreshold d 4 ≤ t then 4 else if weirThreshold d 3 ≤ t then 3 else if weirThreshold d 2 ≤ t then 2
  else if weirThreshold d 1 ≤ t then 1 else 0

/-- WEIR_MAX of every open turn that has not flipped is at least `l` (R314; spec/04_clepsydra_and_scheduling.md R100). -/
def noteWeir (d : Dev) (l : Nat) : Dev :=
  { d with jobs := d.jobs.map (fun e => (e.1, { e.2 with turn := e.2.turn.map (fun t =>
      if (d.tslot e.1).phase == .folding then t else { t with weirMax := max t.weirMax l }) })) }

/-- One stack's sample. -/
def sampleStack (d : Dev) (s : Nat) (t : Int) : Dev :=
  let x := d.stack s
  let t := clampInt (-128) 127 t
  let g := weirTarget d t
  if x.level < g then
    let d := d.setStack s { x with temp := t, level := g, maxLevel := max x.maxLevel g, cool := 0 }
    noteWeir { d with weir := { d.weir with events := sat16 d.weir.events, lastEvent := d.clp.now } } g
  else if 0 < x.level && decide (t ≤ weirThreshold d x.level - 3) then
    if 7 ≤ x.cool then d.setStack s { x with temp := t, level := x.level - 1, cool := 0 }
    else d.setStack s { x with temp := t, cool := x.cool + 1 }
  else d.setStack s { x with temp := t, cool := 0 }

/-- WEIR_SAMPLE (R313 to R315, R485): every stack's temperature; 105 °C stops the device and 110 °C trips it. -/
def weirSample (d : Dev) (temps : List Int) : Dev :=
  if d.sys.tripped || d.sys.state == .reset then d
  else if temps.any (fun t => decide (110 ≤ t)) then trip d
  else
    let d := ((List.range 12).zip temps).foldl (fun d e => sampleStack d e.1 e.2) d
    if (temps.take 12).any (fun t => decide (105 ≤ t)) then thermalStop d 0xC0 else d

def execWeirSample (temps : List Int) (s : State) : Out := onDev true (fun _ d => weirSample d temps) s

/-! ## Telemetry (R484, R491) -/

/-- A die's reading. -/
def dieSample (x : DieTemp) (t : Int) : DieTemp := { temp := t, max := some (max t (x.max.getD t)) }

/-- DEV_TELEMETRY_SAMPLE (R491): VIN in mV, current in mA, power in W and die temperatures in °C; 105 °C stops the device and
115 °C trips it. -/
def devTelemetrySample (d : Dev) (vin iin watts : Nat) (dies : List Int) : Dev :=
  if d.sys.tripped || d.sys.state == .reset then d
  else if dies.any (fun t => decide (115 ≤ t)) then trip d
  else
    let w := BitVec.ofNat 16 (min watts 0xFFFF)
    let y := d.sys
    let d := { d with sys := { y with vin := BitVec.ofNat 16 (min (vin / 10) 0xFFFF), iin := BitVec.ofNat 16 (min (iin / 10) 0xFFFF), watts := w, peak := if y.peak < w then w else y.peak, dieHot := y.dieHot || dies.any (fun t => decide (95 ≤ t)), dies := ((List.range 4).zip dies).foldl (fun t e => tabSet {} t e.1 (dieSample (tabGet {} t e.1) (clampInt (-128) 127 e.2))) y.dies } }
    if (dies.take 4).any (fun t => decide (105 ≤ t)) then thermalStop d 0xC1 else d

def execDevTelemetrySample (vin iin watts : Nat) (dies : List Int) (s : State) : Out :=
  onDev true (fun _ d => devTelemetrySample d vin iin watts dies) s

end Sys2Proof.Machine
end

