-- ==== Sys2Proof/Machine/Power.lean ====
section
/-! DEFINITION. The supply, the pins, reset and start-up (spec/18_power_and_package.md R473 to R478, R490, R491). -/

namespace Sys2Proof.Machine

/-- VIN_APPLY (R474): VIN rises past the undervoltage lock-out; the converters start with POWER_OK low. -/
def vinApply (d : Dev) (mv : Nat) : Dev :=
  match d.sys.rails with
  | .off => { d with sys := { d.sys with vinMv := mv, rails := .starting, powerOk := false } }
  | _ => { d with sys := { d.sys with vinMv := mv } }

def execVinApply (mv : Nat) (s : State) : Out := onPins (fun _ d => vinApply d mv) s

/-- POWER_GOOD (R474): every rail is in regulation and POWER_OK is released. -/
def powerGood (d : Dev) : Dev :=
  match d.sys.rails with
  | .starting => { d with sys := { d.sys with rails := .good, powerOk := true } }
  | _ => d

def execPowerGood (s : State) : Out := onPins (fun _ d => powerGood d) s

/-- VIN_EXCURSION (R473): VIN leaves the operating range; the GL9 keeps running and VIN_LOW or VIN_HIGH is set. -/
def vinExcursion (d : Dev) (mv : Nat) : Dev :=
  match d.sys.rails with
  | .good => { d with sys := { d.sys with vinMv := mv, vinLow := d.sys.vinLow || decide (mv < 57600), vinHigh := d.sys.vinHigh || decide (70400 < mv) } }
  | _ => { d with sys := { d.sys with vinMv := mv } }

def execVinExcursion (mv : Nat) (s : State) : Out := onPins (fun _ d => vinExcursion d mv) s

/-- Every rail stops and everything volatile is lost; POWER_OK is driven low while VIN is above 20 V (R473, R474). -/
def powerLoss (d : Dev) (mv : Nat) : Dev :=
  let e := clearDev d
  { e with sys := { e.sys with vinMv := mv, rails := .off, powerOk := !(decide (20000 < mv)), resetN := d.sys.resetN } }

/-- VIN_UNDERVOLTAGE (R473). -/
def execVinUndervoltage (mv : Nat) (s : State) : Out := onPins (fun _ d => powerLoss d mv) s

/-- VIN_OVERVOLTAGE (R473). -/
def execVinOvervoltage (mv : Nat) (s : State) : Out := onPins (fun _ d => powerLoss d mv) s

/-- RESET_ASSERT (R478): the GL9 enters RESET; every turn, stream, session and HBM content is lost, fuses and flash stay. -/
def execResetAssert (s : State) : Out := onPins (fun _ d => clearDev d) s

/-- What other blocks take at the effective release: a fresh SEC_CHALLENGE (spec/16_security.md R449) and the board record's
horizon (spec/13_koliz_fabric.md R344). -/
def releaseOthers (nv : Nv) (d : Dev) : Dev :=
  { d with
    sec := { d.sec with challenge := (List.range 32).map (fun i => Config.freeByte (d.free + i)) }
    free := d.free + 32
    klz := { d.klz with requested := nv.board.horizon } }

/-- RESET_RELEASE (R474, R475 step 2): the effective release samples the straps, starts the Clepsydra and the security
controller's boot; without the rails in regulation the GL9 stays in RESET. -/
def resetRelease (nv : Nv) (d : Dev) (bootMode : BitVec 2) (iovSel : Bool) : Dev :=
  match d.sys.state, d.sys.rails with
  | .reset, .good =>
    if d.sys.tripped then d
    else releaseOthers nv { d with sys := { d.sys with state := .boot, resetN := true, bootMode := bootMode, iovSel := iovSel, released := d.clp.elapsed } }
  | _, _ => d

def execResetRelease (bootMode : BitVec 2) (iovSel : Bool) (s : State) : Out :=
  onPins (fun nv d => resetRelease nv d bootMode iovSel) s

/-- Every stack has trained or failed (spec/12_hbm.md R310). -/
def stacksDone (d : Dev) : Bool :=
  (List.range 12).all (fun s => match (d.stack s).state with | .ready => true | .failed => true | _ => false)

/-- DEVICE_READY (R475 step 8, R476): with every stack done, READY_N falls, DEV_STATE becomes READY and DEV_READY_TIME is written. -/
def deviceReady (d : Dev) : Dev :=
  match d.sys.state with
  | .train => if !stacksDone d then d else { d with sys := { d.sys with state := .ready, readyN := false, readyMs := BitVec.ofNat 16 (min (unitsNs d (d.clp.elapsed - d.sys.released) / 1000000) 0xFFFF) } }
  | _ => d

def execDeviceReady (s : State) : Out := onDev true (fun _ d => deviceReady d) s

/-- REFCLK_ABSENT (R490, R491): a reference clock stops or starts. -/
def execRefclkAbsent (b : Bool) (absent : Bool) (s : State) : Out :=
  onPins (fun _ d => if b then { d with sys := { d.sys with refclkBAbsent := absent } } else { d with sys := { d.sys with refclkAAbsent := absent } }) s

end Sys2Proof.Machine
end

