-- ==== Sys2Proof/Machine/ProgCheck.lean ====
section
/-! DEFINITION. ENABLE and the configuration-consistency check of a program image, in the order the GL9 makes it
(spec/04_clepsydra_and_scheduling.md R92, R93, R111; spec/07_loop_nests.md R167 to R193; spec/10_attention.md R260). -/

namespace Sys2Proof.Machine

/-! ## The image (R167 to R170) -/

/-- The section table of a program image (R168). -/
def progRows : List SectionRow :=
  [⟨1, true, fun n => n == 144 * 64⟩, ⟨2, true, fun n => n % 64 == 0⟩, ⟨3, true, fun n => n % 96 == 0 && decide (n ≤ 65535 * 96)⟩,
   ⟨4, true, fun n => n % 80 == 0 && decide (n ≤ 65535 * 80)⟩,
   ⟨5, true, fun n => n % 32 == 0 && decide (32 ≤ n) && decide (n ≤ 256 * 32)⟩, ⟨6, false, fun n => n % 16 == 0⟩,
   ⟨7, false, fun n => n == 16⟩, ⟨8, false, fun n => n % 16 == 0 && decide (32 ≤ n)⟩, ⟨9, true, fun n => n % 32 == 0 && decide (32 ≤ n)⟩]

/-- Where an image's records of a section start and how many of a size there are; an absent section has none. -/
def recordsOf (img : List Byte) (type size : Nat) : Nat × Nat :=
  match findSection img type with
  | some s => (s.1, s.2 / size)
  | none => (0, 0)

/-- An image being checked: its bytes, the device, the slot. -/
structure Check where
  d    : Dev
  slot : Nat
  img  : List Byte

/-- A field of the image. -/
def Check.u (c : Check) (off n : Nat) : Nat := fieldLe c.img off n
/-- The offset of record `i` of a section. -/
def Check.row (c : Check) (type size i : Nat) : Nat := (recordsOf c.img type size).1 + size * i
/-- The count of records of a section. -/
def Check.count (c : Check) (type size : Nat) : Nat := (recordsOf c.img type size).2
/-- Bytes of the image are 0. -/
def Check.zeros (c : Check) (off n : Nat) : Bool := (firstNonzero c.img off n).isNone
/-- The program defines logical core `l`. -/
def Check.defined (c : Check) (l : Nat) : Bool := decide (l < 144) && c.u (c.row 1 64 l) 1 == 1
/-- PATTERN_COUNT of a core. -/
def Check.patCount (c : Check) (l : Nat) : Nat := c.u (c.row 1 64 l + 2) 2

/-- Step 1 of R190: a span that can be verified, the signer's key, the signature and PROGRAM_HASH. -/
def progSpan (d : Dev) (addr : Nat) : Option (List Byte) :=
  if !hbmOk d addr || decide (hbmEnd d < addr % 2 ^ 40 + 12) || d.hbmPoisoned addr 12 then none
  else
    let n := d.hbmNat (addr + 8) 4
    if spanOk d addr n 0x10000000 then some (d.hbmRead addr n) else none

/-- The errors that the reads of step 1 find (spec/12_hbm.md R304). -/
def meetProg (d : Dev) (addr : Nat) : Dev :=
  if !hbmOk d addr || decide (hbmEnd d < addr % 2 ^ 40 + 12) then d
  else meetSpan (meetHbm d addr 12) addr (d.hbmNat (addr + 8) 4) 0x10000000

/-! ## Step 3: header, directory, CORES and streams (R167, R168, R171, R193) -/

def checkProgCore (c : Check) (l : Nat) : Chk Unit :=
  let o := c.row 1 64 l
  match c.u o 1 with
  | 0 => need (c.zeros (o + 1) 63) 0x2E o
  | 1 =>
    need (c.zeros (o + 1) 1 && c.zeros (o + 0x24) 28 && decide (c.u (o + 2) 2 ≤ 256)
      && decide (c.u (o + 4) 4 + c.u (o + 2) 2 ≤ c.count 2 64)
      && !(c.u (o + 0xC) 4 == 0) && c.u (o + 0xC) 4 % 32 == 0 && decide (c.u (o + 0xC) 4 ≤ 262144)
      && decide (c.u (o + 8) 4 + c.u (o + 0xC) 4 ≤ 32 * c.count 9 32)) 0x2E o
  | _ => .error (0x2E, o)

def checkProgHeader (c : Check) : Chk Unit := do
  need (c.u 0 4 == 0x47504C47) 0x2E 0
  need (c.u 4 2 == 1) 0x2E 4
  need (c.u 8 4 % 16 == 0) 0x2E 8
  needZero c.img 0x0F 1 0x2E
  need (c.u 0x14 8 % 0x4000 == 0) 0x2E 0x14
  needZero c.img 0x1C 4 0x2E
  checkDirectory c.img progRows 0x2E
  checkAll (List.range 144) (checkProgCore c)

/-! ## Steps 4 to 6 -/

/-- The structure hash in force. -/
def structHash (d : Dev) : Option (List Byte) := d.str.inForce.map (·.hash)

/-- The nests of the image, by offset. -/
def Check.nests (c : Check) : List Nat := (List.range (c.count 4 80)).map (fun i => c.row 4 80 i)

/-- TABLES.USED. -/
def Check.used (c : Check) : Nat := if c.count 7 16 = 0 then 0 else c.u (c.row 7 16 0) 4

/-- A table slot of the structure in force is loaded. -/
def tableLoaded (d : Dev) (i : Nat) : Bool :=
  match d.str.inForce with
  | some s => !(tabGet [] s.tables i).isEmpty
  | none => false

def checkBindings (c : Check) : Chk Unit := do
  let b := basinOf c.slot
  need (c.d.basinRec b).valid 0x28 0
  checkAll (List.range 144) (fun l => need (!(c.defined l) || (c.d.coreRec l).basin == b) 0x28 (c.row 1 64 l))
  checkAll c.nests (fun o =>
    let l := c.u (o + 2) 2
    let ctl := c.u (o + 1) 1
    need (!(c.defined l) || natBit ctl 2 == arrWide c.d l (ctl % 2)) 0x28 o)

def checkTables (c : Check) : Chk Unit := do
  checkAll (List.range 32) (fun i => need (!(natBit c.used i) || tableLoaded c.d i) 0x2B (c.row 7 16 0))
  if c.count 7 16 = 0 then .ok () else needZero c.img (c.row 7 16 0 + 4) 12 0x2E

/-! ## Step 7: tensors (R174, R175) -/

/-- A format code R118 lists. -/
def knownFmt (f : Nat) : Bool := decide (f ≤ 0xA)

/-- The granule of a tensor in dimension 0, in bytes (R175). -/
def tensorGranule (f : Nat) : Nat := if f ≤ 7 then granule f else 16

/-- The footprint of a tensor, or of its scale plane: start and end (R174). -/
def tensorSpan (t : Tensor) (scales : Bool) : Nat × Nat :=
  let outer (p : Nat → Nat) : Nat := (t.extent 1 - 1) * p 1 + (t.extent 2 - 1) * p 2 + (t.extent 3 - 1) * p 3
  if scales then (t.sbase, t.sbase + outer t.spitch + (t.extent 0 + 31) / 32)
  else (t.base, t.base + outer t.pitch + (t.extent 0 * elemBits t.fmt + 7) / 8)

/-- The descriptor at an offset. -/
def Check.tensor (c : Check) (o : Nat) : Tensor := parseTensor (sliceBytes c.img o 96)

def checkTensor (c : Check) (o : Nat) : Chk Unit := do
  let t := c.tensor o
  let fl := t.flags
  let outside := (List.range 4).filter (fun i => decide (t.rank ≤ i))
  need (knownFmt t.fmt && c.u o 1 / 16 == 0 && decide (t.space ≤ 4) && decide (1 ≤ t.rank) && decide (t.rank ≤ 4) && decide (fl < 16)
    && c.zeros (o + 6) 2 && c.zeros (o + 0x58) 8 && (!(natBit fl 2) || t.space == 0) && natBit fl 3 == isMx t.fmt
    && (!(t.space == 0) || t.logical == 0xFFFF) && outside.all (fun i => decide (t.extent i ≤ 1) && t.pitch i == 0)
    && (natBit fl 3 || t.sbase == 0)) 0x2E o
  need ((List.range 4).all (fun i => !(t.extent i == 0))) 0x24 o
  need (t.extent 0 * elemBits t.fmt % (8 * tensorGranule t.fmt) == 0) 0x22 o
  let al := if t.space == 0 then 64 else 16
  need (t.base % al == 0 && [1, 2, 3].all (fun i => t.pitch i % al == 0)) 0x22 o
  if t.space == 0 then .ok () else
    let size := (partition (c.d.coreRec t.logical) (t.space - 1)).2
    need (c.defined t.logical && decide ((tensorSpan t false).2 ≤ size) && (!(natBit fl 3) || decide ((tensorSpan t true).2 ≤ size))) 0x21 o

/-! ## Step 8: patterns (R151 to R153, R175) -/

/-- How a nest uses a pattern: the operand's format, its line bytes, its most lines (0: any), and the scratchpad. -/
structure PatUse where
  fmt     : Nat
  line    : Nat
  lines   : Nat
  scratch : Nat

/-- In-bounds coordinates of a dimension, ADJ taken as 0. -/
def patCoords (p : Pattern) (i : Nat) : List Int :=
  ((List.range (p.count i)).map (patCoord p i)).filter (fun c => decide (0 ≤ c) && decide (c < p.extent i))

/-- The lowest and highest address a coordinate's pitch adds, and whether all its steps are alike modulo 8. -/
def patReach (cs : List Int) (pitch : Int) : Int × Int × Bool :=
  match cs.map (· * pitch) with
  | [] => (0, 0, true)
  | x :: xs => (xs.foldl min x, xs.foldl max x, xs.all (fun y => (y - x) % 8 == 0))

/-- The bounds of all in-bounds pieces from a base; none without any. -/
def patBounds (p : Pattern) (base : Nat) (pitch : Nat → Int) : Option (Int × Int × Bool) :=
  let cs (i : Nat) : List Int := patCoords p i
  if (cs 0).isEmpty || (cs 1).isEmpty || (cs 2).isEmpty then none
  else
    let r (i : Nat) : Int × Int × Bool := patReach (cs i) (pitch i)
    let lo := (base : Int) + (r 0).1 + (r 1).1 + (r 2).1
    some (lo, (base : Int) + (r 0).2.1 + (r 1).2.1 + (r 2).2.1, (r 0).2.2 && (r 1).2.2 && (r 2).2.2 && lo % 8 == 0)

/-- In-bounds pieces start on multiples of 8 and lie in the scratchpad. -/
def checkPieces (p : Pattern) (scratch o : Nat) : Chk Unit :=
  match patBounds p p.base p.pitch with
  | none => .ok ()
  | some (lo, hi, al) => do
    need al 0x22 o
    need (decide (0 ≤ lo) && decide (hi + p.piece ≤ scratch)) 0x21 o

/-- A pattern as an operand of a nest (stage 2). -/
def checkUse (p : Pattern) (o : Nat) (u : PatUse) : Chk Unit := do
  need (!(p.piece == 0) && p.piece % granule u.fmt == 0) 0x22 o
  need (decide (p.count 0 * p.piece ≤ u.line)) 0x24 o
  need (!(p.count 0 == 0) && !(p.count 1 == 0) && !(p.count 2 == 0) && (u.lines == 0 || decide (p.count 1 * p.count 2 ≤ u.lines))) 0x24 o
  need (p.scales == isMx u.fmt) 0x2E o
  checkPieces p u.scratch o
  if !p.scales then .ok () else
    match patBounds p p.sbase p.spitch with
    | none => .ok ()
    | some (lo, hi, _) => need (decide (0 ≤ lo) && decide (hi + (p.piece / granule u.fmt : Nat) ≤ u.scratch)) 0x21 o

/-- The products of a nest: tile operand and streamed operand tensors in square form, and their patterns. -/
def nestProducts (c : Check) (o : Nat) : List (Nat × Nat × Nat × Nat) :=
  (c.u (o + 4) 2, c.u (o + 6) 2, c.u (o + 0x10) 1, c.u (o + 0x11) 1)
    :: (if c.u o 1 == 3 then [(c.u (o + 8) 2, c.u (o + 0xA) 2, c.u (o + 0x12) 1, c.u (o + 0x13) 1)] else [])

/-- The format of tensor `i`; none past the section. -/
def Check.fmt (c : Check) (i : Nat) : Option Nat := if i < c.count 3 96 then some (c.tensor (c.row 3 96 i)).fmt else none

/-- The uses a nest makes of pattern `g` of the image. -/
def nestUses (c : Check) (o g : Nat) : List PatUse :=
  let l := c.u (o + 2) 2
  let wide := natBit (c.u (o + 1) 1) 2
  let first := c.u (c.row 1 64 l + 4) 4
  if !c.defined l then [] else
    (nestProducts c o).flatMap (fun q =>
      match c.fmt q.1, c.fmt q.2.1 with
      | some fa, some fb =>
        (match pairK fa fb with
         | none => []
         | some k =>
           let k := if wide then 4 * k else k
           let mk (f lines : Nat) : PatUse := { fmt := f, line := k * elemBits f / 8, lines := lines, scratch := (c.d.coreRec l).scratch * 0x100000 }
           let tile := if wide then mk fa 16 else mk fb 64
           let strm := if wide then mk fb 0 else mk fa 0
           let has (p : Nat) : Bool := decide (p < c.patCount l) && first + p == g
           (if has q.2.2.1 then [tile] else []) ++ (if has q.2.2.2 then [strm] else []))
      | _, _ => [])

def checkPattern (c : Check) (g : Nat) : Chk Unit := do
  let o := c.row 2 64 g
  let p := parsePattern (sliceBytes c.img o 64)
  need (!p.bad) 0x2E o
  match c.nests.flatMap (fun n => nestUses c n g) with
  | [] =>
    match (List.range 144).find? (fun l => c.defined l && decide (c.u (c.row 1 64 l + 4) 4 ≤ g) && decide (g < c.u (c.row 1 64 l + 4) 4 + c.patCount l)) with
    | none => .ok ()
    | some l => do
      need (!(p.piece == 0)) 0x22 o
      need (!(p.count 0 == 0) && !(p.count 1 == 0) && !(p.count 2 == 0)) 0x24 o
      checkPieces p ((c.d.coreRec l).scratch * 0x100000) o
  | us => us.foldlM (fun _ u => checkUse p o u) ()

/-! ## Step 9: nests and pointer lists (R176, R177, R182, R183) -/

/-- R124 accepts the formats of two tensors. -/
def Check.pair (c : Check) (a b : Nat) : Option Nat :=
  match c.fmt a, c.fmt b with
  | some x, some y => pairK x y
  | _, _ => none

/-- Reserved fields and index ranges of a nest. -/
def nestFormOk (c : Check) (o : Nat) : Bool :=
  let l := c.u (o + 2) 2
  let kind := c.u o 1
  let ctl := c.u (o + 1) 1
  let fused := kind == 3
  let nt := c.count 3 96
  decide (1 ≤ kind) && decide (kind ≤ 3) && decide (ctl < 8) && (!(natBit ctl 1) || fused) && c.defined l
    && c.zeros (o + 0x3D) 3 && c.zeros (o + 0x48) 8
    && decide (c.u (o + 4) 2 < nt) && decide (c.u (o + 6) 2 < nt) && decide (c.u (o + 8) 2 < nt)
    && decide (c.u (o + 0x10) 1 < c.patCount l) && decide (c.u (o + 0x11) 1 < c.patCount l)
    && (kind == 2 || c.u (o + 0x3A) 2 == 0)
    && (if fused then decide (c.u (o + 0xA) 2 < nt) && decide (c.u (o + 0xC) 2 < nt)
          && decide (c.u (o + 0x12) 1 < c.patCount l) && decide (c.u (o + 0x13) 1 < c.patCount l)
        else c.u (o + 0xA) 2 == 0xFFFF && c.u (o + 0xC) 2 == 0xFFFF && c.u (o + 0xE) 2 == 0xFFFF && c.zeros (o + 0x12) 2)

/-- ROWFN of a FUSED nest (R183). -/
def rowFnOk (c : Check) (o : Nat) : Bool :=
  let f := c.u (o + 0xE) 2
  let k := f / 256
  decide (1 ≤ k) && decide (k ≤ 3) && (if k == 3 then f % 256 == 0xFF else natBit c.used (f % 256))

/-- The trip counts of a nest (R177). -/
def tripsOk (c : Check) (o k : Nat) : Bool :=
  let wide := natBit (c.u (o + 1) 1) 2
  let tm := c.u (o + 0x40) 4
  let tn := c.u (o + 0x44) 4
  let covers (size trip n : Nat) : Bool := decide (1 ≤ trip) && decide (size * (trip - 1) < n) && decide (n ≤ size * trip)
  (if wide then decide (1 ≤ tm) && decide (tm ≤ 16) && decide (1 ≤ tn) else decide (1 ≤ tn) && decide (tn ≤ 64) && decide (1 ≤ tm))
    && decide (1 ≤ c.u (o + 0x2C) 4) && covers (if wide then 4 * k else k) (c.u (o + 0x20) 4) (c.u (o + 0x1C) 4)
    && covers tn (c.u (o + 0x24) 4) (c.u (o + 0x18) 4) && covers tm (c.u (o + 0x28) 4) (c.u (o + 0x14) 4)

def checkNest (c : Check) (o : Nat) : Chk Unit := do
  need (nestFormOk c o) 0x2E o
  let fused := c.u o 1 == 3
  match c.pair (c.u (o + 4) 2) (c.u (o + 6) 2) with
  | none => .error (0x2E, o)
  | some k => do
    need (!fused || (c.pair (c.u (o + 8) 2) (c.u (o + 0xA) 2)).isSome) 0x2E o
    need (!fused || rowFnOk c o) 0x2E o
    need (!fused || c.u (o + 0xE) 2 / 256 == 3 || tableLoaded c.d (c.u (o + 0xE) 2 % 256)) 0x2B o
    need (decide (1 ≤ c.u (o + 0x38) 2) && decide (c.u (o + 0x38) 2 ≤ 4096)) 0x24 o
    need (tripsOk c o k) 0x24 o
    need (!(c.u o 1 == 2) || (decide (1 ≤ c.u (o + 0x3A) 2) && decide (c.u (o + 0x3A) 2 ≤ 4096))) 0x24 o

/-- The offsets of the commands of a core's stream. -/
def Check.commands (c : Check) (l : Nat) : List Nat :=
  let o := c.row 1 64 l
  (List.range (c.u (o + 0xC) 4 / 32)).map (fun i => c.row 9 32 0 + c.u (o + 8) 4 + 32 * i)

/-- ARR.LIST commands of a core against its LIST nests (R182). -/
def checkLists (c : Check) (l : Nat) : Chk Unit :=
  if !c.defined l then .ok () else
    let mine := c.nests.filter (fun o => c.u o 1 == 2 && c.u (o + 2) 2 == l)
    let top := mine.foldl (fun m o => max m (c.u (o + 0x3A) 2)) 0
    need ((c.commands l).all (fun a => !(c.u a 1 == 0x42) || decide (c.u (a + 6) 2 ≤ top))) 0x24 ((mine.head?).getD (c.row 1 64 l))

/-! ## Step 10: residency (R184, R188, R189) -/

/-- A nest's accumulator footprint. -/
def nestSpan (c : Check) (o : Nat) : Nat × Nat :=
  (c.u (o + 0x30) 4, c.u (o + 0x38) 2 * ((c.u (o + 0x34) 4 + 4095) / 4096 * 4096))

def checkResidency (c : Check) (o : Nat) : Chk Unit :=
  let ctl := c.u (o + 1) 1
  let run := if natBit ctl 2 then 16 * c.u (o + 0x44) 4 * 4 else c.u (o + 0x40) 4 * 256
  let s := nestSpan c o
  need ((!(c.u o 1 == 3) || decide ((if natBit ctl 1 then 4 else 3) ≤ c.u (o + 0x38) 2))
    && decide (s.1 + s.2 ≤ (c.d.coreRec (c.u (o + 2) 2)).acc * 0x100000) && decide (run ≤ c.u (o + 0x34) 4)) 0x23 o

/-- Nests of one group of one core do not overlap; the first that does is named. -/
def checkGroups (c : Check) : Chk Unit :=
  let clash (a b : Nat) : Bool :=
    !(a == b) && !(c.u (a + 0x3C) 1 == 0) && c.u (a + 0x3C) 1 == c.u (b + 0x3C) 1 && c.u (a + 2) 2 == c.u (b + 2) 2
      && meet (nestSpan c a).1 (nestSpan c a).2 (nestSpan c b).1 (nestSpan c b).2
  match c.nests.find? (fun a => c.nests.any (clash a)) with
  | some o => .error (0x23, o)
  | none => .ok ()

/-! ## Step 11: the key-value layout (R260) -/

/-- A turn kind is one of the image's. -/
def Check.hasKind (c : Check) (k : Nat) : Bool := (List.range (c.count 5 32)).any (fun i => c.u (c.row 5 32 i) 1 == k)

/-- MOVES of a turn kind. -/
def Check.movesOf (c : Check) (k : Nat) : Nat :=
  match (List.range (c.count 5 32)).find? (fun i => c.u (c.row 5 32 i) 1 == k) with
  | some i => c.u (c.row 5 32 i + 4) 4
  | none => 0

/-- Every page of a range is PLAIN and writable, under the image's own tables. -/
def plainRange (c : Check) (va n : Nat) (ok : Nat → Nat → Bool) : Bool :=
  n == 0 || (List.range ((va + n - 1) / 0x10000 - va / 0x10000 + 1)).all (fun i =>
    match walkRoot c.d (c.u 0x14 8) ((va / 0x10000 + i) * 0x10000) with
    | .ok (.plain base size flags) => granted flags true && ok base size
    | _ => false)

def checkKv (c : Check) : Chk Unit :=
  match findSection c.img 8 with
  | none => .ok ()
  | some (o, bytes) => do
    let dim := c.u (o + 4) 2
    let fmt := c.u (o + 6) 1
    let n := c.u (o + 7) 1
    let page := c.u (o + 8) 4
    let elem := if fmt == 2 then 1 else 2
    let kinds := (List.range n).map (fun k => o + 0x20 + 16 * k)
    need (decide (1 ≤ c.u o 2) && decide (c.u o 2 ≤ 256) && decide (1 ≤ c.u (o + 2) 2) && decide (c.u (o + 2) 2 ≤ 256)
      && (dim == 64 || dim == 128 || dim == 256) && decide (fmt ≤ 2) && decide (1 ≤ n)
      && page == 512 * dim * elem && (page == 0x10000 || page == 0x20000) && c.zeros (o + 0xC) 4 && c.zeros (o + 0x18) 8) 0x2C o
    need (bytes == 32 + 16 * n) 0x2C o
    checkAll kinds (fun r => need (c.zeros (r + 1) 3 && decide (c.u (r + 8) 4 ≤ 1048576)) 0x2C r)
    checkAll kinds (fun r => need (c.hasKind (c.u r 1) && !(kinds.any (fun q => decide (q < r) && c.u q 1 == c.u r 1))) 0x2C r)
    let most := kinds.foldl (fun m r => max m (c.u (r + 4) 4)) 0
    need (plainRange c (c.u (o + 0x10) 8) (8 * ((most + 63) / 64) + most) (fun _ _ => true)) 0x2C o
    checkAll kinds (fun r =>
      need (decide (c.movesOf (c.u r 1) + c.u (r + 0xC) 4
        + c.u (r + 4) 4 * c.u o 2 * c.u (o + 2) 2 * ((c.u (r + 8) 4 + 255) / 256 + 1) * (page / 0x10000) ≤ 16384)) 0x2C r)

/-! ## Steps 12 to 17 -/

def checkTurn (c : Check) (i : Nat) : Chk Unit := do
  let o := c.row 5 32 i
  need (decide (c.u (o + 1) 1 ≤ 1) && c.zeros (o + 2) 2 && c.zeros (o + 0x18) 8) 0x2E o
  need (decide (c.u (o + 4) 4 ≤ 16384) && decide (c.u (o + 8) 4 ≤ c.u (o + 0xC) 4)
    && !((List.range i).any (fun k => c.u (c.row 5 32 k) 1 == c.u o 1))) 0x24 o

/-- Every page of a committed range is a level-3 COMMITTED entry that grants what the tensor asks (R56). -/
def committedRange (c : Check) (flags lo hi : Nat) : Bool :=
  hi ≤ lo || (List.range ((hi - 1) / 0x10000 - lo / 0x10000 + 1)).all (fun i =>
    match walkRoot c.d (c.u 0x14 8) ((lo / 0x10000 + i) * 0x10000) with
    | .ok (.committed _ _ _ f _) => (!(natBit flags 0) || granted f false) && (!(natBit flags 1) || granted f true)
    | _ => false)

def checkCommitted (c : Check) (o : Nat) : Chk Unit :=
  let t := c.tensor o
  if !(natBit t.flags 2) then .ok () else
    let s := tensorSpan t false
    let z := tensorSpan t true
    need (committedRange c t.flags s.1 s.2 && (!(natBit t.flags 3) || committedRange c t.flags z.1 z.2)) 0x29 o

/-- The save block of a core: start and bytes (R105, R171). -/
def saveBlock (c : Check) (l : Nat) : Nat × Nat :=
  let o := c.row 1 64 l
  (c.u (o + 0x10) 8, (16 + c.u (o + 0x1A) 2 + c.u (o + 0x1E) 2 + c.u (o + 0x22) 2) * 4096)

def checkSave (c : Check) (l : Nat) : Chk Unit :=
  if !c.defined l then .ok () else
    let o := c.row 1 64 l
    let r := c.d.coreRec l
    let b := saveBlock c l
    let fits (start mib : Nat) : Bool := decide (c.u (o + start) 2 + c.u (o + start + 2) 2 ≤ mib * 256)
    need (fits 0x18 r.scratch && fits 0x1C r.acc && fits 0x20 r.exch && b.1 % 4096 == 0
      && plainRange c b.1 b.2 (fun base size => size == 0x10000 && base / 2 ^ 52 == c.d.ownDevice && natBits base 51 47 == 0)
      && !((List.range l).any (fun k => c.defined k && meet b.1 b.2 (saveBlock c k).1 (saveBlock c k).2))) 0x25 o

/-- `units`, plus 2 µs, exceeds GRACE (R111). -/
def overGrace (c : Check) (units : Nat) : Bool := decide ((c.d.basinRec (basinOf c.slot)).grace < units + nsUnits c.d 2000)

/-- Where a command names its semaphore; an engine command with SIGNAL set alone (R211, R212, R215). -/
def semField (op ctl : Nat) : Option Nat :=
  if 0x24 ≤ op && op ≤ 0x27 then some 2
  else if !(natBit ctl 0) then none
  else match op with
    | 0x30 => some 6
    | 0x31 => some 0x10
    | 0x74 => some 0x1A
    | 0x78 => some 8
    | 0x79 => some 3
    | 0x7A => some 3
    | 0x7C => some 0x18
    | 0x7D => some 0x18
    | _ => none

def checkSems (c : Check) : Chk Unit := do
  let shared := (c.d.basinRec (basinOf c.slot)).sharedSem
  checkAll ((List.range (c.count 6 16)).map (fun i => c.row 6 16 i)) (fun o =>
    let idx := c.u o 1
    let sh := c.u (o + 1) 1
    let hold := c.u (o + 4) 4
    need (c.zeros (o + 2) 2 && c.zeros (o + 8) 8 && decide (sh ≤ 1) && decide (idx ≤ 63)
      && (if sh == 1 then decide (idx < shared) && !(overGrace c hold) else decide (16 ≤ idx) && hold == 0)) 0x27 o)
  checkAll (List.range 144) (fun l =>
    need (!(c.defined l) || (c.commands l).all (fun a =>
      match semField (c.u a 1) (c.u (a + 1) 1) with
      | some f => decide (c.u (a + f) 1 < shared) || decide (16 ≤ c.u (a + f) 1)
      | none => true)) 0x27 (c.row 1 64 l))

def checkDeadlines (c : Check) : Chk Unit :=
  if !(c.d.job c.slot).live then .ok () else
    checkAll ((List.range (c.count 5 32)).map (fun i => c.row 5 32 i)) (fun o =>
      let w := if c.d.far (basinOf c.slot) then c.u (o + 0xC) 4 else c.u (o + 8) 4
      need (c.u (o + 0x10) 4 == 0 || decide (w + (c.d.basinRec (basinOf c.slot)).grace ≤ c.u (o + 0x10) 4)) 0x2D o)

/-- Steps 3 to 17 of R190. -/
def checkProg (c : Check) : Chk Unit := do
  checkProgHeader c
  need (c.u 6 2 == 9) 0x2A 6
  need (structHash c.d == some (sliceBytes c.img 0x50 48)) 0x2A 0x50
  checkBindings c
  checkTables c
  checkAll ((List.range (c.count 3 96)).map (fun i => c.row 3 96 i)) (checkTensor c)
  checkAll (List.range (c.count 2 64)) (checkPattern c)
  checkAll c.nests (checkNest c)
  checkAll (List.range 144) (checkLists c)
  checkAll c.nests (checkResidency c)
  checkGroups c
  checkKv c
  checkAll (List.range (c.count 5 32)) (checkTurn c)
  checkAll ((List.range (c.count 3 96)).map (fun i => c.row 3 96 i)) (checkCommitted c)
  checkAll (List.range 144) (checkSave c)
  checkAll ((List.range (c.count 5 32)).map (fun i => c.row 5 32 i)) (fun o => need (!(overGrace c (c.u (o + 0x14) 4))) 0x26 o)
  checkSems c
  checkDeadlines c

/-! ## The checked image -/

/-- A CORES record. -/
def parseProgCore (c : Check) (l : Nat) : ProgCore :=
  let o := c.row 1 64 l
  { patCount := c.u (o + 2) 2, patFirst := c.u (o + 4) 4, stream := c.u (o + 8) 4, bytes := c.u (o + 0xC) 4, saveVa := c.u (o + 0x10) 8,
    scrStart := c.u (o + 0x18) 2, scrUnits := c.u (o + 0x1A) 2, accStart := c.u (o + 0x1C) 2, accUnits := c.u (o + 0x1E) 2,
    exchStart := c.u (o + 0x20) 2, exchUnits := c.u (o + 0x22) 2 }

/-- A TURNS record. -/
def parseTurn (c : Check) (i : Nat) : TurnKind :=
  let o := c.row 5 32 i
  { kind := c.u o 1, domain := natBit (c.u (o + 1) 1) 0, moves := c.u (o + 4) 4, wcetNear := c.u (o + 8) 4, wcetFar := c.u (o + 0xC) 4,
    period := c.u (o + 0x10) 4, nonPreempt := c.u (o + 0x14) 4 }

/-- The KV section. -/
def parseKv (c : Check) : Option KvLayout :=
  (findSection c.img 8).map (fun s =>
    let o := s.1
    { layers := c.u o 2, heads := c.u (o + 2) 2, dim := c.u (o + 4) 2, fmt := c.u (o + 6) 1, pageBytes := c.u (o + 8) 4, admitVa := c.u (o + 0x10) 8,
      kinds := (List.range (c.u (o + 7) 1)).map (fun k =>
        let r := o + 0x20 + 16 * k
        { kind := c.u r 1, maxSeq := c.u (r + 4) 4, maxAppend := c.u (r + 8) 4, maxRemap := c.u (r + 0xC) 4 }) })

/-- What later rules read of an image that has passed its check. -/
def parseProg (c : Check) : Prog :=
  { hash := sliceBytes c.img 0x20 48, tensors := c.row 3 96 0, tensorCount := c.count 3 96
    cores := ((List.range 144).filter c.defined).map (fun l => (l, parseProgCore c l))
    turns := (List.range (c.count 5 32)).map (parseTurn c)
    root := c.u 0x14 8, patterns := c.row 2 64 0, streams := c.row 9 32 0, bytes := c.img.length, kv := parseKv c }

/-! ## ENABLE (R92, R93, R170, R191, R192) -/

/-- The card ring and the completion ring of a slot: HBM offset and bytes. -/
def cardSpan (j : Job) : Nat × Nat := (j.cardRing.toNat, 64 * 2 ^ j.cardLog2.toNat)
def cplSpan (j : Job) : Nat × Nat := (j.cplRing.toNat, 32 * 2 ^ j.cplLog2.toNat)

/-- A ring keeps R92: it lies in the SPREAD half of space 0 (spec/12_hbm.md R295). -/
def ringOk (d : Dev) (slot : Nat) (r : Nat × Nat) (lg : Nat) : Bool :=
  r.1 % 4096 == 0 && decide (4 ≤ lg) && decide (lg ≤ 16) && decide (r.1 + r.2 ≤ hbmEnd d) && !(rangeGuarded d r.1 r.2)
    && (List.range 64).all (fun k => k == slot || (d.job k).state == .idle
      || (!(meet r.1 r.2 (cardSpan (d.job k)).1 (cardSpan (d.job k)).2) && !(meet r.1 r.2 (cplSpan (d.job k)).1 (cplSpan (d.job k)).2)))

/-- The ring check: the register offset of the ring at fault. -/
def ringFault (d : Dev) (slot : Nat) : Option Nat :=
  let j := d.job slot
  if !(ringOk d slot (cardSpan j) j.cardLog2.toNat) then some 0x28
  else if !(ringOk d slot (cplSpan j) j.cplLog2.toNat) then some 0x30
  else none

/-- A checking slot is REFUSED. -/
def refuseJob (d : Dev) (slot reason detail : Nat) : Dev :=
  { d.modJob slot (fun j => { j with state := .refused, reason := BitVec.ofNat 8 reason, detail := BitVec.ofNat 32 detail, ringDue := false }) with
    sch := { d.sch with checks := d.sch.checks.filter (fun k => !(k == slot)) } }

/-- JOB_ENABLE: the slot is CHECKING, its image range is protected from now on, its doorbell counts from 0 (R97;
notes/assumptions/68.md), and its rings are checked; during a structure load the checks wait. -/
def jobEnable (d : Dev) (slot : Nat) : Dev :=
  let j := d.job slot
  if !(j.state == .idle) then d else
    let base := j.prog.toNat
    let n := if hbmOk d base && decide (base % 2 ^ 40 + 12 ≤ hbmEnd d) then d.hbmNat (base + 8) 4 else 0
    let d := d.modJob slot (fun j => { j with state := .checking, enable := true, guarded := some (base, n), doorbell := 0, ringDue := loading d, image := none })
    let d := { d with sch := { d.sch with checks := d.sch.checks ++ [slot] } }
    if loading d then d
    else match ringFault d slot with
      | some det => refuseJob d slot 0x50 det
      | none => d

def execJobEnable (slot : Nat) (s : State) : Out := onDev (isSlot slot) (fun _ d => jobEnable d slot) s

/-- Admission (R93, R171): the counters start anew and the job is ADMITTED. -/
def admitJob (d : Dev) (slot : Nat) (p : Prog) : Dev :=
  let units := (p.cores.map (fun e => 16 + e.2.scrUnits + e.2.accUnits + e.2.exchUnits)).sum
  let d := { d with sch := { d.sch with checks := d.sch.checks.filter (fun k => !(k == slot)) } }
  let d := d.modJob slot (fun j => { j with
    state := .admitted
    image := some p
    saveUnits := units
    cardsTaken := 0
    cplWritten := 0
    ringDue := false })
  let d := d.modTslot slot (fun t => { t with lastCommitted := (d.job slot).firstTurn - 1, epoch := 0, root := p.root })
  reschedule d (basinOf slot)

/-- The slots that are checked, oldest first. -/
def checkOrder (d : Dev) : List Nat := d.sch.checks.filter (fun k => (d.job k).state == .checking)

/-- JOB_CHECK_DONE: the oldest check ends with the first failure, or admits the job and raises PRG_COUNTER (R437). -/
def jobCheckDone (nv : Nv) (d : Dev) (slot : Nat) : Nv × Dev :=
  if !((checkOrder d).head? == some slot) || loading d || d.flt.stopActive then (nv, d)
  else
    match (if (d.job slot).ringDue then ringFault d slot else none) with
    | some det => (nv, refuseJob d slot 0x50 det)
    | none =>
      let d := meetProg d (d.job slot).prog.toNat
      match progSpan d (d.job slot).prog.toNat with
      | none => (nv, secRefuse (refuseJob d slot 0x20 0) 0x20)
      | some img =>
        if !verifyStruct nv.vendorHash nv.ownerHash img then (nv, secRefuse (refuseJob d slot 0x20 0) 0x20)
        else if !rollbackOk nv.prgCounter (fieldLe img 0x10 4) then (nv, secRefuse (refuseJob d slot 0x2F 0) 0x2F)
        else
          let c : Check := { d := d, slot := slot, img := img }
          match checkProg c with
          | .error e => (nv, refuseJob d slot e.1 e.2)
          | .ok _ => ({ nv with prgCounter := raiseCounter nv.prgCounter (fieldLe img 0x10 4) }, admitJob d slot (parseProg c))

def execJobCheckDone (slot : Nat) (s : State) : Out := onBoth (isSlot slot) (fun nv d => jobCheckDone nv d slot) s

end Sys2Proof.Machine
end

