-- ==== Sys2Proof/Machine/Mailbox.lean ====
section
/-! DEFINITION. Mailbox channels, and the message rows (spec/15_host_attachment.md R418 to R422). -/

namespace Sys2Proof.Machine

def Dev.mbxc (d : Dev) (c : Nat) : Mbx := tabGet {} d.mbx c
def Dev.setMbxc (d : Dev) (c : Nat) (x : Mbx) : Dev := { d with mbx := tabSet {} d.mbx c x }

/-- The identity code of an accessor (R418); a remote device is never a mailbox identity (R421). -/
def mbxIdentity (a : Accessor) : Nat :=
  match a with
  | .host h => h
  | .mgt => 8
  | .svp => 9
  | .sec => 10
  | .remote _ => 0xFF

/-- The channel has a usable sender and receiver (R419). -/
def mbxUsable (x : Mbx) : Bool := decide (x.sender ≤ 10) && decide (x.receiver ≤ 10)

def mbxIsSender (x : Mbx) (a : Accessor) : Bool := mbxUsable x && x.sender == mbxIdentity a
def mbxIsReceiver (x : Mbx) (a : Accessor) : Bool := mbxUsable x && x.receiver == mbxIdentity a

/-- The state after a register access of an accessor, with the word read or the reason of the bus error. -/
abbrev BusOut := Dev × BusResult

/-- The access answers a word. -/
def busOk (d : Dev) (v : Word) : BusOut := (d, { value := v, error := 0 })

/-- The access is refused; a refusal of MGT sets MGT_REFUSED and its reason (R425). -/
def busRefuse (d : Dev) (a : Accessor) (reason : Byte) : BusOut :=
  (match a with
   | .mgt => { d with pld := { d.pld with mgtRefused := true, mgtReason := reason } }
   | _ => d, { value := 0, error := reason })

/-- A mailbox refusal also shows in REFUSAL (R421). -/
def mbxRefuse (d : Dev) (a : Accessor) (c : Nat) (reason : Byte) : BusOut :=
  busRefuse (d.setMbxc c { d.mbxc c with refusal := reason }) a reason

/-- A message register write (R420, R421). -/
def mbxMsgWrite (d : Dev) (a : Accessor) (c i : Nat) (v : Word) : BusOut :=
  let x := d.mbxc c
  if !mbxIsSender x a then mbxRefuse d a c 0x91
  else if x.full then mbxRefuse d a c 0x90
  else busOk (d.setMbxc c { x with msg := tabSet 0 x.msg i v }) 0

/-- The place of a message or request that comes now in the order of arrival (spec/16_security.md R444). -/
def arrivalStamp (d : Dev) : Nat :=
  max (d.mbx.foldl (fun m e => max m e.2.arrived) 0) (d.sec.chans.foldl (fun m e => max m e.2.arrived) 0) + 1

/-- GO (R420 step 2). -/
def mbxGo (d : Dev) (a : Accessor) (c : Nat) : BusOut :=
  let x := d.mbxc c
  if !mbxIsSender x a then mbxRefuse d a c 0x91
  else if x.full then mbxRefuse d a c 0x90
  else busOk (d.setMbxc c { x with full := true, count := x.count + 1, arrived := arrivalStamp d }) 0

/-! ## The controller's answers (spec/16_security.md R441 to R443) -/

/-- The channel an answer to a requester's channel goes on; none: the channel carries no requests. -/
def answerChannel (c : Nat) : Option Nat :=
  if c < 8 then some (8 + c) else if c == 16 then some 17 else if c == 18 then some 19 else none

/-- The requester's channel of an answer channel. -/
def requestChannel (c : Nat) : Option Nat :=
  if 8 ≤ c && c < 16 then some (c - 8) else if c == 17 then some 16 else if c == 19 then some 18 else none

def Dev.schan (d : Dev) (c : Nat) : SecChan := tabGet {} d.sec.chans c
def Dev.setSchan (d : Dev) (c : Nat) (x : SecChan) : Dev := { d with sec := { d.sec with chans := tabSet {} d.sec.chans c x } }

/-- The controller delivers the oldest waiting answer of request channel `c` when the paired channel is EMPTY. -/
def secDeliver (d : Dev) (c : Nat) : Dev :=
  match answerChannel c, (d.schan c).answers with
  | some k, w :: rest =>
    let x := d.mbxc k
    if x.full || !mbxIsSender x .sec then d
    else (d.setSchan c { d.schan c with answers := rest }).setMbxc k { x with msg := tabOfList 0 (w.take 16), full := true, count := x.count + 1 }
  | _, _ => d

/-- RELEASE (R420 step 4): ignored on an EMPTY channel; the controller's next answer follows. -/
def mbxRelease (d : Dev) (a : Accessor) (c : Nat) : BusOut :=
  let x := d.mbxc c
  if !mbxIsReceiver x a then mbxRefuse d a c 0x91
  else
    let d := if x.full then d.setMbxc c { x with full := false } else d
    busOk (match requestChannel c with
      | some r => secDeliver d r
      | none => d) 0

/-- MBX_WR (R422): all 16 registers and GO at once, or nothing. -/
def mbxSend (d : Dev) (a : Accessor) (c : Nat) (w : List Word) : BusOut :=
  let x := d.mbxc c
  if !mbxIsSender x a then mbxRefuse d a c 0x91
  else if x.full then mbxRefuse d a c 0x90
  else busOk (d.setMbxc c { x with msg := tabOfList 0 (w.take 16), full := true, count := x.count + 1, arrived := arrivalStamp d }) 0

/-- The 16 message registers. -/
def mbxWords (x : Mbx) : List Word := (List.range 16).map (fun i => tabGet 0 x.msg i)

/-- A message register read (R421). -/
def mbxMsgRead (d : Dev) (a : Accessor) (c i : Nat) : BusOut :=
  let x := d.mbxc c
  if mbxIsSender x a || mbxIsReceiver x a then busOk d (tabGet 0 x.msg i) else mbxRefuse d a c 0x91

/-- A write of MBX_CTL: GO, then RELEASE; a refused bit refuses the access. -/
def mbxCtlWrite (d : Dev) (a : Accessor) (c : Nat) (v : Word) : BusOut :=
  let x := d.mbxc c
  let go := v.getLsbD 0
  let rel := v.getLsbD 1
  if !(mbxIsSender x a) && !(mbxIsReceiver x a) then mbxRefuse d a c 0x91
  else if go && rel && !(mbxIsSender x a && mbxIsReceiver x a) then mbxRefuse d a c 0x91
  else if go then
    let r := mbxGo d a c
    if rel && r.2.error == 0 then mbxRelease r.1 a c else r
  else if rel then mbxRelease d a c
  else busOk d 0

/-- A row's register access: the result stands in `bus`. -/
def noteBus (r : BusOut) : Dev := { r.1 with bus := r.2 }

/-- MBX_MSG_WRITE. -/
def execMbxMsgWrite (a : Accessor) (chan i : Nat) (v : Word) (s : State) : Out :=
  onDev (a.wf && is32 chan && is16 i) (fun _ d => noteBus (mbxMsgWrite d a chan i v)) s

/-- MBX_GO. -/
def execMbxGo (a : Accessor) (chan : Nat) (s : State) : Out := onDev (a.wf && is32 chan) (fun _ d => noteBus (mbxGo d a chan)) s

/-- MBX_RELEASE. -/
def execMbxRelease (a : Accessor) (chan : Nat) (s : State) : Out := onDev (a.wf && is32 chan) (fun _ d => noteBus (mbxRelease d a chan)) s

end Sys2Proof.Machine
end

