-- ==== Sys2Proof/Machine/RegRead.lean ====
section
/-! DEFINITION. What every register reads as, by the register tables of each chapter (spec/00_scope.md R5 to R10). A word no
chapter assigns reads 0. -/

namespace Sys2Proof.Machine

/-! ## Codes of the states that registers show -/

def devStateCode (s : DevState) : Nat :=
  match s with
  | .reset => 0 | .boot => 1 | .train => 2 | .ready => 3 | .structured => 4 | .running => 5 | .stopped => 6 | .thermal => 7

def loadStateCode (s : LoadState) : Nat :=
  match s with
  | .empty => 0 | .verifying => 1 | .checking => 2 | .applying => 3 | .loaded => 4 | .refused => 5

def jobStateCode (s : JobState) : Nat :=
  match s with
  | .idle => 0 | .checking => 1 | .refused => 2 | .admitted => 3 | .running => 4 | .preempting => 5 | .saved => 6
  | .waitBind => 7 | .lost => 8

def phaseCode (p : Phase) : Nat :=
  match p with
  | .none => 0 | .running => 1 | .ending => 2 | .staged => 3 | .decided => 4 | .folding => 5

def stackStateCode (s : StackState) : Nat :=
  match s with
  | .off => 0 | .training => 1 | .ready => 2 | .selfRefresh => 3 | .failed => 4

def portStateCode (s : PortState) : Nat :=
  match s with
  | .idle => 0 | .detect => 1 | .train => 2 | .backoff => 3 | .up => 4 | .active => 5 | .mismatch => 6 | .tooFar => 7

def barrierCode (b : Barrier) : Nat :=
  match b with
  | .idle => 0 | .waiting => 1 | .arrived => 2 | .decided => 3 | .aborted => 4

def streamStateCode (s : StreamState) : Nat :=
  match s with
  | .closed => 0 | .checking => 1 | .opened => 2 | .refused => 3 | .closing => 4

def sessionCode (s : Session) : Nat :=
  match s with
  | .closed => 0 | .opened => 1 | .draining => 2

def secStateCode (s : SecState) : Nat :=
  match s with
  | .boot => 0 | .running => 1 | .recovery => 2 | .failed => 3

def pipTypeCode (t : PipType) : Nat :=
  match t with
  | .empty => 0 | .fp64 => 1 | .int64 => 2

/-- The low half of a 64-bit value. -/
def loNat (v : Nat) : Nat := v % 2 ^ 32
/-- The high half. -/
def hiNat (v : Nat) : Nat := v / 2 ^ 32 % 2 ^ 32
/-- The low or the high half by bit 2 of the offset. -/
def halfNat (o v : Nat) : Nat := if natBit o 2 then hiNat v else loNat v
/-- A signed number in `w` bits. -/
def intBits (w : Nat) (v : Int) : Nat := (BitVec.ofInt w v).toNat

/-! ## DEV (spec/18_power_and_package.md R491) -/

def readDev (d : Dev) (o : Nat) : Nat :=
  let y := d.sys
  match o with
  | 0x00 => 0x470990A0
  | 0x04 => devStateCode y.state
  | 0x0C => bit y.dieHot * 32 + bit y.vinHigh * 16 + bit y.vinLow * 8 + bit y.refclkBAbsent * 2 + bit y.refclkAAbsent
  | 0x10 => y.readyMs.toNat
  | 0x20 => y.vin.toNat
  | 0x24 => y.iin.toNat
  | 0x28 => y.peak.toNat * 0x10000 + y.watts.toNat
  | _ =>
    if 0x30 ≤ o && o < 0x40 then
      let t := tabGet {} y.dies ((o - 0x30) / 4)
      intBits 8 (t.max.getD 0) * 0x100 + intBits 8 t.temp
    else 0

/-! ## STR (spec/02_structure_image.md R47) -/

def readStr (d : Dev) (o : Nat) : Nat :=
  let x := d.str
  match o with
  | 0x00 => bit x.loadBit
  | 0x04 => bit x.inForce.isSome * 0x20000 + bit x.protectFixed * 0x10000 + x.reason.toNat * 0x100 + loadStateCode x.state
  | 0x08 => x.detail.toNat
  | 0x10 => loNat x.image.toNat
  | 0x14 => hiNat x.image.toNat % 0x10000
  | 0x18 => x.imageBytes.toNat
  | 0x1C => (x.inForce.map (·.rollback.toNat)).getD 0
  | 0x20 => x.loadCount.toNat
  | 0x24 => bit x.rebindGo * 0x80000000 + x.rebindPhys.toNat * 0x10000 + x.rebindLog.toNat
  | 0x28 => x.rebindReason.toNat * 0x100 + bit x.rebindRefused * 2 + bit x.rebindDone
  | _ =>
    if 0x40 ≤ o && o < 0x70 then fieldLe ((x.inForce.map (·.hash)).getD []) (o - 0x40) 4
    else if 0x100 ≤ o && o < 0x140 then
      let b := (o - 0x100) / 4
      if !(d.basinRec b).valid then 0 else
        (sparesOf d b).length % 256 * 0x10000
          + ((d.basinCores b).filter (fun l => decide (d.phys l < 144) && !d.fenced (d.phys l))).length % 256 * 0x100
          + bit (d.far b) * 2 + 1
    else if 0x200 ≤ o && o < 0x440 then
      let l := (o - 0x200) / 4
      bit (!((d.coreRec l).basin == 0xFF)) * 0x8000 + d.phys l % 256
    else 0

/-! ## JOB (spec/04_clepsydra_and_scheduling.md R116) -/

def readJob (d : Dev) (slot o : Nat) : Nat :=
  let j := d.job slot
  match o with
  | 0x00 => bit j.abandon * 8 + bit j.preemptReq * 2 + bit j.enable
  | 0x04 => bit j.doorbellIgnored * 0x80000 + bit j.parked * 0x40000 + bit j.cardsHeld * 0x20000 + bit j.turnLate * 0x10000
      + j.reason.toNat * 0x100 + jobStateCode j.state
  | 0x08 => j.detail.toNat
  | 0x0C => bit j.live
  | 0x10 => j.doorbell.toNat
  | 0x14 => j.cardsTaken.toNat
  | 0x18 => j.cplWritten.toNat
  | 0x1C => j.cplConsumed.toNat
  | 0x20 => loNat j.prog.toNat
  | 0x24 => hiNat j.prog.toNat
  | 0x28 => loNat j.cardRing.toNat
  | 0x2C => hiNat j.cardRing.toNat
  | 0x30 => loNat j.cplRing.toNat
  | 0x34 => hiNat j.cplRing.toNat
  | 0x38 => j.cplLog2.toNat * 0x100 + j.cardLog2.toNat
  | 0x40 => loNat j.firstTurn.toNat
  | 0x44 => hiNat j.firstTurn.toNat
  | 0x48 => j.lastWcet.toNat
  | 0x4C => j.saveUnits % 0x200000
  | _ => 0

/-! ## TRN (spec/03_turns_and_fences.md R82) -/

/-- Staging, flip or fold is in progress in some slot. -/
def commitBusy (d : Dev) : Bool :=
  d.trn.slots.any (fun e => match e.2.phase with
    | .none => false | .running => false
    | _ => true)

def readTrnSlot (d : Dev) (slot o : Nat) : Nat :=
  let t := d.tslot slot
  match o with
  | 0x00 => t.abortReason.toNat * 0x100 + bit t.domain * 0x80 + bit t.replaying * 0x40 + phaseCode t.phase
  | 0x04 => bit t.flush
  | 0x08 => t.epoch.toNat
  | 0x0C => t.moves.length % 0x8000
  | 0x10 => loNat t.lastCommitted.toNat
  | 0x14 => hiNat t.lastCommitted.toNat
  | 0x18 => loNat t.lastSlot.toNat
  | 0x1C => hiNat t.lastSlot.toNat
  | 0x20 => t.reserved % 0x800000
  | 0x24 => t.replays.toNat
  | 0x28 => t.aborts.toNat
  | 0x2C => t.lastDuration.toNat
  | 0x30 => bit t.lastClass
  | 0x34 => t.held.length % 0x8000
  | 0x38 => loNat t.root
  | 0x3C => hiNat t.root % 0x10000
  | _ => 0

def readTrn (d : Dev) (o : Nat) : Nat :=
  let x := d.trn
  match o with
  | 0x00 => bit x.flushIgnored * 16 + bit x.selfAbort * 8 + bit x.slotLate * 4 + bit x.foldPending * 2 + bit (commitBusy d)
  | 0x04 => x.kfenceTimeout.toNat
  | 0x08 => x.slotLateCount.toNat
  | _ =>
    if 0x40 ≤ o && o < 0x60 then (tabGet 0 x.hostfenceDone ((o - 0x40) / 4)).toNat
    else if 0x100 ≤ o && o < 0x140 then (d.freeStack ((o - 0x100) / 4)).length % 0x800000
    else if 0x140 ≤ o && o < 0x180 then
      let b := (o - 0x140) / 4
      ((List.range 4).map (fun i => (d.tslot (4 * b + i)).reserved)).sum % 0x800000
    else if 0x1000 ≤ o && o < 0x2000 then readTrnSlot d ((o - 0x1000) / 0x40) (o % 0x40)
    else 0

/-! ## CLP and SCH (R91, R117) -/

def readClp (d : Dev) (o : Nat) : Nat :=
  let c := d.clp
  match o with
  | 0x00 => loNat c.now.toNat
  | 0x04 => hiNat c.now.toNat
  | 0x08 => c.source % 4
  | 0x0C => clpActive c * 0x40 + bit c.stepDeferred * 0x20 + bit c.pulseMissing * 0x10 + bit c.unlockSeen * 8 + bit c.stepped * 4
      + bit (c.source == 2 && c.masterFree) * 2 + bit c.locked
  | 0x10 => bit c.arm * 2 + bit c.allowStep
  | 0x14 => c.pulseFrames.toNat
  | 0x18 => loNat c.setFrame.toNat
  | 0x1C => hiNat c.setFrame.toNat
  | 0x20 => c.num
  | 0x24 => c.den
  | 0x28 => c.master.toNat
  | 0x2C => intBits 32 c.offset
  | 0x30 => c.unlockCount.toNat
  | _ => 0

def readBasin (d : Dev) (b o : Nat) : Nat :=
  let x := d.basin b
  match o with
  | 0x00 =>
    bit ((List.range 4).any (fun i => (d.job (4 * b + i)).state == .waitBind)) * 0x8000 + bit x.restoring * 0x4000
      + bit x.saving * 0x2000 + bit x.grace * 0x1000
      + ((List.range 4).map (fun i => bit (ready d (4 * b + i)) * 2 ^ i)).sum * 0x100 + x.holder.getD 0xFF
  | 0x04 => if x.holder.isNone then 0 else (d.basinRec b).slice - (d.clp.elapsed - x.sliceStart)
  | 0x08 => x.preempts.toNat
  | 0x0C => x.lastGrace.toNat
  | 0x10 => x.lastSave.toNat
  | 0x14 => x.lastRestore.toNat
  | _ => 0

def readSch (d : Dev) (o : Nat) : Nat :=
  match o with
  | 0x00 => bit d.sch.graceOverrun
  | 0x04 => d.sch.graceOverruns.toNat
  | _ => if 0x100 ≤ o && o < 0x300 then readBasin d ((o - 0x100) / 0x20) (o % 0x20) else 0

/-! ## FLT and CNT (spec/17_faults_and_counters.md R467, R468) -/

/-- A word in the layout of FLT_STOP_INFO. -/
def infoWord (i : FltInfo) : Nat :=
  bit i.valid * 0x80000000 + i.cls % 8 * 0x10000000 + i.reason.toNat * 0x10000 + i.core.toNat * 0x100 + i.slot.toNat

def readFlt (d : Dev) (o : Nat) : Nat :=
  let x := d.flt
  match o with
  | 0x00 => bit x.stopActive * 32 + bit x.clearRefused * 16 + bit x.logOverflow * 8 + bit x.abortSeen * 4 + bit x.fenceSeen * 2 + bit x.stopSeen
  | 0x04 => x.logWritten.toNat
  | 0x08 => x.logConsumed.toNat
  | 0x0C => x.logDropped.toNat
  | 0x10 => x.jobFaults.toNat
  | 0x14 => x.coreFences.toNat
  | 0x18 => x.stops.toNat
  | 0x1C => x.domainAborts.toNat
  | 0x20 => infoWord x.stopInfo
  | 0x24 => x.stopDetail.toNat
  | 0x28 => loNat x.stopClp.toNat
  | 0x2C => hiNat x.stopClp.toNat
  | 0x30 => loNat x.stopAddr.toNat
  | 0x34 => hiNat x.stopAddr.toNat
  | _ =>
    if 0x40 ≤ o && o < 0x54 then x.fenced.toNat / 2 ^ (32 * ((o - 0x40) / 4)) % 2 ^ 32
    else if 0x1000 ≤ o && o < 0x1400 then
      let e := tabGet {} x.log ((o - 0x1000) / 0x10)
      (match o % 0x10 with
       | 0x0 => infoWord e.info
       | 0x4 => e.detail.toNat
       | 0x8 => loNat e.clp.toNat
       | _ => hiNat e.clp.toNat)
    else 0

/-- A performance counter as its pair shows it: OVF in bit 63. -/
def cntPair (d : Dev) (n : Nat) : Nat :=
  let v := (tabGet 0 d.cnt.values n).toNat
  v + bit (v == 2 ^ 48 - 1) * 2 ^ 63

def readCnt (d : Dev) (o : Nat) : Nat :=
  match o with
  | 0x04 => bit ((List.range 13).any (fun n => (tabGet 0 d.cnt.values n).toNat == 2 ^ 48 - 1))
  | 0x08 => d.cnt.pinned.toNat
  | _ => if 0x100 ≤ o && o < 0x168 then halfNat o (cntPair d ((o - 0x100) / 8)) else 0

/-! ## HBM and WEIR (spec/12_hbm.md R318, R319) -/

/-- HBM_PIN_FAILED of a stack. -/
def pinMap (x : Stack) : Nat := ((List.range 64).map (fun p => bit (tabGet none x.pins p).isSome * 2 ^ p)).sum

def readHbm (nv : Nv) (d : Dev) (s o : Nat) : Nat :=
  let x := d.stack s
  let pending := (tabGet [] nv.repairs s).length + ((tabGet [] d.repairsDue s).filter (fun r => !(tabGet [] nv.repairs s).contains r)).length
  match o with
  | 0x00 =>
    x.retrainPc.getD 0xFF * 0x1000000 + bit x.ueSeen * 0x8000 + bit x.ceSeen * 0x4000 + bit x.repairFull * 0x2000
      + bit (x.sparesUsed.any (fun e => decide (16 ≤ e.2))) * 0x1000 + bit (decide (0 < pending)) * 0x800
      + bit (!(pinMap x == 0)) * 0x400 + bit d.str.pinsafe * 0x200 + bit d.str.protectFixed * 0x100 + stackStateCode x.state
  | 0x04 => x.threshold.toNat
  | 0x08 => bit x.scrub
  | 0x0C => x.ceCount.toNat
  | 0x10 => x.ueCount.toNat
  | 0x14 => x.remaps.toNat
  | 0x18 => x.retrains.toNat
  | 0x1C => x.retrainsEarly.toNat
  | 0x20 => x.applied.toNat * 0x10000 + (1024 - (x.sparesUsed.map (·.2)).sum)
  | 0x24 => pending
  | 0x28 => x.holdPeak.toNat
  | 0x2C => x.lastErr.pc % 64 * 0x4000000 + bit x.lastErr.uncorr * 0x2000000 + x.lastErr.slot % 0x80000 * 0x40 + x.lastErr.burst % 64
  | 0x30 => bit x.lastErr.valid * 0x80000000 + x.lastErr.position % 64 * 0x100 + x.lastErr.kind % 4
  | 0x34 => loNat (pinMap x)
  | 0x38 => hiNat (pinMap x)
  | _ => 0

def readWeir (d : Dev) (o : Nat) : Nat :=
  let w := d.weir
  match o with
  | 0x00 => bit w.thermalStop * 0x80000000 + ((List.range 12).map (fun s => bit (decide (0 < (d.stack s).level)) * 2 ^ s)).sum
  | 0x04 => w.offset.toNat
  | 0x08 => w.events.toNat
  | 0x10 => loNat w.lastEvent.toNat
  | 0x14 => hiNat w.lastEvent.toNat
  | _ =>
    if 0x100 ≤ o && o < 0x130 then
      let x := d.stack ((o - 0x100) / 4)
      x.maxLevel % 8 * 0x10000 + x.level % 8 * 0x100 + intBits 8 x.temp
    else 0

/-! ## KLZ and CSC (spec/13_koliz_fabric.md R365, R366) -/

def readPort (d : Dev) (n o : Nat) : Nat :=
  let x := d.port n
  match o with
  | 0x00 => x.reason.toNat * 0x1000000 + x.neighbour.toNat * 0x1000 + x.neighbourPort.toNat * 0x100 + bit x.linkLost * 0x80 + portStateCode x.state
  | 0x04 => bit x.dateline * 4 + bit x.retrain * 2 + bit x.disable
  | 0x08 => x.rtt.toNat
  | 0x0C => x.fecCorrected.toNat
  | 0x10 => x.fecUncorrected.toNat
  | 0x14 => x.replays.toNat
  | 0x18 => x.losses.toNat
  | 0x1C => x.bad.toNat
  | _ => 0

def readGroup (d : Dev) (g o : Nat) : Nat :=
  let x := d.grp g
  match o with
  | 0x00 => x.slot % 64 * 0x100 + bit x.root * 2 + bit x.valid
  | 0x04 => bit x.parentValid * 0x100000 + x.parent % 16 * 0x10000 + x.children.toNat
  | 0x08 => x.abortReason.toNat * 0x100 + bit x.absentSeen * 0x80 + bit (x.valid && !grpConsistent x) * 0x40 + barrierCode x.barrier
  | _ =>
    if 0x10 ≤ o && o < 0x50 then
      let r := tabGet {} x.rings ((o - 0x10) / 8)
      if natBit o 2 then r.position % 0x1000 else
        bit r.valid * 0x80000000 + bit r.nextBValid * 0x40000000 + bit r.prevBValid * 0x20000000 + r.size % 0x2000 * 0x10000
          + r.nextA % 16 * 0x1000 + r.nextB % 16 * 0x100 + r.prevA % 16 * 0x10 + r.prevB % 16
    else 0

def readCsc (d : Dev) (o : Nat) : Nat :=
  let k := d.klz
  match o with
  | 0x00 => bit k.timeoutSeen * 8 + bit k.ttlDrop * 4 + bit k.failed * 2 + bit (!k.cascade.isEmpty)
  | 0x04 => trainedHorizon d * 0x10000 + k.requested.toNat
  | 0x08 => bit k.echoGo * 0x80000000 + bit k.echoDone * 0x40000000 + bit k.echoFailed * 0x20000000 + k.echoDevice.toNat
  | 0x0C => k.echoRtt.toNat
  | 0x10 => k.timeouts.toNat
  | 0x14 => k.ttlDrops.toNat
  | 0x18 => k.linkDelay.toNat * 0x10000 + k.linkPort.toNat
  | _ => if 0x100 ≤ o && o < 0x900 then readGroup d ((o - 0x100) / 0x80) (o % 0x80) else 0

/-! ## COD (spec/14_video_codec.md R393, R394) -/

def readCodCore (d : Dev) (c : Nat) : Nat :=
  let r := codecRec d c
  let act := match codPicOf d c with
    | none => if r.pool == 0 || d.cod.failed.getLsbD c then 0 else 1
    | some p => if p.suspended then 4 else if p.enc then 2 else 3
  ((codPicOf d c).map (·.stream)).getD 0xFF * 0x1000000 + r.group % 256 * 0x10000 + bit (d.cod.failed.getLsbD c) * 0x40
    + r.pool % 4 * 0x10 + act

def readStream (d : Dev) (k o : Nat) : Nat :=
  let x := d.stream k
  let y := streamNow d k
  let ps := streamPics d k
  let marks := ((List.range 32).map (fun e => tabGet 0 x.marks e % 4 * 4 ^ e)).sum
  match o with
  | 0x04 => x.reason.toNat * 0x100 + bit x.late * 0x80 + bit (ps.any (fun p => p.suspended)) * 0x40 + bit x.keyPending * 0x20
      + bit (y.resync || ps.any (fun p => decide (0 < p.lead) && !p.runs.isEmpty)) * 0x10 + streamStateCode x.state
  | 0x08 => loNat x.descAddr.toNat
  | 0x0C => hiNat x.descAddr.toNat
  | 0x10 => (ps.filter (fun p => p.done.isNone)).length % 32
  | 0x14 => x.recordsWritten.toNat
  | 0x18 => x.recordsConsumed.toNat
  | 0x1C => x.ringWritten.toNat
  | 0x20 => x.ringConsumed.toNat
  | 0x24 => x.concealed.toNat
  | 0x28 => x.syntaxErrors.toNat
  | 0x2C => x.latePictures.toNat
  | 0x30 => loNat marks
  | 0x34 => hiNat marks
  | _ => 0

def readCod (d : Dev) (o : Nat) : Nat :=
  match o with
  | 0x00 =>
    ((List.range 16).map (fun c => bit (codPicOf d c).isSome * 2 ^ c)).sum * 0x10000
      + bit ((List.range 32).any (fun k => (headPic d k).any (fun p => p.live)))
  | 0x04 => d.cod.lateCount.toNat
  | _ =>
    if 0x100 ≤ o && o < 0x140 then readCodCore d ((o - 0x100) / 4)
    else if 0x1000 ≤ o && o < 0x1800 then readStream d ((o - 0x1000) / 0x40) (o % 0x40)
    else 0

/-! ## ETH, PLD and SEC (spec/15_host_attachment.md R428, R429; spec/16_security.md R452) -/

def Dev.ethp (d : Dev) (n : Nat) : Eth := tabGet {} d.eth n
def Dev.setEthp (d : Dev) (n : Nat) (x : Eth) : Dev := { d with eth := tabSet {} d.eth n x }
def Dev.modEthp (d : Dev) (n : Nat) (f : Eth → Eth) : Dev := d.setEthp n (f (d.ethp n))

def Dev.conn (d : Dev) (h : Nat) : Conn := tabGet {} d.pld.conns h
def Dev.setConn (d : Dev) (h : Nat) (x : Conn) : Dev := { d with pld := { d.pld with conns := tabSet {} d.pld.conns h x } }
def Dev.modConn (d : Dev) (h : Nat) (f : Conn → Conn) : Dev := d.setConn h (f (d.conn h))

def Dev.assoc (d : Dev) (i : Nat) : Assoc := tabGet {} d.sec.assocs i
def Dev.setAssoc (d : Dev) (i : Nat) (x : Assoc) : Dev := { d with sec := { d.sec with assocs := tabSet {} d.sec.assocs i x } }

def readEth (d : Dev) (n o : Nat) : Nat :=
  let x := d.ethp n
  let c := x.conf
  match o with
  | 0x00 => bit x.linkLost * 16 + x.medium.toNat * 4 + bit x.linkUp * 2 + bit x.linkUp
  | 0x04 => bit c.an * 4 + c.medium.toNat
  | 0x08 => loNat c.mac.toNat
  | 0x0C => hiNat c.mac.toNat
  | 0x10 => bit c.tagged * 0x1000 + c.vid.toNat
  | 0x14 => c.ipv4.toNat
  | 0x18 => c.udpPort.toNat
  | 0x40 => x.frames.toNat
  | 0x44 => x.fcsErrors.toNat
  | 0x48 => x.dropped.toNat
  | 0x4C => x.macsecFail.toNat
  | _ => if 0x20 ≤ o && o < 0x30 then c.ipv6.toNat / 2 ^ (32 * ((o - 0x20) / 4)) % 2 ^ 32 else 0

/-- A 24-bit sequence number has been received (R409, R411). -/
def seqReceived (c : Conn) (s : Nat) : Bool := c.reqs.any (fun r => r.seq == s)

/-- A number in the 24-bit sequence space. -/
def seqMod (s : Nat) : Nat := s % 0x1000000

/-- The signed difference of two sequence numbers. -/
def seqDiff (a b : Nat) : Int := (BitVec.ofNat 24 a - BitVec.ofNat 24 b).toInt

/-- EXPECT (R411): the lowest number from L on that has not been received. -/
def expectSeq (c : Conn) : Nat :=
  match c.state with
  | .closed => 0
  | _ => seqMod (c.low + ((List.range 513).find? (fun i => !seqReceived c (seqMod (c.low + i)))).getD 512)

/-- No packet number of a slot's transmit association is left (R399). -/
def pnExhausted (d : Dev) (c : ConnConf) : Bool :=
  let a := d.assoc c.sa.toNat
  c.macsec && decide ((if a.suite == 1 then 2 ^ 64 - 1 else 2 ^ 32 - 1) < a.txPn)

/-- Requests received and not answered. -/
def outstanding (c : Conn) : Nat :=
  (c.reqs.filter (fun r => match r.phase with
    | .answered _ => false
    | _ => true)).length

def readConn (d : Dev) (h o : Nat) : Nat :=
  let x := d.conn h
  let c := x.conf
  match o with
  | 0x00 => bit c.valid * 0x80000000 + bit c.readOnly * 0x40000000 + bit c.domain * 0x20000000 + bit c.macsec * 0x10000000
      + c.port.toNat * 0x4000000 + c.encap.toNat * 0x1000000 + c.units.toNat * 0x10000 + c.sa.toNat * 0x1000
  | 0x04 => c.peerPort.toNat
  | 0x20 => x.session.toNat * 0x10000 + sessionCode x.state * 0x4000 + bit (pnExhausted d c) * 0x2000 + outstanding x % 0x400
  | 0x24 => expectSeq x
  | 0x28 => seqMod x.low
  | 0x40 => x.requests.toNat
  | 0x44 => x.duplicates.toNat
  | 0x48 => x.window.toNat
  | 0x4C => x.rate.toNat
  | _ => if 0x08 ≤ o && o < 0x18 then c.peer.toNat / 2 ^ (32 * ((o - 0x08) / 4)) % 2 ^ 32 else 0

/-- Before READY (R413 line 1, R415). -/
def beforeReady (d : Dev) : Bool :=
  match d.sys.state with
  | .reset => true | .boot => true | .train => true
  | _ => false

def readPld (d : Dev) (o : Nat) : Nat :=
  match o with
  | 0x2000 => bit (beforeReady d) * 2 + bit d.pld.mgtRefused
  | 0x2004 => d.pld.mgtReason.toNat
  | 0x2010 => d.pld.rxBad.toNat
  | 0x2014 => d.pld.rxUnbound.toNat
  | _ =>
    if o < 0x2000 then readEth d (o / 0x1000) (o % 0x1000)
    else if 0x3000 ≤ o && o < 0x3800 then readConn d ((o - 0x3000) / 0x100) (o % 0x100)
    else 0

def readSec (nv : Nv) (d : Dev) (o : Nat) : Nat :=
  let x := d.sec
  match o with
  | 0x00 => x.lastReason.toNat * 0x1000000 + bit x.debugUnlocked * 0x20000 + bit (!(nv.ownerHash.all (· == 0))) * 0x10000
      + d.sys.bootMode.toNat * 0x400 + x.fwCopy % 4 * 0x100 + secStateCode x.state
  | 0x04 => nv.fwCounter % 256 * 0x10000 + nv.prgCounter % 256 * 0x100 + nv.strCounter % 256
  | 0x08 => loNat nv.serial.toNat
  | 0x0C => hiNat nv.serial.toNat
  | 0x10 => x.fwVersion.toNat
  | 0x14 => x.refusals.toNat
  | _ =>
    if 0x40 ≤ o && o < 0x70 then fieldLe nv.ownerHash (o - 0x40) 4
    else if 0x80 ≤ o && o < 0xA0 then fieldLe x.challenge (o - 0x80) 4
    else 0

/-! ## CORE (spec/08_vector_engine.md R219) -/

/-- ACTIVITY of a physical core. -/
def activity (x : CoreSt) : Nat :=
  if x.saving then 5 else if x.restoring then 6 else if x.slot.isNone then 0
  else match x.ctx.wait with
    | .none => bit x.active
    | .sem _ _ _ => 2
    | .acquire _ => 2
    | .fenceC => 3
    | .fenceB _ => 3
    | .fenceD _ => 3
    | .ended => 4
    | .queue => 7

/-- FLAGS of a pip, from bit 3 down: INF_ROW, ALL_MASKED, INF_SEEN, NAN_SEEN. -/
def pipFlags (p : Pip) : Nat := bit p.infRow * 8 + bit p.allMasked * 4 + bit p.infSeen * 2 + bit p.nanSeen

def readCore (d : Dev) (c o : Nat) : Nat :=
  let x := d.core c
  let l := d.logical c
  let r := d.coreRec l
  match o with
  | 0x00 => x.slot.getD 0xFF * 0x1000000 + l % 256 * 0x10000 + bit x.boundHit * 0x100 + bit (d.fenced c) * 0x80 + activity x
  | 0x04 => x.ctx.pc % 0x2000
  | 0x08 => r.exch % 256 * 0x1000000 + r.page % 256 * 0x10000 + r.acc % 256 * 0x100 + r.scratch % 256
  | 0x0C => min (coreOutstanding d c) 256
  | 0x10 => x.boundHits.toNat
  | 0x14 => x.ctx.seed.toNat
  | _ =>
    if 0x100 ≤ o && o < 0x180 then halfNat o (tabGet {} x.ctx.pips ((o - 0x100) / 8)).value.toNat
    else if 0x180 ≤ o && o < 0x1C0 then
      let p := tabGet {} x.ctx.pips ((o - 0x180) / 4)
      pipTypeCode p.type * 16 + pipFlags p
    else if 0x200 ≤ o && o < 0x300 then
      let n := (o - 0x200) / 4
      if n < 16 then (if decide ((d.basinRec r.basin).sharedSem ≤ n) then 0 else (d.sem r.basin n).value.toNat)
      else if l == 0xFF then 0 else (semValue d r.basin l n).toNat
    else if 0x300 ≤ o && o < 0x340 then
      let n := (o - 0x300) / 4
      if decide ((d.basinRec r.basin).sharedSem ≤ n) then 0xFF else (d.sem r.basin n).owner
    else 0

/-! ## The whole register space (R5, R7) -/

/-- The MBX registers any accessor reads alike (R421, R430). -/
def readMbx (d : Dev) (o : Nat) : Nat :=
  if o == 0 then bit d.mbxLocked
  else if 0x100 ≤ o && o < 0x180 then
    let x := d.mbxc ((o - 0x100) / 4)
    x.sender % 16 * 16 + x.receiver % 16
  else if 0x1000 ≤ o && o < 0x2000 && o % 0x80 == 0x44 then
    let x := d.mbxc ((o - 0x1000) / 0x80)
    x.count.toNat * 0x10000 + x.refusal.toNat * 0x100 + bit x.full
  else 0

/-- The word a register holds; an offset no chapter assigns reads 0. -/
def regValue (nv : Nv) (d : Dev) (a : Nat) : Nat :=
  if a < 0x100000 then readDev d a
  else if a < 0x200000 then readStr d (a - 0x100000)
  else if a < 0x300000 then (if a < 0x240000 then readJob d ((a - 0x200000) / 0x1000) (a % 0x1000) else 0)
  else if a < 0x400000 then readTrn d (a - 0x300000)
  else if a < 0x500000 then readClp d (a - 0x400000)
  else if a < 0x600000 then readSch d (a - 0x500000)
  else if a < 0x700000 then readFlt d (a - 0x600000)
  else if a < 0x800000 then readCnt d (a - 0x700000)
  else if a < 0x8C0000 then readHbm nv d ((a - 0x800000) / 0x10000) (a % 0x10000)
  else if a < 0xA00000 then readWeir d (a - 0x8C0000)
  else if a < 0xB00000 then readPort d ((a - 0xA00000) / 0x10000) (a % 0x10000)
  else if a < 0xC00000 then readCsc d (a - 0xB00000)
  else if a < 0xD00000 then readCod d (a - 0xC00000)
  else if a < 0xE00000 then readPld d (a - 0xD00000)
  else if a < 0xF00000 then readMbx d (a - 0xE00000)
  else if a < 0x1000000 then readSec nv d (a - 0xF00000)
  else if a < 0x1900000 then readCore d ((a - 0x1000000) / 0x10000) (a % 0x10000)
  else 0

/-! ## 64-bit pairs (R8) -/

/-- `o` is the LO offset of one of `n` pairs `stride` apart from `base`. -/
def pairRun (base stride n o : Nat) : Bool :=
  decide (base ≤ o) && decide (o < base + stride * n) && (o - base) % stride == 0

/-- `a` is the LO register of a 64-bit pair. -/
def isPairLo (a : Nat) : Bool :=
  a == 0x100010
    || (decide (0x200000 ≤ a) && decide (a < 0x240000) && [0x20, 0x28, 0x30, 0x40].contains (a % 0x1000))
    || (decide (0x301000 ≤ a) && decide (a < 0x302000) && [0x10, 0x18, 0x38].contains (a % 0x40))
    || a == 0x400000 || a == 0x400018
    || a == 0x600028 || a == 0x600030 || pairRun 0x601008 0x10 64 a
    || pairRun 0x700100 8 13 a
    || (decide (0x800000 ≤ a) && decide (a < 0x8C0000) && a % 0x10000 == 0x34)
    || a == 0x8C0010
    || (decide (0xC01000 ≤ a) && decide (a < 0xC01800) && [0x08, 0x30].contains (a % 0x40))
    || (decide (0xD00000 ≤ a) && decide (a < 0xD02000) && a % 0x1000 == 0x08)
    || a == 0xF00008
    || (decide (0x1000000 ≤ a) && decide (a < 0x1900000) && pairRun 0x100 8 16 (a % 0x10000))

/-- `a` is the HI register of a pair. -/
def isPairHi (a : Nat) : Bool := decide (4 ≤ a) && isPairLo (a - 4)

/-! ## Reads (R6 to R10) -/

/-- A counter that a read clears (R10): the Ethernet and Plaldaul receive statistics. -/
def clearRc (d : Dev) (a : Nat) : Dev :=
  let o := a - 0xD00000
  if a < 0xD00000 || 0xE00000 ≤ a then d
  else if o < 0x2000 then
    let n := o / 0x1000
    (match o % 0x1000 with
     | 0x40 => d.modEthp n (fun x => { x with frames := 0 })
     | 0x44 => d.modEthp n (fun x => { x with fcsErrors := 0 })
     | 0x48 => d.modEthp n (fun x => { x with dropped := 0 })
     | 0x4C => d.modEthp n (fun x => { x with macsecFail := 0 })
     | _ => d)
  else if o == 0x2010 then { d with pld := { d.pld with rxBad := 0 } }
  else if o == 0x2014 then { d with pld := { d.pld with rxUnbound := 0 } }
  else if 0x3000 ≤ o && o < 0x3800 then
    let h := (o - 0x3000) / 0x100
    (match o % 0x100 with
     | 0x40 => d.modConn h (fun x => { x with requests := 0 })
     | 0x44 => d.modConn h (fun x => { x with duplicates := 0 })
     | 0x48 => d.modConn h (fun x => { x with window := 0 })
     | 0x4C => d.modConn h (fun x => { x with rate := 0 })
     | _ => d)
  else d

/-- The offset names a word of some block (R6, R7). -/
def regAddrOk (a : Nat) : Bool := a % 4 == 0 && decide (a < 0x1900000)

/-- The message registers and MBX_CTL of a channel, whose access R421 restricts. -/
def mbxGuarded (a : Nat) : Option (Nat × Nat) :=
  if 0xE01000 ≤ a && a < 0xE02000 && a % 0x80 < 0x44 then some ((a - 0xE01000) / 0x80, a % 0x80) else none

/-- A register read of an accessor. -/
def regRead (nv : Nv) (d : Dev) (a : Accessor) (addr : Nat) : BusOut :=
  if !regAddrOk addr then busRefuse d a 0x93
  else match mbxGuarded addr with
    | some (c, o) => if o == 0x40 then (mbxMsgRead d a c 16) else mbxMsgRead d a c (o / 4)
    | none =>
      let v := BitVec.ofNat 32 (regValue nv d addr)
      if isPairLo addr then
        busOk { d with readLatch := tabSet none d.readLatch (accCode a) (some { pair := addr, half := BitVec.ofNat 32 (regValue nv d (addr + 4)) }) } v
      else if isPairHi addr then
        match tabGet none d.readLatch (accCode a) with
        | some l => if l.pair == addr - 4 then busOk d l.half else busOk d v
        | none => busOk d v
      else busOk (clearRc d addr) v

end Sys2Proof.Machine
end

