-- ==== Sys2Proof/Machine/RegWrite.lean ====
section
/-! DEFINITION. What a write of every register does, by the register tables of each chapter (spec/00_scope.md R5 to R10). In one
word the RW fields are stored first, then W1C bits clear, then the action bits act from the most significant one down. -/

namespace Sys2Proof.Machine

/-- A W1C bit: 1 clears it. -/
def w1c (cur : Bool) (v : Word) (i : Nat) : Bool := cur && !v.getLsbD i

/-- Bits [hi:lo] of a written word. -/
def wBits (v : Word) (hi lo : Nat) : Nat := natBits v.toNat hi lo

/-! ## Words, block by block -/

def writeDev (d : Dev) (o : Nat) (v : Word) : Dev :=
  match o with
  | 0x08 =>
    let d := if v.getLsbD 1 then clearPeak d else d
    if v.getLsbD 0 then clearStop d else d
  | 0x0C => { d with sys := { d.sys with dieHot := w1c d.sys.dieHot v 5, vinHigh := w1c d.sys.vinHigh v 4, vinLow := w1c d.sys.vinLow v 3 } }
  | _ => d

def writeStr (d : Dev) (o : Nat) (v : Word) : Dev :=
  match o with
  | 0x00 => if v.getLsbD 0 then strLoad d else d
  | 0x18 => { d with str := { d.str with imageBytes := v } }
  | 0x24 =>
    let d := { d with str := { d.str with rebindPhys := BitVec.ofNat 8 (wBits v 23 16), rebindLog := BitVec.ofNat 8 (wBits v 7 0) } }
    if v.getLsbD 31 then strRebind d (wBits v 7 0) (wBits v 23 16) else d
  | 0x28 => { d with str := { d.str with rebindRefused := w1c d.str.rebindRefused v 1, rebindDone := w1c d.str.rebindDone v 0 } }
  | _ => d

/-- JOB_CTL (R95, R110, R116). ENABLE acts after the W1S bits of the word (notes/assumptions/68.md). -/
def writeJobCtl (d : Dev) (slot : Nat) (v : Word) : Dev :=
  let d := if v.getLsbD 3 then jobAbandon d slot else d
  let d := if v.getLsbD 2 then jobResume d slot else d
  let d := if v.getLsbD 1 then jobPreemptReq d slot else d
  if v.getLsbD 0 then jobEnable d slot else jobDisable d slot

/-- Slot configuration is written in IDLE alone (R92). -/
def whileIdle (d : Dev) (slot : Nat) (f : Job → Job) : Dev :=
  if (d.job slot).state == .idle then d.modJob slot f else d

def writeJob (d : Dev) (slot o : Nat) (v : Word) : Dev :=
  match o with
  | 0x00 => writeJobCtl d slot v
  | 0x04 => d.modJob slot (fun j => { j with doorbellIgnored := w1c j.doorbellIgnored v 19, turnLate := w1c j.turnLate v 16 })
  | 0x0C => whileIdle d slot (fun j => { j with live := v.getLsbD 0 })
  | 0x10 => jobDoorbell d slot v
  | 0x1C => reschedule (d.modJob slot (fun j => { j with cplConsumed := v })) (basinOf slot)
  | 0x38 => whileIdle d slot (fun j => { j with cplLog2 := BitVec.ofNat 5 (wBits v 12 8), cardLog2 := BitVec.ofNat 5 (wBits v 4 0) })
  | _ => d

def writeTrn (d : Dev) (o : Nat) (v : Word) : Dev :=
  match o with
  | 0x00 => { d with trn := { d.trn with flushIgnored := w1c d.trn.flushIgnored v 4, selfAbort := w1c d.trn.selfAbort v 3, slotLate := w1c d.trn.slotLate v 2 } }
  | 0x04 => { d with trn := { d.trn with kfenceTimeout := v } }
  | _ => if 0x1000 ≤ o && o < 0x2000 && o % 0x40 == 4 && v.getLsbD 0 then trnFlush d ((o - 0x1000) / 0x40) else d

def writeClp (d : Dev) (o : Nat) (v : Word) : Dev :=
  let c := d.clp
  match o with
  | 0x08 => setSource d (wBits v 1 0)
  | 0x0C => { d with clp := { c with pulseMissing := w1c c.pulseMissing v 4, unlockSeen := w1c c.unlockSeen v 3, stepped := w1c c.stepped v 2 } }
  | 0x10 =>
    let d := { d with clp := { c with allowStep := v.getLsbD 0 } }
    if v.getLsbD 1 then clpArm d else d
  | 0x14 => { d with clp := { c with pulseFrames := BitVec.ofNat 16 (wBits v 15 0) } }
  | 0x28 => masterRoute { d with clp := { c with master := BitVec.ofNat 12 (wBits v 11 0) } }
  | _ => d

def writeSch (d : Dev) (o : Nat) (v : Word) : Dev :=
  match o with
  | 0x00 => { d with sch := { d.sch with graceOverrun := w1c d.sch.graceOverrun v 0 } }
  | _ => d

def writeFlt (d : Dev) (o : Nat) (v : Word) : Dev :=
  let x := d.flt
  match o with
  | 0x00 => { d with flt := { x with
      clearRefused := w1c x.clearRefused v 4
      logOverflow := w1c x.logOverflow v 3
      abortSeen := w1c x.abortSeen v 2
      fenceSeen := w1c x.fenceSeen v 1
      stopSeen := w1c x.stopSeen v 0 } }
  | 0x08 => { d with flt := { x with logConsumed := v } }
  | _ => d

def writeCnt (d : Dev) (o : Nat) (v : Word) : Dev :=
  match o with
  | 0x00 => if v.getLsbD 0 then { d with cnt := { d.cnt with values := [] } } else d
  | _ => d

def writeHbm (d : Dev) (s o : Nat) (v : Word) : Dev :=
  match o with
  | 0x00 => d.modStack s (fun x => { x with ueSeen := w1c x.ueSeen v 15, ceSeen := w1c x.ceSeen v 14, repairFull := w1c x.repairFull v 13 })
  | 0x04 => d.modStack s (fun x => { x with threshold := BitVec.ofNat 16 (wBits v 15 0) })
  | 0x08 => d.modStack s (fun x => { x with scrub := v.getLsbD 0 })
  | 0x30 => d.modStack s (fun x => { x with lastErr := { x.lastErr with valid := w1c x.lastErr.valid v 31 } })
  | _ => d

def writeWeir (d : Dev) (o : Nat) (v : Word) : Dev :=
  match o with
  | 0x00 => { d with weir := { d.weir with thermalStop := w1c d.weir.thermalStop v 31 } }
  | 0x04 =>
    let d := { d with weir := { d.weir with offset := BitVec.ofNat 4 (wBits v 3 0) } }
    if v.getLsbD 4 then weirClearMax d else d
  | _ => d

/-- A port's registers. In KLZ_PORT_CTL, DISABLE acts after RETRAIN (R365; notes/assumptions/68.md). -/
def writePort (d : Dev) (n o : Nat) (v : Word) : Dev :=
  match o with
  | 0x00 => d.modPort n (fun x => { x with linkLost := w1c x.linkLost v 7 })
  | 0x04 =>
    let d := d.modPort n (fun x => { x with dateline := v.getLsbD 2 })
    let d := if v.getLsbD 1 then klzRetrain d n else d
    if v.getLsbD 0 == (d.port n).disable then d else klzDisable d n (v.getLsbD 0)
  | _ => d

/-- A group register with its new word (R366). -/
def grpWord (x : Grp) (o : Nat) (v : Word) : Grp :=
  match o with
  | 0x00 => { x with slot := wBits v 13 8, root := v.getLsbD 1, valid := v.getLsbD 0 }
  | 0x04 => { x with parentValid := v.getLsbD 20, parent := wBits v 19 16, children := BitVec.ofNat 16 (wBits v 15 0) }
  | 0x08 => { x with absentSeen := w1c x.absentSeen v 7 }
  | _ =>
    if 0x10 ≤ o && o < 0x50 then
      let i := (o - 0x10) / 8
      let r := tabGet {} x.rings i
      let r : Ring := if natBit o 2 then { r with position := wBits v 11 0 } else
        { r with
          valid := v.getLsbD 31
          nextBValid := v.getLsbD 30
          prevBValid := v.getLsbD 29
          size := wBits v 28 16
          nextA := wBits v 15 12
          nextB := wBits v 11 8
          prevA := wBits v 7 4
          prevB := wBits v 3 0 }
      { x with rings := tabSet {} x.rings i r }
    else x

/-- A group's registers are written only while its slot, old and new, is IDLE (R346). -/
def writeGroup (d : Dev) (g o : Nat) (v : Word) : Dev :=
  let x := d.grp g
  let y := grpWord x o v
  if (d.job x.slot).state == .idle && (d.job y.slot).state == .idle then d.setGrp g y else d

def writeCsc (d : Dev) (o : Nat) (v : Word) : Dev :=
  let k := d.klz
  match o with
  | 0x00 => { d with klz := { k with timeoutSeen := w1c k.timeoutSeen v 3, ttlDrop := w1c k.ttlDrop v 2, failed := w1c k.failed v 1 } }
  | 0x04 => { d with klz := { k with requested := BitVec.ofNat 16 (wBits v 15 0) } }
  | 0x08 =>
    let d := { d with klz := { k with
      echoDevice := BitVec.ofNat 12 (wBits v 11 0)
      echoDone := w1c k.echoDone v 30
      echoFailed := w1c k.echoFailed v 29 } }
    if v.getLsbD 31 then klzEchoGo d else d
  | _ => if 0x100 ≤ o && o < 0x900 then writeGroup d ((o - 0x100) / 0x80) (o % 0x80) v else d

def writeStream (d : Dev) (k o : Nat) (v : Word) : Dev :=
  match o with
  | 0x00 =>
    let d := if v.getLsbD 3 then keyReq d k else d
    let d := if v.getLsbD 2 then streamClose d k else d
    if v.getLsbD 1 then streamOpen d k else d
  | 0x04 => d.modStream k (fun x => { x with late := w1c x.late v 7 })
  | 0x18 => d.modStream k (fun x => { x with recordsConsumed := v })
  | 0x20 => d.modStream k (fun x => { x with ringConsumed := v })
  | _ => d

def writeCod (d : Dev) (o : Nat) (v : Word) : Dev :=
  if 0x1000 ≤ o && o < 0x1800 then writeStream d ((o - 0x1000) / 0x40) (o % 0x40) v else d

/-- One 32-bit part of a 128-bit address register. -/
def putPart (x : BitVec 128) (i : Nat) (v : Word) : BitVec 128 :=
  BitVec.ofNat 128 (x.toNat - x.toNat / 2 ^ (32 * i) % 2 ^ 32 * 2 ^ (32 * i) + v.toNat * 2 ^ (32 * i))

/-- A port's registers (R428). -/
def ethWord (c : EthConf) (o : Nat) (v : Word) : EthConf :=
  match o with
  | 0x04 => { c with an := v.getLsbD 2, medium := BitVec.ofNat 2 (wBits v 1 0) }
  | 0x10 => { c with tagged := v.getLsbD 12, vid := BitVec.ofNat 12 (wBits v 11 0) }
  | 0x14 => { c with ipv4 := v }
  | 0x18 => { c with udpPort := BitVec.ofNat 16 (wBits v 15 0) }
  | _ => if 0x20 ≤ o && o < 0x30 then { c with ipv6 := putPart c.ipv6 ((o - 0x20) / 4) v } else c

/-- A connection's registers (R429). -/
def connWord (c : ConnConf) (o : Nat) (v : Word) : ConnConf :=
  match o with
  | 0x00 => { c with
      valid := v.getLsbD 31
      readOnly := v.getLsbD 30
      domain := v.getLsbD 29
      macsec := v.getLsbD 28
      port := BitVec.ofNat 2 (wBits v 27 26)
      encap := BitVec.ofNat 2 (wBits v 25 24)
      units := BitVec.ofNat 8 (wBits v 23 16)
      sa := BitVec.ofNat 4 (wBits v 15 12) }
  | 0x04 => { c with peerPort := BitVec.ofNat 16 (wBits v 15 0) }
  | _ => if 0x08 ≤ o && o < 0x18 then { c with peer := putPart c.peer ((o - 0x08) / 4) v } else c

/-- A CFG or PEER write ends an open session (R401, R414). -/
def connWrite (d : Dev) (h o : Nat) (v : Word) : Dev :=
  if 0x18 ≤ o then d else
    d.modConn h (fun x => { x with conf := connWord x.conf o v, state := if x.state == .opened then .draining else x.state })

def writePld (d : Dev) (o : Nat) (v : Word) : Dev :=
  if o < 0x2000 then
    let n := o / 0x1000
    (match o % 0x1000 with
     | 0x00 => d.modEthp n (fun x => { x with linkLost := w1c x.linkLost v 4 })
     | k => d.modEthp n (fun x => { x with conf := ethWord x.conf k v }))
  else if o == 0x2000 then { d with pld := { d.pld with mgtRefused := w1c d.pld.mgtRefused v 0 } }
  else if 0x3000 ≤ o && o < 0x3800 then connWrite d ((o - 0x3000) / 0x100) (o % 0x100) v
  else d

def writeCore (d : Dev) (c o : Nat) (v : Word) : Dev :=
  match o with
  | 0x00 => d.modCore c (fun x => { x with boundHit := w1c x.boundHit v 8 })
  | _ => if 0x400 ≤ o && o < 0x440 then coreSemAdd d c ((o - 0x400) / 4) v else d

/-- A word that is no half of a pair. -/
def wordWrite (d : Dev) (a : Nat) (v : Word) : Dev :=
  if a < 0x100000 then writeDev d a v
  else if a < 0x200000 then writeStr d (a - 0x100000) v
  else if a < 0x300000 then (if a < 0x240000 then writeJob d ((a - 0x200000) / 0x1000) (a % 0x1000) v else d)
  else if a < 0x400000 then writeTrn d (a - 0x300000) v
  else if a < 0x500000 then writeClp d (a - 0x400000) v
  else if a < 0x600000 then writeSch d (a - 0x500000) v
  else if a < 0x700000 then writeFlt d (a - 0x600000) v
  else if a < 0x800000 then writeCnt d (a - 0x700000) v
  else if a < 0x8C0000 then writeHbm d ((a - 0x800000) / 0x10000) (a % 0x10000) v
  else if a < 0xA00000 then writeWeir d (a - 0x8C0000) v
  else if a < 0xB00000 then writePort d ((a - 0xA00000) / 0x10000) (a % 0x10000) v
  else if a < 0xC00000 then writeCsc d (a - 0xB00000) v
  else if a < 0xD00000 then writeCod d (a - 0xC00000) v
  else if a < 0xE00000 then writePld d (a - 0xD00000) v
  else if a < 0x1000000 then d
  else if a < 0x1900000 then writeCore d ((a - 0x1000000) / 0x10000) (a % 0x10000) v
  else d

/-! ## Pairs (R8) -/

/-- A pair's new value: the LO half when the latch held it. -/
def pairValue (cur : Nat) (lo : Option Word) (hi : Word) : Nat := hi.toNat * 2 ^ 32 + (lo.map (·.toNat)).getD (cur % 2 ^ 32)

/-- A write of a writable pair by its LO offset; the others are read only. -/
def pairWrite (d : Dev) (a : Nat) (lo : Option Word) (hi : Word) : Dev :=
  if a == 0x100010 then { d with str := { d.str with image := BitVec.ofNat 64 (pairValue d.str.image.toNat lo hi % 2 ^ 48) } }
  else if a == 0x400018 then { d with clp := { d.clp with setFrame := BitVec.ofNat 40 (pairValue d.clp.setFrame.toNat lo hi) } }
  else if 0x200000 ≤ a && a < 0x240000 then
    let slot := (a - 0x200000) / 0x1000
    (match a % 0x1000 with
     | 0x20 => whileIdle d slot (fun j => { j with prog := BitVec.ofNat 48 (pairValue j.prog.toNat lo hi) })
     | 0x28 => whileIdle d slot (fun j => { j with cardRing := BitVec.ofNat 48 (pairValue j.cardRing.toNat lo hi) })
     | 0x30 => whileIdle d slot (fun j => { j with cplRing := BitVec.ofNat 48 (pairValue j.cplRing.toNat lo hi) })
     | 0x40 => whileIdle d slot (fun j => { j with firstTurn := BitVec.ofNat 64 (pairValue j.firstTurn.toNat lo hi) })
     | _ => d)
  else if 0xC01000 ≤ a && a < 0xC01800 && a % 0x40 == 0x08 then
    let k := (a - 0xC01000) / 0x40
    if (d.stream k).state == .closed then d.modStream k (fun x => { x with descAddr := BitVec.ofNat 48 (pairValue x.descAddr.toNat lo hi) }) else d
  else if 0xD00000 ≤ a && a < 0xD02000 && a % 0x1000 == 0x08 then
    d.modEthp ((a - 0xD00000) / 0x1000) (fun x => { x with conf := { x.conf with mac := BitVec.ofNat 48 (pairValue x.conf.mac.toNat lo hi) } })
  else d

/-! ## Who may write (R401, R425) -/

/-- The RW registers of the Ethernet ports, and the CFG and PEER registers of the connections. -/
def boardReg (a : Nat) : Bool :=
  decide (0xD00000 ≤ a) && decide (a < 0xE00000) &&
    (let o := a - 0xD00000
     (decide (o < 0x2000) && [0x04, 0x08, 0x0C, 0x10, 0x14, 0x18, 0x20, 0x24, 0x28, 0x2C].contains (o % 0x1000))
       || (decide (0x3000 ≤ o) && decide (o < 0x3800) && a % 4 == 0 && decide (o % 0x100 < 0x18)))

/-- The other registers MGT may write: ETH_STATUS and the receive statistics, PLD_STATUS, and the mailbox registers. -/
def mgtReg (a : Nat) : Bool :=
  a == 0xD02000
    || (decide (0xD00000 ≤ a) && decide (a < 0xD02000) && [0x00, 0x40, 0x44, 0x48, 0x4C].contains (a % 0x1000))
    || (decide (0xE00000 ≤ a) && decide (a < 0xF00000) && a % 4 == 0 &&
      (let o := a - 0xE00000
       o == 0 || (decide (0x100 ≤ o) && decide (o < 0x180)) || (decide (0x1000 ≤ o) && decide (o < 0x2000) && decide (o % 0x80 ≤ 0x44))))

/-- A write that R401 or R425 denies to an accessor. -/
def writeDenied (a : Accessor) (addr : Nat) : Bool :=
  match a with
  | .svp => false
  | .mgt => !(boardReg addr || mgtReg addr)
  | _ => boardReg addr

/-- A register write of an accessor (R6 to R10, R401, R421, R425). -/
def regWrite (d : Dev) (a : Accessor) (addr : Nat) (v : Word) : BusOut :=
  if writeDenied a addr then busRefuse d a 0x94
  else if !regAddrOk addr then busRefuse d a 0x93
  else match mbxGuarded addr with
    | some (c, o) => if o == 0x40 then mbxCtlWrite d a c v else mbxMsgWrite d a c (o / 4) v
    | none =>
      if isPairLo addr then
        busOk { d with writeLatch := tabSet none d.writeLatch (accCode a) (some { pair := addr, half := v }) } 0
      else if isPairHi addr then
        match tabGet none d.writeLatch (accCode a) with
        | some l =>
          if l.pair == addr - 4 then
            busOk (pairWrite { d with writeLatch := tabSet none d.writeLatch (accCode a) none } (addr - 4) (some l.half) v) 0
          else busOk (pairWrite d (addr - 4) none v) 0
        | none => busOk (pairWrite d (addr - 4) none v) 0
      else busOk (wordWrite d addr v) 0

/-! ## The rows of spec/00_scope.md -/

/-- REGISTER_WRITE. -/
def execRegisterWrite (a : Accessor) (addr : Nat) (v : Word) (s : State) : Out :=
  onDev a.wf (fun _ d => noteBus (regWrite d a addr v)) s

/-- A write of one half of a pair, by PAIR_LO_WRITE and PAIR_HI_WRITE. -/
def halfWrite (is : Nat → Bool) (a : Accessor) (addr : Nat) (v : Word) (d : Dev) : Dev :=
  if is addr then noteBus (regWrite d a addr v) else d

/-- PAIR_LO_READ. -/
def execPairLoRead (a : Accessor) (addr : Nat) (s : State) : Out :=
  onDev a.wf (fun nv d => if isPairLo addr then noteBus (regRead nv d a addr) else d) s

/-- PAIR_LO_WRITE. -/
def execPairLoWrite (a : Accessor) (addr : Nat) (v : Word) (s : State) : Out := onDev a.wf (fun _ d => halfWrite isPairLo a addr v d) s

/-- PAIR_HI_WRITE. -/
def execPairHiWrite (a : Accessor) (addr : Nat) (v : Word) (s : State) : Out := onDev a.wf (fun _ d => halfWrite isPairHi a addr v d) s

/-- RC_READ: the read of any word; a counter that a read clears is 0 after it. -/
def execRcRead (a : Accessor) (addr : Nat) (s : State) : Out := onDev a.wf (fun nv d => noteBus (regRead nv d a addr)) s

end Sys2Proof.Machine
end

