-- ==== Sys2Proof/Machine/I3c.lean ====
section
/-! DEFINITION. The management interface: I3C and its SMBus-compatible mode (spec/15_host_attachment.md R423 to R425). -/

namespace Sys2Proof.Machine

/-- The target answers from 40 ms after the release of RESET_N (R423). -/
def i3cAnswers (d : Dev) : Bool := decide (d.sys.released + nsUnits d 40000000 ≤ d.clp.elapsed)

/-- Words of a private write, each at the held offset, which then advances by 4, up to the first one refused. -/
def mgtWrite : Nat → List Byte → Dev → Dev × Bool
  | 0, _, d => (d, false)
  | n + 1, bs, d =>
    if bs.length < 4 then (d, false) else
      let r := regWrite d .mgt d.i3c.offset (BitVec.ofNat 32 (leNat (bs.take 4)))
      let d := { r.1 with bus := r.2 }
      if !(r.2.error == 0) then (d, true)
      else mgtWrite n (bs.drop 4) { d with i3c := { d.i3c with offset := (d.i3c.offset + 4) % 2 ^ 32 } }

/-- A private transfer begins: an unanswered address, and the NACK that a refused write leaves, end it (R423, R425). -/
def i3cTransfer (d : Dev) (f : Dev → Dev) : Dev :=
  if !i3cAnswers d then { d with i3c := { d.i3c with nacked := true } }
  else if d.i3c.nackNext then { d with i3c := { d.i3c with nackNext := false, nacked := true } }
  else f { d with i3c := { d.i3c with nacked := false } }

/-- A private write: 4 bytes of offset, then words; a trailing partial word is discarded. A refused word is shown at once in
SMBus-compatible mode, and by a NACK of the next transfer in I3C mode. -/
def i3cWrite (d : Dev) (bs : List Byte) : Dev :=
  i3cTransfer d (fun d =>
    if bs.length < 4 then d else
      let t := mgtWrite bs.length (bs.drop 4) { d with i3c := { d.i3c with offset := leNat (bs.take 4) } }
      if !t.2 then t.1
      else if t.1.i3c.dynamic.isSome then { t.1 with i3c := { t.1.i3c with nackNext := true } }
      else { t.1 with i3c := { t.1.i3c with nacked := true } })

/-- I3C_PRIVATE_WRITE. -/
def execI3cPrivateWrite (bytes : List Byte) (s : State) : Out := onDev true (fun _ d => i3cWrite d bytes) s

/-- Words of a private read, up to the first one refused. -/
def mgtRead (nv : Nv) : Nat → List Word → Dev → List Word × Dev
  | 0, ws, d => (ws, d)
  | n + 1, ws, d =>
    let r := regRead nv d .mgt d.i3c.offset
    let d := { r.1 with bus := r.2 }
    if !(r.2.error == 0) then (ws, d)
    else mgtRead nv n (ws ++ [r.2.value]) { d with i3c := { d.i3c with offset := (d.i3c.offset + 4) % 2 ^ 32 } }

/-- A private read: a refused first word NACKs the address; a later one ends the read before it. -/
def i3cRead (nv : Nv) (d : Dev) (n : Nat) : Dev :=
  i3cTransfer d (fun d =>
    let t := mgtRead nv n [] d
    { t.2 with i3c := { t.2.i3c with reply := t.1, nacked := t.1.isEmpty && decide (0 < n) } })

/-- I3C_PRIVATE_READ. -/
def execI3cPrivateRead (words : Nat) (s : State) : Out := onDev true (fun nv d => i3cRead nv d words) s

/-- A dynamic address for a target that has none. -/
def assignAddress (d : Dev) (a : BitVec 7) : Dev :=
  if i3cAnswers d && d.i3c.dynamic.isNone then { d with i3c := { d.i3c with dynamic := some a } } else d

/-- ENTDAA: a target without an address sends its provisional ID, most significant byte first, BCR 0x00 and DCR 0x00, and takes the
address (R423). -/
def enterAddress (nv : Nv) (d : Dev) (a : BitVec 7) : Dev :=
  if i3cAnswers d && d.i3c.dynamic.isNone then
    { d with i3c := { d.i3c with dynamic := some a, ident := beBytes 6 (Config.provisionalId nv.serial).toNat ++ [0x00, 0x00] } }
  else d

/-- I3C_ENTDAA. -/
def execI3cEntdaa (addr : BitVec 7) (s : State) : Out := onDev true (fun nv d => enterAddress nv d addr) s

/-- I3C_SETDASA: from the static address 0x52. -/
def execI3cSetdasa (addr : BitVec 7) (s : State) : Out := onDev true (fun _ d => assignAddress d addr) s

/-- I3C_RSTDAA: back to SMBus-compatible mode. -/
def execI3cRstdaa (s : State) : Out :=
  onDev true (fun _ d => if i3cAnswers d then { d with i3c := { d.i3c with dynamic := none } } else d) s

/-- SMBUS_TIMEOUT: the transfer in SMBus-compatible mode ends; the words read so far are all it returns, and there are none left. -/
def execSmbusTimeout (s : State) : Out :=
  onDev true (fun _ d => if d.i3c.dynamic.isNone then { d with i3c := { d.i3c with reply := [] } } else d) s

end Sys2Proof.Machine
end

