-- ==== Sys2Proof/Machine/Outside.lean ====
section
/-! DEFINITION. Accesses to this device's memory and registers from outside it: hosts and remote devices
(spec/03_turns_and_fences.md R57, R59; spec/13_koliz_fabric.md R336 to R339; spec/15_host_attachment.md R413). -/

namespace Sys2Proof.Machine

/-- Why an outside access is turned away (R413 lines 5, 6 and 8). -/
inductive Denial where
  | address | guarded | unready
deriving DecidableEq, Repr

/-- A range of a program image that a slot holds (R170). -/
def imageGuarded (d : Dev) (off n : Nat) : Bool :=
  d.jobs.any (fun e => match e.2.guarded with
    | some g => meet g.1 g.2 off n
    | none => false)

/-- The range of a structure image that is being loaded (R44). -/
def loadGuarded (d : Dev) (off n : Nat) : Bool := loading d && meet d.str.range.1 d.str.range.2 off n

/-- A range of space-0 offsets no outside write may touch (R44, R59, R170, R374). -/
def hbmGuarded (d : Dev) (off n : Nat) : Bool :=
  (!natBit off 47 && rangeGuarded d off n) || streamGuarded d off n || imageGuarded d off n || loadGuarded d off n

/-- From the sample that starts a thermal stop until the stacks are READY again, spaces 0 and 1 are not served (spec/12_hbm.md R315,
R413; notes/assumptions/45.md). -/
def coldSpaces (d : Dev) : Bool := d.sys.state == .thermal || d.flt.thermal

/-- Where an outside access of `n` bytes that crosses no 4 KiB boundary goes: spaces 0 to 2 (R336). -/
def outsidePlace (d : Dev) (write : Bool) (space off n : Nat) : Except Denial Place :=
  match space with
  | 0 =>
    if !hbmOk d off || !decide (off % 2 ^ 40 + n ≤ hbmEnd d) then .error .address
    else if write && hbmGuarded d off n then .error .guarded
    else if coldSpaces d then .error .unready
    else .ok (.cells (hbmCell d off))
  | 1 =>
    match sramPlace d off with
    | none => .error .address
    | some c =>
      if write && inPageCache d off then .error .guarded
      else if coldSpaces d then .error .unready
      else .ok (.cells c)
  | 2 =>
    if !(natBits off 47 27 == 0) then .error .address
    else if write && decide (off < 0x7E00000) then .error .guarded
    else if off < 0x6000000 then .ok (.tables off)
    else .ok (.cells (stagingCell off))
  | _ => .error .address

/-- Bytes from outside to a place, poisoned when they came so (R304, R338). -/
def outsidePut (d : Dev) (pl : Place) (bs : List Byte) (poison : Bool) : Dev :=
  let d := countHbm (placeWrite d pl bs) true pl bs.length
  if !poison then d else
    match pl with
    | .cells c => if decide (c < sramBase) && stackDead d c then d else { d with poison := poisonMark d.poison c bs.length }
    | _ => d

/-! ## Requests of remote devices (R337 to R339) -/

/-- STATUS of a request that is turned away. -/
def denialStatus (e : Denial) : Byte :=
  match e with
  | .unready => 6
  | _ => 2

/-- The size and alignment of a request (R337). -/
def requestShape (space off n : Nat) : Bool :=
  if space == 3 then n == 4 && off % 4 == 0
  else remoteAligned off n && decide (off % 4096 + n ≤ 4096)

/-- A packet's payload is poisoned. -/
def carriesPoison (p : Packet) : Bool := p.flags.getLsbD 1

/-- KLZ_READ at its target. -/
def serveRead (nv : Nv) (d : Dev) (p : Packet) : Dev :=
  let g := p.address.toNat
  let space := natBits g 51 48
  let off := g % 2 ^ 48
  let n := p.bytes.toNat
  if !requestShape space off n then sendResponse d p 2 []
  else if space == 3 then
    let r := regRead nv d (.remote p.src.toNat) off
    if r.2.error == 0 then sendResponse r.1 p 0 (leBytes 4 r.2.value.toNat) else sendResponse r.1 p 2 []
  else match outsidePlace d false space off n with
    | .error e => sendResponse d p (denialStatus e) []
    | .ok pl =>
      let r := placeRead d pl n
      let d := countHbm d false pl n
      if r.2 then sendResponse d p 3 [] else sendResponse d p 0 r.1

/-- The address lies in the core SRAM of a logical core that is being rebound (R363). -/
def sramRebinding (d : Dev) (space off : Nat) : Bool :=
  space == 1 && (tabGet none d.str.rebinds (natBits off 33 26)).isSome

/-- KLZ_WRITE at its target; in space 3 the word is the first 4 bytes of the payload. -/
def serveWrite (d : Dev) (p : Packet) : Dev :=
  let g := p.address.toNat
  let space := natBits g 51 48
  let off := g % 2 ^ 48
  let n := if space == 3 then 4 else p.payload.length
  if !requestShape space off n then sendResponse d p 2 []
  else if space == 3 then
    let r := regWrite d (.remote p.src.toNat) off (BitVec.ofNat 32 (fieldLe p.payload 0 4))
    sendResponse r.1 p (if r.2.error == 0 then 0 else 2) []
  else if sramRebinding d space off then sendResponse d p 2 []
  else match outsidePlace d true space off n with
    | .error e => sendResponse d p (denialStatus e) []
    | .ok pl => sendResponse (outsidePut d pl p.payload (carriesPoison p)) p 0 []

/-- Where a PLAIN entry of a target's tables leads a VIEW request: what is refused to every remote device is refused here too
(R336, spec/07_loop_nests.md R170, spec/14_video_codec.md R374). One that leads to a third device, or nowhere, is a translation fault of
the target. -/
def viewPlain (d : Dev) (write : Bool) (g n : Nat) : Except Byte Place :=
  let space := natBits g 51 48
  let off := g % 2 ^ 48
  if !(g / 2 ^ 52 == d.ownDevice) then .error 5
  else if write && sramRebinding d space off then .error 2
  else match outsidePlace d write space off n with
    | .ok pl => .ok pl
    | .error .address => .error 5
    | .error e => .error (denialStatus e)

/-- Where a VIEW request lands in the tables of the slot it names, or the STATUS that refuses it (R53, R339). -/
def viewPlace (d : Dev) (write : Bool) (slot va n : Nat) : Except Byte Place :=
  if 64 ≤ slot || (d.job slot).image.isNone || d.sys.state == .stopped || d.sys.state == .thermal then .error 4
  else if !remoteAligned va n || !decide (va % 4096 + n ≤ 4096) then .error 2
  else match walk d slot va with
    | .ok (.plain base size flags) =>
      if granted flags write then viewPlain d write (base + va % size) n else .error 5
    | .ok (.committed _ cur next flags ep) =>
      let f := currentFrame (d.tslot slot).epoch cur next flags ep
      if write || !granted flags false || !curMapped d cur then .error 5
      else if f == noFrame then .ok .zeros
      else .ok (.cells (hbmCell d (f * 0x10000 + va % 0x10000)))
    | .ok (.view _ _ _) => .error 5
    | .error e => .error (if e.reason == 0xA3 then 3 else 5)

/-- KLZ_VIEW_READ at its target. -/
def serveViewRead (d : Dev) (p : Packet) : Dev :=
  let n := p.bytes.toNat
  match viewPlace d false p.slotGroup.toNat p.address.toNat n with
  | .error st => sendResponse d p st []
  | .ok pl =>
    let r := placeRead d pl n
    let d := countHbm d false pl n
    if r.2 then sendResponse d p 3 [] else sendResponse d p 0 r.1

/-- KLZ_VIEW_WRITE at its target. -/
def serveViewWrite (d : Dev) (p : Packet) : Dev :=
  match viewPlace d true p.slotGroup.toNat p.address.toNat p.payload.length with
  | .error st => sendResponse d p st []
  | .ok pl => sendResponse (outsidePut d pl p.payload (carriesPoison p)) p 0 []

/-- A request that ends here, by its type. -/
def serve (nv : Nv) (d : Dev) (p : Packet) : Dev :=
  match p.type.toNat with
  | 1 => serveRead nv d p
  | 2 => serveWrite d p
  | 3 => serveViewRead d p
  | _ => serveViewWrite d p

/-- A request of one type arrives at a port. -/
def requestArrives (type : Byte) (port : Nat) (p : Packet) (nv : Nv) (d : Dev) : Dev :=
  if p.type == type then arrive d port p (fun d => serve nv d p) else d

/-- KLZ_READ. -/
def execKlzRead (port : Nat) (p : Packet) (s : State) : Out := onDev (is16 port) (requestArrives tyRead port p) s
/-- KLZ_WRITE. -/
def execKlzWrite (port : Nat) (p : Packet) (s : State) : Out := onDev (is16 port) (requestArrives tyWrite port p) s
/-- KLZ_VIEW_READ. -/
def execKlzViewRead (port : Nat) (p : Packet) (s : State) : Out := onDev (is16 port) (requestArrives tyViewRead port p) s
/-- KLZ_VIEW_WRITE. -/
def execKlzViewWrite (port : Nat) (p : Packet) (s : State) : Out := onDev (is16 port) (requestArrives tyViewWrite port p) s

end Sys2Proof.Machine
end

