-- ==== Sys2Proof/Machine/Pld.lean ====
section
/-! DEFINITION. Ethernet ports, Plaldaul connections and the operations of hosts (spec/15_host_attachment.md R395 to R416). -/

namespace Sys2Proof.Machine

/-! ## Requests and responses (R403, R404, R410, R411, R413) -/

/-- A field of a request's header. -/
def PldReq.u (r : PldReq) (off n : Nat) : Nat := fieldLe r.bytes off n
def PldReq.len (r : PldReq) : Nat := r.u 0x0E 2
def PldReq.addr (r : PldReq) : Nat := r.u 0x10 8
def PldReq.arg (r : PldReq) : Nat := r.u 0x18 4
def PldReq.body (r : PldReq) : List Byte := sliceBytes r.bytes 32 r.len

/-- A settled request: STATUS, DETAIL, ARG and the payload of its response. -/
structure Answer where
  status  : Nat := 0
  detail  : Nat := 0
  arg     : Nat := 0
  payload : List Byte := []
deriving DecidableEq, Repr

/-- BUS_ERROR with a reason. -/
def busError (reason : Nat) : Answer := { status := 1, detail := reason }

/-- SACK: which of the 32 numbers above EXPECT have been received (R411). -/
def sackOf (c : Conn) (expect : Nat) : Nat :=
  match c.state with
  | .closed => 0
  | _ => ((List.range 32).map (fun i => bit (seqReceived c (seqMod (expect + 1 + i))) * 2 ^ i)).sum

/-- The bytes of a response in a session. -/
def responseBytes (c : Conn) (r : PldReq) (session : Nat) (a : Answer) : List Byte :=
  let ex := expectSeq c
  leBytes 1 1 ++ leBytes 1 r.op ++ leBytes 1 1 ++ leBytes 1 a.status ++ leBytes 3 r.seq ++ leBytes 1 a.detail ++ leBytes 3 ex ++ leBytes 1 0
    ++ leBytes 2 session ++ leBytes 2 a.payload.length ++ leBytes 8 r.addr ++ leBytes 4 a.arg ++ leBytes 4 (sackOf c ex) ++ a.payload

/-- The encapsulation of an answer: addresses and ports swapped (R398). -/
def swapEncap (e : Encap) : Encap :=
  match e with
  | .udp4 src dst sp dp _ => .udp4 dst src dp sp true
  | .udp6 src dst sp dp _ => .udp6 dst src dp sp true
  | e => e

/-- A frame leaves by the port its request came on, protected by the transmit association of a MACSEC slot (R395, R399); it
is lost where the link is down or no packet number is left. -/
def sendBack (d : Dev) (h : Nat) (b : Back) (bytes : List Byte) : Dev :=
  let c := (d.conn h).conf
  if !(d.ethp b.port).linkUp || pnExhausted d c then d else
    let a := d.assoc c.sa.toNat
    let sec := if c.macsec then some (c.sa.toNat, a.anTx, BitVec.ofNat 64 a.txPn) else none
    let d := if c.macsec then d.setAssoc c.sa.toNat { a with txPn := a.txPn + 1 } else d
    { d with pld := { d.pld with out := d.pld.out ++ [{ port := b.port, dest := b.mac, vlan := b.vlan, macsec := sec, encap := swapEncap b.encap, data := bytes }] } }

/-- A request that is answered at once and is part of no session's window. -/
def answerOnce (d : Dev) (h : Nat) (r : PldReq) (a : Answer) : Dev :=
  sendBack d h r.back (responseBytes (d.conn h) r (r.u 0x0C 2) a)

/-- A connection's entry of the response cache (R410). -/
def replyCell (h s : Nat) : Nat := stagingCell (0x6000000 + h * 0x40000 + 512 * (s % 512))

/-- A MEM_RD longer than 256 bytes is not cached (R410). -/
def longRead (r : PldReq) : Bool := r.op == 3 && decide (256 < r.arg)

/-- The request with this number. -/
def Conn.find (c : Conn) (s : Nat) : Option PldReq := c.reqs.find? (fun r => r.seq == s)

/-- The request with its number replaced. -/
def Conn.put (c : Conn) (r : PldReq) : Conn := { c with reqs := c.reqs.map (fun q => if q.seq == r.seq then r else q) }

/-- A request settles: its response is cached and sent, or in DRAINING discarded (R410, R413, R414). -/
def settle (d : Dev) (h : Nat) (r : PldReq) (a : Answer) : Dev :=
  let c := d.conn h
  let live := c.state == .opened
  let keep := live && !longRead r
  let bytes := responseBytes c r c.session.toNat a
  let d := d.setConn h { c.put { r with phase := .answered keep, left := 0, parts := [] } with requests := sat32 c.requests }
  let d := if keep then d.cellPut (replyCell h r.seq) bytes else d
  if live then sendBack d h r.back bytes else d

/-- The response the cache holds. -/
def cachedResponse (d : Dev) (h s : Nat) : List Byte :=
  let c := replyCell h s
  memRead d.mem c (32 + leNat (memRead d.mem (c + 0x0E) 2))

/-! ## The checks before an operation (R402, R406, R413 lines 3 and 4) -/

/-- The connection's payload limit in bytes (R402, R429). -/
def payloadLimit (c : ConnConf) : Nat := 64 * max 1 (min c.units.toNat 128)

/-- A MEM length and its space (R406). -/
def memLengthOk (space n : Nat) : Bool :=
  if space == 3 then n == 4 else n % 16 == 0 && decide (16 ≤ n) && decide (n ≤ 8192)

/-- The header fields that are 0 in a request. -/
def reservedOk (r : PldReq) : Bool :=
  natBits (r.u 2 1) 7 2 == 0 && r.u 3 1 == 0 && r.u 7 1 == 0 && r.u 0x0B 1 == 0 && r.u 0x1C 4 == 0

/-- LENGTH, ARG and ADDRESS fit the operation (R404, R413 line 3). -/
def operandsOk (r : PldReq) (limit : Nat) : Bool :=
  let n := r.len
  let a := r.arg
  let ad := r.addr
  let count := decide (1 ≤ a) && decide (a ≤ 64)
  match r.op with
  | 1 => ad / 2 ^ 32 == 0 && count && n == 0
  | 2 => ad / 2 ^ 32 == 0 && count && n == 4 * a
  | 3 => memLengthOk (natBits ad 51 48) a && decide (a ≤ limit) && n == 0
  | 4 => memLengthOk (natBits ad 51 48) a && n == a
  | 5 => ad == 0 && decide (1 ≤ a) && decide (a ≤ 32) && n == 8 * a
  | 6 => ad == 0 && a == 0 && n == 0
  | 7 => n == 0
  | 8 => a == 0 && n == 64
  | 9 => a / 2 == 0 && n == 0
  | 15 => ad == 0 && a / 2 ^ 16 == 0 && n == 0
  | _ => false

/-- The request's form is right for its connection. -/
def formOk (d : Dev) (h : Nat) (r : PldReq) : Bool :=
  let limit := payloadLimit (d.conn h).conf
  reservedOk r && decide (r.len ≤ limit) && operandsOk r limit

/-- READ_ONLY (R402). -/
def readOnlyDenies (c : ConnConf) (r : PldReq) : Bool :=
  c.readOnly && (r.op == 2 || r.op == 4 || r.op == 7 || r.op == 8 || (r.op == 9 && natBit r.arg 0))

/-- A memory operation names another device (R406). -/
def namesRemote (d : Dev) (r : PldReq) : Bool := (r.op == 3 || r.op == 4) && !(r.addr / 2 ^ 52 == d.ownDevice)

/-- Lines 3 and 4 of R413 turn the request away. -/
def turnedAway (d : Dev) (h : Nat) (r : PldReq) : Option Answer :=
  if !formOk d h r then some (busError 0x95)
  else if readOnlyDenies (d.conn h).conf r || (namesRemote d r && !(d.conn h).conf.domain) then some (busError 0x94)
  else none

/-- A PLD row executes a received request of its operation (R409): settled by lines 3 and 4, else by `f`. Nothing executes
once the packet numbers are used up (R399). -/
def pldExec (h seq op : Nat) (f : Dev → PldReq → Dev) (d : Dev) : Dev :=
  match (d.conn h).find seq with
  | some r =>
    if !(r.op == op) || !(r.phase == .received) || pnExhausted d (d.conn h).conf then d
    else match turnedAway d h r with
      | some a => settle d h r a
      | none => f d r
  | none => d

/-! ## REG_RD and REG_WR (R405) -/

/-- Words read in ascending order up to the first one refused, and its reason. -/
def readWords (nv : Nv) (h addr : Nat) : Nat → Nat → Dev → List Word × Byte × Dev
  | 0, _, d => ([], 0, d)
  | n + 1, i, d =>
    let r := regRead nv d (.host h) (addr + 4 * i)
    if r.2.error == 0 then
      let t := readWords nv h addr n (i + 1) r.1
      (r.2.value :: t.1, t.2.1, t.2.2)
    else ([], r.2.error, r.1)

/-- Words written in ascending order up to the first one refused: how many, and the reason. -/
def writeWords (h addr : Nat) (body : List Byte) : Nat → Nat → Dev → Nat × Byte × Dev
  | 0, _, d => (0, 0, d)
  | n + 1, i, d =>
    let r := regWrite d (.host h) (addr + 4 * i) (BitVec.ofNat 32 (fieldLe body (4 * i) 4))
    if r.2.error == 0 then
      let t := writeWords h addr body n (i + 1) r.1
      (t.1 + 1, t.2.1, t.2.2)
    else (0, r.2.error, r.1)

def pldRegRd (h : Nat) (nv : Nv) (d : Dev) (r : PldReq) : Dev :=
  let t := readWords nv h r.addr r.arg 0 d
  settle t.2.2 h r { status := bit (!(t.2.1 == 0)), detail := t.2.1.toNat, arg := t.1.length, payload := t.1.flatMap (fun w => leBytes 4 w.toNat) }

/-- PLD_REG_RD. -/
def execPldRegRd (h seq : Nat) (s : State) : Out := onDev (is8 h && isSeq seq) (fun nv d => pldExec h seq 1 (pldRegRd h nv) d) s

def pldRegWr (h : Nat) (d : Dev) (r : PldReq) : Dev :=
  let t := writeWords h r.addr r.body r.arg 0 d
  settle t.2.2 h r { status := bit (!(t.2.1 == 0)), detail := t.2.1.toNat, arg := t.1 }

/-- PLD_REG_WR. -/
def execPldRegWr (h seq : Nat) (s : State) : Out := onDev (is8 h && isSeq seq) (fun _ d => pldExec h seq 2 (pldRegWr h) d) s

/-! ## MEM_RD and MEM_WR (R406) -/

/-- The places of a local range, or the first line of R413 that turns it away. -/
def memPlaces (d : Dev) (write : Bool) (g n : Nat) : Except Denial (List (Place × Nat × Nat)) :=
  let off := g % 2 ^ 48
  let ps := (pieces off n).map (fun p => (p, outsidePlace d write (natBits g 51 48) p.1 p.2))
  let has (e : Denial) : Bool := ps.any (fun p => match p.2 with
    | .error e2 => e2 == e
    | .ok _ => false)
  if off % 16 != 0 || has .address then .error .address
  else if has .guarded then .error .guarded
  else if has .unready then .error .unready
  else .ok (ps.filterMap (fun p => match p.2 with
    | .ok pl => some (pl, p.1.1 - off, p.1.2)
    | .error _ => none))

/-- The answer to a range that is turned away. -/
def denialAnswer (e : Denial) : Answer :=
  match e with
  | .address => busError 0x93
  | .guarded => busError 0x92
  | .unready => { status := 3 }

/-- Offset, from the start of a place, of the first poisoned 64-byte burst. -/
def firstPoison (d : Dev) (pl : Place) (n : Nat) : Option Nat :=
  match pl with
  | .cells c => (badUnits d c n).head?.map (fun u => 64 * u - c)
  | _ => none

/-- A word of space 3 (R406). -/
def regAnswer (r : BusOut) (payload : List Byte) : Answer := if r.2.error == 0 then { payload := payload } else busError r.2.error.toNat

def memRdLocal (h : Nat) (nv : Nv) (d : Dev) (r : PldReq) : Dev :=
  if natBits r.addr 51 48 == 3 then
    let t := regRead nv d (.host h) (r.addr % 2 ^ 48)
    settle t.1 h r (regAnswer t (leBytes 4 t.2.value.toNat))
  else match memPlaces d false r.addr r.arg with
    | .error e => settle d h r (denialAnswer e)
    | .ok ps =>
      let data := ps.flatMap (fun p => (placeRead d p.1 p.2.2).1)
      let bad := ps.findSome? (fun p => (firstPoison d p.1 p.2.2).map (· + p.2.1))
      let d := ps.foldl (fun d p => countHbm d false p.1 p.2.2) d
      settle d h r (match bad with
        | some o => { status := 2, arg := o, payload := data }
        | none => { payload := data })

def memWrLocal (h : Nat) (d : Dev) (r : PldReq) : Dev :=
  if natBits r.addr 51 48 == 3 then
    let t := regWrite d (.host h) (r.addr % 2 ^ 48) (BitVec.ofNat 32 (fieldLe r.body 0 4))
    settle t.1 h r (regAnswer t [])
  else match memPlaces d true r.addr r.arg with
    | .error e => settle d h r (denialAnswer e)
    | .ok ps =>
      settle (ps.foldl (fun d p => outsidePut d p.1 (sliceBytes r.body p.2.1 p.2.2) false) d) h r {}

/-- One part of a remote request leaves, or is unreachable at once: the state, and whether it left. -/
def sendPart (d : Dev) (h : Nat) (r : PldReq) (off n : Nat) : Dev × Bool :=
  let g := r.addr + off
  let w := if r.op == 4 then some (sliceBytes r.body off n) else none
  match requestPacket d (.remote g) w n false with
  | none => (d, false)
  | some p => match sendRequest d p n 0 (.host h r.seq off) with
    | some d2 => (d2, true)
    | none => (d, false)

/-- The lower of a known failing part and another. -/
def firstFailed (a : Option (Nat × Nat)) (off code : Nat) : Option (Nat × Nat) :=
  match a with
  | some x => if x.1 < off then some x else some (off, code)
  | none => some (off, code)

/-- The answer of a remote request whose parts have all ended (R413 lines 9 to 11). -/
def remoteAnswer (r : PldReq) : Answer :=
  match r.failed, r.poison with
  | some x, _ => { status := 5, detail := x.2 }
  | none, some o => { status := 2, arg := o, payload := (r.parts.flatMap (·.2)).take r.arg }
  | none, none => { payload := if r.op == 3 then (r.parts.flatMap (·.2)).take r.arg else [] }

/-- A remote MEM_RD or MEM_WR: parts at 4 KiB boundaries (R337, R406). -/
def memRemote (h : Nat) (d : Dev) (r : PldReq) : Dev :=
  let off := r.addr % 2 ^ 48
  let space := natBits r.addr 51 48
  if decide (4 ≤ space) || !(off % (if space == 3 then 4 else 16) == 0) then settle d h r (busError 0x93)
  else
    let t := (pieces off r.arg).foldl (fun (acc : Dev × PldReq) p =>
      let s := sendPart acc.1 h acc.2 (p.1 - off) p.2
      (s.1, if s.2 then { acc.2 with left := acc.2.left + 1 } else { acc.2 with failed := firstFailed acc.2.failed (p.1 - off) 0x63 }))
      (d, { r with phase := .remote, left := 0, parts := [], failed := none, poison := none })
    if t.2.left == 0 then settle t.1 h t.2 (remoteAnswer t.2)
    else t.1.modConn h (fun c => c.put t.2)

/-- A part of a remote request ends: its Koliz code when it failed, its data, or poison. -/
def hostPart (d : Dev) (h seq off : Nat) (code : Option Nat) (data : List Byte) (poisoned : Bool) : Dev :=
  match (d.conn h).find seq with
  | none => d
  | some r =>
    if !(r.phase == .remote) then d else
      let r := { r with left := r.left - 1 }
      let r := match code with
        | some k => { r with failed := firstFailed r.failed off k }
        | none => if poisoned then { r with poison := some (min off (r.poison.getD off)) } else { r with parts := tabSet [] r.parts off data }
      if r.left == 0 then settle d h r (remoteAnswer r) else d.modConn h (fun c => c.put r)

/-- PLD_MEM_RD. -/
def execPldMemRd (h seq : Nat) (s : State) : Out :=
  onDev (is8 h && isSeq seq) (fun nv d => pldExec h seq 3 (fun d r => if namesRemote d r then memRemote h d r else memRdLocal h nv d r) d) s

/-- PLD_MEM_WR. -/
def execPldMemWr (h seq : Nat) (s : State) : Out :=
  onDev (is8 h && isSeq seq) (fun _ d => pldExec h seq 4 (fun d r => if namesRemote d r then memRemote h d r else memWrLocal h d r) d) s

/-! ## POLL (R407) -/

/-- The entry before it names an earlier word of the same aligned 32-byte unit, so that one access reads both. -/
def sameAccess (before g : Nat) : Bool := before % 2 ^ 52 / 32 == g % 2 ^ 52 / 32 && decide (before % 2 ^ 52 < g % 2 ^ 52)

/-- One entry: the word, or the reason it failed. An entry that the access before it has read counts no read of its own. -/
def pollEntry (h : Nat) (nv : Nv) (d : Dev) (joined : Bool) (g : Nat) : Dev × Word × Nat :=
  let space := natBits g 51 48
  let off := g % 2 ^ 48
  if space == 3 then
    let r := regRead nv d (.host h) off
    (r.1, if r.2.error == 0 then r.2.value else 0, r.2.error.toNat)
  else match outsidePlace d false space off 4 with
    | .error _ => (d, 0, 0x93)
    | .ok pl =>
      let r := placeRead d pl 4
      let d := if joined then d else countHbm d false pl 4
      if r.2 then (d, 0, 0xA3) else (d, BitVec.ofNat 32 (leNat r.1), 0)

/-- An entry whose space and alignment R407 allows. -/
def pollShape (g : Nat) : Bool := [0, 2, 3].contains (natBits g 51 48) && g % 4 == 0

def pldPoll (h : Nat) (nv : Nv) (d : Dev) (r : PldReq) : Dev :=
  let es := (List.range r.arg).map (fun i => fieldLe r.body (8 * i) 8)
  if !es.all pollShape then settle d h r (busError 0x93)
  else if coldSpaces d && es.any (fun g => natBits g 51 48 == 0) then settle d h r { status := 3 }
  else
    let t := (es.zip (none :: es.map some)).foldl (fun (acc : Dev × List (Word × Nat)) g =>
      let e := pollEntry h nv acc.1 (g.2.any (fun b => sameAccess b g.1)) g.1
      (e.1, acc.2 ++ [e.2])) (d, [])
    settle t.1 h r
      { detail := ((t.2.find? (fun e => !(e.2 == 0))).map (·.2)).getD 0
        arg := ((t.2.zipIdx).map (fun e => bit (!(e.1.2 == 0)) * 2 ^ e.2)).sum
        payload := t.2.flatMap (fun e => leBytes 4 e.1.toNat) }

/-- PLD_POLL. -/
def execPldPoll (h seq : Nat) (s : State) : Out := onDev (is8 h && isSeq seq) (fun nv d => pldExec h seq 5 (pldPoll h nv) d) s

/-! ## HOSTFENCE and DOORBELL (R63, R97, R412) -/

/-- Every number from L up to `s` has been received; DRAINING abandons the others (R412, R414). -/
def noGap (c : Conn) (s : Nat) : Bool :=
  c.state == .draining || (List.range (seqDiff s c.low).toNat).all (fun i => seqReceived c (seqMod (c.low + i)))

/-- The request has been answered. -/
def answeredReq (r : PldReq) : Bool :=
  match r.phase with
  | .answered _ => true
  | _ => false

/-- Every earlier request that `p` picks has been answered. -/
def earlierDone (c : Conn) (s : Nat) (p : PldReq → Bool) : Bool :=
  c.reqs.all (fun r => !(decide (seqDiff r.seq s < 0) && p r) || answeredReq r)

/-- A DOORBELL acts: JOB_DOORBELL of the slot is written. -/
def ringBell (h : Nat) (d : Dev) (r : PldReq) : Dev := settle (jobDoorbell d r.addr (BitVec.ofNat 32 r.arg)) h r {}

/-- No HOSTFENCE with an earlier number is left (R97). -/
def bellFree (c : Conn) (s : Nat) : Bool := noGap c s && earlierDone c s (fun r => r.op == 6)

/-- The doorbells that waited for HOSTFENCEs act once none is left. -/
def releaseBells (d : Dev) (h : Nat) : Dev :=
  ((d.conn h).reqs.filter (fun r => r.op == 7 && r.phase == .waiting)).foldl (fun d r => if bellFree (d.conn h) r.seq then ringBell h d r else d) d

/-- PLD_HOSTFENCE: the fence waits to complete. -/
def execPldHostfence (h seq : Nat) (s : State) : Out :=
  onDev (is8 h && isSeq seq) (fun _ d => pldExec h seq 6 (fun d r => d.modConn h (fun c => c.put { r with phase := .waiting })) d) s

/-- The waiting HOSTFENCE with the lowest number. -/
def nextFence (c : Conn) : Option PldReq :=
  let ws := c.reqs.filter (fun r => r.op == 6 && r.phase == .waiting)
  ws.find? (fun r => ws.all (fun q => decide (0 ≤ seqDiff q.seq r.seq)))

/-- HOSTFENCE_COMPLETE: in sequence order, once every earlier MEM_WR and REG_WR has been executed and every earlier number has
been received or abandoned. -/
def hostfenceComplete (d : Dev) (h : Nat) : Dev :=
  let c := d.conn h
  match nextFence c with
  | none => d
  | some r =>
    if !noGap c r.seq || !earlierDone c r.seq (fun q => q.op == 2 || q.op == 4 || q.op == 6) then d else
      let n := tabGet 0 d.trn.hostfenceDone h + 1
      let d := { d with trn := { d.trn with hostfenceDone := tabSet 0 d.trn.hostfenceDone h n } }
      releaseBells (settle d h r { arg := n.toNat }) h

def execHostfenceComplete (h : Nat) (s : State) : Out := onDev (is8 h) (fun _ d => hostfenceComplete d h) s

def pldDoorbell (h : Nat) (d : Dev) (r : PldReq) : Dev :=
  if 64 ≤ r.addr then settle d h r (busError 0x93)
  else if bellFree (d.conn h) r.seq then ringBell h d r
  else d.modConn h (fun c => c.put { r with phase := .waiting })

/-- PLD_DOORBELL. -/
def execPldDoorbell (h seq : Nat) (s : State) : Out := onDev (is8 h && isSeq seq) (fun _ d => pldExec h seq 7 (pldDoorbell h) d) s

/-! ## Mailbox operations (R421, R422) -/

def pldMbxWr (h : Nat) (d : Dev) (r : PldReq) : Dev :=
  if 32 ≤ r.addr then settle d h r (busError 0x93)
  else
    let t := mbxSend d (.host h) r.addr ((List.range 16).map (fun i => BitVec.ofNat 32 (fieldLe r.body (4 * i) 4)))
    settle t.1 h r (regAnswer t [])

/-- PLD_MBX_WR. -/
def execPldMbxWr (h seq : Nat) (s : State) : Out := onDev (is8 h && isSeq seq) (fun _ d => pldExec h seq 8 (pldMbxWr h) d) s

/-- MBX_RD: the registers, FULL and COUNT of one instant; RELEASE acts when the channel is FULL and the caller its receiver. -/
def pldMbxRd (h : Nat) (d : Dev) (r : PldReq) : Dev :=
  if 32 ≤ r.addr then settle d h r (busError 0x93)
  else
    let x := d.mbxc r.addr
    if !(mbxIsSender x (.host h) || mbxIsReceiver x (.host h)) then settle (mbxRefuse d (.host h) r.addr 0x91).1 h r (busError 0x91)
    else
      let a : Answer := { arg := bit x.full + x.count.toNat * 0x10000, payload := (mbxWords x).flatMap (fun w => leBytes 4 w.toNat) }
      settle (if natBit r.arg 0 && mbxIsReceiver x (.host h) then (mbxRelease d (.host h) r.addr).1 else d) h r a

/-- PLD_MBX_RD. -/
def execPldMbxRd (h seq : Nat) (s : State) : Out := onDev (is8 h && isSeq seq) (fun _ d => pldExec h seq 9 (pldMbxRd h) d) s

/-! ## Sessions (R414) -/

/-- The OPEN that waits takes effect: a new session with L = SEQ + 1, and its response. -/
def openSession (d : Dev) (h : Nat) (r : PldReq) : Dev :=
  let c := d.conn h
  let n := BitVec.ofNat 16 r.arg
  let c := { c with state := .opened, session := n, openSeq := r.seq, low := seqMod (r.seq + 1), reqs := [], opening := none, requests := sat32 c.requests }
  let bytes := responseBytes c r n.toNat {}
  sendBack (d.setConn h { c with openReply := bytes }) h r.back bytes

/-- PLD_OPEN: with a session open, that session drains first; a malformed OPEN changes nothing. -/
def pldOpen (d : Dev) (h seq : Nat) : Dev :=
  let c := d.conn h
  match c.opening with
  | none => d
  | some r =>
    if !(r.seq == seq) || pnExhausted d c.conf then d
    else if !formOk d h r then answerOnce (d.setConn h { c with opening := none, requests := sat32 c.requests }) h r (busError 0x95)
    else match c.state with
      | .closed => openSession d h r
      | .opened => releaseBells (d.setConn h { c with state := .draining }) h
      | .draining => d

def execPldOpen (h seq : Nat) (s : State) : Out := onDev (is8 h && isSeq seq) (fun _ d => pldOpen d h seq) s

/-- SESSION_DRAIN_DONE: every request of the old session has finished; doorbells that waited for an abandoned number act first. -/
def sessionDrainDone (d : Dev) (h : Nat) : Dev :=
  let d := if (d.conn h).state == .draining then releaseBells d h else d
  let c := d.conn h
  if !(c.state == .draining) || !c.reqs.all answeredReq then d
  else match c.opening with
    | some r => openSession d h r
    | none => d.setConn h { c with state := .closed, session := 0, openSeq := 0, openReply := [], low := 0, reqs := [] }

def execSessionDrainDone (h : Nat) (s : State) : Out := onDev (is8 h) (fun _ d => sessionDrainDone d h) s

/-! ## Arrival of a request (R403, R409, R415) -/

/-- A number of the open session (R409). -/
def takeNumber (d : Dev) (h : Nat) (r : PldReq) : Dev :=
  let c := d.conn h
  let hl := r.u 8 3
  let step := seqDiff hl c.low
  let low := if decide (0 < step) && decide (step < 512) then hl else c.low
  let c := { c with low := low, reqs := c.reqs.filter (fun q => !(answeredReq q) || decide (0 ≤ seqDiff q.seq low)) }
  let s := seqDiff r.seq low
  if decide (s < 0) || decide (512 ≤ s) then d.setConn h { c with window := sat32 c.window }
  else match c.find r.seq with
    | some q =>
      (match q.phase with
       | .answered true => sendBack (d.setConn h { c with duplicates := sat32 c.duplicates }) h r.back (cachedResponse d h r.seq)
       | .answered false => d.setConn h (c.put { q with phase := .received, back := r.back })
       | _ => d.setConn h c)
    | none =>
      let d := d.setConn h { c with reqs := c.reqs ++ [r] }
      if ([1, 2, 3, 4, 5, 6, 7, 8, 9].contains r.op) then d else settle d h r (busError 0x95)

/-- A well-formed request of a bound peer. -/
def takeRequest (d : Dev) (h : Nat) (r : PldReq) : Dev :=
  let c := d.conn h
  if beforeReady d then
    if c.lastNotReady == 0 || decide (nsUnits d 1000000 ≤ d.clp.elapsed + 1 - c.lastNotReady) then
      answerOnce (d.setConn h { c with lastNotReady := d.clp.elapsed + 1 }) h r { status := 3 }
    else d.setConn h { c with rate := sat32 c.rate }
  else match c.state, r.op == 15 with
    | .draining, _ => d.setConn h { c with window := sat32 c.window }
    | .opened, true =>
      if c.session == BitVec.ofNat 16 r.arg && c.openSeq == r.seq then
        sendBack (d.setConn h { c with duplicates := sat32 c.duplicates }) h r.back c.openReply
      else if c.opening.isSome then d else d.setConn h { c with opening := some r }
    | .closed, true => if c.opening.isSome then d else d.setConn h { c with opening := some r }
    | .closed, false => answerOnce d h r { status := 4 }
    | .opened, false =>
      if r.u 0x0C 2 == c.session.toNat then releaseBells (takeNumber d h r) h else answerOnce d h r { status := 4 }

/-- A Plaldaul frame of connection `h`: its header is checked (R403). -/
def plaldaul (d : Dev) (h : Nat) (b : Back) (data : List Byte) : Dev :=
  let n := fieldLe data 0x0E 2
  if decide (data.length < 32) || !(fieldLe data 0 1 == 1) || natBit (fieldLe data 2 1) 0 || decide (data.length < 32 + n)
  then { d with pld := { d.pld with rxBad := sat32 d.pld.rxBad } }
  else takeRequest d h { seq := fieldLe data 4 3, op := fieldLe data 1 1, back := b, bytes := data.take (32 + n) }

/-! ## Frames (R397 to R400) -/

/-- The port accepts the frame's destination (R397). -/
def frameDestOk (c : EthConf) (f : EthFrame) : Bool :=
  match f.dest, f.encap with
  | .unicast m, _ => m == c.mac
  | .broadcast, .arp _ => true
  | .solicited ip, .ns _ => ip == c.ipv6
  | _, _ => false

/-- The port accepts the frame's tag (R397). -/
def vlanOk (c : EthConf) (f : EthFrame) : Bool :=
  match f.vlan with
  | none => !c.tagged
  | some v => c.tagged && v.2 == c.vid

/-- The encapsulation is one the port answers (R398). -/
def encapOk (c : EthConf) (f : EthFrame) : Bool :=
  match f.encap with
  | .raw => true
  | .udp4 _ dst _ dp ok => ok && dst == c.ipv4 && !(c.ipv4 == 0) && dp == c.udpPort
  | .udp6 _ dst _ dp ok => ok && dst == c.ipv6 && !(c.ipv6 == 0) && dp == c.udpPort
  | .arp t => t == c.ipv4 && !(c.ipv4 == 0)
  | .ns t => t == c.ipv6 && !(c.ipv6 == 0)
  | .other => false

/-- The frame comes from the slot's peer, by the slot's port and encapsulation (R400). -/
def peerOk (c : ConnConf) (port : Nat) (f : EthFrame) : Bool :=
  let byPort := c.port.toNat == 2 || c.port.toNat == port
  c.valid && byPort && (match f.encap with
    | .raw => c.encap == 0 && f.src.toNat == c.peer.toNat % 2 ^ 48
    | .udp4 src _ sp _ _ => c.encap == 1 && src.toNat == c.peer.toNat % 2 ^ 32 && (c.peerPort == 0 || c.peerPort == sp)
    | .udp6 src _ sp _ _ => c.encap == 2 && src == c.peer && (c.peerPort == 0 || c.peerPort == sp)
    | _ => false)

/-- The frame's MACsec tag is validated by an association: strict mode, replay window 64 (R399). -/
def macsecOk (a : Assoc) (t : MacsecTag) : Bool :=
  !a.keyRx.isEmpty && t.sci == a.sciRx && t.an == a.anRx && t.icvOk && decide (1 ≤ t.pn.toNat) && decide (a.rxNext ≤ t.pn.toNat + 64)

/-- The frame passes what the slot's MACSEC asks. -/
def secOk (d : Dev) (c : ConnConf) (f : EthFrame) : Bool :=
  match f.macsec with
  | none => !c.macsec
  | some t => c.macsec && macsecOk (d.assoc c.sa.toNat) t

/-- A Plaldaul frame goes to the lowest slot that takes it (R400). -/
def plaldaulFrame (d : Dev) (port : Nat) (f : EthFrame) : Dev :=
  let cand := (List.range 8).filter (fun h => peerOk (d.conn h).conf port f)
  match cand.find? (fun h => secOk d (d.conn h).conf f) with
  | some h =>
    let sa := (d.conn h).conf.sa.toNat
    let d := match f.macsec with
      | some t => d.setAssoc sa { d.assoc sa with rxNext := max (d.assoc sa).rxNext (t.pn.toNat + 1) }
      | none => d
    plaldaul d h { port := port, mac := f.src, vlan := f.vlan, encap := f.encap } f.data
  | none =>
    if f.macsec.isSome && cand.any (fun h => (d.conn h).conf.macsec) then d.modEthp port (fun x => { x with macsecFail := sat32 x.macsecFail })
    else { d with pld := { d.pld with rxUnbound := sat32 d.pld.rxUnbound } }

/-- An ARP request or a Neighbor Solicitation is answered, at most 1,000 times a second (R398). -/
def resolve (d : Dev) (port : Nat) (f : EthFrame) : Dev :=
  let x := d.ethp port
  let recent := x.answered.filter (fun t => decide (d.clp.elapsed < t + nsUnits d 1000000000))
  if 1000 ≤ recent.length then d.setEthp port { x with answered := recent }
  else
    let d := d.setEthp port { x with answered := d.clp.elapsed :: recent }
    { d with pld := { d.pld with out := d.pld.out ++ [{ port := port, dest := f.src, vlan := f.vlan, macsec := none, encap := f.encap, data := [] }] } }

/-- A frame arrives at a port (R397, R398, R415). -/
def ethFrame (d : Dev) (port : Nat) (f : EthFrame) : Dev :=
  let x := d.ethp port
  let c := x.conf
  if !x.linkUp || !d.pld.boardLoaded then d
  else if !f.fcsOk then d.setEthp port { x with fcsErrors := sat32 x.fcsErrors, dropped := sat32 x.dropped }
  else if decide (9216 < f.length) || !vlanOk c f || !frameDestOk c f || !encapOk c f then d.setEthp port { x with dropped := sat32 x.dropped }
  else
    let d := d.setEthp port { x with frames := sat32 x.frames }
    match f.encap with
    | .arp _ => if f.macsec.isSome then d else resolve d port f
    | .ns _ => if f.macsec.isSome then d else resolve d port f
    | _ => plaldaulFrame d port f

/-- ETH_FRAME_RECEIVE. -/
def execEthFrameReceive (port : Nat) (f : EthFrame) (s : State) : Out := onDev (is2 port) (fun _ d => ethFrame d port f) s

/-- ARP_REQUEST. -/
def execArpRequest (port : Nat) (f : EthFrame) (s : State) : Out :=
  onDev (is2 port) (fun _ d => match f.encap with
    | .arp _ => ethFrame d port f
    | _ => d) s

/-- NEIGHBOR_SOLICITATION. -/
def execNeighborSolicitation (port : Nat) (f : EthFrame) (s : State) : Out :=
  onDev (is2 port) (fun _ d => match f.encap with
    | .ns _ => ethFrame d port f
    | _ => d) s

/-- ETH_LINK_UP (R396): the PHY that ETH_CTL selects is up; a port that is off stays down, and so does one whose die has no reference
clock (spec/18_power_and_package.md R490). -/
def ethLinkUp (d : Dev) (port : Nat) : Dev :=
  if !refclkRuns d (port == 1) then d else d.modEthp port (fun x => if x.conf.medium == 1 || x.conf.medium == 2 then { x with linkUp := true, medium := x.conf.medium } else x)

def execEthLinkUp (port : Nat) (s : State) : Out := onDev (is2 port) (fun _ d => ethLinkUp d port) s

/-- ETH_LINK_DOWN: LINK_LOST is set; requests go on and their responses stay cached (R426). -/
def ethLinkDown (d : Dev) (port : Nat) : Dev :=
  d.modEthp port (fun x => if x.linkUp then { x with linkUp := false, medium := 0, linkLost := true } else x)

def execEthLinkDown (port : Nat) (s : State) : Out := onDev (is2 port) (fun _ d => ethLinkDown d port) s

end Sys2Proof.Machine
end

