-- ==== Sys2Proof/Machine/Remote.lean ====
section
/-! DEFINITION. Responses of remote devices, lost requests, and flits (spec/13_koliz_fabric.md R323 to R327, R338 to R340). -/

namespace Sys2Proof.Machine

/-! ## Responses (R339, R340) -/

/-- The request with a tag is no longer outstanding. -/
def dropRequest (d : Dev) (tag : Word) : Dev := { d with klz := { d.klz with requests := d.klz.requests.filter (fun r => !(r.tag == tag)) } }

/-- A request ends with a STATUS and the data of an OK READ; a mover's core then goes on. -/
def requestEnds (d : Dev) (r : Req) (st : Nat) (data : List Byte) : Dev :=
  match r.origin with
  | .mover core slot logical command ident dst =>
    let d := if st == 0 then moverOk d r core slot logical command ident dst data
      else moverFault d core slot logical command ident (statusFault st r.device r.va)
    afterAnswer d slot core
  | .host h seq off =>
    hostPart d h seq off (if st == 0 || st == 3 then none else some (kolizCode st)) (data.take r.bytes) (st == 3)

/-- A RESPONSE to this device: one without an outstanding request is discarded (R340). -/
def responseTaken (d : Dev) (p : Packet) : Dev :=
  match d.klz.requests.find? (fun r => r.tag == p.tag) with
  | none => d
  | some r => requestEnds (dropRequest d p.tag) r (if p.status == 0 && carriesPoison p then 3 else p.status.toNat) p.payload

/-- KLZ_RESPONSE. -/
def execKlzResponse (p : Packet) (s : State) : Out :=
  onDev true (fun _ d =>
    if p.type == tyResponse && intact p && p.dest.toNat == d.ownDevice then responseTaken (d.count 8 ((p.payload.length + 63) / 64)) p else d) s

/-- A request without its response after 2 × TRAINED is lost: UNREACHABLE (R340). -/
def requestLost (d : Dev) (tag : Word) : Dev :=
  match d.klz.requests.find? (fun r => r.tag == tag) with
  | none => d
  | some r =>
    let d := dropRequest d tag
    requestEnds { d with klz := { d.klz with timeouts := sat16 d.klz.timeouts, timeoutSeen := true } } r 1 []

/-- KLZ_REQUEST_LOST. -/
def execKlzRequestLost (tag : Word) (s : State) : Out := onDev true (fun _ d => requestLost d tag) s

/-! ## A packet out of the flits of a port -/

/-- A free 32-bit value: a time stamp's fraction, or a measured round trip, that no byte of a flit carries. -/
def freeWord (d : Dev) : Word × Dev := ((Config.freeDword d.free).truncate 32, { d with free := d.free + 1 })

/-- What this device does with a packet whose journey ends here. -/
def packetEnds (nv : Nv) (port : Nat) (p : Packet) (d : Dev) : Dev :=
  if isRequest p then serve nv d p
  else if p.type == tyResponse then responseTaken d p
  else if p.type == tyCscData || p.type == tyCscReady then cscPacket d port p
  else if p.type == tyFence then fencePacket d port p
  else if p.type == tyIdent then identTaken d port p
  else if p.type == tyEcho then echoTaken d p
  else if p.type == tyEchoResp then
    let f := freeWord d
    echoAnswered f.2 p f.1.toNat
  else if p.type == tyTimeReq then
    let f := freeWord d
    let g := freeWord f.2
    timeAnswer g.2 port p f.1 g.1
  else if p.type == tyTimeResp then
    let f := freeWord d
    timeTaken f.2 port p f.1
  else d

/-- The CRC of a packet covers its header, with HOPS and CLASS_B taken as 0, and its payload (R338). -/
def packetCrcOk (b : List Byte) (n : Nat) : Bool :=
  let flags := natBits (fieldLe b 1 1) 7 1 * 2
  crc32c (b.take 1 ++ leBytes 1 flags ++ sliceBytes b 2 10 ++ [0] ++ sliceBytes b 0x0D 15 ++ sliceBytes b 32 n) == fieldLe b 0x1C 4

/-- A packet from its bytes (R338). -/
def parsePacket (b : List Byte) : Packet :=
  let n := fieldLe b 2 2
  { type := BitVec.ofNat 8 (fieldLe b 0 1), flags := BitVec.ofNat 8 (fieldLe b 1 1), dest := BitVec.ofNat 12 (fieldLe b 4 2),
    src := BitVec.ofNat 12 (fieldLe b 6 2), tag := BitVec.ofNat 32 (fieldLe b 8 4), hops := BitVec.ofNat 8 (fieldLe b 0x0C 1),
    status := BitVec.ofNat 8 (fieldLe b 0x0D 1), slotGroup := BitVec.ofNat 8 (fieldLe b 0x0E 1), ring := BitVec.ofNat 8 (fieldLe b 0x0F 1),
    address := BitVec.ofNat 64 (fieldLe b 0x10 8), bytes := BitVec.ofNat 32 (fieldLe b 0x18 4), payload := sliceBytes b 32 n,
    crcOk := packetCrcOk b n }

/-- The whole packets at the front of a stream of bytes, and what is left: a packet received in part, or nothing when bytes of 0 alone
follow, which are slots that hold no packet. -/
def splitPackets : Nat → List Byte → List Packet × List Byte
  | 0, b => ([], b)
  | fuel + 1, b =>
    if b.all (· == 0) then ([], [])
    else
      let n := 32 + fieldLe b 2 2
      if decide (b.length < 4) || decide (b.length < n) then ([], b)
      else
        let t := splitPackets fuel (b.drop n)
        (parsePacket (b.take n) :: t.1, t.2)

/-! ## Flits (R323 to R326) -/

def flitU (f : Flit) (off n : Nat) : Nat := fieldLe f.bytes off n
/-- The flit's CRC verifies. -/
def flitOk (f : Flit) : Bool := f.bytes.length == 256 && crc32c (f.bytes.take 0xFC) == flitU f 0xFC 4

/-- The difference of two flit numbers, as 16-bit signed. -/
def flitDiff (a b : BitVec 16) : Int := (a - b).toInt

/-- ACK_SEQ frees the flits it covers, and the packets whose last flit it covers; a NAK replays the rest in order (R324). -/
def flitAck (d : Dev) (n : Nat) (f : Flit) : Dev :=
  let nak := natBit (flitU f 1 1) 0
  if !nak && !natBit (flitU f 1 1) 1 then d else
    let a := BitVec.ofNat 16 (flitU f 4 2)
    let x := d.port n
    let kept := x.retry.filter (fun r => decide (0 < flitDiff r.1 a))
    let flits := x.sent.filter (fun r => decide (0 < flitDiff r.1 a))
    let x := { x with retry := kept, sent := flits }
    if nak then
      d.setPort n { x with replaying := true, replays := sat16 x.replays, line := x.line ++ [.replay a], lanes := x.lanes ++ flits.map (·.2) }
    else drainWaiting (d.setPort n { x with replaying := x.replaying && flits.length == (d.port n).sent.length && !flits.isEmpty }) n

/-- CREDIT_VC and CREDIT_COUNT give back the far receiver's space (R326). -/
def flitCredit (d : Dev) (n : Nat) (f : Flit) : Dev :=
  let k := 2 * natBits (flitU f 6 1) 1 0 + bit (natBit (flitU f 6 1) 2)
  drainWaiting (d.modPort n (fun x => { x with used := tabSet 0 x.used k (tabGet 0 x.used k - flitU f 7 1) })) n

/-- A packet is complete: its buffer space returns as credits, and it is handled. -/
def packetIn (nv : Nv) (n : Nat) (d : Dev) (p : Packet) : Dev :=
  let k := creditKey p
  let d := d.modPort n (fun x => Port.sendIdle { x with line := x.line ++ [PortOut.credit k (packetUnits p)] } 0 0 (k / 2 + 4 * (k % 2)) (packetUnits p))
  arrive d n p (packetEnds nv n p)

/-- The slots of a DATA flit taken in order: packets are parsed end to end, the first new one at FIRST_PKT. -/
def flitData (nv : Nv) (d : Dev) (n : Nat) (f : Flit) : Dev :=
  let x := d.port n
  let slots := sliceBytes f.bytes 0x0A 242
  let first := flitU f 8 2
  let stream := if x.rx.isEmpty then (if first == 0xFFFF then [] else slots.drop first) else x.rx ++ slots
  let t := splitPackets 9 stream
  let seq := BitVec.ofNat 16 (flitU f 2 2)
  let d := d.setPort n (Port.sendIdle { x with rx := t.2, rxSeq := seq + 1, dropping := false, line := x.line ++ [PortOut.ack seq] } 2 seq 0 0)
  t.1.foldl (packetIn nv n) d

/-- A refused flit: from the first one on everything is dropped until the replay, which a NAK asks for (R324). -/
def flitRefuse (d : Dev) (n : Nat) : Dev :=
  d.modPort n (fun x => if x.dropping then x else Port.sendIdle { x with dropping := true, line := x.line ++ [PortOut.nak (x.rxSeq - 1)] } 3 (x.rxSeq - 1) 0 0)

/-- FLIT_RECEIVE: an IDLE flit carries no number; a DATA flit is taken when it is intact and next in order. -/
def flitReceive (nv : Nv) (d : Dev) (n : Nat) (f : Flit) : Dev :=
  let x := d.port n
  if !linkUp x.state then d
  else if !flitOk f then flitRefuse d n
  else if flitU f 0 1 == 1 then
    (if !(BitVec.ofNat 16 (flitU f 2 2) == x.rxSeq) then flitRefuse d n
     else flitData nv (flitCredit (flitAck d n f) n f) n f)
  else if flitU f 0 1 == 0 && !x.dropping then flitCredit (flitAck d n f) n f
  else d

def execFlitReceive (port : Nat) (f : Flit) (s : State) : Out := onDev (is16 port) (fun nv d => flitReceive nv d port f) s

end Sys2Proof.Machine
end

