-- ==== Sys2Proof/Machine/KeyWrap.lean ====
section
/-! DEFINITION. Key derivation and key wrap for the security controller (spec/16_security.md R439, R447): HMAC and HKDF with
SHA-384 (RFC 2104, RFC 5869), AES-256 decryption (FIPS 197) and AES key unwrap (RFC 3394) (notes/assumptions/12.md). -/

namespace Sys2Proof.Machine

/-! ## HMAC and HKDF with SHA-384 -/

/-- A key padded to SHA-384's block of 128 bytes, with a byte mixed in. -/
def hmacPad (key : List Byte) (x : Byte) : List Byte :=
  let k := if 128 < key.length then sha384 key else key
  (k ++ List.replicate (128 - k.length) 0).map (· ^^^ x)

def hmac384 (key msg : List Byte) : List Byte := sha384 (hmacPad key 0x5C ++ sha384 (hmacPad key 0x36 ++ msg))

/-- The blocks of HKDF's expansion from the `i`-th on. -/
def hkdfBlocks (prk info : List Byte) : Nat → Nat → List Byte → List Byte
  | 0, _, _ => []
  | n + 1, i, last =>
    let t := hmac384 prk (last ++ info ++ [BitVec.ofNat 8 i])
    t ++ hkdfBlocks prk info n (i + 1) t

/-- `n` bytes of HKDF-SHA-384. -/
def hkdf384 (ikm salt info : List Byte) (n : Nat) : List Byte :=
  (hkdfBlocks (hmac384 salt ikm) info ((n + 47) / 48) 1 []).take n

/-! ## AES-256 -/

/-- Twice an element of the AES field. -/
def xtime (b : Byte) : Byte := (b <<< 1) ^^^ (if b.getLsbD 7 then 0x1B else 0)

/-- Product in the AES field, `n` bits of the second factor. -/
def gmul : Nat → Byte → Byte → Byte
  | 0, _, _ => 0
  | n + 1, a, b => (if b.getLsbD 0 then a else 0) ^^^ gmul n (xtime a) (b >>> 1)

def fieldMul (a b : Byte) : Byte := gmul 8 a b

/-- `b` to the power 254: its inverse, and 0 for 0. -/
def fieldInv (b : Byte) : Byte :=
  let b2 := fieldMul b b
  let b4 := fieldMul b2 b2
  let b8 := fieldMul b4 b4
  let b16 := fieldMul b8 b8
  let b32 := fieldMul b16 b16
  let b64 := fieldMul b32 b32
  let b128 := fieldMul b64 b64
  fieldMul b128 (fieldMul b64 (fieldMul b32 (fieldMul b16 (fieldMul b8 (fieldMul b4 b2)))))

/-- SubBytes of one byte. -/
def subByte (b : Byte) : Byte :=
  let x := fieldInv b
  x ^^^ x.rotateLeft 1 ^^^ x.rotateLeft 2 ^^^ x.rotateLeft 3 ^^^ x.rotateLeft 4 ^^^ 0x63

/-- InvSubBytes of one byte. -/
def unsubByte (b : Byte) : Byte := fieldInv (b.rotateLeft 1 ^^^ b.rotateLeft 3 ^^^ b.rotateLeft 6 ^^^ 0x05)

def xorBytes (a b : List Byte) : List Byte := List.zipWith (· ^^^ ·) a b

/-- The words of the key schedule, newest first: `n` more, of which the next is number `i`. -/
def keyWords : Nat → Nat → Byte → List (List Byte) → List (List Byte)
  | 0, _, _, w => w
  | n + 1, i, rcon, w =>
    let t := (w[0]?).getD []
    let t :=
      if i % 8 == 0 then xorBytes ((t.drop 1 ++ t.take 1).map subByte) [rcon, 0, 0, 0]
      else if i % 8 == 4 then t.map subByte else t
    keyWords n (i + 1) (if i % 8 == 0 then xtime rcon else rcon) (xorBytes ((w[7]?).getD []) t :: w)

/-- The round keys of a 32-byte key, last first, 16 bytes each. -/
def roundKeys (key : List Byte) : List (List Byte) :=
  let start := ((List.range 8).map (fun i => sliceBytes key (4 * i) 4)).reverse
  let w := keyWords 52 8 1 start
  (List.range 15).map (fun r => ((w.drop (4 * r)).take 4).reverse.flatten)

/-- InvShiftRows and InvSubBytes of a state of 16 bytes, column by column. -/
def unshiftSub (s : List Byte) : List Byte :=
  (List.range 16).map (fun i => unsubByte ((s[(4 * (i / 4 + 4 - i % 4) + i % 4) % 16]?).getD 0))

/-- InvMixColumns of one column. -/
def unmixColumn (c : List Byte) : List Byte :=
  let g (i : Nat) := (c.drop (i % 4)).headD 0
  (List.range 4).map (fun i => fieldMul (g i) 0x0E ^^^ fieldMul (g (i + 1)) 0x0B ^^^ fieldMul (g (i + 2)) 0x0D ^^^ fieldMul (g (i + 3)) 0x09)

def unmix (s : List Byte) : List Byte := (List.range 4).flatMap (fun i => unmixColumn ((s.drop (4 * i)).take 4))

/-- AES-256 decryption of one block. -/
def aesDecrypt (key block : List Byte) : List Byte :=
  match roundKeys key with
  | [] => []
  | k :: ks =>
    ((ks.zipIdx).foldl (fun s e => let t := xorBytes (unshiftSub s) e.1; if e.2 == 13 then t else unmix t) (xorBytes block k))

/-! ## AES key unwrap -/

/-- The unwrapping steps from number `t` down: the integrity register and the four halves of the key. -/
def unwrapSteps (kek : List Byte) : Nat → List Byte → List (List Byte) → List Byte × List (List Byte)
  | 0, a, r => (a, r)
  | t + 1, a, r =>
    let i := t % 4
    let b := aesDecrypt kek (xorBytes a (beBytes 8 (t + 1)) ++ (r[i]?).getD [])
    unwrapSteps kek t (b.take 8) (r.set i (b.drop 8))

/-- The 32-byte key wrapped in 40 bytes, when the integrity check holds. -/
def unwrapKey (kek wrapped : List Byte) : Option (List Byte) :=
  let x := unwrapSteps kek 24 (wrapped.take 8) ((List.range 4).map (fun i => sliceBytes wrapped (8 + 8 * i) 8))
  if x.1 == List.replicate 8 0xA6 then some x.2.flatten else none

end Sys2Proof.Machine
end

