-- ==== Sys2Proof/Machine/Sec.lean ====
section
/-! DEFINITION. The security controller: boot, commands, keys, measurements and debug (spec/16_security.md R431 to R450). -/

namespace Sys2Proof.Machine

/-! ## Measurements and identity (R439, R440, R445) -/

def romHash : List Byte := sha384 ((List.range Config.romBytes).map Config.romByte)

/-- Measurement 3 hashes the counters, OWNER_HASH, BOOT_MODE, FW_COPY and DEBUG_UNLOCKED, one byte for each but the hash. -/
def hardwareHash (nv : Nv) (d : Dev) : List Byte :=
  sha384 ([nv.strCounter, nv.prgCounter, nv.fwCounter].flatMap (leBytes 1) ++ nv.ownerHash
    ++ [d.sys.bootMode.toNat, d.sec.fwCopy, bit d.sec.debugUnlocked].flatMap (leBytes 1))

def zeros48 : List Byte := List.replicate 48 0

/-- The value of a measurement; none: no such index. -/
def measurement (nv : Nv) (d : Dev) (i : Nat) : Option (List Byte) :=
  match i with
  | 1 => some romHash
  | 2 => some d.sec.fwHash
  | 3 => some (hardwareHash nv d)
  | 4 => some ((d.str.inForce.map (·.hash)).getD zeros48)
  | 5 => some d.sec.history
  | _ => if 16 ≤ i && i < 80 then some (((d.job (i - 16)).image.map (·.hash)).getD zeros48) else none

/-- Measurements 1 to 3, which the alias key and its certificate rest on. -/
def aliasBasis (nv : Nv) (d : Dev) : List Byte := romHash ++ d.sec.fwHash ++ hardwareHash nv d

/-- A key of the device: a scalar of the curve from IDENTITY_SEED. -/
def deviceKey (nv : Nv) (info : List Byte) : Nat :=
  beNat (hkdf384 nv.identitySeed (leBytes 8 nv.serial.toNat) info 64) % (ecN - 1) + 1

/-- The identity key: info "GLID". -/
def identityKey (nv : Nv) : Nat := deviceKey nv [0x47, 0x4C, 0x49, 0x44]

/-- The alias key: info "GLAL" and measurements 1 to 3. -/
def aliasKey (nv : Nv) (d : Dev) : Nat := deviceKey nv ([0x47, 0x4C, 0x41, 0x4C] ++ aliasBasis nv d)

/-- The alias certificate is issued anew. -/
def issueAlias (d : Dev) : Dev := { d with sec := { d.sec with issue := d.free }, free := d.free + 1 }

/-- The chain of slot 0. -/
def certificates (nv : Nv) (d : Dev) : List (List Byte) := nv.certs ++ [Config.aliasCert d.sec.issue (aliasBasis nv d)]

/-- `n` free bytes. -/
def drawBytes (d : Dev) (n : Nat) : List Byte × Dev := ((List.range n).map (fun i => Config.freeByte (d.free + i)), { d with free := d.free + n })

/-- Fresh random bytes for SEC_CHALLENGE (R449). -/
def newChallenge (d : Dev) : Dev :=
  let r := drawBytes d 32
  { r.2 with sec := { r.2.sec with challenge := r.1 } }

/-! ## Boot (R432 to R435) -/

/-- A firmware image in a flash copy: the bytes IMAGE_BYTES gives, or the reason it is refused (R434, R436, R437). -/
def checkFirmware (nv : Nv) (copy : List Byte) : Except Byte (List Byte) :=
  let n := fieldLe copy 8 4
  let img := copy.take n
  let u (off k : Nat) : Nat := fieldLe img off k
  if decide (n < 0x80 + 208) || decide (0x200000 < n) || decide (copy.length < n) || !(n % 16 == 0) then .error 0x82
  else if !(u 0 4 == 0x56534C47) || !(u 4 2 == 1) || !(u 6 2 == 9) || !(u 0x0C 2 == 0) || !(u 0x0F 1 == 0) || !(u 0x14 12 == 0) || !(u 0x50 48 == 0) then .error 0x82
  else if !verifyStruct nv.vendorHash nv.ownerHash img then .error 0x80
  else if !rollbackOk nv.fwCounter (u 0x10 4) then .error 0x81
  else .ok img

/-- The sender and receiver of a channel (R441). -/
def bindOf (nv : Nv) (c : Nat) : Nat × Nat :=
  if c < 8 then (c, 10) else if c < 16 then (10, c - 8)
  else match c with
    | 16 => (8, 10) | 17 => (10, 8) | 18 => (9, 10) | 19 => (10, 9)
    | _ => tabGet (15, 15) nv.policy c

/-- The controller binds channels (R419). -/
def bindChannels (nv : Nv) (d : Dev) (cs : List Nat) : Dev :=
  cs.foldl (fun d c => d.setMbxc c { d.mbxc c with sender := (bindOf nv c).1 % 16, receiver := (bindOf nv c).2 % 16 }) d

/-- Steps 4 and 5 of R435: firmware is in force, the alias certificate issued, the bindings locked and the service processor
started; DEV_STATE is TRAIN (R475). -/
def firmwareRuns (nv : Nv) (d : Dev) (copy : Nat) (img : List Byte) : Dev :=
  let d := { d with sec := { d.sec with state := .running, fwCopy := copy, fwVersion := BitVec.ofNat 32 (fieldLe img 0x10 4), fwHash := (img.drop 0x20).take 48 } }
  let d := bindChannels nv (issueAlias d) (List.range 32)
  { d with mbxLocked := true, sys := { d.sys with state := .train } }

/-- RECOVERY: channels 16 and 17 are bound, and firmware comes over I3C. -/
def enterRecovery (nv : Nv) (d : Dev) : Dev := bindChannels nv { d with sec := { d.sec with state := .recovery } } [16, 17]

/-- The controller stops for good, with a reason that is no object's refusal. -/
def secFailed (d : Dev) (reason : Byte) : Dev := { d with sec := { d.sec with state := .failed, lastReason := reason } }

/-- SEC_BOOT_COMPLETE, by BOOT_MODE (R435). -/
def secBootComplete (nv : Nv) (d : Dev) : Dev :=
  if !(d.sys.state == .boot) || !(d.sec.state == .boot) then d
  else if !nv.consistent then secFailed d 0x87
  else match d.sys.bootMode.toNat with
    | 0 =>
      (match checkFirmware nv nv.fwA with
       | .ok img => firmwareRuns nv d 1 img
       | .error a =>
         let d := secRefuse d a
         match checkFirmware nv nv.fwB with
         | .ok img => firmwareRuns nv d 2 img
         | .error b => enterRecovery nv (secRefuse d b))
    | 1 => enterRecovery nv d
    | 2 => d
    | _ => secFailed d 0x82

def execSecBootComplete (s : State) : Out := onDev true secBootComplete s

/-! ## Messages and answers (R442, R443) -/

/-- The message of a channel that SEC receives, with its TYPE. -/
def secMessage (d : Dev) (c : Nat) : Option (List Word) :=
  let x := d.mbxc c
  if x.full && mbxIsReceiver x .sec then some (mbxWords x) else none

/-- Word `i` of a message. -/
def msgWord (w : List Word) (i : Nat) : Nat := ((w.drop i).headD 0).toNat

/-- A command of R444 waits on a channel. -/
def commandWaits (d : Dev) (c : Nat) : Bool :=
  match secMessage d c with
  | some w => natBits (msgWord w 0) 31 24 == 2 && [1, 2, 3, 4].contains (natBits (msgWord w 0) 7 0)
  | none => false

/-- No command and no SPDM request that came before `t` waits: the controller takes them one at a time, in arrival order (R444,
R450; notes/assumptions/93.md). -/
def firstWaiting (d : Dev) (t : Nat) : Bool :=
  (List.range 32).all (fun c => (!commandWaits d c || decide (t ≤ (d.mbxc c).arrived)) && ((d.schan c).msg.isNone || decide (t ≤ (d.schan c).arrived)))

/-- The controller has read the message: it releases the channel. -/
def takeMessage (d : Dev) (c : Nat) : Dev := (mbxRelease d .sec c).1

/-- An answer goes on the paired channel, behind those that wait. -/
def secAnswer (d : Dev) (c : Nat) (w : List Word) : Dev :=
  if (answerChannel c).isNone then d else secDeliver (d.setSchan c { d.schan c with answers := (d.schan c).answers ++ [w] }) c

/-- The answer to a command: TYPE 0x02, the status and the command. -/
def answerStatus (d : Dev) (c command status : Nat) : Dev :=
  secAnswer d c [BitVec.ofNat 32 (0x02000000 + status * 0x100 + command)]

/-- A fragment's place in the message being assembled: none when it is out of order. -/
def addFragment (x : SecChan) (w : List Word) : Option SecChan :=
  let h := msgWord w 0
  let n := natBits h 21 16
  let body := ((w.drop 1).flatMap (fun v => leBytes 4 v.toNat)).take n
  let first := natBit h 8
  let counter := BitVec.ofNat 8 (natBits h 7 0)
  if decide (60 < n) || first == x.assembling || !(counter == (if first then 0 else x.next)) then none
  else some { x with assembling := true, next := counter + 1, buf := if first then body else x.buf ++ body }

/-- An out-of-order fragment discards the message, and the answer carries SEC_FORMAT. -/
def discardMessage (d : Dev) (c : Nat) : Dev :=
  answerStatus (d.setSchan c { d.schan c with assembling := false, next := 0, buf := [] }) c 0 0x82

/-- SPDM_FRAGMENT: a fragment joins the message; with the last one the request is complete. -/
def spdmFragment (d : Dev) (c : Nat) : Dev :=
  match secMessage d c with
  | none => d
  | some w =>
    if !(natBits (msgWord w 0) 31 24 == 1) || (d.schan c).msg.isSome || (answerChannel c).isNone then d
    else
      let d := takeMessage d c
      match addFragment (d.schan c) w with
      | none => discardMessage d c
      | some x =>
        if 4096 < x.buf.length then discardMessage d c
        else if natBit (msgWord w 0) 9 then d.setSchan c { x with assembling := false, next := 0, buf := [], msg := some x.buf, arrived := arrivalStamp d }
        else d.setSchan c x

def execSpdmFragment (chan : Nat) (s : State) : Out := onDev (is32 chan) (fun _ d => spdmFragment d chan) s

/-- Firmware assembled in RECOVERY: an accepted image is written to copy A and boot goes on; a refused one is answered with its
reason (R435). -/
def firmwareArrived (nv : Nv) (d : Dev) (img : List Byte) : Nv × Dev :=
  match checkFirmware nv img with
  | .ok f => ({ nv with fwA := f }, answerStatus (firmwareRuns nv d 3 f) 16 0 0)
  | .error e => (nv, answerStatus (secRefuse d e) 16 0 e.toNat)

/-- FW_FRAGMENT: accepted in RECOVERY on channel 16 alone (R443). -/
def fwFragment (nv : Nv) (d : Dev) (c : Nat) : Nv × Dev :=
  match secMessage d c with
  | none => (nv, d)
  | some w =>
    if !(natBits (msgWord w 0) 31 24 == 3) then (nv, d)
    else
      let d := takeMessage d c
      if !(d.sec.state == .recovery) || !(c == 16) then (nv, answerStatus (secRefuse d 0x88) c 0 0x88)
      else match addFragment (d.schan c) w with
        | none => (nv, discardMessage d c)
        | some x =>
          if natBit (msgWord w 0) 9 then firmwareArrived nv (d.setSchan c { x with assembling := false, next := 0, buf := [] }) x.buf
          else (nv, d.setSchan c x)

def execFwFragment (chan : Nat) (s : State) : Out := onBoth (is32 chan) (fun nv d => fwFragment nv d chan) s

/-! ## Commands (R438, R443, R444) -/

/-- The block a command names in the security drop area: 64-byte aligned and within it. -/
def commandBlock (d : Dev) (w : List Word) : Option (List Byte) :=
  let off := msgWord w 1
  let n := msgWord w 2
  if off % 64 == 0 && decide (0x7E00000 ≤ off) && decide (off + n ≤ 0x8000000) && !poisonedAt d.poison (stagingCell off) n
  then some (memRead d.mem (stagingCell off) n) else none

/-- The object is signed by the vendor key (SIGNER 0), or by the enrolled owner's (SIGNER 1) (R436). -/
def signedBy (nv : Nv) (signer : Nat) (b : List Byte) : Bool :=
  signerOk nv.vendorHash nv.ownerHash signer (trailerKey b) && trailerSigned b

/-- An owner is enrolled (R438). -/
def ownerEnrolled (nv : Nv) : Bool := !(nv.ownerHash.all (· == 0))

/-- A command message of a channel: the message is copied and released, a channel that R444 does not list is refused, and the
answer carries the reason, 0 for success. -/
def command (code : Nat) (allowed : Nat → Bool) (f : Nv → Dev → List Word → Nv × Dev × Byte) (c : Nat) (nv : Nv) (d : Dev) : Nv × Dev :=
  match secMessage d c with
  | none => (nv, d)
  | some w =>
    if !(natBits (msgWord w 0) 31 24 == 2) || !(natBits (msgWord w 0) 7 0 == code) || !firstWaiting d (d.mbxc c).arrived then (nv, d)
    else
      let d := takeMessage d c
      if !allowed c then (nv, answerStatus (secRefuse d 0x88) c code 0x88)
      else
        let t := f nv d w
        (t.1, answerStatus (if t.2.2 == 0 then t.2.1 else secRefuse t.2.1 t.2.2) c code t.2.2.toNat)

/-- Channels 0 to 7 and 18. -/
def hostOrSvp (c : Nat) : Bool := decide (c < 8) || c == 18

/-- The layout two tokens share: 0x40 bytes and a trailer, a MAGIC, 4 bytes of 0, and SERIAL. -/
def tokenOk (b : List Byte) (magic : Nat) : Bool := b.length == 0x40 + 208 && fieldLe b 0 4 == magic && fieldLe b 4 4 == 0

/-- ENROLL_OWNER (R438). -/
def enrollOwner (nv : Nv) (d : Dev) (w : List Word) : Nv × Dev × Byte :=
  if ownerEnrolled nv then (nv, d, 0x83)
  else match commandBlock d w with
    | none => (nv, d, 0x82)
    | some b =>
      let h := (b.drop 0x10).take 48
      if !tokenOk b 0x454F4C47 || h.all (· == 0) then (nv, d, 0x82)
      else if !signedBy nv 0 b then (nv, d, 0x80)
      else if !(fieldLe b 8 8 == nv.serial.toNat) then (nv, d, 0x84)
      else ({ nv with ownerHash := h }, issueAlias d, 0)

def execEnrollOwner (chan : Nat) (s : State) : Out := onBoth (is32 chan) (command 1 hostOrSvp enrollOwner chan) s

/-- The fixed fields of a key block (R447). -/
def keyBlockOk (b : List Byte) : Bool :=
  let u (off k : Nat) : Nat := fieldLe b off k
  let xpn := u 5 1 == 1
  b.length == 0x100 + 208 && u 0 4 == 0x4B534C47 && decide (u 4 1 ≤ 15) && decide (u 5 1 ≤ 1) && decide (u 6 1 ≤ 3) && decide (u 7 1 ≤ 3)
    && (xpn || (u 0x0C 4 == 0 && u 0x20 24 == 0 && u 0x38 4 == 0)) && u 0x3C 4 == 0 && u 0xA1 15 == 0

/-- A point of the curve, uncompressed. -/
def curvePoint (b : List Byte) : Option (Nat × Nat) :=
  let x := beNat ((b.drop 1).take 48)
  let y := beNat ((b.drop 49).take 48)
  if fieldLe b 0 1 == 4 && decide (x < ecP) && decide (y < ecP) && y * y % ecP == (x * x % ecP * x + ecA * x + ecB) % ecP
  then some (x, y) else none

/-- The wrapping key of a block (R447). -/
def wrappingKey (nv : Nv) (b : List Byte) : Option (List Byte) :=
  match curvePoint ((b.drop 0x40).take 97) with
  | none => none
  | some p => match ecAffine (ecTimes 384 (identityKey nv) (p.1, p.2, 1)) with
    | none => none
    | some q => some (hkdf384 (beBytes 48 q.1) (leBytes 8 nv.serial.toNat) ([0x47, 0x4C, 0x53, 0x4B] ++ (b.drop 4).take 1 ++ (b.drop 8).take 4) 32)

/-- The associations of an accepted block (R448). -/
def blockAssoc (b rx tx : List Byte) : Assoc :=
  let u (off k : Nat) : Nat := fieldLe b off k
  { suite := u 5 1, anRx := BitVec.ofNat 2 (u 6 1), anTx := BitVec.ofNat 2 (u 7 1), sciRx := BitVec.ofNat 64 (u 0x10 8),
    sciTx := BitVec.ofNat 64 (u 0x18 8), ssciRx := BitVec.ofNat 32 (u 0x38 4), ssciTx := BitVec.ofNat 32 (u 0x0C 4),
    saltRx := (b.drop 0x20).take 12, saltTx := (b.drop 0x2C).take 12, keyRx := rx, keyTx := tx }

/-- A key block is checked, unwrapped and installed (R447, R448): the reason it is refused, or 0. -/
def installKeys (nv : Nv) (d : Dev) (b : List Byte) : Nv × Dev × Byte :=
  let sa := fieldLe b 4 1
  let epoch := fieldLe b 8 4
  if !keyBlockOk b then (nv, d, 0x82)
  else if !signedBy nv (bit (ownerEnrolled nv)) b then (nv, d, 0x80)
  else if epoch ≤ tabGet 0 nv.epochs sa then (nv, d, 0x86)
  else match wrappingKey nv b with
    | none => (nv, d, 0x82)
    | some k => match unwrapKey k ((b.drop 0xB0).take 40), unwrapKey k ((b.drop 0xD8).take 40) with
      | some rx, some tx => ({ nv with epochs := tabSet 0 nv.epochs sa epoch }, d.setAssoc sa (blockAssoc b rx tx), 0)
      | _, _ => (nv, d, 0x82)

/-- LOAD_MACSEC. -/
def loadMacsec (nv : Nv) (d : Dev) (w : List Word) : Nv × Dev × Byte :=
  match commandBlock d w with
  | none => (nv, d, 0x82)
  | some b => installKeys nv d b

def execLoadMacsec (chan : Nat) (s : State) : Out := onBoth (is32 chan) (command 2 hostOrSvp loadMacsec chan) s

/-- DEBUG_UNLOCK (R449): the challenge is renewed whether the token is accepted or not, or comes from a channel that R444 does not
list. -/
def debugUnlock (c : Nat) (nv : Nv) (d : Dev) (w : List Word) : Nv × Dev × Byte :=
  let d2 := newChallenge d
  if !(hostOrSvp c || c == 16) then (nv, d2, 0x88) else
  match commandBlock d w with
  | none => (nv, d2, 0x82)
  | some b =>
    if !tokenOk b 0x55444C47 || !(fieldLe b 0x30 16 == 0) then (nv, d2, 0x82)
    else if !signedBy nv (bit (ownerEnrolled nv)) b then (nv, d2, 0x80)
    else if !(fieldLe b 8 8 == nv.serial.toNat) then (nv, d2, 0x84)
    else if !((b.drop 0x10).take 32 == d.sec.challenge) then (nv, d2, 0x85)
    else (nv, issueAlias { d2 with sec := { d2.sec with debugUnlocked := true } }, 0)

def execDebugUnlock (chan : Nat) (s : State) : Out :=
  onBoth (is32 chan) (command 3 (fun _ => true) (debugUnlock chan) chan) s

/-- COMMIT_FW: FW_COUNTER rises to the version in force (R437, R444). -/
def commitFw (nv : Nv) (d : Dev) (_w : List Word) : Nv × Dev × Byte :=
  ({ nv with fwCounter := raiseCounter nv.fwCounter d.sec.fwVersion.toNat }, issueAlias d, 0)

def execCommitFw (chan : Nat) (s : State) : Out := onBoth (is32 chan) (command 4 hostOrSvp commitFw chan) s

/-! ## Debug (R449) -/

/-- JTAG_INSTRUCTION: a private instruction reads as BYPASS until debug is unlocked; what it does then the manual does not say. -/
def execJtagInstruction (op : JtagOp) (s : State) : Out :=
  match op with
  | .private_ code =>
    if s.dev.sec.debugUnlocked then .refused (.privateJtag code)
    else onPins (fun _ d => { d with sec := { d.sec with jtag := .bypass } }) s
  | op => onPins (fun _ d => { d with sec := { d.sec with jtag := op } }) s

/-! ## The board record (R401, R448) -/

/-- BOARD_RECORD_LOAD: the service processor writes the ports, the connection slots and the MACsec keys. -/
def boardRecordLoad (nv : Nv) (d : Dev) : Nv × Dev :=
  if !(d.sec.state == .running) || d.pld.boardLoaded then (nv, d)
  else
    let d := (List.range 2).foldl (fun d n => d.modEthp n (fun x => { x with conf := tabGet {} nv.board.eth n })) d
    let d := (List.range 8).foldl (fun d h => d.modConn h (fun x => { x with conf := tabGet {} nv.board.conns h })) d
    let d := { d with pld := { d.pld with boardLoaded := true } }
    nv.board.keys.foldl (fun (acc : Nv × Dev) b =>
      let t := installKeys acc.1 acc.2 b
      (t.1, if t.2.2 == 0 then t.2.1 else secRefuse t.2.1 t.2.2)) (nv, d)

def execBoardRecordLoad (s : State) : Out := onBoth true boardRecordLoad s

end Sys2Proof.Machine
end

