-- ==== Sys2Proof/Machine/Spdm.lean ====
section
/-! DEFINITION. The SPDM 1.2 responder (spec/16_security.md R442, R445, R446). The manual names the standard and not the bytes
of its messages: they follow DMTF DSP0274 1.2 (notes/assumptions/60.md). -/

namespace Sys2Proof.Machine

/-! ## Requests and responses -/

/-- The request that waits on a channel, when its code is one of those named. -/
def spdmRequest (d : Dev) (c : Nat) (is : Nat → Bool) : Option (List Byte) :=
  match (d.schan c).msg with
  | some m => if is (fieldLe m 1 1) then some m else none
  | none => none

/-- A message cut into fragments of at most 60 bytes, each a mailbox message (R442). -/
def spdmFragments : Nat → Nat → List Byte → List (List Word)
  | 0, _, _ => []
  | fuel + 1, i, b =>
    let part := b.take 60
    let last := b.length ≤ 60
    let head := 0x01000000 + part.length * 0x10000 + bit last * 0x200 + bit (i == 0) * 0x100 + i % 256
    let body := (List.range 15).map (fun k => BitVec.ofNat 32 (leNat (sliceBytes part (4 * k) 4)))
    (BitVec.ofNat 32 head :: body) :: (if last then [] else spdmFragments fuel (i + 1) (b.drop 60))

/-- The request is answered: its response goes out in fragments. -/
def spdmAnswer (d : Dev) (c : Nat) (b : List Byte) : Dev :=
  let x := d.schan c
  secDeliver (d.setSchan c { x with msg := none, answers := x.answers ++ spdmFragments (b.length / 60 + 1) 0 b }) c

/-- ERROR with its code and data. -/
def spdmError (code data : Byte) : List Byte := [0x12, 0x7F, code, data]

/-- What a request sends back: the response, and the negotiation stage after it. -/
abbrev SpdmOut := List Byte × Nat × Dev

/-- A request of one code, first in arrival order (R450): at its stage or after, and in the responder's version, it is answered; else
with an ERROR. -/
def spdmRow (code : Byte) (stage : Nat) (f : Nv → Dev → List Byte → SpdmOut) (c : Nat) (nv : Nv) (d : Dev) : Dev :=
  match spdmRequest d c (fun k => k == code.toNat) with
  | none => d
  | some m =>
    let now := (d.schan c).stage
    if !firstWaiting d (d.schan c).arrived then d
    else if decide (now < stage) then spdmAnswer d c (spdmError 0x04 0)
    else if decide (1 ≤ stage) && !(fieldLe m 0 1 == 0x12) then spdmAnswer d c (spdmError 0x41 0)
    else
      let t := f nv d m
      spdmAnswer (t.2.2.setSchan c { t.2.2.schan c with stage := t.2.1 }) c t.1

/-! ## Negotiation -/

/-- GET_VERSION: version 1.2 alone; the negotiation starts anew. -/
def execGetVersion (chan : Nat) (s : State) : Out :=
  onDev (is32 chan) (spdmRow 0x84 0 (fun _ d _ => ([0x10, 0x04, 0, 0, 0, 1, 0x00, 0x12], 1, d)) chan) s

/-- GET_CAPABILITIES: CERT_CAP, CHAL_CAP and MEAS_CAP with signatures; both sizes are 4,096. The time exponent is free. -/
def execGetCapabilities (chan : Nat) (s : State) : Out :=
  onDev (is32 chan) (spdmRow 0xE1 1 (fun _ d _ =>
    let r := drawBytes d 1
    ([0x12, 0x61, 0, 0, 0] ++ r.1 ++ [0, 0] ++ leBytes 4 0x16 ++ leBytes 4 4096 ++ leBytes 4 4096, 2, r.2)) chan) s

/-- NEGOTIATE_ALGORITHMS: TPM_ALG_SHA_384 for hash and measurement hash, and the extended asymmetric algorithm 0x0001. -/
def execNegotiateAlgorithms (chan : Nat) (s : State) : Out :=
  onDev (is32 chan) (spdmRow 0xE3 2 (fun _ d _ =>
    ([0x12, 0x63, 0, 0] ++ leBytes 2 40 ++ [1, 0] ++ leBytes 4 4 ++ leBytes 4 0 ++ leBytes 4 2 ++ List.replicate 12 0
      ++ [1, 0, 0, 0] ++ [4, 0, 1, 0], 3, d)) chan) s

/-! ## Certificates (R440) -/

/-- The chain of slot 0 as SPDM carries it: its length, the hash of the root certificate, and the certificates. -/
def spdmChain (nv : Nv) (d : Dev) : List Byte :=
  let cs := certificates nv d
  leBytes 2 (52 + cs.flatten.length) ++ [0, 0] ++ sha384 (cs.headD []) ++ cs.flatten

/-- GET_DIGESTS: the digest of slot 0. -/
def execGetDigests (chan : Nat) (s : State) : Out :=
  onDev (is32 chan) (spdmRow 0x81 3 (fun nv d _ => ([0x12, 0x01, 0, 1] ++ sha384 (spdmChain nv d), 3, d)) chan) s

/-- A portion of the chain of slot 0; another slot, or an offset past its end, is an invalid request. -/
def getCertificate (nv : Nv) (d : Dev) (m : List Byte) : List Byte :=
  let chain := spdmChain nv d
  let off := fieldLe m 4 2
  let n := min (min (fieldLe m 6 2) (4096 - 8)) (chain.length - off)
  if !(fieldLe m 2 1 % 16 == 0) || decide (chain.length ≤ off) then spdmError 0x01 0
  else [0x12, 0x02, 0, 0] ++ leBytes 2 n ++ leBytes 2 (chain.length - off - n) ++ (chain.drop off).take n

/-- GET_CERTIFICATE. -/
def execGetCertificate (chan : Nat) (s : State) : Out :=
  onDev (is32 chan) (spdmRow 0x82 3 (fun nv d m => (getCertificate nv d m, 3, d)) chan) s

/-! ## Measurements and signatures (R445, R446) -/

/-- The DMTF value type of a measurement. -/
def measurementType (i : Nat) : Nat :=
  match i with
  | 1 => 0 | 2 => 1 | 3 => 2
  | _ => 3

/-- The block of a measurement; empty for an index without one. -/
def measurementBlock (nv : Nv) (d : Dev) (i : Nat) : List Byte :=
  match measurement nv d i with
  | none => []
  | some v => leBytes 1 i ++ [1] ++ leBytes 2 51 ++ leBytes 1 (measurementType i) ++ leBytes 2 48 ++ v

/-- The indices that have a measurement. -/
def measurementIndices : List Nat := [1, 2, 3, 4, 5] ++ (List.range 64).map (· + 16)

/-- CHALLENGE: the digest, a nonce, a summary of the measurements when asked for, and a signature of the alias key. Nonce and
signature are free bytes, and so is a summary of the trusted base alone. -/
def spdmChallenge (nv : Nv) (d : Dev) (m : List Byte) : SpdmOut :=
  if !(fieldLe m 2 1 % 16 == 0) then (spdmError 0x01 0, 3, d)
  else
    let nonce := drawBytes d 32
    let sum := match fieldLe m 3 1 with
      | 0 => ([], nonce.2)
      | 0xFF => (sha384 (measurementIndices.flatMap (measurementBlock nv d)), nonce.2)
      | _ => drawBytes nonce.2 48
    let sig := drawBytes sum.2 96
    ([0x12, 0x03, 0, 1] ++ sha384 (spdmChain nv d) ++ nonce.1 ++ sum.1 ++ [0, 0] ++ sig.1, 3, sig.2)

def execChallenge (chan : Nat) (s : State) : Out := onDev (is32 chan) (spdmRow 0x83 3 spdmChallenge chan) s

/-- GET_MEASUREMENTS: the count (operation 0), one measurement, or all (0xFF), with a signature when asked for. A record that
does not fit one message is an error ResponseTooLarge. -/
def spdmMeasurements (nv : Nv) (d : Dev) (m : List Byte) : SpdmOut :=
  let op := fieldLe m 3 1
  let signed := natBit (fieldLe m 2 1) 0
  let idx := if op == 0 then [] else if op == 0xFF then measurementIndices else if (measurement nv d op).isSome then [op] else []
  let record := idx.flatMap (measurementBlock nv d)
  if !(op == 0) && idx.isEmpty then (spdmError 0x01 0, 3, d)
  else
    let nonce := drawBytes d 32
    let sig := if signed then drawBytes nonce.2 96 else ([], nonce.2)
    let b := [0x12, 0x60] ++ leBytes 1 (if op == 0 then 69 else 0) ++ [0] ++ leBytes 1 idx.length ++ leBytes 3 record.length ++ record ++ nonce.1 ++ [0, 0] ++ sig.1
    if 4096 < b.length then (spdmError 0x0D 0, 3, d) else (b, 3, sig.2)

def execGetMeasurements (chan : Nat) (s : State) : Out := onDev (is32 chan) (spdmRow 0xE0 3 spdmMeasurements chan) s

/-- The codes that have a row of their own. -/
def spdmKnown (k : Nat) : Bool := [0x81, 0x82, 0x83, 0x84, 0xE0, 0xE1, 0xE3].contains k

/-- SPDM_UNSUPPORTED_REQUEST: ERROR UnsupportedRequest with the code of the request. -/
def execSpdmUnsupportedRequest (chan : Nat) (s : State) : Out :=
  onDev (is32 chan) (fun _ d =>
    match spdmRequest d chan (fun k => !spdmKnown k) with
    | none => d
    | some m => if !firstWaiting d (d.schan chan).arrived then d else spdmAnswer d chan (spdmError 0x07 (BitVec.ofNat 8 (fieldLe m 1 1)))) s

end Sys2Proof.Machine
end

