-- ==== Sys2Proof/Machine/Spout.lean ====
section
/-! DEFINITION. The Spout engines (spec/11_convolution.md R281 to R291). An engine finishes one output row at each
SPOUT_ROW_BOUNDARY; SPOUT_DONE finishes what is left and ends the command. -/

namespace Sys2Proof.Machine

/-! ## The descriptor (R283, R284) -/

/-- A field of a descriptor. -/
def SpoutCmd.f (c : SpoutCmd) (o n : Nat) : Nat := fieldLe c.desc o n

def SpoutCmd.esIn (c : SpoutCmd) : Nat := elemBits (c.f 0x44 1) / 8
def SpoutCmd.esOut (c : SpoutCmd) : Nat := elemBits (c.f 0x45 1) / 8
def SpoutCmd.epi (c : SpoutCmd) (i : Nat) : Bool := natBit (c.f 0x46 1) i

/-- A count between 1 and a limit. -/
def within (v hi : Nat) : Bool := decide (1 ≤ v) && decide (v ≤ hi)

/-- Every field is in range, addresses and pitches are aligned (R284). -/
def spoutOk (c : SpoutCmd) : Bool :=
  let lo := bodyF c.desc 0x48
  let hi := bodyF c.desc 0x4C
  let cin := c.f 0x3A 2
  let cout := c.f 0x3C 2
  let al (o n s : Nat) : Bool := c.f o n % s == 0
  within (c.f 0x30 2) 16384 && within (c.f 0x32 2) 16384 && within (c.f 0x34 2) 16384
    && decide (1 ≤ c.f 0x38 2) && decide (c.f 0x36 2 + c.f 0x38 2 ≤ 16384) && within cin 1024 && within cout 1024
    && within (c.f 0x3E 1) 7 && within (c.f 0x3F 1) 7 && within (c.f 0x40 1) 2 && decide (c.f 0x41 1 ≤ 6) && decide (c.f 0x42 1 ≤ 6)
    && (if c.f 0x43 1 == 0 then decide (cout ≤ 16) else c.f 0x43 1 == 1 && decide (cin ≤ 16))
    && sfFmt (c.f 0x44 1) && sfFmt (c.f 0x45 1) && natBits (c.f 0x46 1) 7 4 == 0 && c.f 0x47 1 == 0 && c.f 0x5C 4 == 0
    && (c.epi 1 || c.epi 2) && (c.epi 2 || c.f 8 8 == 0) && (c.epi 1 || c.f 0x50 8 == 0)
    && decide (cin * c.esIn ≤ c.f 0x20 4) && decide (cout * c.f 0x3E 1 * c.f 0x3F 1 * cin * 2 ≤ 0x200000)
    && !lo.isNan && !hi.isNan && !(hi.lt lo)
    && al 0 8 c.esIn && al 0x20 4 c.esIn && al 0x24 4 c.esIn && al 8 8 c.esOut && al 0x28 4 c.esOut && al 0x2C 4 c.esOut
    && al 0x10 8 2 && al 0x18 8 4 && al 0x50 8 4 && al 0x58 4 4

/-! ## Memory: this device's HBM alone (R284) -/

/-- The place is in this device's HBM, or a hole. -/
def inHbm (p : Place) : Bool :=
  match p with
  | .cells c => decide (c < sramBase)
  | .zeros => true
  | _ => false

/-- A translated address leads anywhere but this device's HBM (R284). -/
def leavesHbm (d : Dev) (slot va : Nat) : Bool :=
  let away (base size : Nat) : Bool := !((base + va % size) / 2 ^ 52 == d.ownDevice) || !(natBits (base + va % size) 51 48 == 0)
  match walk d slot va with
  | .ok (.plain base size _) => away base size
  | .ok (.view dev vslot _) => !(dev == d.ownDevice) || (match walk d vslot va with
    | .ok (.plain base size _) => away base size
    | _ => false)
  | _ => false

/-- FLT_ILLEGAL_OP when a piece of the range leads anywhere but this device's HBM (R284). -/
def stayInHbm (d : Dev) (slot va n : Nat) : Acc Unit := legal ((vaPieces va n).all (fun p => !leavesHbm d slot p.1))

/-- The errors that a read of a range finds (spec/12_hbm.md R304). -/
def spoutMeet (d : Dev) (slot va n : Nat) : Dev :=
  (vaPieces va n).foldl (fun d p => match readPlace d slot p.1 p.2 with
    | .ok (.cells c) => meetCells (noteHold d c) c p.2
    | _ => d) d

/-- Reads for the engine. -/
def spoutRead (d : Dev) (slot va n : Nat) : Acc (List Byte) :=
  (vaPieces va n).foldlM (fun acc p => do
    let pl ← readPlace d slot p.1 p.2
    if !inHbm pl then .error fltIllegal else
      let r := placeRead d pl p.2
      if r.2 then .error { fltPoison p.1 with cells := placeCells pl p.2 } else .ok (acc ++ r.1)) []

/-- Writes for the engine. -/
def spoutWrite (d : Dev) (slot va : Nat) (bs : List Byte) : Acc Dev := do
  let r ← (vaPieces va bs.length).foldlM (fun (acc : Dev × List Byte) p => do
    let (d1, pl) ← writePlace acc.1 slot p.1 p.2 false
    if !inHbm pl then .error fltIllegal else
      .ok (countHbm (notePlain (placeWrite d1 pl (acc.2.take p.2)) slot (vaPlain acc.1 slot p.1) pl p.2) true pl p.2, acc.2.drop p.2)) (d, bs)
  .ok r.1

/-- HBM_READ counts the bytes the engine uses: it reads each input row, the weights and the bias once per command (R286). -/
def spoutCount (d : Dev) (n : Nat) : Dev := d.count 4 ((n + 63) / 64)

/-- Output row or column `o` uses input row or column `i`: kernel size `k`, stride `s`, padding `pad`. -/
def usesInput (k s pad o i : Nat) : Bool := decide (s * o ≤ i + pad) && decide (i + pad < s * o + k)

/-- The input rows that output row `y` uses. -/
def SpoutCmd.inRows (c : SpoutCmd) (y : Nat) : List Nat :=
  (List.range (c.f 0x32 2)).filter (usesInput (c.f 0x3E 1) (c.f 0x40 1) (c.f 0x41 1) y)

/-- The input columns that some output column uses. -/
def SpoutCmd.inCols (c : SpoutCmd) : List Nat :=
  (List.range (c.f 0x30 2)).filter (fun i => (List.range (c.f 0x34 2)).any (fun o => usesInput (c.f 0x3F 1) (c.f 0x40 1) (c.f 0x42 1) o i))

/-- The input rows that the command reads for its next output row: each row once, and none outside the map (R285, R286). -/
def SpoutCmd.freshRows (c : SpoutCmd) : List Nat :=
  let y := c.f 0x36 2 + c.rows
  (c.inRows y).filter (fun i => c.rows == 0 || !usesInput (c.f 0x3E 1) (c.f 0x40 1) (c.f 0x41 1) (y - 1) i)

/-- Address of an input pixel (R283). -/
def SpoutCmd.inVa (c : SpoutCmd) (ix iy : Nat) : Nat := c.f 0 8 + iy * c.f 0x24 4 + ix * c.f 0x20 4

/-- Every range the command reads or writes: input pixels, weights, bias, output pixels and indices (R283). -/
def SpoutCmd.ranges (c : SpoutCmd) : List (Nat × Nat) :=
  let rows := (List.range (c.f 0x38 2)).map (· + c.f 0x36 2)
  let cols := List.range (c.f 0x34 2)
  let ins := (List.range (c.f 0x32 2)).filter (fun i => rows.any (fun y => usesInput (c.f 0x3E 1) (c.f 0x40 1) (c.f 0x41 1) y i))
  [(c.f 0x10 8, c.f 0x3C 2 * c.f 0x3E 1 * c.f 0x3F 1 * c.f 0x3A 2 * 2)]
    ++ (if c.f 0x18 8 == 0 then [] else [(c.f 0x18 8, 4 * c.f 0x3C 2)])
    ++ ins.flatMap (fun iy => c.inCols.map (fun ix => (c.inVa ix iy, c.f 0x3A 2 * c.esIn)))
    ++ (if c.epi 2 then rows.flatMap (fun y => cols.map (fun x => (c.f 8 8 + y * c.f 0x2C 4 + x * c.f 0x28 4, c.f 0x3C 2 * c.esOut))) else [])
    ++ (if c.epi 1 then rows.flatMap (fun y => cols.map (fun x => (c.f 0x50 8 + y * c.f 0x58 4 + 4 * x, 4))) else [])

/-! ## One output row (R285) -/

/-- The weights of an output channel in K order, and its bias. -/
def spoutWeights (d : Dev) (c : SpoutCmd) (co : Nat) : Acc (List FVal × FVal) := do
  let k := c.f 0x3E 1 * c.f 0x3F 1 * c.f 0x3A 2
  let b ← spoutRead d c.slot (c.f 0x10 8 + co * k * 2) (2 * k)
  let bias ← if c.f 0x18 8 == 0 then .ok FVal.zero else (spoutRead d c.slot (c.f 0x18 8 + 4 * co) 4).map (fun x => bodyF x 0)
  .ok ((List.range k).map (fun i => decodeElem 0 (elemAt 0 b i)), bias)

/-- The values of an input pixel in BF16; outside the map, zeros that are not read. -/
def spoutPixel (d : Dev) (c : SpoutCmd) (ix iy : Int) : Acc (List FVal × List FVal) :=
  let cin := c.f 0x3A 2
  if 0 ≤ ix && ix < c.f 0x30 2 && 0 ≤ iy && iy < c.f 0x32 2 then do
    let b ← spoutRead d c.slot (c.inVa ix.toNat iy.toNat) (cin * c.esIn)
    let raw := (List.range cin).map (fun i => decodeElem (c.f 0x44 1) (elemAt (c.f 0x44 1) b i))
    .ok (raw.map (roundTo 0 .rne), raw)
  else .ok (List.replicate cin FVal.zero, [])

/-- The terms' values of an output pixel in K order, with the values read. -/
def spoutTerms (d : Dev) (c : SpoutCmd) (x y : Nat) : Acc (List FVal × List FVal) :=
  let kw := c.f 0x3F 1
  let s := c.f 0x40 1
  (List.range (c.f 0x3E 1 * kw)).foldlM (fun acc t => do
    let iy : Int := (s * y + t / kw : Nat) - (c.f 0x41 1 : Int)
    let ix : Int := (s * x + t % kw : Nat) - (c.f 0x42 1 : Int)
    let p ← spoutPixel d c ix iy
    .ok (acc.1 ++ p.1, acc.2 ++ p.2)) ([], [])

/-- One channel of an output pixel: its value, and what is produced on the way to it. -/
def spoutChannel (c : SpoutCmd) (terms : List FVal) (w : List FVal × FVal) : FVal × List FVal :=
  let sums := dotSteps (terms.length / 32 + 1) FVal.zero terms w.1 false
  let a := add32 (sums.getLast?.getD FVal.zero) w.2
  (if c.epi 0 then (a.max (bodyF c.desc 0x48)).min (bodyF c.desc 0x4C) else a, sums ++ [a])

/-- The command has read or produced these values (spec/08_vector_engine.md R201). -/
def SpoutCmd.saw (c : SpoutCmd) (vs : List FVal) : SpoutCmd :=
  { c with nanSeen := c.nanSeen || vs.any FVal.isNan, infSeen := c.infSeen || vs.any FVal.isInf }

/-- Computes and writes one output row. -/
def spoutRow (d : Dev) (c : SpoutCmd) : Acc (Dev × SpoutCmd) := do
  let y := c.f 0x36 2 + c.rows
  let fresh := c.freshRows
  let cols := c.inCols
  let d := fresh.foldl (fun d iy => cols.foldl (fun d ix => spoutMeet d c.slot (c.inVa ix iy) (c.f 0x3A 2 * c.esIn)) d) d
  let ws ← (List.range (c.f 0x3C 2)).mapM (spoutWeights d c)
  let fo := c.f 0x45 1
  let r ← (List.range (c.f 0x34 2)).foldlM (fun (acc : Dev × SpoutCmd) x => do
    let t ← spoutTerms acc.1 c x y
    let ch := ws.map (spoutChannel c t.1)
    let out := ch.map (·.1)
    let codes := out.map (encodeElem fo .rne)
    let conv := if c.epi 2 then codes.map (decodeElem fo) else []
    let d ← if c.epi 2 then spoutWrite acc.1 c.slot (c.f 8 8 + y * c.f 0x2C 4 + x * c.f 0x28 4) (packElems fo codes) else .ok acc.1
    let d ← if c.epi 1 then
        let m := argmaxOf (c.epi 3) (out.zipIdx.map (fun e => (e.2, e.1)))
        spoutWrite d c.slot (c.f 0x50 8 + y * c.f 0x58 4 + 4 * x) (leBytes 4 (m.1 % (2 ^ 32 : Int)).toNat)
      else .ok d
    .ok (d, { acc.2.saw (t.2 ++ t.1 ++ ch.flatMap (·.2) ++ out ++ conv) with nans := acc.2.nans + bit (out.any FVal.isNan) }))
    (d, c.saw (ws.flatMap (fun w => w.2 :: w.1)))
  .ok (spoutCount r.1 (fresh.length * cols.length * c.f 0x3A 2 * c.esIn), { r.2 with rows := c.rows + 1 })

/-! ## The engine (R287) -/

/-- The command's start: its fields and its descriptor. -/
def spoutStart (d : Dev) (c : SpoutCmd) : Acc (Dev × SpoutCmd) :=
  if c.started then .ok (d, c) else do
    let u (o n : Nat) : Nat := fieldLe c.bytes o n
    let z (o n : Nat) : Bool := ((c.bytes.drop o).take n).all (· == 0)
    legal (natBits (u 1 1) 7 2 == 0 && natBits (u 2 1) 7 4 == 0 && z 3 1 && z 0xA 2 && z 0x10 16 && u 4 4 % 32 == 0)
    let b ← partRead d c.core c.logical 0 (u 4 4) 96
    let c := { c with started := true, desc := b }
    legal (spoutOk c)
    c.ranges.forM (fun r => stayInHbm d c.slot r.1 r.2)
    let d := spoutMeet d c.slot (c.f 0x10 8) (c.f 0x3C 2 * c.f 0x3E 1 * c.f 0x3F 1 * c.f 0x3A 2 * 2)
    let d := if c.f 0x18 8 == 0 then d else spoutMeet d c.slot (c.f 0x18 8) (4 * c.f 0x3C 2)
    .ok (spoutCount d (c.f 0x3C 2 * c.f 0x3E 1 * c.f 0x3F 1 * c.f 0x3A 2 * 2 + (if c.f 0x18 8 == 0 then 0 else 4 * c.f 0x3C 2)), c)

/-- The job fault of a running command. -/
def spoutFault (d : Dev) (c : SpoutCmd) (e : JFault) : Dev := jobFault d c.slot c.core 5 c.logical c.command e

/-- The engine's new running command. -/
def setRun (d : Dev) (k : Nat) (c : SpoutCmd) : Dev := d.setSpout k { d.spout k with run := some c }

/-- The engine starts the command at its head, if that has not started. -/
def spoutBegin (d : Dev) (k : Nat) : Dev :=
  match (d.spout k).run with
  | none => d
  | some c => match spoutStart d c with
    | .ok r => setRun r.1 k r.2
    | .error e => spoutFault d c e

/-- Rows still to compute. -/
def spoutLeft (c : SpoutCmd) : Nat := c.f 0x38 2 - c.rows

/-- A LIVE command waits in the engine's queue behind a BATCH one, which gives way at a row boundary (R287). -/
def liveWaits (d : Dev) (k : Nat) (c : SpoutCmd) : Bool :=
  let x := d.spout k
  !(d.job c.slot).live && (x.queue.take spoutDepth).any (fun q => (d.job q.slot).live) && x.suspended.isNone

/-- SPOUT_ROW_BOUNDARY: the running command finishes a row; a BATCH command then gives way to a LIVE one that waits. -/
def spoutRowBoundary (d : Dev) (k : Nat) : Dev :=
  match (d.spout k).run with
  | none => d
  | some c =>
    match spoutStart d c with
    | .error e => spoutFault d c e
    | .ok (d, c) =>
      match (if 0 < spoutLeft c then spoutRow d c else .ok (d, c)) with
      | .error e => spoutFault d c e
      | .ok (d, c) =>
        if liveWaits d k c then
          spoutBegin (d.setSpout k (spoutNext d { d.spout k with run := none, suspended := some c })) k
        else setRun d k c

def execSpoutRowBoundary (cluster : Nat) (s : State) : Out :=
  onDev (decide (cluster < 12)) (fun _ d => spoutRowBoundary d cluster) s

/-- The rows a command has left, in order. -/
def spoutRows : Nat → Dev → SpoutCmd → Acc (Dev × SpoutCmd)
  | 0, d, c => .ok (d, c)
  | n + 1, d, c => do
    let r ← spoutRow d c
    spoutRows n r.1 r.2

/-- SPOUT_DONE: the running command ends with its signal and its deposit, and the next one starts. A BATCH command that a LIVE one
waits behind comes to a row boundary before its end, and gives way there (R287). -/
def spoutDone (d : Dev) (k : Nat) : Dev :=
  match (d.spout k).run with
  | none => d
  | some c =>
    match spoutStart d c with
    | .error e => spoutFault d c e
    | .ok (d1, c) =>
      if decide (1 < spoutLeft c) && liveWaits d k c then spoutRowBoundary d k else
      match spoutRows (spoutLeft c) d1 c with
      | .error e => spoutFault d1 c e
      | .ok (d, c) =>
        let ctl := fieldLe c.bytes 1 1
        let v : Pip := { value := BitVec.ofNat 64 c.nans, type := .int64, nanSeen := c.nanSeen, infSeen := c.infSeen }
        let d := if natBit ctl 1 then
            landDeposit (d.modCtx c.core (fun x => { x with deposits := x.deposits.map (fun e =>
              if e.due == some c.ident then { e with val := v, due := none } else e) })) c.core (fieldLe c.bytes 2 1)
          else d
        let d := d.setSpout k { d.spout k with run := none }
        let d := d.setSpout k (spoutNext d (d.spout k))
        let d := if natBit ctl 0 then semSignal d c.slot c.owner (fieldLe c.bytes 8 1) (BitVec.ofNat 32 (fieldLe c.bytes 0xC 4)) else d
        spoutBegin d k

def execSpoutDone (cluster : Nat) (s : State) : Out := onDev (decide (cluster < 12)) (fun _ d => spoutDone d cluster) s

/-- SPOUT.RUN: joins the queue of the core's cluster; behind a full queue it waits in the core's own queue of 4, and when that
is full the core stalls (R287, spec/08_vector_engine.md R195). -/
def spoutRunCmd (d : Dev) (c : Cmd) : Acc Issued := do
  let ctl := c.u 1 1
  let o ← if natBit ctl 0 then engineSemTarget d c.slot c.logical (c.u 9 1) (c.u 8 1) else .ok 0
  let k := c.core / 12
  let x := d.spout k
  if 4 ≤ ((x.queue.drop spoutDepth).filter (fun q => q.core == c.core)).length then .ok (queueStall d c.core) else
    let q : SpoutCmd := { ident := d.tmNext, core := c.core, slot := c.slot, logical := c.logical, command := c.pc, bytes := c.b, owner := o }
    let d := { d with tmNext := d.tmNext + 1 }
    let d := if natBit ctl 1 then
        d.modCtx c.core (fun y => { y with deposits := y.deposits ++ [{ pip := c.u 2 1 % 16, val := {}, due := some q.ident }] })
      else d
    let idle := x.run.isNone
    let d := d.setSpout k (spoutNext d { x with queue := x.queue ++ [q] })
    if !idle then .ok (.next d) else do
      let r ← spoutStart d q
      .ok (.next (setRun r.1 k r.2))

def execSpoutRun (core : Nat) (s : State) : Out :=
  onDev (isCore core) (fun _ d => issue core 5 (fun o => o == 0x78) (fun d c => behind (coreBusy (d.core c.core)) d (spoutRunCmd d c)) d) s

end Sys2Proof.Machine
end

