-- ==== Sys2Proof/Machine/Dispatch.lean ====
section
/-! DEFINITION. The dispatch: one arm per command, each one direct call of its meaning. -/

namespace Sys2Proof.Machine

def exec (i : Instr) (s : State) : Host.Outcome State Fault Refusal :=
  match i with
  | .registerWrite a addr v => Sys2Proof.Machine.execRegisterWrite a addr v s
  | .pairLoRead a addr => Sys2Proof.Machine.execPairLoRead a addr s
  | .pairLoWrite a addr v => Sys2Proof.Machine.execPairLoWrite a addr v s
  | .pairHiWrite a addr v => Sys2Proof.Machine.execPairHiWrite a addr v s
  | .rcRead a addr => Sys2Proof.Machine.execRcRead a addr s
  | .strLoad => Sys2Proof.Machine.execStrLoad s
  | .strVerifyDone => Sys2Proof.Machine.execStrVerifyDone s
  | .strCheckDone => Sys2Proof.Machine.execStrCheckDone s
  | .strApplyDone => Sys2Proof.Machine.execStrApplyDone s
  | .strRebind logical physical => Sys2Proof.Machine.execStrRebind logical physical s
  | .rebindComplete logical => Sys2Proof.Machine.execRebindComplete logical s
  | .coreHwFault core f unit => Sys2Proof.Machine.execCoreHwFault core f unit s
  | .trnFlush slot => Sys2Proof.Machine.execTrnFlush slot s
  | .trnFlushDone slot => Sys2Proof.Machine.execTrnFlushDone slot s
  | .commitStageDone slot => Sys2Proof.Machine.execCommitStageDone slot s
  | .commitFlip slot => Sys2Proof.Machine.execCommitFlip slot s
  | .commitFoldDone slot => Sys2Proof.Machine.execCommitFoldDone slot s
  | .kfenceTimeout group => Sys2Proof.Machine.execKfenceTimeout group s
  | .selfAbortTimeout slot => Sys2Proof.Machine.execSelfAbortTimeout slot s
  | .timeFramePulse => Sys2Proof.Machine.execTimeFramePulse s
  | .timeFrameMissing => Sys2Proof.Machine.execTimeFrameMissing s
  | .timeClkLoss => Sys2Proof.Machine.execTimeClkLoss s
  | .timeReqSend frac => Sys2Proof.Machine.execTimeReqSend frac s
  | .timeReqReceive port p fracRx fracTx => Sys2Proof.Machine.execTimeReqReceive port p fracRx fracTx s
  | .timeRespReceive port p fracRx => Sys2Proof.Machine.execTimeRespReceive port p fracRx s
  | .fabricTimeTimeout => Sys2Proof.Machine.execFabricTimeTimeout s
  | .deferredStep => Sys2Proof.Machine.execDeferredStep s
  | .clpArm => Sys2Proof.Machine.execClpArm s
  | .jobEnable slot => Sys2Proof.Machine.execJobEnable slot s
  | .jobCheckDone slot => Sys2Proof.Machine.execJobCheckDone slot s
  | .jobDisable slot => Sys2Proof.Machine.execJobDisable slot s
  | .jobAbandon slot => Sys2Proof.Machine.execJobAbandon slot s
  | .jobAbandonDone slot => Sys2Proof.Machine.execJobAbandonDone slot s
  | .jobResume slot => Sys2Proof.Machine.execJobResume slot s
  | .jobPreemptReq slot => Sys2Proof.Machine.execJobPreemptReq slot s
  | .jobDoorbell slot v => Sys2Proof.Machine.execJobDoorbell slot v s
  | .cardTake slot => Sys2Proof.Machine.execCardTake slot s
  | .notBeforeReached slot => Sys2Proof.Machine.execNotBeforeReached slot s
  | .sliceEnd basin => Sys2Proof.Machine.execSliceEnd basin s
  | .preemptGraceDone basin => Sys2Proof.Machine.execPreemptGraceDone basin s
  | .graceOverrun basin => Sys2Proof.Machine.execGraceOverrun basin s
  | .preemptDrainDone basin => Sys2Proof.Machine.execPreemptDrainDone basin s
  | .saveDone basin => Sys2Proof.Machine.execSaveDone basin s
  | .restoreDone basin => Sys2Proof.Machine.execRestoreDone basin s
  | .arrTile core => Sys2Proof.Machine.execArrTile core s
  | .arrRun core => Sys2Proof.Machine.execArrRun core s
  | .arrList core => Sys2Proof.Machine.execArrList core s
  | .nop core => Sys2Proof.Machine.execNop core s
  | .seti core => Sys2Proof.Machine.execSeti core s
  | .alu core => Sys2Proof.Machine.execAlu core s
  | .load core => Sys2Proof.Machine.execLoad core s
  | .store core => Sys2Proof.Machine.execStore core s
  | .pipread core => Sys2Proof.Machine.execPipread core s
  | .pipclr core => Sys2Proof.Machine.execPipclr core s
  | .addf core => Sys2Proof.Machine.execAddf core s
  | .br core => Sys2Proof.Machine.execBr core s
  | .brp core => Sys2Proof.Machine.execBrp core s
  | .loop core => Sys2Proof.Machine.execLoop core s
  | .seed core => Sys2Proof.Machine.execSeed core s
  | .time core => Sys2Proof.Machine.execTime core s
  | .pipDeposit core pip => Sys2Proof.Machine.execPipDeposit core pip s
  | .fenceC core => Sys2Proof.Machine.execFenceC core s
  | .fenceB core => Sys2Proof.Machine.execFenceB core s
  | .fenceD core => Sys2Proof.Machine.execFenceD core s
  | .fenceComplete core => Sys2Proof.Machine.execFenceComplete core s
  | .semSignal core => Sys2Proof.Machine.execSemSignal core s
  | .semWait core => Sys2Proof.Machine.execSemWait core s
  | .semAcquire core => Sys2Proof.Machine.execSemAcquire core s
  | .semRelease core => Sys2Proof.Machine.execSemRelease core s
  | .coreSemAdd core n v => Sys2Proof.Machine.execCoreSemAdd core n v s
  | .trnEnd core => Sys2Proof.Machine.execTrnEnd core s
  | .trnShare core => Sys2Proof.Machine.execTrnShare core s
  | .trnRelease core => Sys2Proof.Machine.execTrnRelease core s
  | .tmCopy core => Sys2Proof.Machine.execTmCopy core s
  | .tmGather core => Sys2Proof.Machine.execTmGather core s
  | .tmDone core => Sys2Proof.Machine.execTmDone core s
  | .vecArith core => Sys2Proof.Machine.execVecArith core s
  | .vecCvt core => Sys2Proof.Machine.execVecCvt core s
  | .vecCmp core => Sys2Proof.Machine.execVecCmp core s
  | .vecReduce core => Sys2Proof.Machine.execVecReduce core s
  | .vecGather core => Sys2Proof.Machine.execVecGather core s
  | .vecScatter core => Sys2Proof.Machine.execVecScatter core s
  | .vecFill core => Sys2Proof.Machine.execVecFill core s
  | .sfBuiltin core => Sys2Proof.Machine.execSfBuiltin core s
  | .sfTable core => Sys2Proof.Machine.execSfTable core s
  | .rowStats core => Sys2Proof.Machine.execRowStats core s
  | .rowMerge core => Sys2Proof.Machine.execRowMerge core s
  | .rowSoftmax core => Sys2Proof.Machine.execRowSoftmax core s
  | .attRun core => Sys2Proof.Machine.execAttRun core s
  | .attFinal core => Sys2Proof.Machine.execAttFinal core s
  | .attExport core => Sys2Proof.Machine.execAttExport core s
  | .attMerge core => Sys2Proof.Machine.execAttMerge core s
  | .kvAppend core => Sys2Proof.Machine.execKvAppend core s
  | .spoutRun core => Sys2Proof.Machine.execSpoutRun core s
  | .spoutRowBoundary cluster => Sys2Proof.Machine.execSpoutRowBoundary cluster s
  | .spoutDone cluster => Sys2Proof.Machine.execSpoutDone cluster s
  | .cscRun core => Sys2Proof.Machine.execCscRun core s
  | .cscPass core => Sys2Proof.Machine.execCscPass core s
  | .cscDone group ring => Sys2Proof.Machine.execCscDone group ring s
  | .codEnc core => Sys2Proof.Machine.execCodEnc core s
  | .codDec core => Sys2Proof.Machine.execCodDec core s
  | .deviceStopComplete => Sys2Proof.Machine.execDeviceStopComplete s
  | .clearStop => Sys2Proof.Machine.execClearStop s
  | .clearPeak => Sys2Proof.Machine.execClearPeak s
  | .cntClear => Sys2Proof.Machine.execCntClear s
  | .weirClearMax => Sys2Proof.Machine.execWeirClearMax s
  | .hbmScrub stack pc slot errs => Sys2Proof.Machine.execHbmScrub stack pc slot errs s
  | .hbmRemapDone stack pc => Sys2Proof.Machine.execHbmRemapDone stack pc s
  | .hbmRetrainStart stack pc forced => Sys2Proof.Machine.execHbmRetrainStart stack pc forced s
  | .hbmRetrainDone stack => Sys2Proof.Machine.execHbmRetrainDone stack s
  | .hbmTrainGroupStart group => Sys2Proof.Machine.execHbmTrainGroupStart group s
  | .hbmTrainDone stack ok => Sys2Proof.Machine.execHbmTrainDone stack ok s
  | .weirSample temps => Sys2Proof.Machine.execWeirSample temps s
  | .thermalStopComplete => Sys2Proof.Machine.execThermalStopComplete s
  | .devTelemetrySample vin iin watts dies => Sys2Proof.Machine.execDevTelemetrySample vin iin watts dies s
  | .flitReceive port f => Sys2Proof.Machine.execFlitReceive port f s
  | .laneSignalLoss port => Sys2Proof.Machine.execLaneSignalLoss port s
  | .replayTimeout port => Sys2Proof.Machine.execReplayTimeout port s
  | .klzRetrain port => Sys2Proof.Machine.execKlzRetrain port s
  | .klzDisable port on => Sys2Proof.Machine.execKlzDisable port on s
  | .klzTrainGroupStart group => Sys2Proof.Machine.execKlzTrainGroupStart group s
  | .portSignalSeen port => Sys2Proof.Machine.execPortSignalSeen port s
  | .portDetectTimeout port => Sys2Proof.Machine.execPortDetectTimeout port s
  | .portBackoffExpire port => Sys2Proof.Machine.execPortBackoffExpire port s
  | .portTrainDone port ok rttNs => Sys2Proof.Machine.execPortTrainDone port ok rttNs s
  | .identReceive port p => Sys2Proof.Machine.execIdentReceive port p s
  | .klzRead port p => Sys2Proof.Machine.execKlzRead port p s
  | .klzWrite port p => Sys2Proof.Machine.execKlzWrite port p s
  | .klzViewRead port p => Sys2Proof.Machine.execKlzViewRead port p s
  | .klzViewWrite port p => Sys2Proof.Machine.execKlzViewWrite port p s
  | .klzForward port p => Sys2Proof.Machine.execKlzForward port p s
  | .klzResponse p => Sys2Proof.Machine.execKlzResponse p s
  | .klzRequestLost tag => Sys2Proof.Machine.execKlzRequestLost tag s
  | .cscDataReceive port p => Sys2Proof.Machine.execCscDataReceive port p s
  | .cscReadyReceive port p => Sys2Proof.Machine.execCscReadyReceive port p s
  | .fenceArriveReceive port p => Sys2Proof.Machine.execFenceArriveReceive port p s
  | .fenceDecideReceive port p => Sys2Proof.Machine.execFenceDecideReceive port p s
  | .fenceAbortReceive port p => Sys2Proof.Machine.execFenceAbortReceive port p s
  | .fenceReplayReceive port p => Sys2Proof.Machine.execFenceReplayReceive port p s
  | .fenceStopReceive port p => Sys2Proof.Machine.execFenceStopReceive port p s
  | .fenceAbsentReceive port p => Sys2Proof.Machine.execFenceAbsentReceive port p s
  | .klzEchoGo => Sys2Proof.Machine.execKlzEchoGo s
  | .echoReceive port p => Sys2Proof.Machine.execEchoReceive port p s
  | .echoRespReceive p rttNs => Sys2Proof.Machine.execEchoRespReceive p rttNs s
  | .echoTimeout => Sys2Proof.Machine.execEchoTimeout s
  | .codStreamOpen stream => Sys2Proof.Machine.execCodStreamOpen stream s
  | .codStreamCheckDone stream => Sys2Proof.Machine.execCodStreamCheckDone stream s
  | .codStreamClose stream => Sys2Proof.Machine.execCodStreamClose stream s
  | .codKeyReq stream => Sys2Proof.Machine.execCodKeyReq stream s
  | .codPictureStart codec => Sys2Proof.Machine.execCodPictureStart codec s
  | .codBatchSuspend codec => Sys2Proof.Machine.execCodBatchSuspend codec s
  | .codPictureDone codec => Sys2Proof.Machine.execCodPictureDone codec s
  | .codCoreError codec => Sys2Proof.Machine.execCodCoreError codec s
  | .ethFrameReceive port f => Sys2Proof.Machine.execEthFrameReceive port f s
  | .arpRequest port f => Sys2Proof.Machine.execArpRequest port f s
  | .neighborSolicitation port f => Sys2Proof.Machine.execNeighborSolicitation port f s
  | .ethLinkUp port => Sys2Proof.Machine.execEthLinkUp port s
  | .ethLinkDown port => Sys2Proof.Machine.execEthLinkDown port s
  | .pldRegRd h seq => Sys2Proof.Machine.execPldRegRd h seq s
  | .pldRegWr h seq => Sys2Proof.Machine.execPldRegWr h seq s
  | .pldMemRd h seq => Sys2Proof.Machine.execPldMemRd h seq s
  | .pldMemWr h seq => Sys2Proof.Machine.execPldMemWr h seq s
  | .pldPoll h seq => Sys2Proof.Machine.execPldPoll h seq s
  | .pldHostfence h seq => Sys2Proof.Machine.execPldHostfence h seq s
  | .hostfenceComplete h => Sys2Proof.Machine.execHostfenceComplete h s
  | .pldDoorbell h seq => Sys2Proof.Machine.execPldDoorbell h seq s
  | .pldMbxWr h seq => Sys2Proof.Machine.execPldMbxWr h seq s
  | .pldMbxRd h seq => Sys2Proof.Machine.execPldMbxRd h seq s
  | .pldOpen h seq => Sys2Proof.Machine.execPldOpen h seq s
  | .sessionDrainDone h => Sys2Proof.Machine.execSessionDrainDone h s
  | .boardRecordLoad => Sys2Proof.Machine.execBoardRecordLoad s
  | .mbxMsgWrite a chan idx v => Sys2Proof.Machine.execMbxMsgWrite a chan idx v s
  | .mbxGo a chan => Sys2Proof.Machine.execMbxGo a chan s
  | .mbxRelease a chan => Sys2Proof.Machine.execMbxRelease a chan s
  | .i3cPrivateWrite bytes => Sys2Proof.Machine.execI3cPrivateWrite bytes s
  | .i3cPrivateRead words => Sys2Proof.Machine.execI3cPrivateRead words s
  | .i3cEntdaa addr => Sys2Proof.Machine.execI3cEntdaa addr s
  | .i3cSetdasa addr => Sys2Proof.Machine.execI3cSetdasa addr s
  | .i3cRstdaa => Sys2Proof.Machine.execI3cRstdaa s
  | .smbusTimeout => Sys2Proof.Machine.execSmbusTimeout s
  | .secBootComplete => Sys2Proof.Machine.execSecBootComplete s
  | .spdmFragment chan => Sys2Proof.Machine.execSpdmFragment chan s
  | .getVersion chan => Sys2Proof.Machine.execGetVersion chan s
  | .getCapabilities chan => Sys2Proof.Machine.execGetCapabilities chan s
  | .negotiateAlgorithms chan => Sys2Proof.Machine.execNegotiateAlgorithms chan s
  | .getDigests chan => Sys2Proof.Machine.execGetDigests chan s
  | .getCertificate chan => Sys2Proof.Machine.execGetCertificate chan s
  | .challenge chan => Sys2Proof.Machine.execChallenge chan s
  | .getMeasurements chan => Sys2Proof.Machine.execGetMeasurements chan s
  | .spdmUnsupportedRequest chan => Sys2Proof.Machine.execSpdmUnsupportedRequest chan s
  | .enrollOwner chan => Sys2Proof.Machine.execEnrollOwner chan s
  | .loadMacsec chan => Sys2Proof.Machine.execLoadMacsec chan s
  | .debugUnlock chan => Sys2Proof.Machine.execDebugUnlock chan s
  | .commitFw chan => Sys2Proof.Machine.execCommitFw chan s
  | .fwFragment chan => Sys2Proof.Machine.execFwFragment chan s
  | .jtagInstruction op => Sys2Proof.Machine.execJtagInstruction op s
  | .vinApply mv => Sys2Proof.Machine.execVinApply mv s
  | .powerGood => Sys2Proof.Machine.execPowerGood s
  | .vinExcursion mv => Sys2Proof.Machine.execVinExcursion mv s
  | .vinUndervoltage mv => Sys2Proof.Machine.execVinUndervoltage mv s
  | .vinOvervoltage mv => Sys2Proof.Machine.execVinOvervoltage mv s
  | .resetAssert => Sys2Proof.Machine.execResetAssert s
  | .resetRelease bootMode iovSel => Sys2Proof.Machine.execResetRelease bootMode iovSel s
  | .deviceReady => Sys2Proof.Machine.execDeviceReady s
  | .uncorrectableCodeWords port => Sys2Proof.Machine.execUncorrectableCodeWords port s
  | .timeClkPresent => Sys2Proof.Machine.execTimeClkPresent s
  | .refclkAbsent b absent => Sys2Proof.Machine.execRefclkAbsent b absent s
  | .hbmRemapStart stack pc => Sys2Proof.Machine.execHbmRemapStart stack pc s

end Sys2Proof.Machine
end

