-- ==== Sys2Proof/Machine/Step.lean ====
section
/-! DEFINITION. One step: the command at the front of the queue, or the clock when no command waits. -/

namespace Sys2Proof.Machine

/-- With no command waiting one phase unit passes, and the service processor writes the repair records that wait for it (R83, R88,
spec/12_hbm.md R308; notes/assumptions/2.md, notes/assumptions/25.md). -/
def idle (s : State) : State :=
  let r := flushRepairs s.nv (tick s.dev)
  { s with nv := r.1, dev := r.2 }

/-- Takes the command at the front of the queue and runs it with the queue's rest; with none waiting the block
idles (notes/assumptions/2.md). -/
def step (s : State) : Host.Outcome State Fault Refusal :=
  match s.pending with
  | [] => .next (idle s)
  | c :: cs => exec c { s with pending := cs }

/-- The state with the command a table word spells at the front of its queue. No row of spec/opcode_table.json gives bits,
so no word spells a command. -/
def State.withFetchWord (s : State) (nbits w : Nat) : State :=
  match Sys2Proof.decodeTableWord nbits w with
  | some c => { s with pending := c :: s.pending }
  | none => s

end Sys2Proof.Machine
end

