-- ==== Sys2Proof/Safety.lean ====
section
/-! DEFINITION. What a safe run is, and the terms the statements use. -/

namespace Sys2Proof.Machine

/-- The command answers a next state. -/
def Completes (o : Out) : Prop := ∃ t, o = .next t

/-- The command answers a next state whose volatile part is `d`; fuses, flash and queue stay. -/
def Yields (o : Out) (s : State) (d : Dev) : Prop := o = .next { s with dev := d }

/-- The command answers a next state whose volatile part satisfies `P`; fuses, flash and queue stay. -/
def YieldsSome (o : Out) (s : State) (P : Dev → Prop) : Prop := ∃ d, o = .next { s with dev := d } ∧ P d

/-- Core `core` may issue, and the next command of its stream is `c`, of opcode `op` (spec/08_vector_engine.md R193 to R198). -/
structure Stands (d : Dev) (core op : Nat) (c : Cmd) : Prop where
  core_lt : core < 144
  slot    : (d.core core).slot = some c.slot
  active  : (d.core core).active = true
  free    : (d.core core).ctx.wait = .none ∨ (d.core core).ctx.wait = .queue
  own     : c.core = core
  logical : c.logical = d.logical core
  pc      : c.pc = (d.core core).ctx.pc
  stream  : 32 * c.pc + 32 ≤ streamBytes d c.slot c.logical
  opcode  : fieldLe (memRead d.mem (cmdCell core (32 * c.pc)) 32) 0 1 = op
  bytes   : c.b = if 0x20 ≤ op then applyAddf (memRead d.mem (cmdCell core (32 * c.pc)) 32) (d.core core).ctx.addf
                  else memRead d.mem (cmdCell core (32 * c.pc)) 32

/-- `issued d core op pc`: `d` after the core has issued a command of opcode `op` and goes on at `pc`. -/
def issued (d : Dev) (core op pc : Nat) : Dev := advance d core (decide (0x20 ≤ op)) pc

/-- From `d` to `e` core `core` becomes `x`, and nothing else changes. -/
def CoreStep (d : Dev) (core : Nat) (x : CoreSt) (e : Dev) : Prop :=
  e.core core = x ∧ (∀ k, k ≠ core → e.core k = d.core k) ∧ e = { d with cores := e.cores }

/-- Command `c` of an engine, while `held` or behind an unfinished one of its core or a full queue, waits in the engine's queue, or its
core stalls (spec/08_vector_engine.md R195, spec/06_matrix_arrays.md R161). -/
def QueuesBehind (s : State) (core op : Nat) (c : Cmd) (k : Engine) (i : Instr) (held : Prop) : Prop :=
  let x := s.dev.core core
  Stands s.dev core op c → held ∨ coreBusy x = true ∨ queueFull x k = true →
  (queueFull x k = false → YieldsSome (exec i s) s (CoreStep { s.dev with tmNext := s.dev.tmNext + 1 } core { x with ctx :=
    { x.ctx.setQueue k (x.ctx.queue k ++ [{ stamp := s.dev.tmNext, pc := c.pc, b := c.b }]) with wait := .none, pc := c.pc + 1, addf := [] } }))
  ∧ (queueFull x k = true → YieldsSome (exec i s) s (CoreStep s.dev core { x with ctx := { x.ctx with wait := .queue } }))

/-- A core after a branch of command `pc` to `target`, bounded by `bound`, whose condition is `take` (spec/08_vector_engine.md R199). -/
def afterBranch (x : CoreSt) (pc target bound : Nat) (take : Bool) : CoreSt :=
  let n := tabGet 0 x.ctx.taken pc
  let at_ (pc' : Nat) (taken : Tab Nat) : Ctx := { x.ctx with wait := .none, pc := pc', taken := taken }
  if take = false then { x with ctx := at_ (pc + 1) (if target ≤ pc then tabSet 0 x.ctx.taken pc 0 else x.ctx.taken) }
  else if pc < target then { x with ctx := at_ target x.ctx.taken }
  else if n = bound then { x with ctx := at_ (pc + 1) (tabSet 0 x.ctx.taken pc 0), boundHit := true, boundHits := sat16 x.boundHits }
  else { x with ctx := at_ target (tabSet 0 x.ctx.taken pc (n + 1)) }

/-- Every cell of memory outside the given ranges reads as before. -/
def CellsKept (d e : Dev) (ranges : List (Nat × Nat)) : Prop :=
  ∀ a, (∀ r ∈ ranges, a < r.1 ∨ r.1 + r.2 ≤ a) → memGet e.mem a = memGet d.mem a

/-- What an addition to a semaphore does to the cores of the device other than `except_`: a core that waits in SEM.WAIT may go on, and nothing else changes. -/
def SemaphoreWakes (d e : Dev) (except_ : Nat) : Prop :=
  ∀ p, p ≠ except_ → e.core p = d.core p
    ∨ ((∃ o i t, (d.core p).ctx.wait = .sem o i t) ∧ e.core p = { d.core p with ctx := leaveWait (d.core p).ctx })

/-- The cells of an operand's rows, as ranges. -/
def opndRanges (d : Dev) (core l : Nat) (o : Opnd) : List (Nat × Nat) := (List.range o.rows).map (fun r => (opndCell d core l o r, o.n))

/-- A vector, special-function or row command of core `core` has run: it goes on at the next command, its busy counter `n`
has advanced, only the cells of the ranges `writes`, the lane generators, the free values used and, with `deps`, the deposits on
their way have changed. -/
def EngineRan (d : Dev) (core : Nat) (c : Cmd) (cnt : Cnt) (writes : List (Nat × Nat)) (deps : List Deposit) (e : Dev) : Prop :=
  (∃ lanes, CoreStep { d with mem := e.mem, upsets := e.upsets, cnt := cnt, free := e.free } core { d.core core with ctx :=
    { (d.core core).ctx with wait := .none, pc := c.pc + 1, addf := [], lanes := lanes, deposits := (d.core core).ctx.deposits ++ deps } } e)
  ∧ CellsKept d e writes

/-- The cells of this device that a Cascade command's destination covers. -/
def runCells (dst : List (List CscRun)) : List (Nat × Nat) :=
  dst.flatten.filterMap (fun r => match r.place with
    | .cells a => some (a, r.n)
    | _ => none)

/-- A stack after reads: they change only what R303, R304, R307 and R311 of spec/12_hbm.md count, capture, track and hold. -/
def Stack.read (x y : Stack) : Stack :=
  { x with ueSeen := y.ueSeen, ceSeen := y.ceSeen, remaps := y.remaps, ceCount := y.ceCount, ueCount := y.ueCount, holdPeak := y.holdPeak,
           sparesUsed := y.sparesUsed, lastErr := y.lastErr, pins := y.pins, symbols := y.symbols, rows := y.rows, remapQueue := y.remapQueue,
           remapping := y.remapping, lastRemap := y.lastRemap, hold := y.hold }

/-- From `d` to `e` only what HBM accesses count, hold, find and mark has changed; a marked burst stays marked. -/
def HbmRead (d e : Dev) : Prop :=
  e = { d with hbm := e.hbm, poison := e.poison, upsets := e.upsets, repairsDue := e.repairsDue, cnt := e.cnt }
  ∧ (∀ k, e.stack k = (d.stack k).read (e.stack k)) ∧ (∀ u, tabGet false d.poison u = true → tabGet false e.poison u = true)

/-- From `d` to `e` everything volatile is back at its reset value but for the pins, which stand as `sys` has them, the dead pins of the
stacks and the repair records that wait (spec/18_power_and_package.md R478, notes/assumptions/25.md). -/
def Cleared (d : Dev) (sys : Sys) (e : Dev) : Prop :=
  e = { sys := sys, clp := { timeClk := d.clp.timeClk }, free := d.free, repairsDue := d.repairsDue, hbm := e.hbm }
  ∧ (tabWf {} d.hbm = true → ∀ k, e.stack k = { deadPins := (d.stack k).deadPins })

/-- No command of a job's cores waits in an engine's queue, and its movers have no piece left to begin. -/
def JobCalm (d : Dev) (slot : Nat) : Prop :=
  ∀ l ∈ jobCores d slot, queuedCount (d.core (d.phys l)).ctx = 0 ∧ (d.core (d.phys l)).ctx.codQueue = []
    ∧ (d.core (d.phys l)).tm.all (fun t => t.todo.isEmpty) = true

/-- The regions of a triple's rows in a core's accumulator (spec/10_attention.md R252). -/
def tripleRange (d : Dev) (core l acc dim : Nat) : Nat × Nat := (sramCell core ((partition (d.coreRec l) 1).1 + acc), tripleBytes dim)

/-- `rows` rows of `n` bytes at a pitch from an address of R205 form, as ranges of cells. -/
def rowRanges (d : Dev) (core l v pitch rows n : Nat) : List (Nat × Nat) :=
  (List.range rows).map (fun r => (sramCell core ((partition (d.coreRec l) (spaceOf v).1).1 + (spaceOf v).2 + r * pitch), n))

/-- A stack after a temperature sample (spec/12_hbm.md R313). -/
def sampled (d : Dev) (x : Stack) (t : Int) : Stack :=
  let t := clampInt (-128) 127 t
  let g := weirTarget d t
  if x.level < g then { x with temp := t, level := g, maxLevel := max x.maxLevel g, cool := 0 }
  else if 0 < x.level ∧ t ≤ weirThreshold d x.level - 3 then
    (if 7 ≤ x.cool then { x with temp := t, level := x.level - 1, cool := 0 } else { x with temp := t, cool := x.cool + 1 })
  else { x with temp := t, cool := 0 }

/-- From `d` to `e` port `n` becomes `x`, and nothing else changes. -/
def PortStep (d : Dev) (n : Nat) (x : Port) (e : Dev) : Prop :=
  e.port n = x ∧ (∀ k, k ≠ n → e.port k = d.port k) ∧ e = { d with klz := { d.klz with ports := e.klz.ports } }

/-- A port in the state `s` for reason `r`: no neighbour shows, and RETRAIN clears in DETECT (spec/13_koliz_fabric.md R328, R365). -/
def Port.into (x : Port) (s : PortState) (r : Byte) : Port :=
  { x with state := s, reason := r, retrain := x.retrain && !(s == .detect), neighbour := 0, neighbourPort := 0 }

/-- A port whose link is lost: its buffers are empty and the loss is counted (spec/13_koliz_fabric.md R325). -/
def Port.lost (x : Port) : Port :=
  { x with linkLost := true, losses := sat16 x.losses, txSeq := 0, rxSeq := 0, dropping := false, replaying := false,
           retry := [], sent := [], ahead := 0, used := [], waiting := [], rx := [], ident := none }

/-- Nothing depends on the port's being ACTIVE: no domain group has it in its tree and no Cascade command runs. -/
def PortFree (d : Dev) (n : Nat) : Prop :=
  (d.port n).state ≠ .active ∨ ((∀ g, g < 16 → (d.grp g).valid = true → (fromChild (d.grp g) n || fromParent (d.grp g) n) = false) ∧ d.klz.cascade = [])

/-- A packet reaches its own end at this device by a port that carries it (spec/13_koliz_fabric.md R328, R338, R340). -/
structure Reaches (d : Dev) (port : Nat) (p : Packet) : Prop where
  port_lt : port < 16
  state   : carries (d.port port).state p = true ∧ linkUp (d.port port).state = true
  intact  : intact p = true
  home    : (hopType p.type = true) ∨ (d.str.inForce.isSome = true ∧ p.dest.toNat = d.ownDevice)
  ready   : d.str.inForce.isSome = true ∨ isRequest p = false

/-- `d` with the received payload counted (spec/17_faults_and_counters.md R465). -/
def received (d : Dev) (p : Packet) : Dev := d.count 8 ((p.payload.length + 63) / 64)

/-- A frame with `bytes` goes back on the port its request came by, protected by the slot's transmit association; on a port
that is down, or with no packet number left, none goes (spec/15_host_attachment.md R395, R398, R399). -/
def Sent (d : Dev) (h : Nat) (b : Back) (bytes : List Byte) (e : Dev) : Prop :=
  let c := (d.conn h).conf
  let sa := c.sa.toNat
  let a := d.assoc sa
  let goes := (d.ethp b.port).linkUp && !pnExhausted d c
  let tag := if c.macsec then some (sa, a.anTx, BitVec.ofNat 64 a.txPn) else none
  let frame : EthOut := { port := b.port, dest := b.mac, vlan := b.vlan, macsec := tag, encap := swapEncap b.encap, data := bytes }
  e.pld.out = d.pld.out ++ (if goes then [frame] else [])
  ∧ e.assoc sa = (if goes && c.macsec then { a with txPn := a.txPn + 1 } else a) ∧ (∀ k, k ≠ sa → e.assoc k = d.assoc k)
  ∧ e.sec = { d.sec with assocs := e.sec.assocs }

/-- From `d` to `e` request `r` of connection `h` is answered with `a`: in an open session the response is cached and sent, in
DRAINING it is discarded (spec/15_host_attachment.md R410, R413, R414). -/
def Settled (d : Dev) (h : Nat) (r : PldReq) (a : Answer) (e : Dev) : Prop :=
  let c := d.conn h
  let live := c.state == .opened
  let keep := live && !longRead r
  let bytes := responseBytes c r c.session.toNat a
  e.conn h = { c.put { r with phase := .answered keep, left := 0, parts := [] } with requests := sat32 c.requests }
  ∧ (∀ k, k ≠ h → e.conn k = d.conn k)
  ∧ e.mem = (if keep then memWrite d.mem (replyCell h r.seq) bytes else d.mem)
  ∧ (live = true → Sent d h r.back bytes e)
  ∧ (live = false → e.sec = d.sec ∧ e.pld.out = d.pld.out)
  ∧ e = { (if keep then d.cellPut (replyCell h r.seq) bytes else d) with pld := { d.pld with conns := e.pld.conns, out := e.pld.out }, sec := e.sec }

/-- Request `seq` of connection `h`, with all of its payload, waits to be executed, and packet numbers are left (spec/15_host_attachment.md
R399, R403, R409). -/
structure Waits (d : Dev) (h seq op : Nat) (r : PldReq) : Prop where
  h_lt   : h < 8
  seq_lt : seq < 0x1000000
  found  : (d.conn h).find seq = some r
  op_eq  : r.op = op
  phase  : r.phase = .received
  sends  : pnExhausted d (d.conn h).conf = false
  whole  : r.bytes.length = 32 + r.len

/-- Lines 3 and 4 of R413 let the request through (spec/15_host_attachment.md R402, R404, R413). -/
structure Admitted (d : Dev) (h seq op : Nat) (r : PldReq) : Prop extends Waits d h seq op r where
  form    : formOk d h r = true
  allowed : readOnlyDenies (d.conn h).conf r = false
  domain  : namesRemote d r = true → (d.conn h).conf.domain = true

/-- The request is unchanged but for its phase. -/
def Shelved (d : Dev) (h : Nat) (r : PldReq) (e : Dev) : Prop :=
  e.conn h = (d.conn h).put { r with phase := .waiting } ∧ (∀ k, k ≠ h → e.conn k = d.conn k) ∧ e = { d with pld := { d.pld with conns := e.pld.conns } }

/-- From `d` to `e` the waiting OPEN `r` opens a session with L = SEQ + 1 and is answered (spec/15_host_attachment.md R409, R414). -/
def Opened (d : Dev) (h : Nat) (r : PldReq) (e : Dev) : Prop :=
  let c := d.conn h
  let n := BitVec.ofNat 16 r.arg
  let c1 := { c with state := .opened, session := n, openSeq := r.seq, low := (r.seq + 1) % 2 ^ 24, reqs := [], opening := none, requests := sat32 c.requests }
  let bytes := responseBytes c1 r n.toNat {}
  e.conn h = { c1 with openReply := bytes } ∧ (∀ k, k ≠ h → e.conn k = d.conn k) ∧ Sent d h r.back bytes e
  ∧ e = { d with pld := { d.pld with conns := e.pld.conns, out := e.pld.out }, sec := e.sec }

/-- The command answers a next state whose fuses, flash and volatile part satisfy `P`; the queue stays. -/
def YieldsBoth (o : Out) (s : State) (P : Nv → Dev → Prop) : Prop := ∃ nv d, o = .next { s with nv := nv, dev := d } ∧ P nv d

/-- From `d` to `e` the controller's messages `ws` wait for the answer channel of request channel `c`; the first that waits goes
out at once on an EMPTY channel that the controller may send on (spec/16_security.md R441 to R443). -/
def Replied (d : Dev) (c : Nat) (ws : List (List Word)) (e : Dev) : Prop :=
  match answerChannel c with
  | none => e = d
  | some k =>
    let q := (d.schan c).answers ++ ws
    let x := d.mbxc k
    let goes := !x.full && mbxIsSender x .sec
    e.mbxc k = (if goes then { x with msg := tabOfList 0 ((q.headD []).take 16), full := true, count := x.count + 1 } else x)
    ∧ e.schan c = { d.schan c with answers := if goes then q.tail else q }
    ∧ (∀ j, j ≠ k → e.mbxc j = d.mbxc j) ∧ (∀ j, j ≠ c → e.schan j = d.schan j)
    ∧ e = { d with mbx := e.mbx, sec := { d.sec with chans := e.sec.chans } }

/-- The answer of the controller to a command: TYPE 0x02, the status and the command (spec/16_security.md R443). -/
def statusWord (code status : Nat) : List (List Word) := [[BitVec.ofNat 32 (0x02000000 + status * 0x100 + code)]]

/-- Channel `c` carries a message of TYPE `type` to the controller (spec/16_security.md R441, R443). -/
structure Carries (d : Dev) (c type : Nat) (w : List Word) : Prop where
  c_lt    : c < 32
  own     : requestChannel c = none
  message : secMessage d c = some w
  type_eq : natBits (msgWord w 0) 31 24 = type

/-- `d` with the message of channel `c` read and the channel EMPTY (spec/15_host_attachment.md R420). -/
def emptied (d : Dev) (c : Nat) : Dev := d.setMbxc c { d.mbxc c with full := false }

/-- `d` with a refusal counted and its reason shown (spec/16_security.md R450). -/
def secNoted (d : Dev) (why : Byte) : Dev := { d with sec := { d.sec with lastReason := why, refusals := sat16 d.sec.refusals } }

/-- From `d` to `e` firmware `img` of copy `copy` comes into force: measurements, alias certificate, the binding table, and TRAIN
(spec/16_security.md R435, R440, R441). -/
def FirmwareIn (nv : Nv) (d : Dev) (copy : Nat) (img : List Byte) (e : Dev) : Prop :=
  e.sec = { d.sec with state := .running, fwCopy := copy, fwVersion := BitVec.ofNat 32 (fieldLe img 0x10 4), fwHash := (img.drop 0x20).take 48, issue := d.free }
  ∧ e.sys = { d.sys with state := .train }
  ∧ (∀ c, c < 8 → e.mbxc c = { d.mbxc c with sender := c, receiver := 10 } ∧ e.mbxc (8 + c) = { d.mbxc (8 + c) with sender := 10, receiver := c })
  ∧ e.mbxc 16 = { d.mbxc 16 with sender := 8, receiver := 10 } ∧ e.mbxc 17 = { d.mbxc 17 with sender := 10, receiver := 8 }
  ∧ e.mbxc 18 = { d.mbxc 18 with sender := 9, receiver := 10 } ∧ e.mbxc 19 = { d.mbxc 19 with sender := 10, receiver := 9 }
  ∧ (∀ c, 20 ≤ c → c < 32 → e.mbxc c = { d.mbxc c with sender := (tabGet (15, 15) nv.policy c).1 % 16, receiver := (tabGet (15, 15) nv.policy c).2 % 16 })
  ∧ e = { d with sec := e.sec, sys := e.sys, mbx := e.mbx, mbxLocked := true, free := d.free + 1 }

/-- The commands of supply, reset, clock and test pins, which act in RESET too (spec/18_power_and_package.md R469 to R478). -/
def ofPins (c : Instr) : Bool :=
  match c with
  | .vinApply _ => true | .powerGood => true | .vinExcursion _ => true | .vinUndervoltage _ => true | .vinOvervoltage _ => true
  | .resetAssert => true | .resetRelease _ _ => true | .refclkAbsent _ _ => true | .timeClkLoss => true | .timeClkPresent => true
  | .jtagInstruction _ => true
  | _ => false

/-- The fuses and the keys of `s` stand as in `n`, or further: no fuse clears, no counter or key epoch falls, an enrolled owner
stays, and what is written at manufacture stays (spec/16_security.md R432, R437, R438, R447). -/
structure FusesFrom (n : Nv) (s : State) : Prop where
  vendor     : s.nv.vendorHash = n.vendorHash
  seed       : s.nv.identitySeed = n.identitySeed
  serial     : s.nv.serial = n.serial
  owner      : ownerEnrolled n = true → s.nv.ownerHash = n.ownerHash
  strCounter : n.strCounter ≤ s.nv.strCounter ∧ (n.strCounter ≤ 64 → s.nv.strCounter ≤ 64)
  prgCounter : n.prgCounter ≤ s.nv.prgCounter ∧ (n.prgCounter ≤ 64 → s.nv.prgCounter ≤ 64)
  fwCounter  : n.fwCounter ≤ s.nv.fwCounter ∧ (n.fwCounter ≤ 64 → s.nv.fwCounter ≤ 64)
  epochs     : ∀ k, tabGet 0 n.epochs k ≤ tabGet 0 s.nv.epochs k

end Sys2Proof.Machine
end

