-- ==== Sys2Proof/Certificates/Slice0/Obligations.lean ====
section
/-! DEFINITION. The statements for the provers, about the machine and its commands. -/

open Sys2Proof Sys2Proof.Machine

/-- A step is the front command's meaning on the rest of the queue; with none waiting one phase unit passes, and the service processor
writes the repair records that wait. -/
def Obligations.StepTakesTheFrontCommandOrTicks : Prop :=
  ∀ (s : State),
    let d := s.dev
    let c := d.clp
    let turns := c.elapsed % 1000 = 999
    let counted := ((d.count 0 (Config.cycles c.elapsed)).count 6 (Config.dieCut c.elapsed)).cnt
    let quiet := d.sys.state = .reset ∨ d.sys.tripped = true
    (∀ i rest, step { s with pending := i :: rest } = exec i { s with pending := rest })
    ∧ (s.pending = [] → ∃ t, step s = .next t ∧ t.pending = [] ∧ t.nv = { s.nv with repairs := t.nv.repairs }
      ∧ (d.repairsDue = [] → t.nv = s.nv ∧ (quiet → t = s))
      ∧ t.dev.clp = (if quiet then c
          else if turns ∧ 0 < c.slew then { c with elapsed := c.elapsed + 1, now := c.now + 2, slew := c.slew - 1 }
          else if turns ∧ c.slew < 0 then { c with elapsed := c.elapsed + 1, slew := c.slew + 1 }
          else { c with elapsed := c.elapsed + 1, now := c.now + 1 })
      ∧ t.dev.cnt = (if quiet then d.cnt else counted)
      ∧ (∀ u, tabGet false d.poison u = true → tabGet false t.dev.poison u = true)
      ∧ (∀ n, t.dev.port n = { d.port n with fecCorrected := (t.dev.port n).fecCorrected, fecUncorrected := (t.dev.port n).fecUncorrected })
      ∧ (∀ k, k < 12 → tabGet [] t.dev.repairsDue k = [] ∧ (∀ r ∈ tabGet [] s.nv.repairs k, r ∈ tabGet [] t.nv.repairs k)
          ∧ ∀ r ∈ tabGet [] d.repairsDue k, r ∈ tabGet [] t.nv.repairs k
            ∨ (256 ≤ (tabGet [] t.nv.repairs k).length ∧ (t.dev.stack k).repairFull = true))
      ∧ t.dev = { d with clp := t.dev.clp, cnt := t.dev.cnt, hbm := t.dev.hbm, poison := t.dev.poison, upsets := t.dev.upsets,
                         repairsDue := t.dev.repairsDue, klz := { d.klz with ports := t.dev.klz.ports } })

/-- Registers whose reset value the register tables give and is not 0 read so right after reset. -/
def Obligations.RegistersReadTheirResetValues : Prop :=
  let v (a : Nat) := regValue State.reset.nv State.reset.dev a
  v 0x0 = 0x470990A0 ∧ v 0x4 = 0
  ∧ (∀ l, l < 144 → v (0x100200 + 4 * l) = 0xFF)
  ∧ (∀ j, j < 64 → v (0x200038 + 0x1000 * j) = 0x404 ∧ v (0x301010 + 0x40 * j) = 0xFFFFFFFF ∧ v (0x301014 + 0x40 * j) = 0xFFFFFFFF)
  ∧ v 0x300004 = 0x10000000 ∧ v 0x400010 = 1 ∧ v 0x400014 = 1 ∧ v 0x400020 = 60 ∧ v 0x400024 = 1
  ∧ (∀ b, b < 16 → v (0x500100 + 0x20 * b) = 0xFF)
  ∧ (∀ k, k < 12 → v (0x800000 + 0x10000 * k) = 0xFF000000 ∧ v (0x800004 + 0x10000 * k) = 0x10 ∧ v (0x800008 + 0x10000 * k) = 1 ∧ v (0x800020 + 0x10000 * k) = 1024)
  ∧ v 0xB00004 = 0xC350C350 ∧ (∀ k, k < 16 → v (0xC00100 + 4 * k) = 0xFFFF0000)
  ∧ (∀ n, n < 2 → v (0xD00018 + 0x1000 * n) = 0xB8C0) ∧ v 0xD02000 = 2
  ∧ (∀ c, c < 32 → v (0xE00100 + 4 * c) = 0xFF)
  ∧ (∀ c, c < 144 → v (0x1000000 + 0x10000 * c) = 0xFFFF0000)
  ∧ State.reset.pending = [] ∧ State.reset.dev.mem = []

/-- A command neither reads nor changes the queue. -/
def Obligations.CommandsLeaveTheQueueAlone : Prop :=
  ∀ (c : Instr) (s : State) (q : List Instr),
    exec c { s with pending := q } = (match exec c s with
      | .next t => .next { t with pending := q }
      | .fault f => .fault f
      | .refused r => .refused r)

/-- Every command that names units the GL9 has answers a next state, but for a private JTAG instruction while debug is unlocked; every
other command faults. -/
def Obligations.CommandsOnExistingUnitsComplete : Prop :=
  ∀ (c : Instr) (s : State),
    (c.wf = true → (∀ k, c = .jtagInstruction (.private_ k) → s.dev.sec.debugUnlocked = false) → Completes (exec c s))
    ∧ (c.wf = false → exec c s = .fault .noSuchUnit)

/-- In RESET nothing but the supply, reset, clock and test pins changes anything. -/
def Obligations.OnlyPinsActInReset : Prop :=
  ∀ (c : Instr) (s : State), s.dev.sys.state = .reset → c.wf = true → ofPins c = false → exec c s = .next s

/-- Fuses and key epochs move one way: every step keeps them at or past any point they have reached. -/
def Obligations.FusesMoveOneWay : Prop :=
  ∀ (n : Nv) (s t : State), FusesFrom n s → step s = .next t → FusesFrom n t

/-- The fuse invariant holds at reset, with every counter at or below 64. -/
def Obligations.FusesStandAtReset : Prop :=
  FusesFrom State.reset.nv State.reset ∧ State.reset.nv.strCounter ≤ 64 ∧ State.reset.nv.prgCounter ≤ 64 ∧ State.reset.nv.fwCounter ≤ 64

/-- NOP, SETI, ALU, TIME and SEED. -/
def Obligations.ScalarCommandsWriteTheirRegister : Prop :=
  ∀ (s : State) (core : Nat) (c : Cmd), asleep s.dev = false →
    let x := s.dev.core core
    let sets (v : Dword) : Dev → Prop :=
      CoreStep s.dev core { x with ctx := { x.ctx.setSreg (c.u 2 1) v with wait := .none, pc := c.pc + 1 } }
    (Stands s.dev core 0x00 c → ctlOk c = true →
      YieldsSome (exec (.nop core) s) s (CoreStep s.dev core { x with ctx := { x.ctx with wait := .none, pc := c.pc + 1 } }))
    ∧ (Stands s.dev core 0x01 c → ctlOk c = true → c.u 2 1 ≤ 31 →
      YieldsSome (exec (.seti core) s) s (sets (BitVec.ofNat 64 (c.u 8 8))))
    ∧ (∀ v, Stands s.dev core 0x02 c → ctlOk c = true → c.u 2 1 ≤ 31 → c.u 3 1 ≤ 31 →
      (natBit (c.u 1 1) 7 = true ∨ c.u 4 1 ≤ 31) →
      aluOp (natBits (c.u 1 1) 3 0) (x.ctx.sreg (c.u 3 1))
        (if natBit (c.u 1 1) 7 then BitVec.ofNat 64 (c.u 8 8) else x.ctx.sreg (c.u 4 1)) = some v →
      YieldsSome (exec (.alu core) s) s (sets v))
    ∧ (Stands s.dev core 0x0C c → ctlOk c = true → c.u 2 1 ≤ 31 →
      YieldsSome (exec (.time core) s) s (sets s.dev.clp.now))
    ∧ (Stands s.dev core 0x0B c → ctlOk c = true → c.u 3 1 ≤ 31 →
      YieldsSome (exec (.seed core) s) s (CoreStep s.dev core { x with ctx := { x.ctx with
        seed := lo32 (x.ctx.sreg (c.u 3 1)), lanes := seedLanes (lo32 (x.ctx.sreg (c.u 3 1))), wait := .none, pc := c.pc + 1 } }))

/-- LOAD and STORE, once the engines' earlier commands have ended. -/
def Obligations.LoadAndStoreReachTheScratchpad : Prop :=
  ∀ (s : State) (core : Nat) (c : Cmd), asleep s.dev = false → ctlOk c = true → c.u 3 1 ≤ 31 →
    let x := s.dev.core core
    let o := (x.ctx.sreg (c.u 3 1) + BitVec.ofNat 64 (c.u 8 8)).toNat
    let cell := sramCell core ((partition (s.dev.coreRec c.logical) 0).1 + o)
    o % 8 = 0 → o + 8 ≤ (partition (s.dev.coreRec c.logical) 0).2 →
    (∀ op i, ((op = 0x03 ∧ i = Instr.load core ∧ c.u 2 1 ≤ 31 ∧ coreBusy x = true)
        ∨ (op = 0x04 ∧ i = .store core ∧ c.u 4 1 ≤ 31 ∧ (coreBusy x = true ∨ arraysBusy x = true))) → Stands s.dev core op c →
      YieldsSome (exec i s) s (CoreStep s.dev core { x with ctx := { x.ctx with wait := .none } }))
    ∧ (Stands s.dev core 0x03 c → c.u 2 1 ≤ 31 → coreBusy x = false → poisonedAt s.dev.poison cell 8 = false →
      YieldsSome (exec (.load core) s) s (CoreStep s.dev core { x with ctx :=
        { x.ctx.setSreg (c.u 2 1) (BitVec.ofNat 64 (leNat (memRead s.dev.mem cell 8))) with wait := .none, pc := c.pc + 1 } }))
    ∧ (Stands s.dev core 0x04 c → c.u 4 1 ≤ 31 → coreBusy x = false → arraysBusy x = false →
      YieldsSome (exec (.store core) s) s (fun e =>
        memRead e.mem cell 8 = leBytes 8 (x.ctx.sreg (c.u 4 1)).toNat ∧ CellsKept s.dev e [(cell, 8)]
        ∧ CoreStep { s.dev with mem := e.mem, poison := e.poison, upsets := e.upsets } core
            { x with ctx := { x.ctx with wait := .none, pc := c.pc + 1 } } e))

/-- PIPREAD, PIPCLR, ADDF and PIP_DEPOSIT. -/
def Obligations.PipsAndPendingAdditionsAct : Prop :=
  ∀ (s : State) (core : Nat) (c : Cmd), asleep s.dev = false →
    let x := s.dev.core core
    let goes (ctx : Ctx) : Dev → Prop := CoreStep s.dev core { x with ctx := { ctx with wait := .none, pc := c.pc + 1 } }
    (Stands s.dev core 0x05 c → ctlOk c = true → c.u 2 1 ≤ 31 → c.u 5 1 ≤ 15 →
      (pipWaits x.ctx (c.u 5 1) = false →
        YieldsSome (exec (.pipread core) s) s (goes (x.ctx.setSreg (c.u 2 1) (tabGet {} x.ctx.pips (c.u 5 1)).value)))
      ∧ (pipWaits x.ctx (c.u 5 1) = true →
        YieldsSome (exec (.pipread core) s) s (CoreStep s.dev core { x with ctx := { x.ctx with wait := .none } })))
    ∧ (Stands s.dev core 0x06 c → ctlOk c = true → (∀ i, i < 16 → natBit (c.u 8 8) i = true → pipWaits x.ctx i = false) →
      YieldsSome (exec (.pipclr core) s) s (fun e =>
        goes { x.ctx with pips := (e.core core).ctx.pips } e
        ∧ ∀ i, tabGet {} (e.core core).ctx.pips i = if i < 16 ∧ natBit (c.u 8 8) i = true then {} else tabGet {} x.ctx.pips i))
    ∧ (Stands s.dev core 0x07 c → ctlOk c = true → c.u 3 1 ≤ 31 → addfOffset (c.u 1 1) = true →
      (c.u 6 1 = 0 ∨ (addfOffset (c.u 6 1) = true ∧ c.u 4 1 ≤ 31)) →
      YieldsSome (exec (.addf core) s) s (fun e =>
        goes { x.ctx with addf := (e.core core).ctx.addf } e
        ∧ ∀ o, tabGet 0 (e.core core).ctx.addf o = tabGet 0 x.ctx.addf o
            + (if o = c.u 1 1 then lo32 (x.ctx.sreg (c.u 3 1)) else 0)
            + (if c.u 6 1 ≠ 0 ∧ o = c.u 6 1 then lo32 (x.ctx.sreg (c.u 4 1)) else 0)))
    ∧ (∀ pip e, core < 144 → pip < 16 → x.ctx.deposits.find? (fun q => q.pip == pip) = some e → e.due = none →
      YieldsSome (exec (.pipDeposit core pip) s) s (CoreStep s.dev core { x with ctx := { x.ctx with
        deposits := x.ctx.deposits.erase e, pips := tabSet {} x.ctx.pips pip (landPip (tabGet {} x.ctx.pips pip) e.val) } }))

/-- BR, BRP and LOOP. -/
def Obligations.BranchesKeepTheirBounds : Prop :=
  ∀ (s : State) (core : Nat) (c : Cmd), asleep s.dev = false → ctlOk c = true →
    let x := s.dev.core core
    let target := c.u 0x10 4
    let lands (y : CoreSt) (take : Bool) : Dev → Prop := CoreStep s.dev core (afterBranch y c.pc target (c.u 0x14 4) take)
    let inside (take : Bool) : Prop := take = true → 32 * target + 32 ≤ streamBytes s.dev c.slot c.logical
    (∀ take, Stands s.dev core 0x08 c → c.u 3 1 ≤ 31 → (natBit (c.u 1 1) 7 = true ∨ c.u 4 1 ≤ 31) →
      brCond (c.u 6 1) (x.ctx.sreg (c.u 3 1)) (if natBit (c.u 1 1) 7 then BitVec.ofNat 64 (c.u 8 8) else x.ctx.sreg (c.u 4 1)) = some take →
      inside take → YieldsSome (exec (.br core) s) s (lands x take))
    ∧ (∀ take, Stands s.dev core 0x09 c → c.u 5 1 ≤ 15 → pipTest (tabGet {} x.ctx.pips (c.u 5 1)) (c.u 6 1) (c.u 8 8) = some take →
      pipWaits x.ctx (c.u 5 1) = false → inside take → YieldsSome (exec (.brp core) s) s (lands x take))
    ∧ (∀ take, Stands s.dev core 0x09 c → c.u 5 1 ≤ 15 → pipTest (tabGet {} x.ctx.pips (c.u 5 1)) (c.u 6 1) (c.u 8 8) = some take →
      pipWaits x.ctx (c.u 5 1) = true →
      YieldsSome (exec (.brp core) s) s (CoreStep s.dev core { x with ctx := { x.ctx with wait := .none } }))
    ∧ (Stands s.dev core 0x0A c → c.u 2 1 ≤ 31 →
      let y := { x with ctx := x.ctx.setSreg (c.u 2 1) (x.ctx.sreg (c.u 2 1) - 1) }
      let take := !(y.ctx.sreg (c.u 2 1) == 0)
      inside take → YieldsSome (exec (.loop core) s) s (lands y take))

/-- FENCE.C, FENCE.B, FENCE.D and FENCE_COMPLETE. -/
def Obligations.FencesWaitAndComplete : Prop :=
  ∀ (s : State) (core : Nat), asleep s.dev = false → core < 144 →
    let d := s.dev
    let x := d.core core
    let waits (ctx : Ctx) (w : Wait) : Dev → Prop := CoreStep d core { x with ctx := { ctx with wait := w } }
    let left (slot : Nat) (e : Dev) : Prop :=
      (∀ l ∈ jobCores d slot, e.core (d.phys l) = { d.core (d.phys l) with ctx := leaveWait (d.core (d.phys l)).ctx })
      ∧ (∀ p, p ∉ (jobCores d slot).map d.phys → e.core p = d.core p) ∧ e = { d with cores := e.cores }
    (∀ c, c.zero 1 31 = true →
      (Stands d core 0x20 c → YieldsSome (exec (.fenceC core) s) s (waits x.ctx .fenceC))
      ∧ (Stands d core 0x21 c → YieldsSome (exec (.fenceB core) s) s
          (waits { x.ctx with fencesB := x.ctx.fencesB + 1 } (.fenceB (x.ctx.fencesB + 1))))
      ∧ (Stands d core 0x22 c → YieldsSome (exec (.fenceD core) s) s
          (waits { x.ctx with fencesD := x.ctx.fencesD + 1 } (.fenceD (x.ctx.fencesD + 1)))))
    ∧ (∀ slot, x.slot = some slot →
      (x.ctx.wait = .fenceC → x.active = true → coreDrained d core = true →
        (fieldLe (memRead d.mem (cmdCell core (32 * x.ctx.pc)) 1) 0 1 = 0x20 →
          YieldsSome (exec (.fenceComplete core) s) s (CoreStep d core { x with ctx := leaveWait x.ctx }))
        ∧ (fieldLe (memRead d.mem (cmdCell core (32 * x.ctx.pc)) 1) 0 1 ≠ 0x20 →
          YieldsSome (exec (.fenceComplete core) s) s (waits x.ctx .none)))
      ∧ (∀ k, ((jobCores d slot).map d.phys).Nodup →
        (x.ctx.wait = .fenceB k → allAt d slot (.fenceB k) = true →
          YieldsSome (exec (.fenceComplete core) s) s (left slot))
        ∧ (x.ctx.wait = .fenceD k → allAt d slot (.fenceD k) = true → enginesDrained d slot = true →
          YieldsSome (exec (.fenceComplete core) s) s (left slot)))
      ∧ (∀ k, (x.ctx.wait = .fenceB k ∧ allAt d slot (.fenceB k) = false)
            ∨ (x.ctx.wait = .fenceD k ∧ (allAt d slot (.fenceD k) = false ∨ enginesDrained d slot = false)) →
          Yields (exec (.fenceComplete core) s) s d))

/-- SEM.SIGNAL, SEM.WAIT, SEM.ACQUIRE, SEM.RELEASE and CORE_SEM_ADD. -/
def Obligations.SemaphoreCommandsAct : Prop :=
  ∀ (s : State) (core : Nat), asleep s.dev = false → core < 144 →
    let d := s.dev
    let x := d.core core
    (∀ c, semFieldsOk c = true →
      let b := basinOf c.slot
      let i := c.u 2 1
      let v : Word := BitVec.ofNat 32 (c.u 8 4)
      let l := if c.u 4 2 = 0xFFFF then c.logical else c.u 4 2
      let o := if i < 16 then 0xFF else l
      let legalIndex := if i < 16 then i < (d.basinRec b).sharedSem else i < 64 ∧ l < 144 ∧ (d.coreRec l).basin = b
      let onward (e : Dev) : Prop :=
        ∃ a ps, e.core core = { x with active := a, ctx := { x.ctx with wait := .none, pc := c.pc + 1, addf := [], psem := ps } }
      legalIndex →
      (Stands d core 0x24 c → (c.u 1 1 = 0 ∨ coreDrained d core = true) → (i < 16 ∨ (d.core (d.phys l)).slot.isSome = true) →
        YieldsSome (exec (.semSignal core) s) s (fun e =>
          semValue e b o i = semValue d b o i + v ∧ onward e ∧ SemaphoreWakes d e core
          ∧ (∀ k, k ≠ 16 * b + i → tabGet {} e.sems k = tabGet {} d.sems k)
          ∧ (16 ≤ i → e.sems = d.sems)
          ∧ (d.sem b i).owner = (e.sem b i).owner
          ∧ e = { d with cores := e.cores, sems := e.sems }))
      ∧ (Stands d core 0x24 c → c.u 1 1 = 1 → coreDrained d core = false →
        YieldsSome (exec (.semSignal core) s) s (CoreStep d core { x with ctx := { x.ctx with wait := .fenceC } }))
      ∧ (Stands d core 0x25 c → semReached (semValue d b o i) v = true →
        YieldsSome (exec (.semWait core) s) s (CoreStep d core { x with ctx := { x.ctx with wait := .none, pc := c.pc + 1, addf := [] } }))
      ∧ (Stands d core 0x25 c → semReached (semValue d b o i) v = false →
        YieldsSome (exec (.semWait core) s) s (CoreStep d core { x with ctx := { x.ctx with wait := .sem o i v } }))
      ∧ (Stands d core 0x26 c → i ≤ 15 → (d.sem b i).owner = 0xFF →
        YieldsSome (exec (.semAcquire core) s) s (fun e => e.sem b i = { d.sem b i with owner := c.logical }
          ∧ (∀ k, k ≠ 16 * b + i → tabGet {} e.sems k = tabGet {} d.sems k)
          ∧ CoreStep { d with sems := e.sems } core { x with ctx := { x.ctx with wait := .none, pc := c.pc + 1, addf := [] } } e))
      ∧ (Stands d core 0x26 c → i ≤ 15 → (d.sem b i).owner ≠ 0xFF →
        YieldsSome (exec (.semAcquire core) s) s (CoreStep d core { x with ctx := { x.ctx with wait := .acquire i } }))
      ∧ (Stands d core 0x27 c → i ≤ 15 → (d.sem b i).owner = c.logical →
        (acquirers d b i = [] → YieldsSome (exec (.semRelease core) s) s (fun e =>
          e.sem b i = { d.sem b i with owner := 0xFF } ∧ onward e ∧ (∀ p, p ≠ core → e.core p = d.core p)
          ∧ (∀ k, k ≠ 16 * b + i → tabGet {} e.sems k = tabGet {} d.sems k) ∧ e = { d with cores := e.cores, sems := e.sems }))
        ∧ (∀ w, acquirers d b i = [w] → d.phys w ≠ core → YieldsSome (exec (.semRelease core) s) s (fun e =>
          e.sem b i = { d.sem b i with owner := w } ∧ onward e
          ∧ e.core (d.phys w) = { d.core (d.phys w) with ctx := leaveWait (d.core (d.phys w)).ctx }
          ∧ (∀ p, p ≠ core → p ≠ d.phys w → e.core p = d.core p)
          ∧ (∀ k, k ≠ 16 * b + i → tabGet {} e.sems k = tabGet {} d.sems k) ∧ e = { d with cores := e.cores, sems := e.sems }))))
    ∧ (∀ n v, n < 64 →
      let b := (d.coreRec (d.logical core)).basin
      b ≠ 0xFF → n < (d.basinRec b).sharedSem →
      YieldsSome (exec (.coreSemAdd core n v) s) s (fun e =>
        e.sem b n = { d.sem b n with value := (d.sem b n).value + v } ∧ SemaphoreWakes d e 0xFFFF
        ∧ (∀ k, k ≠ 16 * b + n → tabGet {} e.sems k = tabGet {} d.sems k) ∧ e = { d with cores := e.cores, sems := e.sems }))

/-- TRN.END, TRN.SHARE and TRN.RELEASE. -/
def Obligations.TurnCommandsBuildTheMoveList : Prop :=
  ∀ (s : State) (core : Nat) (c : Cmd), asleep s.dev = false →
    let d := s.dev
    let x := d.core core
    let t := d.tslot c.slot
    let pages (n : Nat) : Nat := n / 0x10000
    let onward (moves : List Move) (e : Dev) : Prop :=
      e.tslot c.slot = { t with moves := t.moves ++ moves } ∧ (∀ j, j ≠ c.slot → e.tslot j = d.tslot j)
      ∧ CoreStep { d with trn := e.trn } core { x with ctx := { x.ctx with wait := .none, pc := c.pc + 1, addf := [] } } e
      ∧ e.trn = { d.trn with slots := e.trn.slots }
    (Stands d core 0x28 c → c.zero 1 31 = true → (t.domain = false ∨ (groupOf d c.slot).isSome = true) →
      let ended := { x with ctx := { x.ctx with wait := .ended } }
      let all := (jobCores d c.slot).all (fun l => d.phys l == core || (d.core (d.phys l)).ctx.wait == .ended)
      YieldsSome (exec (.trnEnd core) s) s (fun e =>
        e.tslot c.slot = { t with phase := if all && t.phase == .running then .ending else t.phase }
        ∧ (∀ j, j ≠ c.slot → e.tslot j = d.tslot j)
        ∧ CoreStep { d with trn := e.trn } core ended e ∧ e.trn = { d.trn with slots := e.trn.slots }))
    ∧ (∀ (src dst : Nat → Nat × Nat), Stands d core 0x29 c → c.zero 1 7 = true →
      c.u 8 8 % 0x10000 = 0 → c.u 0x10 8 % 0x10000 = 0 → c.u 0x18 8 % 0x10000 = 0 →
      (∀ i, i < pages (c.u 0x18 8) → committedPage d c.slot (c.u 8 8 + i * 0x10000) false = .ok (src i)
        ∧ committedPage d c.slot (c.u 0x10 8 + i * 0x10000) true = .ok (dst i)) →
      t.moves.length + pages (c.u 0x18 8) ≤ 16384 →
      YieldsSome (exec (.trnShare core) s) s (onward ((List.range (pages (c.u 0x18 8))).map
        (fun i => { kind := .share, old := (dst i).2, new := (src i).2, leaf := (dst i).1, src := (src i).1 }))))
    ∧ (∀ (page : Nat → Nat × Nat), Stands d core 0x2A c → c.zero 1 7 = true → c.zero 0x18 8 = true →
      c.u 8 8 % 0x10000 = 0 → c.u 0x10 8 % 0x10000 = 0 →
      (∀ i, i < pages (c.u 0x10 8) → committedPage d c.slot (c.u 8 8 + i * 0x10000) true = .ok (page i)) →
      t.moves.length + pages (c.u 0x10 8) ≤ 16384 →
      YieldsSome (exec (.trnRelease core) s) s (onward ((List.range (pages (c.u 0x10 8))).map
        (fun i => { kind := .release, old := (page i).2, new := noFrame, leaf := (page i).1 }))))

/-- ARR.TILE, ARR.RUN and ARR.LIST. -/
def Obligations.ArrayCommandsLoadAndAccumulate : Prop :=
  ∀ (s : State) (core : Nat) (c : Cmd), asleep s.dev = false →
    let d := s.dev
    let x := d.core core
    let a := c.u 1 1 % 2
    let arr := getArr x.ctx a
    let wide := arrWide d c.logical a
    let withArr (y : Arr) : Ctx := if a = 0 then { x.ctx with arr0 := y } else { x.ctx with arr1 := y }
    let goes (y : Arr) : CoreSt := { x with ctx := { withArr y with wait := .none, pc := c.pc + 1, addf := [] } }
    let joins (entry : Nat) : List Queued := arr.queue ++ [{ stamp := d.tmNext, pc := c.pc, b := c.b, entry := entry }]
    let waits : Prop := coreBusy x = true ∨ arr.queue ≠ []
    (∀ t, Stands d core 0x40 c → arrFieldsOk c false = true → ¬ waits → arr.shadow = none →
      loadTile d core c.slot c.logical a (c.u 2 1) (c.u 4 1) (c.i 8 4) (c.i 0xC 4) = .ok t →
      YieldsSome (exec (.arrTile core) s) s (CoreStep d core (goes { arr with shadow := some t })))
    ∧ (∀ op i, ((op = 0x40 ∧ i = Instr.arrTile core ∧ (waits ∨ (arrFieldsOk c false = true ∧ arr.shadow.isSome = true)))
        ∨ (op = 0x41 ∧ i = .arrRun core ∧ waits) ∨ (op = 0x42 ∧ i = .arrList core ∧ waits)) → Stands d core op c →
      (arr.queue.length < 8 → YieldsSome (exec i s) s (CoreStep { d with tmNext := d.tmNext + 1 } core (goes { arr with queue := joins 0 })))
      ∧ (8 ≤ arr.queue.length → YieldsSome (exec i s) s (CoreStep d core { x with ctx := { x.ctx with wait := .queue } })))
    ∧ (∀ p t kt stream, Stands d core 0x41 c → arrFieldsOk c true = true → ¬ waits → d.poison = [] →
      let fmt := c.u 2 1
      let swap := natBit (c.u 1 1) 1
      let mode := natBits (c.u 1 1) 3 2
      let n := p.count 1 * p.count 2
      let k := if wide then 4 * kt else kt
      let cell (i j : Nat) : Nat := sramCell core ((partition (d.coreRec c.logical) 1).1 + accOffset wide (c.u 0x10 4) (c.u 0x14 4) i j)
      corePattern d core c.slot c.logical (c.u 4 1) = .ok p → (if swap then arr.shadow else arr.active) = some t →
      pairK t.fmt fmt = some kt → patternOk p fmt (k * elemBits fmt / 8) 0 0 = true →
      t.lines.all (fun b => decide (b.length ≤ k * elemBits t.fmt / 8)) = true → t.lines.length ≤ (if wide then 16 else 64) →
      accPlaceOk d c.logical wide (c.u 0x10 4) (c.u 0x14 4) n = true →
      feed d core c.logical fmt p (c.i 8 4) (c.i 0xC 4) (p.count 1) (p.count 2) = .ok stream →
      YieldsSome (exec (.arrRun core) s) s (fun e =>
        (∀ i j tl sl, ((t.lines.zip t.scales)[i]? = some tl) → stream[j]? = some sl →
          memRead e.mem (cell i j) 4 = leBytes 4 (accValue (fmt == 7) (mode == 1) (mode == 2)
            (if mode = 2 then 0 else leNat (memRead d.mem (cell i j) 4)) (lineBoth t.fmt k (fmt == 7) tl) (lineBoth fmt k (fmt == 7) sl)))
        ∧ (∀ z, (∀ i j, i < t.lines.length → j < n → z < cell i j ∨ cell i j + 4 ≤ z) → memGet e.mem z = memGet d.mem z)
        ∧ CoreStep { d with mem := e.mem, upsets := e.upsets, cnt := (d.count 1 n).cnt } core
            (goes (if swap then { arr with active := some t, shadow := none } else arr)) e))
    ∧ (∀ e, Stands d core 0x42 c → listFieldsOk c = true → ¬ waits →
      (listEntries (unwait d core) c (c.u 6 2) 0 = (e, .done) →
        Yields (exec (.arrList core) s) s (issued e core 0x42 (c.pc + 1)))
      ∧ (∀ n d2, listEntries (unwait d core) c (c.u 6 2) 0 = (e, .waits n) → joinQueue e c (arrEngine a) n = .next d2 →
        Yields (exec (.arrList core) s) s (issued d2 core 0x42 (c.pc + 1)))
      ∧ (∀ f, listEntries (unwait d core) c (c.u 6 2) 0 = (e, .fault f) →
        Yields (exec (.arrList core) s) s (jobFault e c.slot core 1 c.logical c.pc f)))

/-- VEC.ARITH, VEC.CVT, VEC.CMP, VEC.FILL and VEC.REDUCE; and, of every command of the vector engine, that it waits behind an earlier
command that has not ended. -/
def Obligations.VectorCommandsWriteOnlyTheirDestination : Prop :=
  (∀ (s : State) (core : Nat) (c : Cmd), asleep s.dev = false →
    ∀ row ∈ [(0x50, Instr.vecArith core), (0x51, .vecCvt core), (0x52, .vecCmp core), (0x53, .vecReduce core), (0x54, .vecGather core),
      (0x55, .vecScatter core), (0x56, .vecFill core)], QueuesBehind s core row.1 c .vec row.2 False)
  ∧ ∀ (s : State) (core : Nat) (c : Cmd) (p : VecPlan), asleep s.dev = false → s.dev.poison = [] → coreBusy (s.dev.core core) = false →
    let d := s.dev
    let cells := opndRanges d core c.logical
    let busy (fs : List Nat) (extra : Nat) : Cnt := (vecBusy d p.v fs extra).cnt
    (Stands d core 0x50 c → vecArithPlan d c = .ok p →
      YieldsSome (exec (.vecArith core) s) s (EngineRan d core c (busy (arithWidths p.v) 0) (cells p.dst) []))
    ∧ (Stands d core 0x56 c → vecFillPlan d c = .ok p →
      YieldsSome (exec (.vecFill core) s) s (EngineRan d core c (busy [p.v.fd] 0) (cells p.dst) []))
    ∧ (Stands d core 0x51 c → vecCvtPlan d c = .ok p →
      YieldsSome (exec (.vecCvt core) s) s (fun e =>
        EngineRan d core c (busy [p.v.fa, p.v.fd] 0) (cells p.dst ++ if isMx p.v.fd then p.sc.toList.flatMap cells else []) [] e
        ∨ (isIntFmt p.v.fd = true ∧ EngineRan d core c (busy [p.v.fa, p.v.fd] 0) (cells p.dst) [{ pip := p.v.pip, val := { nanSeen := true } }] e)))
    ∧ (Stands d core 0x52 c → vecCmpPlan d c = .ok p →
      YieldsSome (exec (.vecCmp core) s) s
        (EngineRan d core c (busy ([p.v.fa] ++ if p.v.op = 6 ∨ p.v.op = 7 then [] else [p.v.fb]) 0) (cells p.dst) []))
    ∧ (Stands d core 0x53 c → vecReducePlan d c = .ok p →
      YieldsSome (exec (.vecReduce core) s) s (fun e => ∃ v,
        EngineRan d core c (busy [p.v.fa] 4) (cells p.dst) (if p.v.deposit then [{ pip := p.v.pip, val := v }] else []) e))

/-- VEC.GATHER and VEC.SCATTER. -/
def Obligations.GatherAndScatterFollowTheirIndices : Prop :=
  ∀ (s : State) (core : Nat) (c : Cmd) (p : VecPlan) (a : Opnd), asleep s.dev = false → s.dev.poison = [] → coreBusy (s.dev.core core) = false → p.a = some a →
    let d := s.dev
    let cnt := (vecBusy d p.v [p.v.fa, p.v.fd] 0).cnt
    let others := p.b.toList ++ p.v.mask.toList
    let indexOk (fits : Int → Prop) : Prop := ∀ r act ix, r < p.v.rows →
      rowMask d core c.logical p.v.mask r p.v.count = .ok act → rowB d c p.v p.b r act = .ok ix →
      ∀ q ∈ ix.zip act, q.2 = true → q.1.toInt = -1 ∨ fits q.1.toInt
    (Stands d core 0x54 c → vecGatherPlan d c = .ok p → (∀ o ∈ others, opndMeet p.dst o = false) →
      indexOk (fun i => ∃ o, indexed d c.logical a.part a.off p.v.fa i = .ok o ∧ elemMeets a o (elemBits p.v.fa / 8) p.dst p.v.spitch = false) →
      YieldsSome (exec (.vecGather core) s) s (EngineRan d core c cnt (opndRanges d core c.logical p.dst) []))
    ∧ (Stands d core 0x55 c → vecScatterPlan d c = .ok p → (∀ o ∈ others, o.part ≠ p.dst.part) →
      indexOk (fun i => ∃ o, indexed d c.logical p.dst.part p.dst.off p.v.fd i = .ok o
        ∧ (scatterSrcs p.v a p.b).any (fun q => elemMeets p.dst o (elemBits p.v.fd / 8) q p.v.dpitch) = false) →
      let part := partition (d.coreRec c.logical) p.dst.part
      YieldsSome (exec (.vecScatter core) s) s (EngineRan d core c cnt [(sramCell core part.1, part.2)] []))
    ∧ (Stands d core 0x54 c → vecGatherPlan d c = .ok p → p.v.rows = 1 → p.v.mask = none → p.b = none →
      (immValue p.v.fb p.v.srcB).toInt < -1 →
      Yields (exec (.vecGather core) s) s (jobFault d c.slot core 2 c.logical c.pc fltIllegal))

/-- SF.BUILTIN, SF.TABLE, ROW.STATS, ROW.MERGE and ROW.SOFTMAX; and, of every command of the row units, that it waits behind an earlier
command that has not ended. -/
def Obligations.SpecialFunctionCommandsWriteOnlyTheirDestination : Prop :=
  (∀ (s : State) (core : Nat) (c : Cmd), asleep s.dev = false →
    ∀ row ∈ [(0x60, Instr.sfBuiltin core), (0x61, .sfTable core), (0x62, .rowStats core), (0x63, .rowMerge core), (0x64, .rowSoftmax core),
      (0x71, .attFinal core), (0x72, .attExport core), (0x73, .attMerge core)], QueuesBehind s core row.1 c .row row.2 False)
  ∧ ∀ (s : State) (core : Nat) (c : Cmd) (p : SfPlan), asleep s.dev = false → s.dev.poison = [] → coreBusy (s.dev.core core) = false →
    let d := s.dev
    let v := p.v
    let ran (perRow : Nat) (e : Dev) : Prop := ∃ w,
      EngineRan d core c (sfBusy d v perRow).cnt (opndRanges d core c.logical p.dst) (if v.deposit then [{ pip := v.pip, val := w }] else []) e
    (Stands d core 0x60 c → sfBuiltinPlan d c = .ok p →
      YieldsSome (exec (.sfBuiltin core) s) s (ran (ceilDiv (v.valid + v.pad) (sfLanes v))))
    ∧ (Stands d core 0x61 c → sfTablePlan d c = .ok p →
      YieldsSome (exec (.sfTable core) s) s (ran (ceilDiv (v.valid + v.pad) (sfLanes v))))
    ∧ (Stands d core 0x62 c → rowStatsPlan d c = .ok p →
      YieldsSome (exec (.rowStats core) s) s (ran (ceilDiv v.valid 128 + 8)))
    ∧ (Stands d core 0x63 c → rowMergePlan d c = .ok p →
      YieldsSome (exec (.rowMerge core) s) s (ran (4 * v.param + 4)))
    ∧ (Stands d core 0x64 c → rowSoftmaxPlan d c = .ok p →
      YieldsSome (exec (.rowSoftmax core) s) s
        (ran (ceilDiv v.valid 128 + ceilDiv v.valid (sfLanes v) + ceilDiv (v.valid + v.pad) 128 + 12)))

/-- ATT.RUN, ATT.FINAL, ATT.EXPORT, ATT.MERGE and KV.APPEND; ATT.RUN waits for both arrays and the row units, KV.APPEND for the mover. -/
def Obligations.AttentionCommandsKeepToTheirRegions : Prop :=
  (∀ (s : State) (core : Nat) (c : Cmd), asleep s.dev = false →
    QueuesBehind s core 0x70 c .row (.attRun core) (arraysBusy (s.dev.core core) = true) ∧ QueuesBehind s core 0x74 c .tm (.kvAppend core) False)
  ∧ ∀ (s : State) (core : Nat) (c : Cmd), asleep s.dev = false → s.dev.poison = [] → coreBusy (s.dev.core core) = false →
    let d := s.dev
    let x := d.core core
    let l := c.logical
    let goes (nan : List Nat) (deps : List Deposit) : CoreSt := { x with ctx := { x.ctx with
      wait := .none, pc := c.pc + 1, addf := [], attNan := nan, deposits := x.ctx.deposits ++ deps } }
    let forget (acc : Nat) : List Nat := x.ctx.attNan.filter (fun b => !(b == acc))
    (∀ a, Stands d core 0x71 c → attFinalPlan d c = .ok a →
      YieldsSome (exec (.attFinal core) s) s (fun e =>
        (∃ v, CoreStep { d with mem := e.mem, upsets := e.upsets } core (goes x.ctx.attNan (if a.deposit then [{ pip := a.pip, val := v }] else [])) e)
        ∧ CellsKept d e (rowRanges d core l a.addr a.pitch a.rows (elemBytes (c.u 2 1) a.dim))))
    ∧ (∀ a, Stands d core 0x72 c → attExportPlan d c = .ok a →
      YieldsSome (exec (.attExport core) s) s (fun e =>
        CoreStep { d with mem := e.mem, upsets := e.upsets } core (goes x.ctx.attNan []) e
        ∧ CellsKept d e (rowRanges d core l a.addr a.pitch a.rows (recordLen a.dim))))
    ∧ (∀ a, Stands d core 0x73 c → attMergePlan d c = .ok a →
      YieldsSome (exec (.attMerge core) s) s (fun e =>
        CoreStep { d with mem := e.mem, upsets := e.upsets } core (goes (if natBit (c.u 1 1) 0 then forget a.acc else x.ctx.attNan) []) e
        ∧ CellsKept d e [tripleRange d core l a.acc a.dim]))
    ∧ (∀ a, Stands d core 0x70 c → arraysBusy x = false → attRunPlan d c = .ok a → a.paged = false →
      YieldsSome (exec (.attRun core) s) s (fun e =>
        (∃ nan cnt, CoreStep { d with mem := e.mem, upsets := e.upsets, cnt := cnt, free := e.free } core (goes nan []) e)
        ∧ CellsKept d e [tripleRange d core l a.acc a.dim,
            (sramCell core ((partition (d.coreRec l) 1).1 + a.scoreAt), a.scoreBytes),
            (sramCell core ((partition (d.coreRec l) 0).1 + a.pBase), a.pBytes)]))
    ∧ (∀ t, Stands d core 0x74 c → natBits (c.u 1 1) 7 1 = 0 → c.zero 3 1 = true →
      kvTarget d c.slot (c.u 4 2) (c.u 6 1) (c.u 7 1) = .ok t → t.2.admitted = false →
      (c.u 2 1 = t.1.fmt ∨ sfFmt (c.u 2 1) = true) → 1 ≤ c.u 0xC 4 → c.u 8 4 + c.u 0xC 4 ≤ t.2.append →
      localSpace (c.u 0x10 4) = true → localSpace (c.u 0x14 4) = true →
      rowsInPart d l (c.u 0x10 4) (16 * c.u 0x18 2) (c.u 0xC 4) (elemBytes (c.u 2 1) t.1.dim) = true →
      rowsInPart d l (c.u 0x14 4) (16 * c.u 0x18 2) (c.u 0xC 4) (elemBytes (c.u 2 1) t.1.dim) = true →
      natBit (c.u 1 1) 0 = false → x.tm = [] →
      YieldsSome (exec (.kvAppend core) s) s (fun e =>
        e.mem = d.mem ∧ (e.core core).tm.map (fun q => (q.command, q.signal, q.todo)) = [(c.pc, false, [])]
        ∧ (e.core core).ctx = { x.ctx with wait := .none, pc := c.pc + 1, addf := [] } ∧ (∀ p, p ≠ core → e.core p = d.core p)))
    ∧ (∀ t k, Stands d core 0x74 c → natBits (c.u 1 1) 7 1 = 0 → c.zero 3 1 = true →
      kvTarget d c.slot (c.u 4 2) (c.u 6 1) (c.u 7 1) = .ok t → k = t.1 → t.2.admitted = true →
      c.u 2 1 = k.fmt → 1 ≤ c.u 0xC 4 → c.u 8 4 + c.u 0xC 4 ≤ t.2.append →
      localSpace (c.u 0x10 4) = true → localSpace (c.u 0x14 4) = true →
      rowsInPart d l (c.u 0x10 4) (16 * c.u 0x18 2) (c.u 0xC 4) (elemBytes (c.u 2 1) k.dim) = true →
      rowsInPart d l (c.u 0x14 4) (16 * c.u 0x18 2) (c.u 0xC 4) (elemBytes (c.u 2 1) k.dim) = true →
      natBit (c.u 1 1) 0 = false → x.tm = [] →
      ∀ d2, (tokenPages (t.2.length + c.u 8 4) (c.u 0xC 4)).foldlM
          (kvPage c k t.2 k.fmt (c.u 6 1) (c.u 7 1) (t.2.length + c.u 8 4) 127 127) (unwait d core) = .ok d2 →
      YieldsSome (exec (.kvAppend core) s) s (fun e =>
        e.mem = d2.mem ∧ e.trn = d2.trn ∧ (e.core core).ctx.pc = c.pc + 1
        ∧ (e.core core).tm.map (fun q => (q.command, q.signal, q.todo)) = [(c.pc, false, [])]))

/-- TM.COPY, TM.GATHER and TM_DONE; a command of the mover waits behind one that has work left or requests without an answer. -/
def Obligations.MoverCommandsCopyAndSignal : Prop :=
  ∀ (s : State) (core : Nat), asleep s.dev = false → core < 144 →
    let d := s.dev
    let x := d.core core
    let queued (c : Cmd) (bulk : Bool) : TmCmd := { ident := d.tmNext, todo := [], command := c.pc, semCore := 0, semIndex := 0, semAdd := 0, signal := false, bulk := bulk, waiting := 0 }
    let goes (c : Cmd) (q : TmCmd) : CoreSt := { x with tm := [q], ctx := { x.ctx with wait := .none, pc := c.pc + 1, addf := [] } }
    let at_ (q : TmSide) : Option Nat := match q with
      | .sram l o => if d.phys l < 144 then some (sramCell (d.phys l) o) else none
      | _ => none
    (∀ c, QueuesBehind s core 0x30 c .tm (.tmCopy core) False ∧ QueuesBehind s core 0x31 c .tm (.tmGather core) False)
    ∧ (∀ c t u rows, Stands d core 0x30 c → natBits (c.u 1 1) 7 2 = 0 → c.zero 0x1C 4 = true → natBit (c.u 1 1) 0 = false → x.tm = [] → coreBusy x = false →
      jobTensor d c.slot (c.u 2 2) = .ok t → jobTensor d c.slot (c.u 4 2) = .ok u → t.fmt = u.fmt → t.space ≠ 0 → u.space ≠ 0 →
      let n := min (t.extent 0) (u.extent 0) * elemBits t.fmt / 8
      boxRows d t u (c.i 8 8) (c.i 0x10 8) n = .ok rows → (∀ r ∈ rows, (at_ r.1).isSome = true ∧ (at_ r.2).isSome = true) →
      YieldsSome (exec (.tmCopy core) s) s (fun e =>
        (∃ q : TmCmd, q = { queued c (natBit (c.u 1 1) 1) with semIndex := c.u 6 1, semAdd := BitVec.ofNat 32 (c.u 0x18 4) }
          ∧ e.core core = goes c q)
        ∧ (∀ p, p ≠ core → e.core p = d.core p) ∧ e.tmNext = d.tmNext + 1
        ∧ (∀ z, (∀ r ∈ rows, ∀ b, at_ r.2 = some b → z < b ∨ b + n ≤ z) → memGet e.mem z = memGet d.mem z)
        ∧ (∀ p q a b, rows = [(p, q)] → at_ p = some a → at_ q = some b → (b + n ≤ a ∨ a + n ≤ b) → memRead e.mem b n = memRead d.mem a n)
        ∧ e = { d with cores := e.cores, tmNext := e.tmNext, mem := e.mem, poison := e.poison, upsets := e.upsets }))
    ∧ (∀ c addrs base, Stands d core 0x31 c → natBits (c.u 1 1) 7 1 = 0 → c.zero 2 2 = true → c.zero 0x12 6 = true →
      c.zero 0x1C 4 = true → c.u 4 4 % 8 = 0 → c.u 0xC 4 % 32 = 0 → 1 ≤ c.u 8 4 → c.u 8 4 ≤ 65536 →
      natBit (c.u 1 1) 0 = false → x.tm = [] → coreBusy x = false → d.phys c.logical = core →
      partRead d core c.logical 0 (c.u 4 4) (8 * c.u 8 4) = .ok addrs → partCell d core c.logical 0 (c.u 0xC 4) (32 * c.u 8 4) = .ok base →
      (∀ i, i < c.u 8 4 → fieldLe addrs (8 * i) 8 = 2 ^ 64 - 1) →
      YieldsSome (exec (.tmGather core) s) s (fun e =>
        (∀ i, i < 32 * c.u 8 4 → memGet e.mem (base + i) = 0)
        ∧ CellsKept d e [(base, 32 * c.u 8 4)] ∧ (e.core core).ctx = (goes c (queued c false)).ctx
        ∧ (∀ p, p ≠ core → e.core p = d.core p)))
    ∧ (∀ c addrs d2, Stands d core 0x31 c → natBits (c.u 1 1) 7 1 = 0 → c.zero 2 2 = true → c.zero 0x12 6 = true →
      c.zero 0x1C 4 = true → c.u 4 4 % 8 = 0 → c.u 0xC 4 % 32 = 0 → 1 ≤ c.u 8 4 → c.u 8 4 ≤ 65536 →
      natBit (c.u 1 1) 0 = false → x.tm = [] → coreBusy x = false →
      partRead d core c.logical 0 (c.u 4 4) (8 * c.u 8 4) = .ok addrs → c.u 0xC 4 + 32 * c.u 8 4 ≤ (partition (d.coreRec c.logical) 0).2 →
      (∀ i, i < c.u 8 4 → fieldLe addrs (8 * i) 8 % 32 = 0) →
      let todo := (List.range (c.u 8 4)).map (fun i =>
        ({ src := .va (fieldLe addrs (8 * i) 8), dst := .sram c.logical (c.u 0xC 4 + 32 * i), n := 32, whole := false, uses := true } : TmPiece))
      startMover (unwait d core) c todo false false 0 (c.u 0x10 1) (BitVec.ofNat 32 (c.u 0x18 4)) (some (c.u 0xC 4)) = .next d2 →
      Yields (exec (.tmGather core) s) s (issued d2 core 0x31 (c.pc + 1)))
    ∧ (∀ q slot, x.tm.find? (fun t => t.todo.isEmpty && t.waiting == 0) = some q → x.slot = some slot →
      let y : CoreSt := { x with tm := x.tm.filter (fun u => !(u.ident == q.ident)) }
      (q.signal = false → YieldsSome (exec (.tmDone core) s) s (CoreStep d core y))
      ∧ (q.signal = true → q.semCore = 0xFF → YieldsSome (exec (.tmDone core) s) s (fun e =>
          e.sem (basinOf slot) q.semIndex = { d.sem (basinOf slot) q.semIndex with
            value := (d.sem (basinOf slot) q.semIndex).value + q.semAdd }
          ∧ (e.core core).tm = y.tm)))
    ∧ ((∀ q ∈ x.tm, q.todo ≠ [] ∨ q.waiting ≠ 0) → Yields (exec (.tmDone core) s) s d)

/-- SPOUT.RUN, SPOUT_ROW_BOUNDARY and SPOUT_DONE; the command waits until the core's earlier commands have ended. -/
def Obligations.SpoutEnginesRunTheirQueue : Prop :=
  ∀ (s : State), asleep s.dev = false →
    let d := s.dev
    (∀ core c, Stands d core 0x78 c → coreBusy (d.core core) = true →
      YieldsSome (exec (.spoutRun core) s) s (CoreStep d core { d.core core with ctx := { (d.core core).ctx with wait := .none } }))
    ∧ (∀ core c, Stands d core 0x78 c → coreBusy (d.core core) = false → natBit (c.u 1 1) 0 = false → natBit (c.u 1 1) 1 = false →
      let x := d.core core
      let k := core / 12
      let eng := d.spout k
      let q : SpoutCmd := { ident := d.tmNext, core := core, slot := c.slot, logical := c.logical, command := c.pc, bytes := c.b, owner := 0 }
      let goes : CoreSt := { x with ctx := { x.ctx with wait := .none, pc := c.pc + 1, addf := [] } }
      (∀ r, eng = {} → spoutStart (unwait d core) q = .ok r →
        YieldsSome (exec (.spoutRun core) s) s (fun e => e.spout k = { run := some r.2 } ∧ (∀ j, j ≠ k → e.spout j = d.spout j)
          ∧ r.2 = { q with started := true, desc := r.2.desc } ∧ partRead d core c.logical 0 (fieldLe c.b 4 4) 96 = .ok r.2.desc
          ∧ HbmRead (unwait d core) r.1
          ∧ CoreStep { d with tmNext := d.tmNext + 1, spouts := e.spouts, cnt := r.1.cnt, hbm := r.1.hbm, poison := r.1.poison, upsets := r.1.upsets,
                              repairsDue := r.1.repairsDue } core goes e))
      ∧ (∀ r, eng.run = some r → (∀ p ∈ eng.queue.drop 16, p.core ≠ core) →
        YieldsSome (exec (.spoutRun core) s) s (fun e => e.spout k = { eng with queue := eng.queue ++ [q] }
          ∧ (∀ j, j ≠ k → e.spout j = d.spout j)
          ∧ CoreStep { d with tmNext := d.tmNext + 1, spouts := e.spouts } core goes e)))
    ∧ (∀ k q d2 q2, k < 12 → (d.spout k).run = some q → q.started = true →
      (0 < spoutLeft q → spoutRow d q = .ok (d2, q2) →
        ((d.job q.slot).live = true ∨ (d.spout k).queue = []) →
        YieldsSome (exec (.spoutRowBoundary k) s) s (fun e => (e.spout k).run = some q2 ∧ q2.rows = q.rows + 1 ∧ e.mem = d2.mem ∧ e.trn = d2.trn))
      ∧ (1 < spoutLeft q → liveWaits d k q = true → exec (.spoutDone k) s = exec (.spoutRowBoundary k) s)
      ∧ (spoutLeft q = 0 → liveWaits d k q = true →
        YieldsSome (exec (.spoutRowBoundary k) s) s (fun e => (e.spout k).suspended = some q ∧ e.mem = d.mem))
      ∧ (spoutLeft q = 0 → (d.spout k).queue = [] → (d.spout k).suspended = none →
        (natBit (fieldLe q.bytes 1 1) 0 = false → natBit (fieldLe q.bytes 1 1) 1 = false →
          YieldsSome (exec (.spoutDone k) s) s (fun e => e.spout k = {} ∧ (∀ j, j ≠ k → e.spout j = d.spout j) ∧ e = { d with spouts := e.spouts }))
        ∧ (natBit (fieldLe q.bytes 1 1) 0 = true → natBit (fieldLe q.bytes 1 1) 1 = false → q.owner = 0xFF →
          YieldsSome (exec (.spoutDone k) s) s (fun e => e.spout k = {} ∧
            e.sem (basinOf q.slot) (fieldLe q.bytes 8 1) = { d.sem (basinOf q.slot) (fieldLe q.bytes 8 1) with
              value := (d.sem (basinOf q.slot) (fieldLe q.bytes 8 1)).value + BitVec.ofNat 32 (fieldLe q.bytes 0xC 4) }))))

/-- CSC.RUN and CSC.PASS take their places on their rings, CSC_DATA_RECEIVE and CSC_READY_RECEIVE serve them, CSC_DONE ends them. -/
def Obligations.CascadeCommandsRunOverTheirRings : Prop :=
  ∀ (s : State), asleep s.dev = false →
    let d := s.dev
    let Ring (core : Nat) (c : Cmd) (i : Instr) (op : Nat) : Prop := ∀ p d2 src dst,
      Stands d core op c → coreBusy (d.core core) = false → cscPlan (unwait d core) c = .ok p → cscDeadPort (unwait d core) c p = none →
      ((d.klz.cascade.filter (fun x => x.core == core)).length < 4 →
        cscSides (unwait d core) c p = .ok (d2, src, dst) → d2.klz.early = [] →
        d2.klz.cascade.all (fun y => !y.same (cscNew d2 c p src dst)) = true →
        YieldsSome (exec i s) s (fun e =>
          let x := cscNew d2 c p src dst
          (∃ y, e.klz.cascade = d2.klz.cascade ++ [y]
            ∧ (y = { x with far := y.far } ∨ (x.pass = true ∧ x.members d2 = 1 ∧ y = { x with got := x.bytes, ready := true, sent := true, far := y.far }))
            ∧ ((∀ r ∈ dst.flatten, isRemote r.place = false) → y.far = []))
          ∧ e.klz = { d2.klz with cascade := e.klz.cascade, ports := e.klz.ports, issued := tabSet 0 d2.klz.issued (16 * c.slot + x.ring) (tabGet 0 d2.klz.issued (16 * c.slot + x.ring) + 1) }
          ∧ e.cores = (issued d2 core op (c.pc + 1)).cores
          ∧ CellsKept d2 e (runCells dst)
          ∧ e = { d2 with klz := e.klz, cores := e.cores, mem := e.mem, poison := e.poison, upsets := e.upsets, hbm := e.hbm, cnt := e.cnt }
          ∧ ∀ k, e.stack k = { d2.stack k with hold := (e.stack k).hold, holdPeak := (e.stack k).holdPeak }))
      ∧ (4 ≤ (d.klz.cascade.filter (fun x => x.core == core)).length →
        YieldsSome (exec i s) s (CoreStep d core { d.core core with ctx := { (d.core core).ctx with wait := .queue } }))
    let Comes (port : Nat) (p : Packet) (c : CscCmd) : Prop :=
      port < 16 ∧ (d.port port).state = .active ∧ d.str.inForce.isSome = true ∧ intact p = true
      ∧ p.slotGroup.toNat < 16 ∧ serves d p.slotGroup.toNat = true
      ∧ cscFrom d p.slotGroup.toNat p.ring.toNat port (p.type == tyCscReady) = true
      ∧ d.klz.cascade.find? (fun c => c.group == p.slotGroup.toNat && c.ring == p.ring.toNat && c.seq == natBits p.address.toNat 15 0) = some c
      ∧ p.bytes.toNat = c.bytes ∧ p.tag = c.tag
    (∀ core c, Ring core c (.cscRun core) 0x7C) ∧ (∀ core c, Ring core c (.cscPass core) 0x7D)
    ∧ (∀ core c op i, (op = 0x7C ∧ i = Instr.cscRun core) ∨ (op = 0x7D ∧ i = .cscPass core) → Stands d core op c → coreBusy (d.core core) = true →
      YieldsSome (exec i s) s (CoreStep d core { d.core core with ctx := { (d.core core).ctx with wait := .none } }))
    ∧ (∀ port p c, Comes port p c → p.type = tyCscData → p.flags.getLsbD 1 = false →
      let off := natBits p.address.toNat 63 32
      let n := min p.payload.length ((c.span d off).2 - off)
      YieldsSome (exec (.cscDataReceive port p) s) s (fun e =>
        (∃ y ∈ e.klz.cascade, y.same c = true ∧ y.got = c.got + (if c.reduces then n / c.width else n))
        ∧ CellsKept d e (runCells c.dst)
        ∧ e.klz = { d.klz with cascade := e.klz.cascade, ports := e.klz.ports }
        ∧ e = { d with klz := e.klz, mem := e.mem, poison := e.poison, upsets := e.upsets, hbm := e.hbm, cnt := e.cnt }
        ∧ ∀ k, e.stack k = { d.stack k with hold := (e.stack k).hold, holdPeak := (e.stack k).holdPeak }))
    ∧ (∀ port p c, Comes port p c → p.type = tyCscReady →
      YieldsSome (exec (.cscReadyReceive port p) s) s (fun e =>
        (∃ y ∈ e.klz.cascade, y.same c = true ∧ y.ready = true ∧ y.sent = (c.sent || c.pass))
        ∧ e.klz = { d.klz with cascade := e.klz.cascade, ports := e.klz.ports }
        ∧ e = { d with klz := e.klz, cnt := e.cnt }))
    ∧ (∀ group ring c, group < 16 → ring ≤ 8 →
      d.klz.cascade.find? (fun c => c.group == group && c.ring == ring) = some c →
      cscComplete d c = true → d.flt.stopActive = false →
      let left : Dev := { d with klz := { d.klz with cascade := d.klz.cascade.filter (fun x => !x.same c) } }
      (∀ d2, c.signal = false → farSend left c = .ok d2 → Yields (exec (.cscDone group ring) s) s d2)
      ∧ ((∀ r ∈ c.dst.flatten, isRemote r.place = false) →
        (c.signal = true → c.semCore = 0xFF ∨ (d.core (d.phys c.semCore)).slot = some c.slot) →
        YieldsSome (exec (.cscDone group ring) s) s (fun e =>
        e.klz = { d.klz with cascade := d.klz.cascade.filter (fun x => !x.same c) }
        ∧ (c.signal = false → e = { d with klz := e.klz })
        ∧ (c.signal = true → semValue e (basinOf c.slot) c.semCore c.semIndex = semValue d (basinOf c.slot) c.semCore c.semIndex + c.semAdd)
        ∧ e = { d with klz := e.klz, cores := e.cores, sems := e.sems })))

/-- TIME_FRAME_PULSE, TIME_FRAME_MISSING, TIME_CLK_LOSS, TIME_CLK_PRESENT, DEFERRED_STEP, CLP_ARM and FABRIC_TIME_TIMEOUT. -/
def Obligations.ClepsydraFollowsItsSource : Prop :=
  ∀ (s : State), let d := s.dev; let c := d.clp
    let unlocked : Clp := { c with locked := false, good := 0, unlockSeen := c.unlockSeen || c.locked, unlockCount := if c.locked then sat16 c.unlockCount else c.unlockCount }
    let stepped (k : Int) (e : Dev) : Prop :=
      e.clp.now = c.now + BitVec.ofInt 64 k ∧ e.clp.elapsed = c.elapsed ∧ e.clp.stepped = true
      ∧ e.clp.stepDeferred = e.clp.pendingArm.isSome ∧ e.clp.pendingStep = none ∧ e.clp.slew = 0
      ∧ (∀ j t, (d.job j).turn = some t →
          (e.job j).turn = some (if (d.tslot j).phase = .folding then t else { t with stepped := true }))
      ∧ e = { d with clp := e.clp, jobs := e.jobs }
    let within (ns : Nat) : Prop := (pulseError d).natAbs * (c.den * 1000000000) ≤ ns * (c.num * 0x1000000)
    let measured : Prop := c.arm = false ∨ c.pendingArm.isSome = true
    let slewed (x : Clp) : Clp := { x with slew := -(pulseError d), pendingStep := none, stepDeferred := c.pendingArm.isSome }
    YieldsSome (exec .timeClkPresent s) s (fun e => e = { d with clp := { c with timeClk := true } })
    ∧ (c.source ≠ 1 → YieldsSome (exec .timeClkLoss s) s (fun e => e = { d with clp := { c with timeClk := false } }))
    ∧ (c.source = 1 → YieldsSome (exec .timeClkLoss s) s (fun e => e = { d with clp := { unlocked with timeClk := false } }))
    ∧ (asleep d = false → d.sys.tripped = false → c.source = 1 →
      (c.missing = 0 → YieldsSome (exec .timeFrameMissing s) s (fun e => e = { d with clp := { c with pulseMissing := true, missing := 1, good := 0 } }))
      ∧ (1 ≤ c.missing → YieldsSome (exec .timeFrameMissing s) s (fun e =>
          e = { d with clp := { unlocked with pulseMissing := true, missing := c.missing + 1 } }))
      ∧ (measured → within 20 →
        YieldsSome (exec .timeFramePulse s) s (fun e => e = { d with clp := slewed { c with
          offset := fracNs d (pulseFrac d), missing := 0, good := c.good + 1, locked := c.locked || decide (2 ≤ c.good) } }))
      ∧ (measured → ¬ within 20 → within 1000 →
        YieldsSome (exec .timeFramePulse s) s (fun e => e = { d with clp := slewed { c with
          offset := fracNs d (pulseFrac d), missing := 0, good := 0 } }))
      ∧ (measured → ¬ within 1000 → c.allowStep = false →
        YieldsSome (exec .timeFramePulse s) s (fun e => e = { d with clp := slewed { unlocked with
          offset := fracNs d (pulseFrac d), missing := 0 } }))
      ∧ (measured → ¬ within 1000 → c.allowStep = true → flipPending d = true ∨ c.pendingArm.isSome = true →
        YieldsSome (exec .timeFramePulse s) s (fun e => e = { d with clp := { unlocked with
          offset := fracNs d (pulseFrac d), missing := 0, pendingStep := some (-(pulseError d)), stepDeferred := true } }))
      ∧ (¬ within 1000 → c.arm = false → c.pendingArm = none → c.allowStep = true → flipPending d = false →
        YieldsSome (exec .timeFramePulse s) s (fun e => stepped (-(pulseError d)) e
          ∧ e.clp.offset = fracNs d (pulseFrac d) ∧ e.clp.locked = false ∧ e.clp.good = 0 ∧ e.clp.missing = 0
          ∧ (c.locked = true → e.clp.unlockSeen = true ∧ e.clp.unlockCount = sat16 c.unlockCount)))
      ∧ (c.arm = true → c.pendingArm = none → c.allowStep = true → flipPending d = false →
        YieldsSome (exec .timeFramePulse s) s (fun e => stepped (armStep d) e ∧ e.clp.now = BitVec.ofNat 64 (c.setFrame.toNat * 0x1000000) ∧ e.clp.arm = false))
      ∧ (c.arm = true → c.pendingArm = none → c.allowStep = true → flipPending d = true →
        YieldsSome (exec .timeFramePulse s) s (fun e => e = { d with clp := { c with pendingArm := some (armStep d), stepDeferred := true } }))
      ∧ (c.arm = true → c.pendingArm = none → c.allowStep = false →
        YieldsSome (exec .timeFramePulse s) s (fun e => e = { d with clp := { c with arm := false } })))
    ∧ (asleep d = false → c.source ≠ 1 → YieldsSome (exec .timeFramePulse s) s (fun e => e = d) ∧ YieldsSome (exec .timeFrameMissing s) s (fun e => e = d))
    ∧ (asleep d = false → c.allowStep = true → c.source = 1 → YieldsSome (exec .clpArm s) s (fun e => e = { d with clp := { c with arm := true } }))
    ∧ (asleep d = false → c.allowStep = true → c.source = 0 → flipPending d = false →
      YieldsSome (exec .clpArm s) s (fun e => stepped (armStep d) e ∧ e.clp.now = BitVec.ofNat 64 (c.setFrame.toNat * 0x1000000) ∧ e.clp.arm = false))
    ∧ (asleep d = false → c.allowStep = true → c.source = 0 → flipPending d = true →
      YieldsSome (exec .clpArm s) s (fun e => e = { d with clp := { c with arm := true, pendingArm := some (armStep d), stepDeferred := true } }))
    ∧ (asleep d = false → (c.allowStep = false ∨ c.source = 2) → YieldsSome (exec .clpArm s) s (fun e => e = d))
    ∧ (asleep d = false → flipPending d = false →
      (∀ k, c.pendingArm = none → c.pendingStep = some k → c.allowStep = true → YieldsSome (exec .deferredStep s) s (stepped k))
      ∧ (∀ k, c.pendingArm = none → c.pendingStep = some k → c.allowStep = false →
        YieldsSome (exec .deferredStep s) s (fun e => e = { d with clp := { c with pendingStep := none, stepDeferred := false, slew := k } }))
      ∧ (∀ k, c.pendingArm = some k → c.allowStep = true →
        YieldsSome (exec .deferredStep s) s (fun e => stepped k e ∧ e.clp.pendingArm = none ∧ e.clp.arm = false))
      ∧ (∀ k, c.pendingArm = some k → c.pendingStep = none → c.allowStep = false →
        YieldsSome (exec .deferredStep s) s (fun e => e = { d with clp := { c with pendingArm := none, stepDeferred := false, arm := false } })))
    ∧ (asleep d = false → flipPending d = true → YieldsSome (exec .deferredStep s) s (fun e => e = d))
    ∧ (asleep d = false → c.source = 2 → c.exchangeAt + nsUnits d 4000000 ≤ c.elapsed → YieldsSome (exec .fabricTimeTimeout s) s (fun e => e = { d with clp := unlocked }))
    ∧ (asleep d = false → (c.source ≠ 2 ∨ c.elapsed < c.exchangeAt + nsUnits d 4000000) → YieldsSome (exec .fabricTimeTimeout s) s (fun e => e = d))

/-- TIME_REQ_SEND, TIME_REQ_RECEIVE and TIME_RESP_RECEIVE. -/
def Obligations.TimeGoesOverTheFabric : Prop :=
  ∀ (s : State), asleep s.dev = false → s.dev.sys.tripped = false →
    let d := s.dev
    let talks (n : Nat) : Prop := (d.port n).state = .active ∨ (d.port n).state = .up ∨ (d.port n).state = .mismatch
    let within (v : Int) (ns : Nat) : Prop := v.natAbs * (d.clp.den * 1000000000) ≤ ns * (d.clp.num * 0x100000000000000)
    (∀ frac n, d.clp.source = 2 → upstream d = some n → talks n →
      YieldsSome (exec (.timeReqSend frac) s) s (fun e =>
        e = emit { d with klz := { d.klz with tagNext := d.klz.tagNext + 1, timeTag := some d.klz.tagNext }, clp := { d.clp with reqT1 := some (d.clp.now, frac) } } n
          { newPacket d tyTimeReq (d.port n).neighbour.toNat [] with tag := d.klz.tagNext }))
    ∧ (∀ frac, d.clp.source = 2 → d.route d.clp.master.toNat = 0xFF →
      YieldsSome (exec (.timeReqSend frac) s) s (fun e => e.clp = { d.clp with
          locked := false, good := 0, unlockSeen := d.clp.unlockSeen || d.clp.locked, unlockCount := if d.clp.locked then sat16 d.clp.unlockCount else d.clp.unlockCount }
        ∧ e = { d with clp := e.clp, klz := { d.klz with linkPort := 0 } }))
    ∧ (∀ frac n, d.clp.source = 2 → upstream d = some n → ¬ talks n → YieldsSome (exec (.timeReqSend frac) s) s (fun e => e = d))
    ∧ (∀ frac, d.clp.source ≠ 2 → YieldsSome (exec (.timeReqSend frac) s) s (fun e => e = d))
    ∧ (∀ port p fracRx fracTx, Reaches d port p → p.type = tyTimeReq → talks port →
      YieldsSome (exec (.timeReqReceive port p fracRx fracTx) s) s (fun e =>
        let free := d.clp.source == 0 || (d.clp.source == 2 && d.clp.masterFree)
        e = emit (received d p) port { newPacket d tyTimeResp (d.port port).neighbour.toNat
              (stampBytes d.clp.now fracRx ++ stampBytes d.clp.now fracTx ++ leBytes 1 (bit d.clp.locked + 2 * bit free)) with tag := p.tag }))
    ∧ (∀ port p frac c1 f1, Reaches d port p → p.type = tyTimeResp → d.clp.reqT1 = some (c1, f1) → d.klz.timeTag = some p.tag →
      upstream d = some port → d.clp.source = 2 →
      YieldsSome (exec (.timeRespReceive port p frac) s) s (fun e =>
        let x := timeExchange (c1.toNat * 2 ^ 32 + f1.toNat) (fieldLe p.payload 0 12) (fieldLe p.payload 12 12) (d.clp.now.toNat * 2 ^ 32 + frac.toNat)
        let flags := fieldLe p.payload 24 1
        let trusted := ((d.port port).state ≠ .up ∧ (d.port port).neighbour = d.clp.master) ∨ natBit flags 0 = true
        let c : Clp := { d.clp with reqT1 := none, masterFree := natBit flags 1, exchangeAt := d.clp.elapsed }
        let slewed (c : Clp) : Clp := { c with slew := -((-x.2) / 0x100000000), pendingStep := none, stepDeferred := c.pendingArm.isSome }
        e.klz = { d.klz with timeTag := none, linkDelay := BitVec.ofInt 16 (clampInt 0 0xFFFF (fracNs d x.1)) }
        ∧ e.clp.reqT1 = none ∧ e.clp.masterFree = natBit flags 1 ∧ e.clp.exchangeAt = d.clp.elapsed
        ∧ (¬ trusted → e.clp = c ∧ e.jobs = d.jobs)
        ∧ (trusted → e.clp.offset = fracNs d (-x.2) ∧ e.clp.missing = 0
            ∧ (within x.2 10 → e.jobs = d.jobs ∧ e.clp = slewed { c with
                offset := e.clp.offset, missing := 0, good := c.good + 1, locked := c.locked || decide (2 ≤ c.good) })
            ∧ (¬ within x.2 10 → within x.2 1000 → e.jobs = d.jobs ∧ e.clp = slewed { c with offset := e.clp.offset, missing := 0, good := 0 })
            ∧ (¬ within x.2 1000 → e.clp.locked = false ∧ e.clp.good = 0))
        ∧ e = { received d p with klz := e.klz, clp := e.clp, jobs := e.jobs }))

/-- LANE_SIGNAL_LOSS, REPLAY_TIMEOUT, UNCORRECTABLE_CODE_WORDS, KLZ_RETRAIN and KLZ_DISABLE. -/
def Obligations.LinksAreLostAndHeld : Prop :=
  ∀ (s : State) (n : Nat), asleep s.dev = false → n < 16 →
    let d := s.dev
    let x := d.port n
    let Only (i : Instr) (y : Port) : Prop := YieldsSome (exec i s) s (PortStep d n y)
    (PortFree d n → linkUp x.state = true →
      Only (.laneSignalLoss n) (x.lost.into .backoff 0)
      ∧ (x.replaying = true ∨ x.dropping = true → Only (.replayTimeout n) (x.lost.into .backoff 0))
      ∧ Only (.uncorrectableCodeWords n) ({ x with fecUncorrected := satAdd16 x.fecUncorrected 8 }.lost.into .backoff 0)
      ∧ Only (.klzRetrain n) (x.lost.into .detect 0)
      ∧ Only (.klzDisable n true) ({ x with disable := true }.lost.into .idle 0))
    ∧ (linkUp x.state = false → YieldsSome (exec (.laneSignalLoss n) s) s (fun e => e = d))
    ∧ (x.replaying = false → x.dropping = false → YieldsSome (exec (.replayTimeout n) s) s (fun e => e = d))
    ∧ (x.state = .idle → Only (.klzRetrain n) { x with retrain := true } ∧ Only (.klzDisable n true) ({ x with disable := true }.into .idle 0)
      ∧ (x.started = true → Only (.klzDisable n false) ({ x with disable := false }.into .detect 0)))
    ∧ (linkUp x.state = false → x.state ≠ .idle → Only (.klzRetrain n) ({ x with retrain := true }.into .detect 0)
      ∧ Only (.klzDisable n true) ({ x with disable := true }.into .idle 0))
    ∧ ((x.state ≠ .idle ∨ x.started = false) → Only (.klzDisable n false) { x with disable := false })
    ∧ (x.state = .active → ∀ i ∈ [Instr.laneSignalLoss n, .uncorrectableCodeWords n, .klzRetrain n, .klzDisable n true],
      YieldsSome (exec i s) s (fun e => linkUp (e.port n).state = false ∧ (e.port n).losses = sat16 x.losses
        ∧ (∀ g, g < 16 → (d.grp g).valid = true → (fromChild (d.grp g) n || fromParent (d.grp g) n) = true → (e.grp g).absentSeen = true)
        ∧ ((d.klz.cascade.any (fun c => (cscPorts (d.grp c.group) c.ring).contains n && !d.flt.faulted.contains c.slot)) = true →
            e.klz.failed = true ∧ e.flt.stopActive = true)))

/-- KLZ_TRAIN_GROUP_START, PORT_SIGNAL_SEEN, PORT_DETECT_TIMEOUT, PORT_BACKOFF_EXPIRE, PORT_TRAIN_DONE and IDENT_RECEIVE. -/
def Obligations.PortsTrainAndIdentify : Prop :=
  ∀ (s : State), asleep s.dev = false →
    let d := s.dev
    let Moves (i : Instr) (n : Nat) (source dest : PortState) : Prop :=
      n < 16 → (d.port n).state = source → YieldsSome (exec i s) s (PortStep d n ((d.port n).into dest 0))
    let Stays (i : Instr) : Prop := YieldsSome (exec i s) s (fun e => e = d)
    (∀ n, Moves (.portSignalSeen n) n .detect .train ∧ Moves (.portDetectTimeout n) n .detect .backoff
      ∧ Moves (.portBackoffExpire n) n .backoff .detect ∧ ∀ rtt, Moves (.portTrainDone n false rtt) n .train .backoff)
    ∧ (∀ n ok rtt, n < 16 →
      ((d.port n).state ≠ .detect → Stays (.portSignalSeen n) ∧ Stays (.portDetectTimeout n))
      ∧ ((d.port n).state ≠ .backoff → Stays (.portBackoffExpire n)) ∧ ((d.port n).state ≠ .train → Stays (.portTrainDone n ok rtt))
      ∧ ((if n < 8 then d.sys.refclkAAbsent else d.sys.refclkBAbsent) = true → Stays (.portTrainDone n true rtt)))
    ∧ (∀ g, g < 4 → d.sys.tripped = false → YieldsSome (exec (.klzTrainGroupStart g) s) s (fun e =>
        (∀ n, n / 4 = g → e.port n =
          if (d.port n).state = .idle ∧ (d.port n).disable = false then { d.port n with started := true }.into .detect 0 else { d.port n with started := true })
        ∧ (∀ n, n / 4 ≠ g → e.port n = d.port n) ∧ e = { d with klz := { d.klz with ports := e.klz.ports } }))
    ∧ (∀ n rtt, n < 16 → (d.port n).state = .train → (if n < 8 then d.sys.refclkAAbsent else d.sys.refclkBAbsent) = false →
      let dt := { d with klz := { d.klz with trained := some (clampHorizon d.klz.requested) } }
      let x := { d.port n with rtt := BitVec.ofNat 16 (min rtt 0xFFFF) }
      (2000 < rtt → YieldsSome (exec (.portTrainDone n true rtt) s) s (PortStep dt n (x.into .tooFar 0x62)))
      ∧ (rtt ≤ 2000 → YieldsSome (exec (.portTrainDone n true rtt) s) s (fun e => ∃ e0, PortStep dt n (x.into .up 0) e0
          ∧ (d.str.inForce = none → e = e0)
          ∧ (d.str.inForce.isSome = true → e = emit e0 n (newPacket d tyIdent 0
              (leBytes 2 d.ownDevice ++ leBytes 1 n ++ [0] ++ leBytes 4 d.clp.num ++ leBytes 4 d.clp.den ++ leBytes 4 0))))))
    ∧ (∀ n p, Reaches d n p → p.type = tyIdent →
      let dev := fieldLe p.payload 0 2
      let x := { d.port n with ident := some (dev, fieldLe p.payload 2 1, fieldLe p.payload 4 4, fieldLe p.payload 8 4) }
      let known := { x with neighbour := BitVec.ofNat 12 dev, neighbourPort := BitVec.ofNat 4 (fieldLe p.payload 2 1), retrain := x.retrain }
      let same := fieldLe p.payload 4 4 * d.clp.den = d.clp.num * fieldLe p.payload 8 4
      (d.str.inForce = none → YieldsSome (exec (.identReceive n p) s) s (PortStep (received d p) n x))
      ∧ (d.str.inForce.isSome = true → same → dev % 4096 ≠ d.ownDevice →
        YieldsSome (exec (.identReceive n p) s) s (PortStep (received d p) n { known with state := .active, reason := 0 }))
      ∧ (d.str.inForce.isSome = true → PortFree d n → ¬ same →
        YieldsSome (exec (.identReceive n p) s) s (PortStep (received d p) n { known with state := .mismatch, reason := 0x68 }))
      ∧ (d.str.inForce.isSome = true → PortFree d n → same → dev % 4096 = d.ownDevice →
        YieldsSome (exec (.identReceive n p) s) s (PortStep (received d p) n { known with state := .mismatch, reason := 0x69 })))

/-- KLZ_ECHO_GO, ECHO_RECEIVE, ECHO_RESP_RECEIVE, ECHO_TIMEOUT and KLZ_FORWARD; how a packet leaves by a port. -/
def Obligations.PacketsLeaveAndEchoesReturn : Prop :=
  ∀ (s : State), asleep s.dev = false →
    let d := s.dev
    let own := d.str.inForce.isSome = true ∧ d.klz.echoDevice.toNat = d.ownDevice
    (own → YieldsSome (exec .klzEchoGo s) s (fun e => e = { d with klz := { d.klz with echoDone := true, echoRtt := 0 } }))
    ∧ (∀ n, ¬ own → routePort d d.klz.echoDevice.toNat = some n → YieldsSome (exec .klzEchoGo s) s (fun e =>
        e = emit { d with klz := { d.klz with tagNext := d.klz.tagNext + 1, echoTag := some d.klz.tagNext, echoGo := true } } n
          { newPacket d tyEcho d.klz.echoDevice.toNat [] with tag := d.klz.tagNext }))
    ∧ (¬ own → routePort d d.klz.echoDevice.toNat = none →
      YieldsSome (exec .klzEchoGo s) s (fun e => e = { d with klz := { d.klz with echoFailed := true } }))
    ∧ (∀ n, ¬ own → routePort d d.klz.echoDevice.toNat = some n → (d.port n).waiting = [] →
      let x := d.port n
      let q : Packet := { newPacket d tyEcho d.klz.echoDevice.toNat [] with tag := d.klz.tagNext, flags := if x.dateline then 1 else 0 }
      let sent (y : Port) (go : Bool) (e : Dev) : Prop := e.port n = y ∧ (∀ k, k ≠ n → e.port k = d.port k)
        ∧ e.klz = { d.klz with tagNext := d.klz.tagNext + 1, echoTag := some d.klz.tagNext, echoGo := go, ports := e.klz.ports }
        ∧ e = { d with klz := e.klz, cnt := e.cnt }
      let room := tabGet 0 x.used (creditKey q) + 1 ≤ 256 ∧ x.sent.length < 1024
      let bytes := flitBytes 1 0 x.txSeq (x.rxSeq - 1) 0 0 0 (packetBytes q)
      (room → YieldsSome (exec .klzEchoGo s) s (sent { x with
          line := x.line ++ [.packet q], lanes := x.lanes ++ [bytes], sent := x.sent ++ [(x.txSeq, bytes)], retry := x.retry ++ [(x.txSeq, q)],
          txSeq := x.txSeq + 1, used := tabSet 0 x.used (creditKey q) (tabGet 0 x.used (creditKey q) + 1) } false))
      ∧ (¬ room → YieldsSome (exec .klzEchoGo s) s (sent { x with waiting := [q] } true)))
    ∧ (∀ port p n, Reaches d port p → p.type = tyEcho → routePort d p.src.toNat = some n →
      YieldsSome (exec (.echoReceive port p) s) s (fun e => e = emit (received d p) n { newPacket d tyEchoResp p.src.toNat [] with tag := p.tag }))
    ∧ (∀ p ns, p.type = tyEchoResp → intact p = true → p.dest.toNat = d.ownDevice →
      (d.klz.echoTag = some p.tag → YieldsSome (exec (.echoRespReceive p ns) s) s (fun e =>
        e = { d with klz := { d.klz with echoDone := true, echoRtt := BitVec.ofNat 32 ns, echoTag := none, echoGo := false } }))
      ∧ (d.klz.echoTag ≠ some p.tag → YieldsSome (exec (.echoRespReceive p ns) s) s (fun e => e = d)))
    ∧ (d.klz.echoTag.isSome = true → YieldsSome (exec .echoTimeout s) s (fun e => e = { d with klz := { d.klz with echoFailed := true, echoTag := none, echoGo := false } }))
    ∧ (d.klz.echoTag = none → YieldsSome (exec .echoTimeout s) s (fun e => e = d))
    ∧ (∀ port p, port < 16 → linkUp (d.port port).state = true → carries (d.port port).state p = true → d.str.inForce.isSome = true →
      hopType p.type = false → p.dest.toNat ≠ d.ownDevice →
      (64 ≤ p.hops.toNat → YieldsSome (exec (.klzForward port p) s) s (fun e =>
        e = { received d p with klz := { d.klz with ttlDrops := sat16 d.klz.ttlDrops, ttlDrop := true } }))
      ∧ (∀ n, p.hops.toNat < 64 → routePort d p.dest.toNat = some n →
        YieldsSome (exec (.klzForward port p) s) s (fun e => e = emit (received d p) n { p with hops := p.hops + 1 }))
      ∧ (∀ n, p.hops.toNat < 64 → routePort d p.dest.toNat = none → isRequest p = true → routePort d p.src.toNat = some n →
        YieldsSome (exec (.klzForward port p) s) s (fun e => e = emit (received d p) n { newPacket d tyResponse p.src.toNat [] with tag := p.tag, status := 1 })))

/-- FLIT_RECEIVE: what is refused, what is acknowledged and replayed, and that a packet out of a flit acts as the command of its own. -/
def Obligations.FlitsAreTakenInOrder : Prop :=
  ∀ (s : State) (n : Nat) (f : Flit), asleep s.dev = false → n < 16 → linkUp (s.dev.port n).state = true →
    let d := s.dev
    let x := d.port n
    let Only (y : Port) : Prop := YieldsSome (exec (.flitReceive n f) s) s (PortStep d n y)
    let seq := BitVec.ofNat 16 (flitU f 2 2)
    let ack := BitVec.ofNat 16 (flitU f 4 2)
    let left := x.retry.filter (fun r => decide (0 < (r.1 - ack).toInt))
    let flits := x.sent.filter (fun r => decide (0 < (r.1 - ack).toInt))
    let idle (flags : Nat) (a : BitVec 16) (key units : Nat) : List Byte := flitBytes 0 flags 0 a (key / 2 + 4 * (key % 2)) units 0xFFFF []
    let refused := flitOk f = false ∨ (flitU f 0 1 = 1 ∧ seq ≠ x.rxSeq)
    let key := 2 * (flitU f 6 1 % 4) + bit (natBit (flitU f 6 1) 2)
    let credited := tabSet 0 x.used key (tabGet 0 x.used key - flitU f 7 1)
    let d0 := flitCredit (flitAck d n f) n f
    (refused → x.dropping = false → Only { x with
      dropping := true, line := x.line ++ [.nak (x.rxSeq - 1)], lanes := x.lanes ++ [idle 3 (x.rxSeq - 1) 0 0] })
    ∧ (refused → x.dropping = true → Only x)
    ∧ (flitOk f = true → flitU f 0 1 = 0 → x.dropping = false → x.waiting = [] →
      (natBits (flitU f 1 1) 1 0 = 0 → Only { x with used := credited })
      ∧ (natBits (flitU f 1 1) 1 0 = 2 → Only { x with
          used := credited, retry := left, sent := flits, replaying := x.replaying && flits.length == x.sent.length && !flits.isEmpty })
      ∧ (natBit (flitU f 1 1) 0 = true → Only { x with
          used := credited, retry := left, sent := flits, replaying := true, replays := sat16 x.replays, line := x.line ++ [.replay ack],
          lanes := x.lanes ++ flits.map (·.2) }))
    ∧ (flitOk f = true → flitU f 0 1 = 1 → seq = x.rxSeq →
      let slots := sliceBytes f.bytes 0x0A 242
      let stream := if x.rx.isEmpty then (if flitU f 8 2 == 0xFFFF then [] else slots.drop (flitU f 8 2)) else x.rx ++ slots
      let taken (y : Port) : Port := { y with
        rx := (splitPackets 9 stream).2, rxSeq := seq + 1, dropping := false, line := y.line ++ [.ack seq], lanes := y.lanes ++ [idle 2 seq 0 0] }
      ((splitPackets 9 stream).1 = [] → YieldsSome (exec (.flitReceive n f) s) s (fun e => e = d0.modPort n taken))
      ∧ (∀ p, (splitPackets 9 stream).1 = [p] →
        let d1 := (d0.modPort n taken).modPort n (fun y => { y with
          line := y.line ++ [.credit (creditKey p) (packetUnits p)], lanes := y.lanes ++ [idle 0 0 (creditKey p) (packetUnits p)] })
        let Acts (i : Instr) : Prop := Completes (exec (.flitReceive n f) s) ∧ exec (.flitReceive n f) s = exec i { s with dev := d1 }
        (p.type = tyRead → Acts (.klzRead n p)) ∧ (p.type = tyWrite → Acts (.klzWrite n p))
        ∧ (p.type = tyViewRead → Acts (.klzViewRead n p)) ∧ (p.type = tyViewWrite → Acts (.klzViewWrite n p))
        ∧ (p.type = tyCscData → Acts (.cscDataReceive n p)) ∧ (p.type = tyCscReady → Acts (.cscReadyReceive n p))
        ∧ (p.type = tyIdent → Acts (.identReceive n p)) ∧ (p.type = tyEcho → Acts (.echoReceive n p))
        ∧ (p.type = tyFence → fieldLe p.payload 0 1 = 1 → Acts (.fenceArriveReceive n p))
        ∧ (p.type = tyFence → fieldLe p.payload 0 1 = 2 → Acts (.fenceDecideReceive n p))))

/-- KLZ_READ, KLZ_WRITE, KLZ_VIEW_READ and KLZ_VIEW_WRITE of a remote device: what is read, written, refused and answered. -/
def Obligations.RemoteRequestsAreServed : Prop :=
  ∀ (s : State) (port : Nat) (p : Packet) (n : Nat), asleep s.dev = false →
    Reaches s.dev port p → routePort s.dev p.src.toNat = some n →
    let d := s.dev
    let r := received d p
    let g := p.address.toNat
    let space := natBits g 51 48
    let off := g % 2 ^ 48
    let answer (d : Dev) (st : Byte) (data : List Byte) (e : Dev) : Prop :=
      e = emit d n { newPacket d tyResponse p.src.toNat data with tag := p.tag, status := st }
    let written (pl : Place) (e : Dev) : Prop := ∃ d2, answer d2 0 [] e ∧ d2.klz = d.klz
      ∧ (∀ c, pl = .cells c → CellsKept d d2 [(c, p.payload.length)]
          ∧ ((sramBase ≤ c ∨ stackDead d c = false) → d2.mem = memWrite d.mem c p.payload
            ∧ (p.flags.getLsbD 1 = true → d2.poison = poisonMark (poisonAfterWrite d.poison c p.payload.length) c p.payload.length)))
      ∧ d2 = { r with mem := d2.mem, poison := d2.poison, upsets := d2.upsets, cnt := d2.cnt, hbm := d2.hbm }
      ∧ ∀ k, d2.stack k = { d.stack k with hold := (d2.stack k).hold, holdPeak := (d2.stack k).holdPeak }
    let readOut (pl : Place) (len : Nat) (e : Dev) : Prop :=
      answer (countHbm r false pl len) (if (placeRead d pl len).2 then 3 else 0) (if (placeRead d pl len).2 then [] else (placeRead d pl len).1) e
    (p.type = tyRead → space ≠ 3 → requestShape space off p.bytes.toNat = true →
      (∀ pl, outsidePlace d false space off p.bytes.toNat = .ok pl → YieldsSome (exec (.klzRead port p) s) s (readOut pl p.bytes.toNat))
      ∧ (∀ x, outsidePlace d false space off p.bytes.toNat = .error x → YieldsSome (exec (.klzRead port p) s) s (answer r (denialStatus x) [])))
    ∧ (p.type = tyRead → requestShape space off p.bytes.toNat = false → YieldsSome (exec (.klzRead port p) s) s (answer r 2 []))
    ∧ (p.type = tyRead → space = 3 → requestShape space off p.bytes.toNat = true →
      let x := regRead s.nv r (.remote p.src.toNat) off
      (routePort x.1 p.src.toNat = some n) →
      YieldsSome (exec (.klzRead port p) s) s (fun e =>
        if x.2.error = 0 then answer x.1 0 (leBytes 4 x.2.value.toNat) e else answer x.1 2 [] e))
    ∧ (p.type = tyWrite → requestShape space off p.payload.length = true → sramRebinding d space off = true →
      YieldsSome (exec (.klzWrite port p) s) s (answer r 2 []))
    ∧ (p.type = tyWrite → space ≠ 3 → requestShape space off p.payload.length = true → sramRebinding d space off = false →
      (∀ pl, outsidePlace d true space off p.payload.length = .ok pl → YieldsSome (exec (.klzWrite port p) s) s (written pl))
      ∧ (∀ x, outsidePlace d true space off p.payload.length = .error x → YieldsSome (exec (.klzWrite port p) s) s (answer r (denialStatus x) [])))
    ∧ (p.type = tyWrite → space = 3 → off % 4 = 0 →
      let x := regWrite r (.remote p.src.toNat) off (BitVec.ofNat 32 (fieldLe p.payload 0 4))
      (routePort x.1 p.src.toNat = some n) →
      YieldsSome (exec (.klzWrite port p) s) s (answer x.1 (if x.2.error = 0 then 0 else 2) []))
    ∧ (p.type = tyViewRead →
      (∀ pl, viewPlace d false p.slotGroup.toNat g p.bytes.toNat = .ok pl → YieldsSome (exec (.klzViewRead port p) s) s (readOut pl p.bytes.toNat))
      ∧ (∀ st, viewPlace d false p.slotGroup.toNat g p.bytes.toNat = .error st → YieldsSome (exec (.klzViewRead port p) s) s (answer r st [])))
    ∧ (p.type = tyViewWrite →
      (∀ pl, viewPlace d true p.slotGroup.toNat g p.payload.length = .ok pl → YieldsSome (exec (.klzViewWrite port p) s) s (written pl))
      ∧ (∀ st, viewPlace d true p.slotGroup.toNat g p.payload.length = .error st → YieldsSome (exec (.klzViewWrite port p) s) s (answer r st [])))

/-- KLZ_RESPONSE and KLZ_REQUEST_LOST: a response ends its request and its data goes where the mover asked; a lost or refused request is charged to its job. -/
def Obligations.ResponsesEndTheirRequests : Prop :=
  ∀ (s : State) (p : Packet) (tag : Word), asleep s.dev = false →
    let d := s.dev
    let open_ (t : Word) (r : Req) : Prop := d.klz.requests.find? (fun r => r.tag == t) = some r
    let rest (t : Word) : List Req := d.klz.requests.filter (fun r => !(r.tag == t))
    let taken := p.type = tyResponse ∧ intact p = true ∧ p.dest.toNat = d.ownDevice
    let quiet (core slot : Nat) : Prop :=
      queuedCount (d.core core).ctx = 0 ∧ (d.core core).tm.all (fun t => t.todo.isEmpty) = true ∧ (d.tslot slot).aborting = none
    let answered (core ident : Nat) : List TmCmd := (d.core core).tm.map (fun t => if t.ident == ident then { t with waiting := t.waiting - 1 } else t)
    (taken → d.klz.requests.find? (fun r => r.tag == p.tag) = none → YieldsSome (exec (.klzResponse p) s) s (fun e => e = received d p))
    ∧ (∀ r core slot logical command ident, taken → open_ p.tag r → r.origin = .mover core slot logical command ident none → p.status = 0 → p.flags.getLsbD 1 = false →
      moverLive d core slot ident = true →
      YieldsSome (exec (.klzResponse p) s) s (fun e =>
        e = afterAnswer (moverAnswered { received d p with klz := { d.klz with requests := rest p.tag } } core ident) slot core
        ∧ (quiet core slot → e.klz = { d.klz with requests := rest p.tag } ∧ e.core core = { d.core core with tm := answered core ident }
        ∧ (∀ k, k ≠ core → e.core k = d.core k) ∧ e = { received d p with klz := e.klz, cores := e.cores })))
    ∧ (∀ r core slot logical command ident c, taken → open_ p.tag r → r.origin = .mover core slot logical command ident (some (.cells c)) →
      p.status = 0 → p.flags.getLsbD 1 = false → moverLive d core slot ident = true → quiet core slot → sramBase ≤ c →
      YieldsSome (exec (.klzResponse p) s) s (fun e =>
        e.mem = memWrite d.mem c (p.payload.take r.bytes) ∧ CellsKept d e [(c, (p.payload.take r.bytes).length)]
        ∧ e.klz = { d.klz with requests := rest p.tag } ∧ e.core core = { d.core core with tm := answered core ident }
        ∧ (∀ k, k ≠ core → e.core k = d.core k)
        ∧ e = { received d p with klz := e.klz, cores := e.cores, mem := e.mem, poison := e.poison, upsets := e.upsets }))
    ∧ (∀ r core slot logical command ident dst, taken → open_ p.tag r → r.origin = .mover core slot logical command ident dst →
      p.status ≠ 0 → moverLive d core slot ident = true → d.flt.stopActive = false → (d.tslot slot).aborting = none →
      YieldsSome (exec (.klzResponse p) s) s (fun e =>
        e.flt.stopActive = true ∧ slot ∈ e.flt.faulted ∧ e.flt.jobFaults = sat16 d.flt.jobFaults
        ∧ (e.job slot).reason = (statusFault p.status.toNat r.device r.va).reason ∧ e.flt.stopInfo.reason = (e.job slot).reason
        ∧ (p.status = 3 → (e.job slot).reason = 0xA3)
        ∧ (p.status ≠ 3 → (e.job slot).reason = 0xA4 ∧ (e.job slot).detail = BitVec.ofNat 32 (kolizCode p.status.toNat + r.device * 0x10000))))
    ∧ (d.klz.requests.find? (fun r => r.tag == tag) = none → YieldsSome (exec (.klzRequestLost tag) s) s (fun e => e = d))
    ∧ (∀ r core slot logical command ident dst, open_ tag r → r.origin = .mover core slot logical command ident dst →
      (moverLive d core slot ident = false → quiet core slot → YieldsSome (exec (.klzRequestLost tag) s) s (fun e =>
        e = { d with klz := { d.klz with requests := rest tag, timeouts := sat16 d.klz.timeouts, timeoutSeen := true } }))
      ∧ (moverLive d core slot ident = true → d.flt.stopActive = false → (d.tslot slot).aborting = none → YieldsSome (exec (.klzRequestLost tag) s) s (fun e =>
        e.klz.timeouts = sat16 d.klz.timeouts ∧ e.klz.timeoutSeen = true ∧ e.flt.stopActive = true ∧ slot ∈ e.flt.faulted
        ∧ (e.job slot).reason = 0xA4 ∧ (e.job slot).detail = BitVec.ofNat 32 (0x63 + r.device * 0x10000))))

/-- COD_STREAM_OPEN, COD_STREAM_CHECK_DONE, COD_STREAM_CLOSE, COD_KEY_REQ, and the hand-over of COD.ENC and COD.DEC. -/
def Obligations.CodecStreamsOpenAndTakePictures : Prop :=
  ∀ (s : State), asleep s.dev = false →
    let d := s.dev
    let StreamStep (k : Nat) (y : Stream) (e : Dev) : Prop :=
      e.stream k = y ∧ (∀ i, i ≠ k → e.stream i = d.stream i) ∧ e.cod = { d.cod with streams := e.cod.streams }
    (∀ k, k < 32 →
      let x := d.stream k
      let a := x.descAddr.toNat
      let inside := hbmOk d a = true ∧ a % 2 ^ 40 + 96 ≤ hbmEnd d ∧ a % 64 = 0 ∧ natBit a 47 = false
      let readable := inside ∧ (meetHbm d a 96).hbmPoisoned a 96 = false
      let checking (bs : List Byte) : Stream :=
        { x with state := .checking, reason := 0, desc := bs, areas := if descOk { x with desc := bs } then streamAreas { x with desc := bs } else [] }
      (x.state = .closed → readable → YieldsSome (exec (.codStreamOpen k) s) s (fun e => StreamStep k (checking (d.hbmRead a 96)) e
          ∧ e = { meetHbm d a 96 with cod := e.cod } ∧ HbmRead d { e with cod := d.cod }))
      ∧ (x.state = .closed → ¬ readable → YieldsSome (exec (.codStreamOpen k) s) s (fun e =>
          StreamStep k { x with state := .checking, reason := 0, desc := [], areas := [] } e ∧ (¬ inside → e = { d with cod := e.cod })
          ∧ HbmRead d { e with cod := d.cod }))
      ∧ (x.state ≠ .closed → YieldsSome (exec (.codStreamOpen k) s) s (fun e => e = d))
      ∧ (∀ r, x.state = .checking → streamCheck d k = some r → YieldsSome (exec (.codStreamCheckDone k) s) s (fun e =>
          StreamStep k { x with state := .refused, reason := r, areas := [] } e ∧ e = { d with cod := e.cod }))
      ∧ (x.state = .checking → streamCheck d k = none → YieldsSome (exec (.codStreamCheckDone k) s) s (fun e =>
          StreamStep k { x with state := .opened } e ∧ e.mem = (d.hbmWrite (x.u 0x50 8) (List.replicate 8 0)).mem
          ∧ e = { d with cod := e.cod, mem := e.mem, poison := e.poison, upsets := e.upsets }))
      ∧ (x.state = .refused → YieldsSome (exec (.codStreamClose k) s) s (fun e => StreamStep k x.shut e ∧ e = { d with cod := e.cod }))
      ∧ (x.state = .opened → YieldsSome (exec (.codStreamClose k) s) s (fun e =>
          e.stream k = (if streamPics d k = [] then { x with state := .closing }.shut else { x with state := .closing })
          ∧ (∀ i, i ≠ k → e.stream i = d.stream i ∨ ((d.stream i).state = .closing ∧ streamPics d i = [] ∧ e.stream i = (d.stream i).shut))
          ∧ e = { d with cod := { d.cod with streams := e.cod.streams } }))
      ∧ YieldsSome (exec (.codKeyReq k) s) s (fun e =>
          StreamStep k (if x.keyPending then x else { x with keyPending := true, keyAt := d.clp.elapsed }) e ∧ e = { d with cod := e.cod }))
    ∧ (∀ core c enc i op, ((enc = true ∧ i = Instr.codEnc core ∧ op = 0x79) ∨ (enc = false ∧ i = Instr.codDec core ∧ op = 0x7A)) →
      Stands d core op c →
      let k := c.u 2 1
      let x := d.stream k
      let y := d.core core
      let full := 16 ≤ ((streamPics d k).filter (fun p => p.done.isNone)).length
      (coreBusy y = true → YieldsSome (exec i s) s (CoreStep d core { y with ctx := { y.ctx with wait := .none } }))
      ∧ (coreBusy y = false →
      k < 32 → x.state = .opened → x.u 7 1 = c.slot → ((x.u 1 1 == 0) = enc) → c.zero 0x19 3 = true → (enc = true → c.zero 0x10 8 = true) →
      natBits (c.u 1 1) 7 (if enc then 2 else 1) = 0 → (enc = false → 1 ≤ c.u 4 4 ∧ c.u 4 4 ≤ 0x10000000) → natBit (c.u 1 1) 0 = false →
      (y.ctx.codQueue = [] → ¬ full → YieldsSome (exec i s) s (fun e =>
        ∃ p : Pic, CoreStep { d with cod := { d.cod with pics := d.cod.pics ++ [p] } } core { y with ctx := { y.ctx with wait := .none, pc := c.pc + 1, addf := [] } } e
          ∧ p.stream = k ∧ p.enc = enc ∧ p.core = core ∧ p.slot = c.slot ∧ p.word = c.u 4 4 ∧ p.src = c.u 8 8 ∧ p.dst = c.u 0x10 8
          ∧ p.live = (x.u 4 1 == 1) ∧ p.deadline = picDeadline d x ∧ p.signal = false ∧ p.started = false ∧ p.runs = [] ∧ p.done = none
          ∧ p.keyAsked = (enc && natBit (c.u 1 1) 1)))
      ∧ (y.ctx.codQueue ≠ [] ∨ full → y.ctx.codQueue.length < 4 →
        YieldsSome (exec i s) s (CoreStep { d with tmNext := d.tmNext + 1 } core { y with ctx := { y.ctx with
          codQueue := y.ctx.codQueue ++ [{ stamp := d.tmNext, pc := c.pc, b := c.b }], wait := .none, pc := c.pc + 1, addf := [] } }))
      ∧ (4 ≤ y.ctx.codQueue.length →
        YieldsSome (exec i s) s (CoreStep d core { y with ctx := { y.ctx with wait := .queue } }))))

/-- COD_PICTURE_START, COD_BATCH_SUSPEND, COD_PICTURE_DONE and COD_CORE_ERROR. -/
def Obligations.CodecCoresRunPictures : Prop :=
  ∀ (s : State) (c : Nat), asleep s.dev = false → c < 16 →
    let d := s.dev
    let becomes (pics : List Pic) (p q : Pic) : List Pic := pics.map (fun r => if r == p then q else r)
    let runs (p : Pic) : Prop := d.cod.pics.find? (fun p => p.runs.contains c) = some p
    let changed (d0 e : Dev) (area : Nat → Prop) : Prop := ∀ a, memGet e.mem a = memGet d0.mem a ∨ ∃ o, area o ∧ a = hbmCell d o
    let finished (p : Pic) (o : PicOut) (d0 e : Dev) (entry : Option Nat) : Prop :=
      e.cod.pics = becomes d0.cod.pics p { p with runs := [], entry := entry, done := some o }
      ∧ o.finish = d.clp.now ∧ o.late = (p.live && decide (p.deadline < d.clp.now))
      ∧ e.cod.lateCount = (if o.late then sat16 d0.cod.lateCount else d0.cod.lateCount)
      ∧ e.stream p.stream = (if o.late then { d0.stream p.stream with late := true, latePictures := sat16 (d0.stream p.stream).latePictures } else d0.stream p.stream)
      ∧ (∀ k, k ≠ p.stream → e.stream k = d0.stream k) ∧ e.cod.failed = d0.cod.failed
    let saved : Dev := { d with cod := { d.cod with pics := d.cod.pics.map (fun p => if p.suspended && p.runs.contains c then { p with runs := [] } else p) } }
    let settled (d : Dev) (slot : Nat) : Prop := ∀ l ∈ jobCores d slot, (d.core (d.phys l)).ctx.codQueue = []
    (d.flt.stopActive = false → choosePic saved c = none → YieldsSome (exec (.codPictureStart c) s) s (fun e => e = saved))
    ∧ (∀ p, d.flt.stopActive = false → choosePic saved c = some p →
      let x := d.stream p.stream
      let on := (runsOn saved x c).getD []
      (p.started = true → YieldsSome (exec (.codPictureStart c) s) s (fun e =>
        ∃ q, q = { p with runs := if p.single then on.take 1 else on, shares := q.shares, suspended := false }
          ∧ q.shares.map (fun h => (h.first, h.count, h.step)) = p.shares.map (fun h => (h.first, h.count, h.step))
          ∧ e = { saved with cod := { saved.cod with pics := becomes saved.cod.pics p q } }))
      ∧ (∀ d2 bs, p.started = false → readInput saved p = .ok (d2, bs) → YieldsSome (exec (.codPictureStart c) s) s (fun e =>
        ∃ q : Pic, (q.entry = none ↔ freeEntries saved p.stream = []) ∧ (∀ i, q.entry = some i → i ∈ freeEntries saved p.stream)
          ∧ (p.enc = true → q.lead = 0 ∧ q.cut = false) ∧ (p.enc = false → (q.lead, q.cut) = unitHead (x.u 0 1) bs)
          ∧ (x.u 5 1 = 1 → q.runs = on ∧ q.shares = p.shares ∧ q.single = p.single)
          ∧ (x.u 5 1 ≠ 1 → p.enc = true → q.runs = on ∧ q.shares = encodeShares x on ∧ q.single = p.single)
          ∧ (x.u 5 1 ≠ 1 → p.enc = false → (q.runs = on ∧ q.shares.map (·.core) = on ∧ q.single = p.single)
              ∨ (q.runs = on.take 1 ∧ q.shares = p.shares ∧ q.single = true))
          ∧ q = { p with started := true, runs := q.runs, shares := q.shares, single := q.single, key := p.enc && keyDue saved p, entry := q.entry, lead := q.lead, cut := q.cut }
          ∧ e = { d2 with free := e.free, cod := { d2.cod with pics := becomes d2.cod.pics p q } })))
    ∧ (∀ p, runs p → p.suspended = true → YieldsSome (exec (.codBatchSuspend c) s) s (fun e => e = d)
      ∧ YieldsSome (exec (.codPictureDone c) s) s (fun e => e = d))
    ∧ (∀ p k, runs p → p.live = false → p.suspended = false → (codecRec d c).pool = 3 → k < 32 → (headPic d k).any (fun q => q.live) = true →
      (∀ i, i < 16 → runsOn d (d.stream k) i = none) → ((d.stream k).u 5 1 = 1 ∨ (groupCores d c).length = (d.stream k).u 5 1) →
      YieldsSome (exec (.codBatchSuspend c) s) s (fun e =>
        e.cod = { d.cod with pics := becomes d.cod.pics p { p with suspended := true, paused := true } }
        ∧ changed d e (fun o => (d.stream p.stream).u 0x50 8 + 8 ≤ o ∧ o < (d.stream p.stream).u 0x50 8 + 0x100000)
        ∧ e = { d with cod := e.cod, mem := e.mem, poison := e.poison, upsets := e.upsets, free := e.free }))
    ∧ (d.cod.pics.find? (fun p => p.runs.contains c) = none → YieldsSome (exec (.codBatchSuspend c) s) s (fun e => e = d)
      ∧ YieldsSome (exec (.codPictureDone c) s) s (fun e => e = d)
      ∧ YieldsSome (exec (.codCoreError c) s) s (fun e => e = { d with cod := { d.cod with failed := d.cod.failed ||| (1#16 <<< c) } }))
    ∧ (∀ p, runs p → YieldsSome (exec (.codCoreError c) s) s (fun e =>
        e = { d with cod := { d.cod with failed := d.cod.failed ||| (1#16 <<< c), pics := becomes d.cod.pics p { p with
          started := false, runs := [], key := false, entry := none, suspended := false, lead := 0, cut := false, shares := [], single := false } } }))
    ∧ (∀ p, runs p → d.flt.stopActive = false → p.suspended = false → p.enc = true → p.signal = false → settled d p.slot →
      let x := streamNow d p.stream
      4096 ≤ x.u 0x1C 4 → x.u 0x1C 4 ≤ x.u 0x30 4 →
      YieldsSome (exec (.codPictureDone c) s) s (fun e => ∃ o entry, finished p o d e entry
        ∧ o.offset = x.ringWritten.toNat % x.u 0x30 4 ∧ 1 ≤ o.bytes ∧ o.bytes ≤ x.u 0x1C 4
        ∧ ((o.status = 0 ∧ o.reason = 0 ∧ entry = p.entry ∧ entry ≠ none ∧ o.key = p.key)
           ∨ (o.status = 3 ∧ entry = none ∧ o.key = false ∧ (o.reason = 0x77 ∨ (o.reason = 0x78 ∧ p.entry = none))))
        ∧ changed d e (fun a => (x.u 0x28 8 ≤ a ∧ a < x.u 0x28 8 + x.u 0x30 4)
            ∨ ∃ i, p.entry = some i ∧ x.u 0x20 8 + i * x.entryBytes ≤ a ∧ a < x.u 0x20 8 + (i + 1) * x.entryBytes)
        ∧ e = { d with cod := e.cod, mem := e.mem, poison := e.poison, upsets := e.upsets, free := e.free }))
    ∧ (∀ p r, runs p → d.flt.stopActive = false → p.suspended = false → p.enc = false → p.signal = false → p.lead ≤ p.word →
      decodeDone d p = .ok r → settled r.1 p.slot →
      YieldsSome (exec (.codPictureDone c) s) s (fun e => ∃ o entry, r.2 = { p with runs := [], entry := entry, done := some o }
        ∧ finished p o r.1 e entry ∧ o.status ≤ 2 ∧ o.bytes ≤ p.word ∧ (entry = p.entry ∨ (entry = none ∧ o.status = 2)) ∧ e.mem = r.1.mem
        ∧ e = { r.1 with cod := e.cod }))

/-- REGISTER_WRITE, PAIR_LO_READ, PAIR_LO_WRITE, PAIR_HI_WRITE and RC_READ: addresses, refusals, latches and counters that a read clears. -/
def Obligations.RegisterAccessesLatchAndClear : Prop :=
  ∀ (s : State) (a : Accessor) (addr : Nat) (v : Word), asleep s.dev = false → a.wf = true →
    let d := s.dev
    let refused (r : Byte) (e : Dev) : Prop :=
      (a ≠ .mgt → e = { d with bus := { value := 0, error := r } })
      ∧ (a = .mgt → e = { d with bus := { value := 0, error := r }, pld := { d.pld with mgtRefused := true, mgtReason := r } })
    let value := BitVec.ofNat 32 (regValue s.nv d addr)
    let hiHalf := BitVec.ofNat 32 (regValue s.nv d (addr + 4))
    (regAddrOk addr = false → writeDenied a addr = false → YieldsSome (exec (.registerWrite a addr v) s) s (refused 0x93))
    ∧ (writeDenied a addr = true → YieldsSome (exec (.registerWrite a addr v) s) s (refused 0x94))
    ∧ (regAddrOk addr = false → YieldsSome (exec (.rcRead a addr) s) s (refused 0x93))
    ∧ (isPairLo addr = true → writeDenied a addr = false →
      YieldsSome (exec (.pairLoWrite a addr v) s) s (fun e =>
        e = { d with bus := {}, writeLatch := tabSet none d.writeLatch (accCode a) (some { pair := addr, half := v }) })
      ∧ YieldsSome (exec (.registerWrite a addr v) s) s (fun e =>
        e = { d with bus := {}, writeLatch := tabSet none d.writeLatch (accCode a) (some { pair := addr, half := v }) }))
    ∧ (isPairLo addr = true → YieldsSome (exec (.pairLoRead a addr) s) s (fun e =>
        e = { d with bus := { value := value, error := 0 }, readLatch := tabSet none d.readLatch (accCode a) (some { pair := addr, half := hiHalf }) }))
    ∧ (isPairLo addr = true → regAddrOk (addr + 4) = true →
      (∀ l, tabGet none d.readLatch (accCode a) = some l → l.pair = addr →
        YieldsSome (exec (.rcRead a (addr + 4)) s) s (fun e => e = { d with bus := { value := l.half, error := 0 } }))
      ∧ ((∀ l, tabGet none d.readLatch (accCode a) = some l → l.pair ≠ addr) →
        YieldsSome (exec (.rcRead a (addr + 4)) s) s (fun e => e = { d with bus := { value := BitVec.ofNat 32 (regValue s.nv d (addr + 4)), error := 0 } })))
    ∧ (∀ l, a ≠ .mgt → tabGet none d.writeLatch (accCode a) = some l → l.pair = 0x400018 →
      YieldsSome (exec (.pairHiWrite a 0x40001C v) s) s (fun e =>
        e = { d with bus := {}, writeLatch := tabSet none d.writeLatch (accCode a) none, clp := { d.clp with setFrame := BitVec.ofNat 40 (v.toNat * 2 ^ 32 + l.half.toNat) } }))
    ∧ (a ≠ .mgt → (∀ l, tabGet none d.writeLatch (accCode a) = some l → l.pair ≠ 0x400018) →
      YieldsSome (exec (.pairHiWrite a 0x40001C v) s) s (fun e =>
        e = { d with bus := {}, clp := { d.clp with setFrame := BitVec.ofNat 40 (v.toNat * 2 ^ 32 + d.clp.setFrame.toNat % 2 ^ 32) } }))
    ∧ (∀ n, n < 2 →
      YieldsSome (exec (.rcRead a (0xD00040 + 0x1000 * n)) s) s (fun e =>
        e.bus = { value := (d.ethp n).frames, error := 0 } ∧ (e.ethp n) = { d.ethp n with frames := 0 }
        ∧ (∀ k, k ≠ n → e.ethp k = d.ethp k) ∧ e = { d with bus := e.bus, eth := e.eth }))
    ∧ (∀ h, h < 8 →
      YieldsSome (exec (.rcRead a (0xD03040 + 0x100 * h)) s) s (fun e =>
        e.bus = { value := (d.conn h).requests, error := 0 } ∧ (e.conn h) = { d.conn h with requests := 0 }
        ∧ (∀ k, k ≠ h → e.conn k = d.conn k) ∧ e = { d with bus := e.bus, pld := { d.pld with conns := e.pld.conns } }))

/-- REGISTER_WRITE of registers of every block: RW fields take the word, W1C bits clear, slot registers are written in IDLE alone. -/
def Obligations.RegisterWritesKeepTheirFields : Prop :=
  ∀ (s : State) (a : Accessor) (v : Word), asleep s.dev = false → a.wf = true → a ≠ .mgt →
    let d := s.dev
    let Writes (addr : Nat) (e : Dev) : Prop := Yields (exec (.registerWrite a addr v) s) s { e with bus := {} }
    Writes 0x0C { d with sys := { d.sys with dieHot := d.sys.dieHot && !v.getLsbD 5, vinHigh := d.sys.vinHigh && !v.getLsbD 4, vinLow := d.sys.vinLow && !v.getLsbD 3 } }
    ∧ Writes 0x100018 { d with str := { d.str with imageBytes := v } }
    ∧ Writes 0x300004 { d with trn := { d.trn with kfenceTimeout := v } }
    ∧ Writes 0x300000 { d with trn := { d.trn with flushIgnored := d.trn.flushIgnored && !v.getLsbD 4, selfAbort := d.trn.selfAbort && !v.getLsbD 3, slotLate := d.trn.slotLate && !v.getLsbD 2 } }
    ∧ Writes 0x400014 { d with clp := { d.clp with pulseFrames := v.truncate 16 } }
    ∧ Writes 0x500000 { d with sch := { d.sch with graceOverrun := d.sch.graceOverrun && !v.getLsbD 0 } }
    ∧ Writes 0x600000 { d with flt := { d.flt with
        clearRefused := d.flt.clearRefused && !v.getLsbD 4, logOverflow := d.flt.logOverflow && !v.getLsbD 3,
        abortSeen := d.flt.abortSeen && !v.getLsbD 2, fenceSeen := d.flt.fenceSeen && !v.getLsbD 1, stopSeen := d.flt.stopSeen && !v.getLsbD 0 } }
    ∧ Writes 0x600008 { d with flt := { d.flt with logConsumed := v } }
    ∧ Writes 0x700000 (if v.getLsbD 0 then { d with cnt := { d.cnt with values := [] } } else d)
    ∧ Writes 0xB00004 { d with klz := { d.klz with requested := v.truncate 16 } }
    ∧ Writes 0xC01000 (let d := if v.getLsbD 3 then keyReq d 0 else d
                       let d := if v.getLsbD 2 then streamClose d 0 else d
                       if v.getLsbD 1 then streamOpen d 0 else d)
    ∧ (∀ k, k < 12 → Writes (0x800004 + 0x10000 * k) (d.modStack k (fun x => { x with threshold := v.truncate 16 }))
      ∧ Writes (0x800008 + 0x10000 * k) (d.modStack k (fun x => { x with scrub := v.getLsbD 0 })))
    ∧ (∀ slot, slot < 64 →
      ((d.job slot).state = .idle → Writes (0x20000C + 0x1000 * slot) (d.modJob slot (fun j => { j with live := v.getLsbD 0 }))
        ∧ Writes (0x200038 + 0x1000 * slot) (d.modJob slot (fun j => { j with cplLog2 := BitVec.ofNat 5 (v.toNat / 256 % 32), cardLog2 := v.truncate 5 })))
      ∧ ((d.job slot).state ≠ .idle → Writes (0x20000C + 0x1000 * slot) d ∧ Writes (0x200038 + 0x1000 * slot) d)
      ∧ Writes (0x200004 + 0x1000 * slot) (d.modJob slot (fun j => { j with
          doorbellIgnored := j.doorbellIgnored && !v.getLsbD 19, turnLate := j.turnLate && !v.getLsbD 16 })))
    ∧ (∀ core, core < 144 → Writes (0x1000000 + 0x10000 * core) (d.modCore core (fun x => { x with boundHit := x.boundHit && !v.getLsbD 8 })))
    ∧ (∀ n, n < 16 → Writes (0xA00000 + 0x10000 * n) (d.modPort n (fun x => { x with linkLost := x.linkLost && !v.getLsbD 7 })))
    ∧ (∀ addr, addr ∈ [0x00, 0x04, 0x100004, 0x100020, 0x200008, 0x300008, 0x400000 + 0x2C, 0x600004, 0xF00000] → Writes addr d)
    ∧ (a = .svp → ∀ h, h < 8 → Writes (0xD03004 + 0x100 * h) (d.modConn h (fun x => { x with
        conf := { x.conf with peerPort := v.truncate 16 }, state := if x.state = .opened then .draining else x.state })))

/-- MBX_MSG_WRITE, MBX_GO and MBX_RELEASE. -/
def Obligations.MailboxChannelsPassMessages : Prop :=
  ∀ (s : State) (a : Accessor) (c i : Nat) (v : Word), asleep s.dev = false → a.wf = true → c < 32 → i < 16 →
    let d := s.dev
    let x := d.mbxc c
    let turns (y : Mbx) (b : BusResult) (e : Dev) : Prop :=
      e.mbxc c = y ∧ (∀ k, k ≠ c → e.mbxc k = d.mbxc k) ∧ e.bus = b ∧ e = { d with mbx := e.mbx, bus := e.bus, pld := e.pld }
      ∧ (a ≠ .mgt → e.pld = d.pld)
      ∧ (a = .mgt → e.pld = if b.error = 0 then d.pld else { d.pld with mgtRefused := true, mgtReason := b.error })
    let refusedBy (r : Byte) : Dev → Prop := turns { x with refusal := r } { value := 0, error := r }
    let latest (t : Nat) : Prop := (∀ k, (d.mbxc k).arrived < t) ∧ ∀ k, (d.schan k).arrived < t
    (mbxIsSender x a = false → YieldsSome (exec (.mbxMsgWrite a c i v) s) s (refusedBy 0x91) ∧ YieldsSome (exec (.mbxGo a c) s) s (refusedBy 0x91))
    ∧ (mbxIsSender x a = true → x.full = true →
      YieldsSome (exec (.mbxMsgWrite a c i v) s) s (refusedBy 0x90) ∧ YieldsSome (exec (.mbxGo a c) s) s (refusedBy 0x90))
    ∧ (mbxIsSender x a = true → x.full = false →
      YieldsSome (exec (.mbxMsgWrite a c i v) s) s (fun e => turns { x with msg := tabSet 0 x.msg i v } {} e ∧ tabGet 0 (e.mbxc c).msg i = v
        ∧ ∀ k, k ≠ i → tabGet 0 (e.mbxc c).msg k = tabGet 0 x.msg k)
      ∧ YieldsSome (exec (.mbxGo a c) s) s (fun e => turns { x with full := true, count := x.count + 1, arrived := (e.mbxc c).arrived } {} e ∧ latest (e.mbxc c).arrived))
    ∧ (mbxIsReceiver x a = false → YieldsSome (exec (.mbxRelease a c) s) s (refusedBy 0x91))
    ∧ (mbxIsReceiver x a = true → x.full = true → (∀ k, requestChannel c = some k → (d.schan k).answers = []) →
      YieldsSome (exec (.mbxRelease a c) s) s (turns { x with full := false } {}))
    ∧ (∀ k w rest, mbxIsReceiver x a = true → x.full = true → requestChannel c = some k → (d.schan k).answers = w :: rest → mbxIsSender x .sec = true →
      YieldsSome (exec (.mbxRelease a c) s) s (fun e =>
        e.mbxc c = { x with full := true, count := x.count + 1, msg := tabOfList 0 (w.take 16) } ∧ (e.schan k).answers = rest
        ∧ e.bus = {} ∧ (∀ j, j ≠ c → e.mbxc j = d.mbxc j) ∧ e = { d with mbx := e.mbx, bus := e.bus, sec := { d.sec with chans := e.sec.chans } }))

/-- I3C_PRIVATE_WRITE, I3C_PRIVATE_READ, I3C_ENTDAA, I3C_SETDASA, I3C_RSTDAA and SMBUS_TIMEOUT. -/
def Obligations.ManagementInterfaceTransfers : Prop :=
  ∀ (s : State) (addr : BitVec 7) (bs : List Byte) (n : Nat), asleep s.dev = false →
    let d := s.dev
    let Only (i : Instr) (f : I3c → I3c) : Prop := Yields (exec i s) s { d with i3c := f d.i3c }
    (i3cAnswers d = true → d.i3c.dynamic = none →
      Only (.i3cEntdaa addr) (fun x => { x with dynamic := some addr, ident := beBytes 6 (Config.provisionalId s.nv.serial).toNat ++ [0, 0] }) ∧ Only (.i3cSetdasa addr) (fun x => { x with dynamic := some addr }))
    ∧ ((i3cAnswers d = false ∨ d.i3c.dynamic.isSome = true) → Only (.i3cEntdaa addr) id ∧ Only (.i3cSetdasa addr) id)
    ∧ (i3cAnswers d = true → Only .i3cRstdaa (fun x => { x with dynamic := none }))
    ∧ (d.i3c.dynamic = none → Only .smbusTimeout (fun x => { x with reply := [] }))
    ∧ (d.i3c.dynamic.isSome = true → Only .smbusTimeout id)
    ∧ (i3cAnswers d = false → Only (.i3cPrivateWrite bs) (fun x => { x with nacked := true }) ∧ Only (.i3cPrivateRead n) (fun x => { x with nacked := true }))
    ∧ (i3cAnswers d = true → d.i3c.nackNext = true →
      Only (.i3cPrivateWrite bs) (fun x => { x with nackNext := false, nacked := true }) ∧ Only (.i3cPrivateRead n) (fun x => { x with nackNext := false, nacked := true }))
    ∧ (i3cAnswers d = true → d.i3c.nackNext = false → bs.length = 4 →
      Only (.i3cPrivateWrite bs) (fun x => { x with nacked := false, offset := leNat bs }))
    ∧ (∀ w, i3cAnswers d = true → d.i3c.nackNext = false → bs.length = 8 → leNat (bs.take 4) = 0xD00014 → w = BitVec.ofNat 32 (leNat (bs.drop 4)) →
      YieldsSome (exec (.i3cPrivateWrite bs) s) s (fun e =>
        e.ethp 0 = { d.ethp 0 with conf := { (d.ethp 0).conf with ipv4 := w } } ∧ (∀ k, k ≠ 0 → e.ethp k = d.ethp k) ∧ e.i3c = { d.i3c with nacked := false, offset := 0xD00018 } ∧ e.bus = {}
        ∧ e = { d with eth := e.eth, i3c := e.i3c, bus := e.bus }))
    ∧ (i3cAnswers d = true → d.i3c.nackNext = false → bs.length = 8 → writeDenied .mgt (leNat (bs.take 4)) = true →
      YieldsSome (exec (.i3cPrivateWrite bs) s) s (fun e =>
        e.i3c = { d.i3c with offset := leNat (bs.take 4), nackNext := d.i3c.dynamic.isSome, nacked := d.i3c.dynamic.isNone }
        ∧ e.pld = { d.pld with mgtRefused := true, mgtReason := 0x94 } ∧ e.bus = { value := 0, error := 0x94 }
        ∧ e = { d with i3c := e.i3c, pld := e.pld, bus := e.bus }))
    ∧ (i3cAnswers d = true → d.i3c.nackNext = false → regAddrOk d.i3c.offset = true → mbxGuarded d.i3c.offset = none →
      isPairLo d.i3c.offset = false → isPairHi d.i3c.offset = false →
      YieldsSome (exec (.i3cPrivateRead 1) s) s (fun e =>
        e.i3c = { d.i3c with nacked := false, reply := [BitVec.ofNat 32 (regValue s.nv d d.i3c.offset)], offset := (d.i3c.offset + 4) % 2 ^ 32 }
        ∧ (d.i3c.offset < 0xD00000 → e = { d with i3c := e.i3c, bus := { value := BitVec.ofNat 32 (regValue s.nv d d.i3c.offset), error := 0 } })))

/-- STR_LOAD, STR_VERIFY_DONE, STR_CHECK_DONE and STR_APPLY_DONE. -/
def Obligations.StructureLoadsPassTheirChecks : Prop :=
  ∀ (s : State), asleep s.dev = false →
    let d := s.dev
    let x := d.str
    let img := strImage d
    let refusedStr (r det : Nat) : Str := { x with state := .refused, loadBit := false, reason := BitVec.ofNat 8 r, detail := BitVec.ofNat 32 det, candidate := none }
    let secSays (r : Byte) : Sec := { d.sec with lastReason := r, refusals := sat16 d.sec.refusals }
    let m := meetSpan d x.range.1 x.range.2 0x1000000
    let span := spanOk m x.range.1 x.range.2 0x1000000
    HbmRead d m ∧
    (loading d = true → Yields (exec .strLoad s) s d)
    ∧ (loading d = false → quiescent d = true → Yields (exec .strLoad s) s { d with str := { x with state := .verifying, loadBit := true, range := (x.image.toNat, x.imageBytes.toNat) } })
    ∧ (loading d = false → quiescent d = false → Yields (exec .strLoad s) s { d with str := refusedStr 0x07 0 })
    ∧ (x.state = .verifying → (span = false ∨ verifyStruct s.nv.vendorHash s.nv.ownerHash img = false) →
      Yields (exec .strVerifyDone s) s { m with str := refusedStr 0x01 0, sec := secSays 0x01 })
    ∧ (x.state = .verifying → span = true → verifyStruct s.nv.vendorHash s.nv.ownerHash img = true →
      (rollbackOk s.nv.strCounter (fieldLe img 0x10 4) = false → Yields (exec .strVerifyDone s) s { m with str := refusedStr 0x0A 0, sec := secSays 0x0A })
      ∧ (rollbackOk s.nv.strCounter (fieldLe img 0x10 4) = true → Yields (exec .strVerifyDone s) s { m with str := { x with state := .checking, loadBit := false } }))
    ∧ (x.state ≠ .verifying → Yields (exec .strVerifyDone s) s d)
    ∧ (x.state ≠ .checking → Yields (exec .strCheckDone s) s d)
    ∧ (∀ r, x.state = .checking → checkStruct d img x.range.1 = .error r → Yields (exec .strCheckDone s) s { d with str := refusedStr r.1 r.2 })
    ∧ (x.state = .checking → checkStruct d img x.range.1 = .ok () →
      exec .strCheckDone s = .next { s with
        nv := { s.nv with strCounter := max s.nv.strCounter (min (fieldLe img 0x10 4) 64) },
        dev := { d with str := { x with state := .applying, candidate := some (parseStruct img) }, sys := { d.sys with state := .ready } } })
    ∧ (x.state ≠ .applying → Yields (exec .strApplyDone s) s d)
    ∧ (∀ st, x.state = .applying → x.candidate = some st → d.klz.cascade = [] → YieldsSome (exec .strApplyDone s) s (fun e =>
        e.str.state = .loaded ∧ e.str.inForce = some st ∧ e.str.candidate = none ∧ e.str.reason = 0 ∧ e.str.loadCount = sat16 x.loadCount
        ∧ e.str.protectFixed = true ∧ e.str.pinsafe = st.pinsafe ∧ e.sys = { d.sys with state := if d.sys.state = .ready then .structured else d.sys.state }
        ∧ e.sch = d.sch ∧ (tabWf {} d.cores = true → ∀ p, p < 144 → (e.core p).boundHit = (d.core p).boundHit ∧ (e.core p).boundHits = (d.core p).boundHits)
        ∧ (d.flt.fenced = 0 → e.str.rebinds = [] ∧ (anyAsked d = true → e.str.rebindDone = true ∧ e.str.rebindGo = false))
        ∧ e.clp.num = st.num ∧ e.clp.den = st.den
        ∧ (¬ (st.num = d.clp.num ∧ st.den = d.clp.den) → e.clp.locked = false)
        ∧ (d.flt.fenced = 0 → e.str.spare = st.spares ∧ ∀ l, l < 144 → e.phys l = ((st.bound.find? (fun q => q.2 == l)).map (·.1)).getD 0xFF)
        ∧ (∀ k, k < 12 → (e.stack k).threshold = BitVec.ofNat 16 st.threshold)
        ∧ (∀ j, j < 64 → (e.tslot j).held = [])
        ∧ (∀ a, a < sramBase → memGet e.mem a = memGet d.mem a)
        ∧ (st.preloads = [] → CellsKept d e [(sramBase, cmdBase - sramBase)] ∧ ∀ a, sramBase ≤ a → a < cmdBase → memGet e.mem a = 0)
        ∧ (∀ b, b < 16 → e.freeStack b = (poolFrames (tabGet {} st.basins b)).filter (fun f => !(d.trn.frames.any (fun q => q.1 == f && (q.2.pinned || q.2.state == .mapped)))))
        ∧ e.sec = { d.sec with history := sha384 (d.sec.history ++ st.hash) }))

/-- STR_REBIND, REBIND_COMPLETE and CORE_HW_FAULT. -/
def Obligations.FencedCoresAreRebound : Prop :=
  ∀ (s : State), asleep s.dev = false →
    let d := s.dev
    let idleBasin (b : Nat) : Prop := (d.basin b).holder = none ∧ (d.basin b).leaving = none ∧ (d.basin b).entering = none
      ∧ (∀ j, j < 64 → (d.job j).state = .idle ∧ (d.job j).turn = none ∧ (d.job j).waiting = none ∧ (d.job j).askReplay = false ∧ (d.job j).restart = false)
      ∧ d.sys.state ≠ .running
    let moved (old p : Nat) (e : Dev) : Prop :=
      e.core p = { d.core old with boundHit := (d.core p).boundHit, boundHits := (d.core p).boundHits, active := false, tm := [], pages := [] }
      ∧ e.core old = { boundHit := (d.core old).boundHit, boundHits := (d.core old).boundHits } ∧ (∀ k, k ≠ p → k ≠ old → e.core k = d.core k)
    (∀ l p : Byte,
      let sp := tabGet 0xFF d.str.spare p.toNat
      let legal := l.toNat < 144 ∧ (d.coreRec l.toNat).basin ≠ 0xFF ∧ d.phys l.toNat < 144 ∧ d.fenced (d.phys l.toNat) = true
        ∧ p.toNat < 144 ∧ d.fenced p.toNat = false ∧ d.logical p.toNat = 0xFF
        ∧ (sp = 0xFF ∨ sp = (d.coreRec l.toNat).basin)
      (legal → YieldsSome (exec (.strRebind l p) s) s (fun e =>
        e.phys l.toNat = p.toNat ∧ tabGet 0xFF e.str.spare p.toNat = 0xFF ∧ tabGet none e.str.rebinds l.toNat = some { target := p.toNat, asked := true }
        ∧ (∀ k, k ≠ l.toNat → e.phys k = d.phys k) ∧ (∀ k, k ≠ p.toNat → tabGet 0xFF e.str.spare k = tabGet 0xFF d.str.spare k)
        ∧ moved (d.phys l.toNat) p.toNat e
        ∧ e = { d with cores := e.cores, str := { d.str with rebindGo := true, rebindLog := l, rebindPhys := p, bind := e.str.bind, spare := e.str.spare, rebinds := e.str.rebinds } }))
      ∧ (¬ legal → Yields (exec (.strRebind l p) s) s { d with str := { d.str with
          rebindLog := l, rebindPhys := p, rebindRefused := true, rebindReason := 0x04, rebindGo := false } }))
    ∧ (∀ l, l < 144 → tabGet none d.str.rebinds l = none → Yields (exec (.rebindComplete l) s) s d)
    ∧ (∀ l r, l < 144 → tabGet none d.str.rebinds l = some r → idleBasin (d.coreRec l).basin → preloadsOf d l = [] → r.target < 144 → d.phys l = r.target →
      YieldsSome (exec (.rebindComplete l) s) s (fun e =>
        tabGet none e.str.rebinds l = none ∧ (r.asked = true → e.str.rebindDone = true ∧ e.str.rebindGo = false) ∧ (r.asked = false → e.str.rebindDone = d.str.rebindDone)
        ∧ CellsKept d e [(sramCell r.target 0, 0x3800000)] ∧ (∀ i, i < 0x3800000 → memGet e.mem (sramCell r.target i) = 0)
        ∧ e = { d with mem := e.mem, poison := e.poison, upsets := e.upsets, str := { d.str with rebinds := e.str.rebinds, rebindDone := e.str.rebindDone, rebindGo := e.str.rebindGo } }))
    ∧ (∀ core f unit, core < 144 → d.fenced core = true → Yields (exec (.coreHwFault core f unit) s) s d)
    ∧ (∀ core f unit, core < 144 → d.fenced core = false → (d.flt.logWritten - d.flt.logConsumed).toNat < 64 → d.str.state ≠ .applying →
      let fenced (e : Dev) : Prop := e.flt = { d.flt with
        fenced := d.flt.fenced ||| (1#144 <<< core), fenceSeen := true, coreFences := sat16 d.flt.coreFences, logWritten := d.flt.logWritten + 1,
        log := tabSet {} d.flt.log (d.flt.logWritten.toNat % 64) { clp := d.clp.now, detail := BitVec.ofNat 32 (d.logical core * 0x200000 + unit.toNat), info :=
            { valid := true, cls := 2, reason := coreFaultCode f, core := BitVec.ofNat 8 core, slot := BitVec.ofNat 8 ((d.core core).slot.getD 0xFF) } } }
      (d.logical core = 0xFF → YieldsSome (exec (.coreHwFault core f unit) s) s (fun e => fenced e ∧ e = { d with flt := e.flt }))
      ∧ (∀ l p, d.logical core = l → l ≠ 0xFF → d.phys l = core → chooseSpare { d with flt := { d.flt with fenced := d.flt.fenced ||| (1#144 <<< core) } } l = some p → p ≠ core →
        idleBasin (d.coreRec l).basin → YieldsSome (exec (.coreHwFault core f unit) s) s (fun e =>
          fenced e ∧ e.phys l = p ∧ tabGet none e.str.rebinds l = some { target := p, asked := rebindAsked d l } ∧ tabGet 0xFF e.str.spare p = 0xFF
          ∧ moved core p e
          ∧ e = { d with flt := e.flt, cores := e.cores, str := { d.str with bind := e.str.bind, spare := e.str.spare, rebinds := e.str.rebinds } }))
      ∧ (∀ l j, d.logical core = l → l ≠ 0xFF → chooseSpare { d with flt := { d.flt with fenced := d.flt.fenced ||| (1#144 <<< core) } } l = none →
        (d.basin (d.coreRec l).basin).holder = some j → d.flt.stopActive = false → (d.job j).turn = none →
        YieldsSome (exec (.coreHwFault core f unit) s) s (fun e => fenced e ∧ e.job j = { d.job j with state := .waitBind } ∧ (∀ k, k ≠ j → e.job k = d.job k)
          ∧ (e.basin (d.coreRec l).basin).holder = none ∧ e.trn = d.trn
          ∧ e.str = { d.str with rebinds := e.str.rebinds, rebindGo := d.str.rebindGo && !rebindAsked d l } ∧ tabGet none e.str.rebinds l = none
          ∧ (∀ k ∈ heldCores d j, (e.core (d.phys k)).active = false) ∧ (e.core (d.phys l)).active = false ∧ e.mem = d.mem))
      ∧ (∀ l j t, d.logical core = l → l ≠ 0xFF → chooseSpare { d with flt := { d.flt with fenced := d.flt.fenced ||| (1#144 <<< core) } } l = none →
        (d.basin (d.coreRec l).basin).holder = some j → d.flt.stopActive = false → (d.job j).turn = some t →
        YieldsSome (exec (.coreHwFault core f unit) s) s (fun e => fenced e ∧ (e.job j).state = .waitBind ∧ (e.basin (d.coreRec l).basin).holder = none
          ∧ ((d.tslot j).phase = .staged ∨ (d.tslot j).phase = .decided ∨ (d.tslot j).phase = .folding → e.job j = { d.job j with state := .waitBind } ∧ e.tslot j = d.tslot j)
          ∧ ((d.tslot j).phase = .running ∨ (d.tslot j).phase = .ending → (d.tslot j).aborting = none →
              ((d.tslot j).domain = true → e.job j = { d.job j with state := .waitBind, askReplay := true } ∧ e.tslot j = d.tslot j)
              ∧ ((d.tslot j).domain = false → (e.job j).restart = true ∧ (e.job j).turn = some { t with replayed := true, arrived := none, plain := [] }
                  ∧ (e.tslot j).phase = .running ∧ (e.tslot j).moves = [] ∧ (e.tslot j).shadows = [] ∧ (e.tslot j).replays = sat16 (d.tslot j).replays)))))
    ∧ (∀ core f unit l, core < 144 → d.fenced core = false → d.str.state = .applying → d.logical core = l → l ≠ 0xFF → d.phys l = core →
      YieldsSome (exec (.coreHwFault core f unit) s) s (fun e => e.str = d.str ∧ e.flt.fenced = d.flt.fenced ||| (1#144 <<< core)
        ∧ e.flt.coreFences = sat16 d.flt.coreFences ∧ CoreStep { d with flt := e.flt } core { d.core core with active := false } e))

/-- TRN_FLUSH, TRN_FLUSH_DONE, COMMIT_STAGE_DONE, COMMIT_FLIP and COMMIT_FOLD_DONE. -/
def Obligations.TurnsStageFlipAndFold : Prop :=
  ∀ (s : State) (slot : Nat), asleep s.dev = false → slot < 64 →
    let d := s.dev
    let ts := d.tslot slot
    let entries (e : Dev) : Prop := ∀ a, memGet e.mem a = memGet d.mem a
      ∨ ∃ m ∈ ts.moves, ∃ o, a = hbmCell d o ∧ m.leaf ≤ o ∧ o < m.leaf + 16
    let others (e : Dev) : Prop := (∀ k, k ≠ slot → e.tslot k = d.tslot k) ∧ (∀ k, k ≠ slot → e.job k = d.job k)
    ((d.job slot).turn.isSome = true → Yields (exec (.trnFlush slot) s) s { d with trn := { d.trn with flushIgnored := true } })
    ∧ ((d.job slot).turn = none → Yields (exec (.trnFlush slot) s) s (d.setTslot slot { ts with flush := true }))
    ∧ Yields (exec (.trnFlushDone slot) s) s (d.setTslot slot { ts with flush := false })
    ∧ (ts.phase = .ending → turnDrained d slot = true → turnHeld d slot = false → d.flt.stopActive = false → ts.domain = false →
      YieldsSome (exec (.commitStageDone slot) s) s (fun e => e.tslot slot = { ts with phase := .staged } ∧ others e ∧ entries e
        ∧ (∀ m, ts.moves = [m] → e.mem = (d.hbmWrite m.leaf (stageEntry (d.hbmRead m.leaf 16) (ts.epoch + 1) m.new)).mem)
        ∧ e = { d with trn := { d.trn with slots := e.trn.slots }, mem := e.mem, poison := e.poison, upsets := e.upsets }))
    ∧ ((ts.phase ≠ .ending ∨ turnDrained d slot = false ∨ turnHeld d slot = true ∨ d.flt.stopActive = true) → Yields (exec (.commitStageDone slot) s) s d)
    ∧ (∀ t, (d.job slot).turn = some t →
      let dur := BitVec.ofNat 32 (min (d.clp.elapsed - t.admitElapsed) 0xFFFFFFFF)
      let flipped (e : Dev) : Prop :=
        e.tslot slot = { ts with epoch := ts.epoch + 1, phase := .folding, lastSlot := d.clp.now, lastCommitted := t.card.turn, lastDuration := dur, lastClass := t.far, late := false }
        ∧ e.job slot = { d.job slot with turn := some { t with slotLate := false }, turnLate := (d.job slot).turnLate || (!(t.card.deadline == 0) && decide (t.card.deadline < d.clp.now)) }
        ∧ others e ∧ e = { d with trn := { d.trn with slots := e.trn.slots }, jobs := e.jobs, cnt := e.cnt }
      (ts.phase = .staged → ts.domain = false → d.flt.stopActive = false → d.clp.now.toNat % 4096 = 0 →
        YieldsSome (exec (.commitFlip slot) s) s flipped)
      ∧ (∀ sl, ts.phase = .decided → ts.decided = some sl → sl ≤ d.clp.now → YieldsSome (exec (.commitFlip slot) s) s flipped)
      ∧ (∀ sl, ts.phase = .decided → ts.decided = some sl → d.clp.now < sl → Yields (exec (.commitFlip slot) s) s d))
    ∧ (ts.phase = .staged → (ts.domain = true ∨ d.clp.now.toNat % 4096 ≠ 0) → Yields (exec (.commitFlip slot) s) s d)
    ∧ (∀ t, (d.job slot).turn = some t → ts.phase = .folding → d.trn.foldPending = false → d.flt.stopActive = true →
      d.cod.pics = [] → ts.moves = [] → ts.stock = [] → ts.shadows = [] → (∀ k, k < 32 → (d.stream k).state ≠ .closing) →
      let late := !(t.card.deadline == 0) && decide (t.card.deadline < ts.lastSlot)
      let j := d.job slot
      YieldsSome (exec (.commitFoldDone slot) s) s (fun e =>
        e.tslot slot = { ts with phase := .none, moves := [], stock := [], shadows := [], reserved := 0, replaying := false, domain := false, decided := none, late := false }
        ∧ e.job slot = { j with turn := none, restart := false, askReplay := false, cplWritten := j.cplWritten + 1 } ∧ others e
        ∧ e.mem = (d.hbmWrite (j.cplRing.toNat + 32 * (j.cplWritten.toNat % 2 ^ j.cplLog2.toNat))
            (recordBytes t.card.turn ts.lastSlot ts.lastDuration t.card.user .committed 0 (turnFlags t late) t.weirMax (j.cplWritten + 1))).mem))
    ∧ (∀ t, (d.job slot).turn = some t → ts.phase = .folding → d.trn.foldPending = false →
      YieldsSome (exec (.commitFoldDone slot) s) s (fun e => (e.tslot slot).phase = .none ∧ (e.tslot slot).moves = [] ∧ (e.tslot slot).reserved = 0
        ∧ (e.tslot slot).epoch = ts.epoch ∧ (e.tslot slot).lastCommitted = ts.lastCommitted ∧ (e.job slot).turn = none ∧ (e.job slot).cplWritten = (d.job slot).cplWritten + 1))
    ∧ ((ts.phase ≠ .folding ∨ d.trn.foldPending = true) → Yields (exec (.commitFoldDone slot) s) s d)

/-- KFENCE_TIMEOUT, SELF_ABORT_TIMEOUT and the six FENCE packets. -/
def Obligations.DomainGroupsDecideTogether : Prop :=
  ∀ (s : State), asleep s.dev = false →
    let d := s.dev
    let Comes (port : Nat) (p : Packet) (g kind : Nat) : Prop :=
      Reaches d port p ∧ p.type = tyFence ∧ p.slotGroup.toNat = g ∧ g < 16 ∧ serves d g = true ∧ fieldLe p.payload 0 1 = kind
    let Rest (e : Dev) : Prop := e.mem = d.mem ∧ e.cores = d.cores ∧ e.str = d.str ∧ e.sch = d.sch
    let waited : Nat := max 0x1000 d.trn.kfenceTimeout.toNat
    (∀ port p g, Comes port p g 1 → fromChild (d.grp g) port = true → (parseFence p.payload).turn = grpTurn d g →
      (d.grp g).turn = grpTurn d g → (d.grp g).barrier = .waiting → (d.grp g).own = false →
      YieldsSome (exec (.fenceArriveReceive port p) s) s (fun e =>
        e.grp g = { d.grp g with arrived := (d.grp g).arrived ||| (1#16 <<< port), absent := (d.grp g).absent &&& ~~~(1#16 <<< port), first := some ((d.grp g).first.getD d.clp.elapsed) }
        ∧ (∀ k, k ≠ g → e.grp k = d.grp k) ∧ e = { received d p with klz := { d.klz with groups := e.klz.groups } }))
    ∧ (∀ port p g, Comes port p g 1 → fromChild (d.grp g) port = true → (parseFence p.payload).turn = grpTurn d g →
      (d.grp g).turn = grpTurn d g → (d.grp g).barrier = .waiting → (d.grp g).own = true → (d.grp g).root = true →
      (((d.grp g).arrived ||| (1#16 <<< port)) &&& (d.grp g).children) = (d.grp g).children →
      (d.tslot (d.grp g).slot).phase = .staged → (∀ u, (d.job (d.grp g).slot).turn = some u → u.card.turn = grpTurn d g) → (d.job (d.grp g).slot).turn.isSome = true → d.clp.now ≤ chooseSlot d →
      YieldsSome (exec (.fenceArriveReceive port p) s) s (fun e =>
        (e.grp g).barrier = .decided ∧ (e.grp g).turn = grpTurn d g
        ∧ e.tslot (d.grp g).slot = { d.tslot (d.grp g).slot with phase := .decided, decided := some (chooseSlot d) } ∧ Rest e ∧ e.jobs = d.jobs))
    ∧ (∀ port p g, Comes port p g 2 → fromParent (d.grp g) port = true → (d.grp g).children = 0 → (d.tslot (d.grp g).slot).phase = .staged →
      let m := parseFence p.payload
      (∀ u, (d.job (d.grp g).slot).turn = some u → u.card.turn = m.turn) → (d.job (d.grp g).slot).turn.isSome = true →
      (d.clp.now ≤ m.slot → YieldsSome (exec (.fenceDecideReceive port p) s) s (fun e =>
        e.grp g = { d.grp g with barrier := .decided, turn := m.turn }
        ∧ e.tslot (d.grp g).slot = { d.tslot (d.grp g).slot with phase := .decided, decided := some m.slot } ∧ Rest e ∧ e.jobs = d.jobs))
      ∧ (m.slot < d.clp.now → YieldsSome (exec (.fenceDecideReceive port p) s) s (fun e =>
        (e.tslot (d.grp g).slot).phase = .folding ∧ (e.tslot (d.grp g).slot).lastSlot = d.clp.now ∧ (e.tslot (d.grp g).slot).late = true
        ∧ e.trn.slotLate = true ∧ e.trn.slotLateCount = sat16 d.trn.slotLateCount ∧ Rest e)))
    ∧ (∀ port p g, Comes port p g 3 → fromParent (d.grp g) port = true → d.klz.cascade = [] →
      let m := parseFence p.payload
      let slot := (d.grp g).slot
      let aborted : Grp := { d.grp g with barrier := .aborted, abortReason := m.reason, turn := m.turn, arrived := 0, own := false, first := none }
      ((∀ u, (d.job slot).turn = some u → u.card.turn ≠ m.turn) → YieldsSome (exec (.fenceAbortReceive port p) s) s (fun e => e.grp g = aborted ∧ Rest e ∧ e.jobs = d.jobs ∧ e.trn = d.trn))
      ∧ (∀ u, (d.job slot).turn = some u → u.card.turn = m.turn → ((d.tslot slot).phase = .running ∨ (d.tslot slot).phase = .ending) → tmDrained d slot = false →
        YieldsSome (exec (.fenceAbortReceive port p) s) s (fun e =>
          e.grp g = aborted ∧ e.tslot slot = { d.tslot slot with aborting := some m.reason } ∧ e.jobs = d.jobs
          ∧ (∀ l ∈ heldCores d slot, (e.core (d.phys l)).active = false)))
      ∧ (∀ u, (d.job slot).turn = some u → u.card.turn = m.turn →
        ((((d.tslot slot).phase = .running ∨ (d.tslot slot).phase = .ending) ∧ tmDrained d slot = true) ∨ (d.tslot slot).phase = .staged) →
        YieldsSome (exec (.fenceAbortReceive port p) s) s (fun e =>
          e.grp g = aborted ∧ (e.job slot).turn = none ∧ (e.tslot slot).phase = .none ∧ (e.tslot slot).moves = [] ∧ (e.tslot slot).abortReason = m.reason
          ∧ (e.tslot slot).aborts = sat16 (d.tslot slot).aborts ∧ (e.job slot).cplWritten = (d.job slot).cplWritten + 1
          ∧ e.flt.abortSeen = true ∧ e.flt.domainAborts = sat16 d.flt.domainAborts)))
    ∧ (∀ port p g, Comes port p g 4 → fromParent (d.grp g) port = true → (d.job (d.grp g).slot).turn = none → (d.grp g).turn = (parseFence p.payload).turn →
      (d.grp g).barrier ≠ .decided → YieldsSome (exec (.fenceReplayReceive port p) s) s (fun e =>
        e.grp g = { d.grp g with barrier := .idle, arrived := 0, own := false, first := none } ∧ Rest e ∧ e.jobs = d.jobs ∧ e.trn = d.trn))
    ∧ (∀ port p g, Comes port p g 5 → fromChild (d.grp g) port = true → (d.grp g).root = true → (parseFence p.payload).turn = grpTurn d g → grpDecided d g = false →
      (d.job (d.grp g).slot).turn = none → YieldsSome (exec (.fenceStopReceive port p) s) s (fun e =>
        e.grp g = { d.grp g with barrier := .aborted, abortReason := if (d.grp g).absent = 0 then 0x61 else 0x60, turn := grpTurn d g, arrived := 0, own := false, first := none }
        ∧ Rest e ∧ e.jobs = d.jobs ∧ e.trn = d.trn))
    ∧ (∀ port p g, Comes port p g 6 → fromChild (d.grp g) port = true →
      ((d.grp g).root = true → YieldsSome (exec (.fenceAbsentReceive port p) s) s (fun e => e.grp g = { d.grp g with absent := (d.grp g).absent ||| (1#16 <<< port) } ∧ (∀ k, k ≠ g → e.grp k = d.grp k)
        ∧ e = { received d p with klz := { d.klz with groups := e.klz.groups } }))
      ∧ ((d.grp g).root = false → (d.port (d.grp g).parent).state = .active → YieldsSome (exec (.fenceAbsentReceive port p) s) s (fun e =>
        let m := parseFence p.payload
        e = emit (received d p) (d.grp g).parent { newPacket d tyFence (d.port (d.grp g).parent).neighbour.toNat (fencePayload .absent m.reason m.origin m.turn 0) with slotGroup := BitVec.ofNat 8 g })))
    ∧ (∀ g t, g < 16 → serves d g = true → (d.grp g).root = true → (d.grp g).barrier = .waiting → (d.grp g).first = some t →
      let slot := (d.grp g).slot
      let r : Byte := if (d.grp g).absent = 0 then 0x61 else 0x60
      let aborted : Grp := { d.grp g with barrier := .aborted, abortReason := r, turn := grpTurn d g, arrived := 0, own := false, first := none }
      (d.clp.elapsed < t + waited → Yields (exec (.kfenceTimeout g) s) s d)
      ∧ (t + waited ≤ d.clp.elapsed → (d.job slot).turn = none → YieldsSome (exec (.kfenceTimeout g) s) s (fun e => e.grp g = aborted ∧ Rest e ∧ e.jobs = d.jobs ∧ e.trn = d.trn))
      ∧ (t + waited ≤ d.clp.elapsed → (d.job slot).turn.isSome = true → (d.tslot slot).phase = .staged → YieldsSome (exec (.kfenceTimeout g) s) s (fun e =>
          e.grp g = aborted ∧ (e.job slot).turn = none ∧ (e.tslot slot).phase = .none ∧ (e.tslot slot).moves = [] ∧ (e.tslot slot).abortReason = r
          ∧ (e.tslot slot).aborts = sat16 (d.tslot slot).aborts ∧ (e.job slot).cplWritten = (d.job slot).cplWritten + 1
          ∧ e.flt.abortSeen = true ∧ e.flt.domainAborts = sat16 d.flt.domainAborts)))
    ∧ (∀ g, g < 16 → ((d.grp g).first = none ∨ serves d g = false ∨ (d.grp g).root = false ∨ (d.grp g).barrier ≠ .waiting) → Yields (exec (.kfenceTimeout g) s) s d)
    ∧ (∀ slot u t, slot < 64 → (d.job slot).turn = some u → u.arrived = some t → (d.tslot slot).phase = .staged → (d.tslot slot).domain = true →
      let gone (r : Byte) (e : Dev) : Prop := e.trn.selfAbort = true ∧ (e.job slot).turn = none ∧ (e.tslot slot).phase = .none
        ∧ (e.tslot slot).moves = [] ∧ (e.tslot slot).abortReason = r ∧ (e.tslot slot).aborts = sat16 (d.tslot slot).aborts
        ∧ (e.job slot).cplWritten = (d.job slot).cplWritten + 1 ∧ e.flt.abortSeen = true ∧ e.flt.domainAborts = sat16 d.flt.domainAborts
      (d.clp.elapsed < t + 2 * waited → Yields (exec (.selfAbortTimeout slot) s) s d)
      ∧ (t + 2 * waited ≤ d.clp.elapsed → groupOf d slot = none →
        YieldsSome (exec (.selfAbortTimeout slot) s) s (fun e => gone 0x61 e ∧ e.klz.groups = d.klz.groups))
      ∧ (∀ g, t + 2 * waited ≤ d.clp.elapsed → groupOf d slot = some g →
        let r : Byte := if (d.grp g).absentSeen then 0x60 else 0x61
        YieldsSome (exec (.selfAbortTimeout slot) s) s (fun e => gone r e
          ∧ e.grp g = { d.grp g with barrier := .aborted, abortReason := r, arrived := 0, own := false, first := none })))
    ∧ (∀ slot, slot < 64 → ((d.tslot slot).phase ≠ .staged ∨ (d.tslot slot).domain = false) → Yields (exec (.selfAbortTimeout slot) s) s d)
    ∧ (∀ slot, slot < 64 → (d.job slot).turn = none → Yields (exec (.selfAbortTimeout slot) s) s d)

/-- JOB_ENABLE, JOB_DISABLE, JOB_ABANDON, JOB_ABANDON_DONE, JOB_RESUME, JOB_PREEMPT_REQ and JOB_DOORBELL. -/
def Obligations.JobSlotsFollowTheirControl : Prop :=
  ∀ (s : State) (slot : Nat), asleep s.dev = false → slot < 64 →
    let d := s.dev
    let j := d.job slot
    let b := basinOf slot
    let JobOnly (i : Instr) (y : Job) : Prop := YieldsSome (exec i s) s (fun e => e.job slot = y ∧ (∀ k, k ≠ slot → e.job k = d.job k) ∧ e = { d with jobs := e.jobs })
    let idled (e : Dev) : Prop :=
      e.job slot = { j with state := .idle, enable := false, abandon := false, preemptReq := false, parked := false, cardsHeld := false, image := none, guarded := none, waiting := none, turn := none, started := false, restart := false, askReplay := false, blank := false }
      ∧ (e.tslot slot).root = 0 ∧ (e.tslot slot).held = [] ∧ (e.basin b).holder ≠ some slot ∧ (e.basin b).leaving ≠ some slot
    let leaves (e : Dev) (preempts : BitVec 16) : Prop :=
      (e.basin b).holder = none ∧ (e.basin b).leaving = some slot ∧ (e.basin b).grace = true ∧ (e.basin b).stepStart = d.clp.elapsed ∧ (e.basin b).preempts = preempts
      ∧ (e.job slot).state = .preempting ∧ (∀ t, j.turn = some t → (e.job slot).turn = some { t with preempted := t.preempted || !((d.tslot slot).phase == .folding) }) ∧ (∀ k, k ≠ slot → e.job k = d.job k)
      ∧ (∀ l ∈ heldCores d slot, ownsSharedCore d b l = false → (∀ m ∈ jobCores d slot, m ≠ l → d.phys m ≠ d.phys l) → (e.core (d.phys l)).active = false) ∧ e.mem = d.mem
    let base := j.prog.toNat
    let n := if hbmOk d base && decide (base % 2 ^ 40 + 12 ≤ hbmEnd d) then d.hbmNat (base + 8) 4 else 0
    let checking : Job := { j with state := .checking, enable := true, guarded := some (base, n), doorbell := 0, ringDue := loading d, image := none }
    (j.state ≠ .idle → Yields (exec (.jobEnable slot) s) s d)
    ∧ (j.state = .idle → (loading d = true ∨ ringFault d slot = none) → YieldsSome (exec (.jobEnable slot) s) s (fun e =>
        e.job slot = checking ∧ (∀ k, k ≠ slot → e.job k = d.job k) ∧ e = { d with jobs := e.jobs, sch := { d.sch with checks := d.sch.checks ++ [slot] } }))
    ∧ (∀ det, j.state = .idle → loading d = false → ringFault d slot = some det → YieldsSome (exec (.jobEnable slot) s) s (fun e =>
        (e.job slot).state = .refused ∧ (e.job slot).reason = 0x50 ∧ (e.job slot).detail = BitVec.ofNat 32 det ∧ (e.job slot).enable = true
        ∧ (∀ k, k ≠ slot → e.job k = d.job k) ∧ e = { d with jobs := e.jobs, sch := { d.sch with checks := e.sch.checks } }))
    ∧ (j.state = .refused → JobOnly (.jobDisable slot) { j with state := .idle, enable := false, guarded := none, image := none })
    ∧ ((j.state = .admitted ∨ j.state = .saved) → j.turn = none → j.waiting = none → YieldsSome (exec (.jobDisable slot) s) s idled)
    ∧ ((j.state = .admitted ∨ j.state = .saved) → j.turn.isSome = true → Yields (exec (.jobDisable slot) s) s d)
    ∧ ((j.state = .idle ∨ j.state = .running ∨ j.state = .checking) → Yields (exec (.jobDisable slot) s) s d)
    ∧ (isActive j.state = true → j.state ≠ .lost → d.flt.stopActive = false → (d.basin b).holder ≠ some slot → JobOnly (.jobAbandon slot) { j with abandon := true })
    ∧ (isActive j.state = true → j.state ≠ .lost → d.flt.stopActive = false → (d.basin b).holder = some slot →
      YieldsSome (exec (.jobAbandon slot) s) s (fun e => (e.job slot).abandon = true ∧ leaves e (d.basin b).preempts))
    ∧ ((isActive j.state = false ∨ d.flt.stopActive = true) → Yields (exec (.jobAbandon slot) s) s d)
    ∧ (j.abandon = true → d.flt.stopActive = false → (d.basin b).leaving ≠ some slot → (d.tslot slot).phase ≠ .decided → (d.tslot slot).phase ≠ .folding → tmDrained d slot = true → j.turn = none → j.waiting = none →
      YieldsSome (exec (.jobAbandonDone slot) s) s idled)
    ∧ (∀ t, j.abandon = true → d.flt.stopActive = false → (d.basin b).leaving ≠ some slot → (d.tslot slot).phase ≠ .decided → (d.tslot slot).phase ≠ .folding → tmDrained d slot = true → j.turn = some t →
      YieldsSome (exec (.jobAbandonDone slot) s) s (fun e => (e.job slot).state = .idle ∧ (e.job slot).turn = none ∧ (e.job slot).cplWritten = j.cplWritten + 1
        ∧ (e.tslot slot).phase = .none ∧ (e.tslot slot).abortReason = 0 ∧ (e.tslot slot).lastCommitted = (d.tslot slot).lastCommitted))
    ∧ ((j.abandon = false ∨ tmDrained d slot = false) → Yields (exec (.jobAbandonDone slot) s) s d)
    ∧ (j.waiting = none → YieldsSome (exec (.jobResume slot) s) s (fun e => (e.job slot).parked = false ∧ (e.job slot).cardsHeld = false
        ∧ (e.job slot).cardsTaken = j.cardsTaken ∧ e.mem = d.mem ∧ e.trn = d.trn))
    ∧ ((j.state = .admitted ∨ j.state = .saved ∨ j.state = .waitBind) → JobOnly (.jobPreemptReq slot) { j with parked := true, preemptReq := false })
    ∧ (j.state = .running → (d.basin b).holder ≠ some slot → JobOnly (.jobPreemptReq slot) { j with parked := true, preemptReq := false })
    ∧ (j.state = .preempting → JobOnly (.jobPreemptReq slot) { j with preemptReq := true })
    ∧ (j.state = .running → (d.basin b).holder = some slot → YieldsSome (exec (.jobPreemptReq slot) s) s (fun e =>
        leaves e (sat16 (d.basin b).preempts) ∧ (e.job slot).preemptReq = true))
    ∧ ((j.state = .idle ∨ j.state = .checking ∨ j.state = .refused ∨ j.state = .lost) → Yields (exec (.jobPreemptReq slot) s) s d)
    ∧ (∀ v, 2 ^ j.cardLog2.toNat < (v - j.cardsTaken).toNat → JobOnly (.jobDoorbell slot v) { j with doorbellIgnored := true })
    ∧ (∀ v, (v - j.cardsTaken).toNat ≤ 2 ^ j.cardLog2.toNat → YieldsSome (exec (.jobDoorbell slot v) s) s (fun e =>
        (e.job slot).doorbell = v ∧ (e.job slot).doorbellIgnored = j.doorbellIgnored ∧ e.mem = d.mem ∧ e.trn = d.trn))

/-- JOB_CHECK_DONE: the oldest check ends. -/
def Obligations.ProgramChecksEndInOrder : Prop :=
  ∀ (s : State) (slot : Nat), asleep s.dev = false → slot < 64 →
    let d := s.dev
    let j := d.job slot
    let due := (checkOrder d).head? = some slot ∧ loading d = false ∧ d.flt.stopActive = false
    let refusedBy (r det : Nat) (d0 e : Dev) : Prop :=
      e.job slot = { j with state := .refused, reason := BitVec.ofNat 8 r, detail := BitVec.ofNat 32 det, ringDue := false } ∧ (∀ k, k ≠ slot → e.job k = d.job k)
      ∧ e = { d0 with jobs := e.jobs, sch := { d.sch with checks := d.sch.checks.filter (fun k => !(k == slot)) } }
    let m := meetProg d j.prog.toNat
    let insecure (r : Byte) : Dev := { m with sec := { d.sec with lastReason := r, refusals := sat16 d.sec.refusals } }
    HbmRead d m ∧
    (¬ due → Yields (exec (.jobCheckDone slot) s) s d)
    ∧ (∀ det, due → j.ringDue = true → ringFault d slot = some det → YieldsSome (exec (.jobCheckDone slot) s) s (refusedBy 0x50 det d))
    ∧ (due → (j.ringDue = false ∨ ringFault d slot = none) → progSpan m j.prog.toNat = none → YieldsSome (exec (.jobCheckDone slot) s) s (refusedBy 0x20 0 (insecure 0x20)))
    ∧ (∀ img, due → (j.ringDue = false ∨ ringFault d slot = none) → progSpan m j.prog.toNat = some img →
      let c : Check := { d := m, slot := slot, img := img }
      let v := fieldLe img 0x10 4
      (verifyStruct s.nv.vendorHash s.nv.ownerHash img = false → YieldsSome (exec (.jobCheckDone slot) s) s (refusedBy 0x20 0 (insecure 0x20)))
      ∧ (verifyStruct s.nv.vendorHash s.nv.ownerHash img = true → rollbackOk s.nv.prgCounter v = false → YieldsSome (exec (.jobCheckDone slot) s) s (refusedBy 0x2F 0 (insecure 0x2F)))
      ∧ (∀ r, verifyStruct s.nv.vendorHash s.nv.ownerHash img = true → rollbackOk s.nv.prgCounter v = true → checkProg c = .error r →
        YieldsSome (exec (.jobCheckDone slot) s) s (refusedBy r.1 r.2 m))
      ∧ (verifyStruct s.nv.vendorHash s.nv.ownerHash img = true → rollbackOk s.nv.prgCounter v = true → checkProg c = .ok () →
        ∃ e, exec (.jobCheckDone slot) s = .next { s with nv := { s.nv with prgCounter := max s.nv.prgCounter (min v 64) }, dev := e }
          ∧ (e.job slot).image = some (parseProg c) ∧ (e.job slot).cardsTaken = 0 ∧ (e.job slot).cplWritten = 0
          ∧ (e.job slot).saveUnits = ((parseProg c).cores.map (fun q => 16 + q.2.scrUnits + q.2.accUnits + q.2.exchUnits)).sum
          ∧ e.tslot slot = { d.tslot slot with lastCommitted := j.firstTurn - 1, epoch := 0, root := (parseProg c).root }
          ∧ slot ∉ e.sch.checks ∧ e.mem = d.mem
          ∧ (j.doorbell = 0 → j.turn = none → j.waiting = none → (d.basin (basinOf slot)).holder ≠ some slot → (e.job slot).state = .admitted)))

/-- CARD_TAKE and NOT_BEFORE_REACHED. -/
def Obligations.CardsAreTakenCheckedAndAdmitted : Prop :=
  ∀ (s : State) (slot : Nat), asleep s.dev = false → slot < 64 →
    let d := s.dev
    let j := d.job slot
    let b := basinOf slot
    let c := nextCard d slot
    let clean := d.hbmPoisoned (cardOffset j j.cardsTaken) 64 = false
    let recordAt (e : Dev) (c : Card) (r : Byte) : Prop :=
      e.mem = (d.hbmWrite (j.cplRing.toNat + 32 * (j.cplWritten.toNat % 2 ^ j.cplLog2.toNat)) (recordBytes c.turn 0 0 c.user .refused r 0 0 (j.cplWritten + 1))).mem
    let refusedBy (c : Card) (r : Byte) (taken idx : Word) (e : Dev) : Prop :=
      (e.job slot).reason = r ∧ (e.job slot).detail = idx ∧ (e.job slot).cardsHeld = true ∧ (e.job slot).cardsTaken = taken
      ∧ (e.job slot).cplWritten = j.cplWritten + 1 ∧ (e.job slot).turn = none ∧ recordAt e c r
    let opens (c : Card) (k : TurnKind) (taken : Word) (e : Dev) : Prop :=
      let ts := d.tslot slot
      let far := d.far b
      let wcet := if far then k.wcetFar else k.wcetNear
      let late := !(c.deadline == 0) && decide (c.deadline.toNat < d.clp.now.toNat + wcet)
      let t : Turn := { card := c, admitClp := d.clp.now, admitElapsed := d.clp.elapsed, wcet := wcet, far := far, weirMax := weirNow d, predictedLate := late }
      e.tslot slot = { ts with held := [], stock := ts.stock ++ (sortNat ts.held ++ d.freeStack b).take k.moves, reserved := ts.reserved + k.moves,
                               phase := .running, domain := k.domain, replaying := false, moves := [], shadows := [], decided := none, aborting := none }
      ∧ e.freeStack b = (sortNat ts.held ++ d.freeStack b).drop k.moves
      ∧ e.job slot = { j with cardsTaken := taken, waiting := none, started := true, lastWcet := BitVec.ofNat 32 wcet, turn := some t }
      ∧ (∀ l ∈ jobCores d slot, (e.core (d.phys l)).slot = some slot ∧ (e.core (d.phys l)).active = true ∧ (e.core (d.phys l)).tm = [] ∧ (e.core (d.phys l)).ctx.pc = 0)
      ∧ (∀ k, k ≠ slot → e.job k = d.job k) ∧ e.mem = d.mem
    let admissible (c : Card) (k : TurnKind) : Prop :=
      turnKind d slot c = some k ∧ (c.flags.toNat % 2 = 1 → d.clp.locked = true) ∧ k.moves ≤ (d.tslot slot).held.length + (d.freeStack b).length ∧ k.moves ≤ 16384
      ∧ (∀ p, j.image = some p → p.kv = none) ∧ c.seqCount = 0 ∧ (∀ t, basinOf t = b → t ≠ slot → (d.job t).live = false)
    ((holds d slot = false ∨ mayTake j = false) → Yields (exec (.cardTake slot) s) s d)
    ∧ (holds d slot = true → mayTake j = true → d.hbmPoisoned (cardOffset j j.cardsTaken) 64 = true →
      YieldsSome (exec (.cardTake slot) s) s (fun e => (e.job slot).reason = 0xA3 ∧ e.flt.stopActive = true ∧ (e.job slot).cardsTaken = j.cardsTaken))
    ∧ (holds d slot = true → mayTake j = true → clean → (c.reserved = true ∨ turnKind d slot c = none) →
      YieldsSome (exec (.cardTake slot) s) s (refusedBy c 0x52 (j.cardsTaken + 1) j.cardsTaken))
    ∧ (holds d slot = true → mayTake j = true → clean → c.reserved = false → (turnKind d slot c).isSome = true →
      (c.turn = 0xFFFFFFFFFFFFFFFF → YieldsSome (exec (.cardTake slot) s) s (refusedBy c 0x44 (j.cardsTaken + 1) j.cardsTaken))
      ∧ (c.turn ≠ 0xFFFFFFFFFFFFFFFF → c.turn ≠ (d.tslot slot).lastCommitted + 1 → YieldsSome (exec (.cardTake slot) s) s (refusedBy c 0x51 (j.cardsTaken + 1) j.cardsTaken))
      ∧ (c.turn ≠ 0xFFFFFFFFFFFFFFFF → c.turn = (d.tslot slot).lastCommitted + 1 → d.clp.now < c.notBefore →
        YieldsSome (exec (.cardTake slot) s) s (fun e => (e.job slot).waiting = some c ∧ (e.job slot).cardsTaken = j.cardsTaken + 1 ∧ (e.job slot).turn = none ∧ e.mem = d.mem ∧ e.trn = d.trn))
      ∧ (c.turn ≠ 0xFFFFFFFFFFFFFFFF → c.turn = (d.tslot slot).lastCommitted + 1 → c.notBefore ≤ d.clp.now → c.flags.toNat % 2 = 1 → d.clp.locked = false →
        YieldsSome (exec (.cardTake slot) s) s (refusedBy c 0x42 (j.cardsTaken + 1) j.cardsTaken))
      ∧ (∀ k, c.turn ≠ 0xFFFFFFFFFFFFFFFF → c.turn = (d.tslot slot).lastCommitted + 1 → c.notBefore ≤ d.clp.now → admissible c k →
        YieldsSome (exec (.cardTake slot) s) s (opens c k (j.cardsTaken + 1))))
    ∧ (∀ w k, j.waiting = some w → holds d slot = true → j.turn = none → j.cardsHeld = false → j.parked = false → w.notBefore ≤ d.clp.now → admissible w k →
      YieldsSome (exec (.notBeforeReached slot) s) s (opens w k j.cardsTaken))
    ∧ (∀ w, j.waiting = some w → d.clp.now < w.notBefore → YieldsSome (exec (.notBeforeReached slot) s) s (fun e => (e.job slot).waiting = some w ∧ e.mem = d.mem ∧ e.trn = d.trn))

/-- SLICE_END, PREEMPT_GRACE_DONE, GRACE_OVERRUN, PREEMPT_DRAIN_DONE, SAVE_DONE and RESTORE_DONE. -/
def Obligations.BasinsChangeHands : Prop :=
  ∀ (s : State) (b : Nat), asleep s.dev = false → b < 16 →
    let d := s.dev
    let x := d.basin b
    let BasinOnly (y : Basin) (e : Dev) : Prop := e.basin b = y ∧ (∀ k, k ≠ b → e.basin k = d.basin k) ∧ e.sch = { d.sch with basins := e.sch.basins }
    let took := BitVec.ofNat 32 (d.clp.elapsed - x.stepStart)
    let apart (j : Nat) : Prop := ∀ l ∈ jobCores d j, ∀ m ∈ jobCores d j, m ≠ l → d.phys m ≠ d.phys l
    (∀ h, x.holder = none → x.leaving = none → x.entering = none → d.flt.stopActive = false → rebinding d b = false → nextHolder d b = some h → unbound d b = false →
      YieldsSome (exec (.sliceEnd b) s) s (fun e => BasinOnly { x with entering := some h, restoring := true, stepStart := d.clp.elapsed, lastHolder := h % 4 } e
        ∧ (∀ l ∈ jobCores d h, (e.core (d.phys l)).restoring = true) ∧ e = { d with sch := e.sch, cores := e.cores }))
    ∧ (∀ h, x.holder = none → x.leaving = none → x.entering = none → d.flt.stopActive = false → rebinding d b = false → nextHolder d b = some h → unbound d b = true →
      YieldsSome (exec (.sliceEnd b) s) s (fun e => e.job h = { d.job h with state := .waitBind } ∧ e = { d with jobs := e.jobs }))
    ∧ (∀ h, x.holder = some h → (d.flt.stopActive = true ∨ d.clp.elapsed - x.sliceStart < (d.basinRec b).slice) → Yields (exec (.sliceEnd b) s) s d)
    ∧ (∀ h, x.holder = some h → d.flt.stopActive = false → (d.basinRec b).slice ≤ d.clp.elapsed - x.sliceStart → otherReady d b h = false →
      YieldsSome (exec (.sliceEnd b) s) s (fun e => BasinOnly { x with sliceStart := d.clp.elapsed } e ∧ e = { d with sch := e.sch }))
    ∧ (∀ h, x.holder = some h → d.flt.stopActive = false → (d.basinRec b).slice ≤ d.clp.elapsed - x.sliceStart → otherReady d b h = true →
      YieldsSome (exec (.sliceEnd b) s) s (fun e =>
        BasinOnly { x with holder := none, leaving := some h, grace := true, stepStart := d.clp.elapsed, overran := false, preempts := sat16 x.preempts } e
        ∧ e.job h = { d.job h with state := .preempting, turn := (d.job h).turn.map (fun t => { t with preempted := t.preempted || !((d.tslot h).phase == .folding) }) } ∧ (∀ k, k ≠ h → e.job k = d.job k)
        ∧ (apart h → ∀ l ∈ heldCores d h, (e.core (d.phys l)).active = ownsSharedCore d b l)
        ∧ e = { d with sch := e.sch, cores := e.cores, jobs := e.jobs, sys := e.sys }))
    ∧ (∀ j, x.leaving = some j → x.grace = true → x.saving = false → graceOver d j = true →
      YieldsSome (exec (.preemptGraceDone b) s) s (fun e => BasinOnly { x with lastGrace := took, overran := true } e
        ∧ (∀ l ∈ heldCores d j, (e.core (d.phys l)).active = false) ∧ e = { d with sch := e.sch, cores := e.cores }))
    ∧ (∀ j, x.leaving = some j → graceOver d j = false → Yields (exec (.preemptGraceDone b) s) s d ∧ Yields (exec (.preemptDrainDone b) s) s d)
    ∧ (∀ j, x.leaving = some j → x.grace = true → x.saving = false → x.overran = false → (d.basinRec b).grace < d.clp.elapsed - x.stepStart →
      YieldsSome (exec (.graceOverrun b) s) s (fun e => e.basin b = { x with lastGrace := took, overran := true } ∧ (∀ k, k ≠ b → e.basin k = d.basin k)
        ∧ e = { d with sch := { d.sch with basins := e.sch.basins, graceOverrun := true, graceOverruns := sat16 d.sch.graceOverruns } }))
    ∧ ((x.overran = true ∨ x.saving = true ∨ d.clp.elapsed - x.stepStart ≤ (d.basinRec b).grace) → Yields (exec (.graceOverrun b) s) s d)
    ∧ (x.leaving = none → Yields (exec (.preemptGraceDone b) s) s d ∧ Yields (exec (.graceOverrun b) s) s d ∧ Yields (exec (.preemptDrainDone b) s) s d ∧ Yields (exec (.saveDone b) s) s d)
    ∧ (∀ j, x.leaving = some j → x.grace = true → x.saving = false → graceOver d j = true → tmDrained d j = true →
      YieldsSome (exec (.preemptDrainDone b) s) s (fun e => BasinOnly { x with grace := false, saving := true, stepStart := d.clp.elapsed } e
        ∧ (∀ l ∈ jobCores d j, (e.core (d.phys l)).saving = true) ∧ (∀ k, k < 12 → ∀ c ∈ (e.spout k).all, c.slot ≠ j)
        ∧ e = { d with sch := e.sch, cores := e.cores, spouts := e.spouts }))
    ∧ (∀ j d2, x.leaving = some j → x.saving = true → moveJob d j true = .ok d2 → unbound d2 b = false → j < 64 →
      YieldsSome (exec (.saveDone b) s) s (fun e => (e.job j).state = .saved ∧ (e.job j).parked = ((d2.job j).parked || (d2.job j).preemptReq) ∧ (e.job j).preemptReq = false
        ∧ (e.basin b).leaving = none ∧ (e.basin b).saving = false ∧ (e.basin b).lastSave = BitVec.ofNat 32 (d2.clp.elapsed - x.stepStart)
        ∧ (∀ l ∈ jobCores d2 j, l < 256 → tabGet none e.saved (256 * j + l) = some { (d2.core (d2.phys l)).ctx with tm := (d2.core (d2.phys l)).tm })
        ∧ (∀ l ∈ heldCores d2 j, (e.core (d2.phys l)).slot = none ∧ (e.core (d2.phys l)).ctx = {}) ∧ e.mem = d2.mem))
    ∧ (x.entering = none → Yields (exec (.restoreDone b) s) s d)
    ∧ (∀ j, x.entering = some j → (∀ l, tabGet none d.saved l = none) → (d.job j).restart = false → (d.job j).blank = false → (d.job j).waiting = none → JobCalm d j →
      (∀ t, t ∈ [4 * b, 4 * b + 1, 4 * b + 2, 4 * b + 3] → t ≠ j → (d.job t).state = .idle) →
      (d.job j).parked = false →
      YieldsSome (exec (.restoreDone b) s) s (fun e => (e.basin b).holder = some j ∧ (e.basin b).entering = none ∧ (e.basin b).restoring = false
        ∧ (e.basin b).sliceStart = d.clp.elapsed ∧ (e.basin b).lastRestore = took ∧ (e.job j).state = .running ∧ (e.job j).started = true ∧ (e.job j).turn = (d.job j).turn
        ∧ (∀ l ∈ jobCores d j, (e.core (d.phys l)).slot = some j ∧ (e.core (d.phys l)).restoring = false) ∧ e.mem = (loadStreams d j).mem))
    ∧ (∀ j, x.entering = some j → (∀ l, tabGet none d.saved l = none) → (d.job j).restart = false → (d.job j).blank = false → (d.job j).parked = true → d.flt.stopActive = false → JobCalm d j →
      YieldsSome (exec (.restoreDone b) s) s (fun e => (e.basin b).holder = none ∧ (e.basin b).entering = none ∧ (e.basin b).leaving = some j
        ∧ (e.job j).state = .preempting ∧ (e.job j).parked = true))

/-- DEVICE_STOP_COMPLETE, THERMAL_STOP_COMPLETE and CLEAR_STOP; CLEAR_PEAK, CNT_CLEAR and WEIR_CLEAR_MAX. -/
def Obligations.StopsEndAndClear : Prop :=
  ∀ (s : State), asleep s.dev = false →
    let d := s.dev
    let lost (code : Byte) (e : Dev) : Prop := ∀ k, k < 64 →
      let j := d.job k
      let own := if d.flt.faulted.contains k then j.reason else code
      ((j.state = .idle ∨ j.state = .refused ∨ j.state = .lost) → e.job k = j)
      ∧ (j.state = .checking → e.job k = { j with state := .refused, reason := code, detail := 0 })
      ∧ ((j.state = .admitted ∨ j.state = .running ∨ j.state = .preempting ∨ j.state = .saved ∨ j.state = .waitBind) →
          (e.job k).state = .lost ∧ (e.job k).reason = own ∧ (e.job k).abandon = false ∧ (e.job k).preemptReq = false
          ∧ ((d.tslot k).phase ≠ .folding → (e.job k).turn = none ∧ (j.turn.isSome = true → (e.tslot k).phase = .none ∧ (e.tslot k).abortReason = own ∧ (e.job k).cplWritten = j.cplWritten + 1))
          ∧ ((d.tslot k).phase = .folding → (e.job k).turn = j.turn ∧ e.tslot k = d.tslot k))
    let ended (st : DevState) (e : Dev) : Prop :=
      e.flt = { d.flt with stopActive := false, thermal := false, faulted := [], stopSeen := true, stops := sat16 d.flt.stops } ∧ e.sys = { d.sys with state := st }
      ∧ (∀ b, (e.basin b).holder = none ∧ (e.basin b).leaving = none ∧ (e.basin b).entering = none)
      ∧ e.klz.requests = d.klz.requests.filter (fun r => match r.origin with | .mover _ _ _ _ _ _ => false | .host _ _ _ => true)
      ∧ e.clp = d.clp ∧ e.str = d.str
    (d.flt.stopActive = true → d.flt.thermal = false → decidedLeft d = false → foldsLeft d = false →
      YieldsSome (exec .deviceStopComplete s) s (fun e => lost 0xA5 e ∧ ended .stopped e))
    ∧ ((d.flt.stopActive = false ∨ d.flt.thermal = true ∨ decidedLeft d = true ∨ foldsLeft d = true) → Yields (exec .deviceStopComplete s) s d)
    ∧ (d.flt.thermal = true → decidedLeft d = false → YieldsSome (exec .thermalStopComplete s) s (fun e =>
        lost d.flt.thermReason e ∧ ended .thermal e ∧ e.weir = { d.weir with thermalStop := true } ∧ e.trn.foldPending = foldsLeft d
        ∧ (∀ k, k < 12 → e.stack k = if (d.stack k).state = .ready then { d.stack k with state := .selfRefresh } else d.stack k)))
    ∧ ((d.flt.thermal = false ∨ decidedLeft d = true) → Yields (exec .thermalStopComplete s) s d)
    ∧ (clearStopOk d = false → Yields (exec .clearStop s) s { d with flt := { d.flt with clearRefused := true } })
    ∧ (clearStopOk d = true → YieldsSome (exec .clearStop s) s (fun e =>
        e.sys = { d.sys with state := if d.str.inForce.isSome then .structured else .ready } ∧ e.trn.foldPending = false ∧ e.flt = d.flt
        ∧ (∀ k, k < 12 → (e.stack k).state = if (d.stack k).state = .selfRefresh then .ready else (d.stack k).state)
        ∧ (∀ j, j < 64 → (d.tslot j).phase = .folding → (d.job j).turn.isSome = true → (e.tslot j).phase = .none ∧ (e.job j).turn = none ∧ (e.job j).cplWritten = (d.job j).cplWritten + 1)
        ∧ (∀ j, j < 64 → (d.tslot j).phase ≠ .folding → e.job j = d.job j ∧ e.tslot j = d.tslot j)
        ∧ (foldsLeft d = false → e.mem = d.mem)))
    ∧ YieldsSome (exec .clearPeak s) s (fun e => e.sys.peak = 0 ∧ (tabWf {} d.sys.dies = true → ∀ k, (tabGet {} e.sys.dies k).temp = (tabGet {} d.sys.dies k).temp ∧ (tabGet {} e.sys.dies k).max = none)
        ∧ e = { d with sys := { d.sys with peak := 0, dies := e.sys.dies } })
    ∧ Yields (exec .cntClear s) s { d with cnt := { d.cnt with values := [] } }
    ∧ YieldsSome (exec .weirClearMax s) s (fun e => (∀ k, k < 12 → e.stack k = { d.stack k with maxLevel := (d.stack k).level }) ∧ e = { d with hbm := e.hbm })

/-- HBM_SCRUB, HBM_REMAP_START, HBM_REMAP_DONE, HBM_RETRAIN_START, HBM_RETRAIN_DONE, HBM_TRAIN_GROUP_START and HBM_TRAIN_DONE. -/
def Obligations.StacksScrubRepairAndTrain : Prop :=
  ∀ (s : State) (k pc : Nat), asleep s.dev = false → k < 12 → pc < 64 →
    let d := s.dev
    let x := d.stack k
    let Only (i : Instr) (y : Stack) : Prop := YieldsSome (exec i s) s (fun e => e.stack k = y ∧ (∀ j, j ≠ k → e.stack j = d.stack j) ∧ e = { d with hbm := e.hbm })
    let cell (slot b : Nat) : Nat := ((64 * k + pc) * 294912 + slot) * 64 + b
    let scrubs (slot : Nat) : Prop := x.state = .ready ∧ x.scrub = true ∧ x.level < 2 ∧ slot < slotsPerPc d
    let plain (slot : Nat) : Prop := (∀ b, b < 64 → tabGet false d.poison (cell slot b) = false ∧ tabGet none d.upsets (cell slot b) = none)
      ∧ tabGet none x.deadPins pc = none ∧ tabWf none d.upsets = true
    let Scrubs (i : Instr) (y : Stack) : Prop := YieldsSome (exec i s) s (fun e => e.stack k = y ∧ (∀ j, j ≠ k → e.stack j = d.stack j)
      ∧ (∀ u, tabGet none e.upsets u = tabGet none d.upsets u) ∧ e = { d with hbm := e.hbm, upsets := e.upsets })
    let movers : Prop := ∀ c, c < 144 → (d.core c).tm.all (fun t => t.todo.isEmpty) = true
    let Frees (i : Instr) (y : Stack) : Prop := movers → (∀ h ∈ y.hold, h.piece = none) →
      YieldsSome (exec i s) s (fun e => e.stack k = { y with hold := y.hold.filter (fun h => cellHeld (d.setStack k y) h.cell) })
    let shown (y : Stack) (slot b position kind : Nat) : LastErr :=
      if y.lastErr.valid then y.lastErr else { pc := pc, uncorr := !(kind == 1), slot := slot, burst := b, valid := true, position := position, kind := kind }
    (∀ slot errs, slot < 294912 → ¬ scrubs slot → Yields (exec (.hbmScrub k pc slot errs) s) s d)
    ∧ (∀ slot, scrubs slot → plain slot → Scrubs (.hbmScrub k pc slot []) x)
    ∧ (∀ slot b p, scrubs slot → plain slot → b < 64 → d.str.pinsafe = false →
      (x.rows.find? (fun q => q.1 == { pc := pc, row := Config.rowOf slot })).map (·.2) = none → 1 < rowThreshold x →
      Scrubs (.hbmScrub k pc slot [(b, .correctable p)]) { x with
        ceSeen := true, ceCount := sat16 x.ceCount, lastErr := shown x slot b (p % 2) 1
        rows := (({ pc := pc, row := Config.rowOf slot }, 1) :: x.rows.filter (fun q => !(q.1 == { pc := pc, row := Config.rowOf slot }))).take 1024 })
    ∧ (∀ slot b p, scrubs slot → plain slot → b < 64 →
      let row : Row := { pc := pc, row := Config.rowOf slot }
      let due := tabGet [] d.repairsDue k
      YieldsSome (exec (.hbmScrub k pc slot [(b, .uncorrectable p)]) s) s (fun e =>
        (e.stack k).ueSeen = true ∧ (e.stack k).ueCount = sat16 x.ueCount ∧ (e.stack k).lastErr = shown x slot b (if d.str.pinsafe then 0 else p % 2) 2
        ∧ tabGet false e.poison (cell slot b) = true ∧ (∀ u, u ≠ cell slot b → tabGet false e.poison u = tabGet false d.poison u)
        ∧ (∀ u, tabGet none e.upsets u = tabGet none d.upsets u) ∧ (∀ j, j ≠ k → e.stack j = d.stack j)
        ∧ e = { d with hbm := e.hbm, poison := e.poison, upsets := e.upsets, repairsDue := e.repairsDue }
        ∧ (d.str.pinsafe = true → e.repairsDue = d.repairsDue)
        ∧ (d.str.pinsafe = false → e.repairsDue = if due.contains row then d.repairsDue else tabSet [] d.repairsDue k (due ++ [row]))))
    ∧ (∀ slot b, scrubs slot → b < 64 → (∀ i, i < 64 → (tabGet false d.poison (cell slot i) = true ↔ i = b) ∧ tabGet none d.upsets (cell slot i) = none) →
      tabGet none x.deadPins pc = none → tabWf none d.upsets = true → Scrubs (.hbmScrub k pc slot []) { x with lastErr := shown x slot b 0 3 })
    ∧ (∀ r, x.remapQueue.find? (fun r => r.pc == pc) = some r → x.state = .ready → remapAllowed d x pc = true →
      YieldsSome (exec (.hbmRemapStart k pc) s) s (fun e => (e.stack k).remapping = r :: x.remapping ∧ (e.stack k).remaps = sat16 x.remaps
        ∧ tabGet 0 (e.stack k).sparesUsed pc = tabGet 0 x.sparesUsed pc + 1 ∧ r ∉ (e.stack k).remapQueue ∧ tabGet 0 (e.stack k).lastRemap pc = d.clp.elapsed + 1
        ∧ (∀ j, j ≠ k → e.stack j = d.stack j) ∧ e = { d with hbm := e.hbm }))
    ∧ ((x.remapQueue.find? (fun r => r.pc == pc) = none ∨ remapAllowed d x pc = false ∨ x.state ≠ .ready) → Yields (exec (.hbmRemapStart k pc) s) s d)
    ∧ Completes (exec (.hbmRemapDone k pc) s) ∧ Frees (.hbmRemapDone k pc) { x with remapping := x.remapping.filter (fun r => !(r.pc == pc)) }
    ∧ (movers → x.hold = [] → tabWf none d.upsets = true → YieldsSome (exec (.hbmRemapDone k pc) s) s (fun e =>
        e.stack k = { x with remapping := x.remapping.filter (fun r => !(r.pc == pc)) } ∧ (∀ j, j ≠ k → e.stack j = d.stack j)
        ∧ (∀ u, let r := rowAt (pcOfCell (64 * u)) (u / 64 % 294912)
            (stackOfCell (64 * u) = k → r.pc = pc → r ∈ x.remapping → (∃ p, tabGet none d.upsets u = some (.correctable p)) → tabGet none e.upsets u = none)
            ∧ ((stackOfCell (64 * u) ≠ k ∨ r.pc ≠ pc ∨ r ∉ x.remapping ∨ ∀ p, tabGet none d.upsets u ≠ some (.correctable p)) → tabGet none e.upsets u = tabGet none d.upsets u))
        ∧ e = { d with hbm := e.hbm, upsets := e.upsets }))
    ∧ (∀ forced,
      let early := !(tabGet 0 x.lastRetrain pc == 0) && decide (d.clp.elapsed + 1 - tabGet 0 x.lastRetrain pc < tenMs d)
      let close := !(tabGet 0 x.lastRemap pc == 0) && decide (d.clp.elapsed + 1 - tabGet 0 x.lastRemap pc < tenMs d)
      (x.state = .ready → x.retrainPc = none → (forced = true ∨ (early = false ∧ close = false)) → Only (.hbmRetrainStart k pc forced) { x with
        retrainPc := some pc, retrains := sat16 x.retrains, retrainsEarly := if early then sat16 x.retrainsEarly else x.retrainsEarly, lastRetrain := tabSet 0 x.lastRetrain pc (d.clp.elapsed + 1) })
      ∧ ((x.state ≠ .ready ∨ x.retrainPc.isSome = true ∨ (forced = false ∧ (early = true ∨ close = true))) → Yields (exec (.hbmRetrainStart k pc forced) s) s d))
    ∧ Completes (exec (.hbmRetrainDone k) s) ∧ Frees (.hbmRetrainDone k) { x with retrainPc := none }
    ∧ (movers → x.hold = [] → Only (.hbmRetrainDone k) { x with retrainPc := none })
    ∧ (∀ g, g < 3 → (d.sys.state = .boot ∨ d.sys.state = .train) → YieldsSome (exec (.hbmTrainGroupStart g) s) s (fun e =>
        (∀ j, e.stack j = if j / 4 = g ∧ (d.stack j).state = .off then { d.stack j with state := .training } else d.stack j) ∧ e = { d with hbm := e.hbm }))
    ∧ (x.state = .training →
      let l := tabGet [] s.nv.repairs k
      let r := applyRepairs d.free l
      (tabGet [] d.repairsDue k = [] → exec (.hbmTrainDone k true) s = .next { s with
          nv := { s.nv with repairs := tabSet [] s.nv.repairs k r.2.1 }
          dev := { d with
            free := d.free + l.length
            repairsDue := tabSet [] d.repairsDue k []
            upsets := tabDrop d.upsets (64 * k * 294912 * 4096 / 64) (64 * (k + 1) * 294912 * 4096 / 64)
            mem := tabDrop d.mem (64 * k * 294912 * 4096) (64 * (k + 1) * 294912 * 4096)
            poison := tabDrop d.poison (64 * k * 294912 * 4096 / 64) (64 * (k + 1) * 294912 * 4096 / 64)
            hbm := tabSet {} d.hbm k { x with state := .ready, applied := BitVec.ofNat 16 r.2.2, attempts := 0, sparesUsed := r.1 } } })
      ∧ (∃ t, exec (.hbmTrainDone k true) s = .next t ∧ (t.dev.stack k).state = .ready ∧ tabGet [] t.dev.repairsDue k = [])
      ∧ ((∀ i, i < l.length → Config.repairTaken (d.free + i) = true) → r = ([], [], l.length))
      ∧ Only (.hbmTrainDone k false) { x with attempts := x.attempts + 1, state := if 3 ≤ x.attempts + 1 then .failed else .training })
    ∧ (∀ ok, x.state ≠ .training → Yields (exec (.hbmTrainDone k ok) s) s d)

/-- WEIR_SAMPLE and DEV_TELEMETRY_SAMPLE. -/
def Obligations.TemperaturesThrottleStopAndTrip : Prop :=
  ∀ (s : State) (temps : List Int), asleep s.dev = false → s.dev.sys.tripped = false →
    let d := s.dev
    let stops (r : Byte) (e : Dev) : Prop := e.flt.thermal = true ∧ e.flt.thermReason = r ∧ e.flt.stopActive = true ∧ (d.flt.stopActive = false → e.flt.stopInfo = { valid := true, cls := 4, reason := r } ∧ e.flt.stopClp = d.clp.now)
    let tripped : Dev → Prop := Cleared d { vinMv := d.sys.vinMv, rails := d.sys.rails, powerOk := d.sys.powerOk, refclkAAbsent := d.sys.refclkAAbsent, refclkBAbsent := d.sys.refclkBAbsent, tripped := true, thermtripN := false, resetN := d.sys.resetN }
    (temps.any (fun t => decide (110 ≤ t)) = true → YieldsSome (exec (.weirSample temps) s) s tripped)
    ∧ (temps.any (fun t => decide (110 ≤ t)) = false → YieldsSome (exec (.weirSample temps) s) s (fun e =>
        (∀ k, k < 12 → e.stack k = match temps[k]? with | some t => sampled d (d.stack k) t | none => d.stack k)
        ∧ ((∀ k t, k < 12 → temps[k]? = some t → weirTarget d (clampInt (-128) 127 t) ≤ (d.stack k).level) → e.weir = d.weir)
        ∧ (∀ t, temps = [t] → (d.stack 0).level < weirTarget d (clampInt (-128) 127 t) → e.weir = { d.weir with events := sat16 d.weir.events, lastEvent := d.clp.now }
            ∧ ∀ j u, (d.job j).turn = some u → (e.job j).turn = some (if (d.tslot j).phase = .folding then u
                else { u with weirMax := max u.weirMax (weirTarget d (clampInt (-128) 127 t)) }))
        ∧ ((temps.take 12).any (fun t => decide (105 ≤ t)) = true → d.flt.thermal = false → d.sys.state ≠ .thermal → stops 0xC0 e)
        ∧ ((temps.take 12).any (fun t => decide (105 ≤ t)) = false → e = { d with hbm := e.hbm, weir := e.weir, jobs := e.jobs })))
    ∧ (∀ vin iin watts dies,
      let y := d.sys
      let w := BitVec.ofNat 16 (min watts 0xFFFF)
      (dies.any (fun t => decide (115 ≤ t)) = true → YieldsSome (exec (.devTelemetrySample vin iin watts dies) s) s tripped)
      ∧ (dies.any (fun t => decide (115 ≤ t)) = false → YieldsSome (exec (.devTelemetrySample vin iin watts dies) s) s (fun e =>
          e.sys.vin = BitVec.ofNat 16 (min (vin / 10) 0xFFFF) ∧ e.sys.iin = BitVec.ofNat 16 (min (iin / 10) 0xFFFF) ∧ e.sys.watts = w
          ∧ e.sys.peak = (if y.peak < w then w else y.peak) ∧ e.sys.dieHot = (y.dieHot || dies.any (fun t => decide (95 ≤ t)))
          ∧ (∀ k t, k < 4 → dies[k]? = some t → tabGet {} e.sys.dies k = { temp := clampInt (-128) 127 t, max := some (max (clampInt (-128) 127 t) ((tabGet {} y.dies k).max.getD (clampInt (-128) 127 t))) })
          ∧ (∀ k, dies.length ≤ k → tabGet {} e.sys.dies k = tabGet {} y.dies k)
          ∧ e.sys = { y with vin := e.sys.vin, iin := e.sys.iin, watts := e.sys.watts, peak := e.sys.peak, dieHot := e.sys.dieHot, dies := e.sys.dies }
          ∧ ((dies.take 4).any (fun t => decide (105 ≤ t)) = true → d.flt.thermal = false → y.state ≠ .thermal → stops 0xC1 e)
          ∧ ((dies.take 4).any (fun t => decide (105 ≤ t)) = false → e = { d with sys := e.sys }))))

/-- VIN_APPLY, POWER_GOOD, VIN_EXCURSION, VIN_UNDERVOLTAGE, VIN_OVERVOLTAGE, RESET_ASSERT, RESET_RELEASE, DEVICE_READY and REFCLK_ABSENT. -/
def Obligations.SupplyAndResetRuleTheDevice : Prop :=
  ∀ (s : State) (mv : Nat),
    let d := s.dev
    let y := d.sys
    let SysOnly (i : Instr) (z : Sys) : Prop := Yields (exec i s) s { d with sys := z }
    let pins : Sys := { vinMv := y.vinMv, rails := y.rails, powerOk := y.powerOk, refclkAAbsent := y.refclkAAbsent, refclkBAbsent := y.refclkBAbsent }
    (y.rails = .off → SysOnly (.vinApply mv) { y with vinMv := mv, rails := .starting, powerOk := false })
    ∧ (y.rails ≠ .off → SysOnly (.vinApply mv) { y with vinMv := mv })
    ∧ (y.rails = .starting → SysOnly .powerGood { y with rails := .good, powerOk := true })
    ∧ (y.rails ≠ .starting → Yields (exec .powerGood s) s d)
    ∧ (y.rails = .good → SysOnly (.vinExcursion mv) { y with vinMv := mv, vinLow := y.vinLow || decide (mv < 57600), vinHigh := y.vinHigh || decide (70400 < mv) })
    ∧ (y.rails ≠ .good → SysOnly (.vinExcursion mv) { y with vinMv := mv })
    ∧ YieldsSome (exec (.vinUndervoltage mv) s) s (Cleared d { pins with vinMv := mv, rails := .off, powerOk := decide (mv ≤ 20000), resetN := y.resetN })
    ∧ YieldsSome (exec (.vinOvervoltage mv) s) s (Cleared d { pins with vinMv := mv, rails := .off, powerOk := decide (mv ≤ 20000), resetN := y.resetN })
    ∧ YieldsSome (exec .resetAssert s) s (Cleared d pins)
    ∧ (∀ m v, y.state = .reset → y.rails = .good → y.tripped = false → YieldsSome (exec (.resetRelease m v) s) s (fun e =>
        e.sys = { y with state := .boot, resetN := true, bootMode := m, iovSel := v, released := d.clp.elapsed } ∧ e.klz = { d.klz with requested := s.nv.board.horizon }
        ∧ e.sec = { d.sec with challenge := e.sec.challenge } ∧ e.sec.challenge.length = 32
        ∧ e = { d with sys := e.sys, klz := e.klz, sec := e.sec, free := d.free + 32 }))
    ∧ (∀ m v, (y.state ≠ .reset ∨ y.rails ≠ .good ∨ y.tripped = true) → Yields (exec (.resetRelease m v) s) s d)
    ∧ (y.state = .train → stacksDone d = true → SysOnly .deviceReady { y with state := .ready, readyN := false, readyMs := BitVec.ofNat 16 (min (unitsNs d (d.clp.elapsed - y.released) / 1000000) 0xFFFF) })
    ∧ ((y.state ≠ .train ∨ stacksDone d = false) → Yields (exec .deviceReady s) s d)
    ∧ (∀ a, SysOnly (.refclkAbsent true a) { y with refclkBAbsent := a } ∧ SysOnly (.refclkAbsent false a) { y with refclkAAbsent := a })

/-- ETH_FRAME_RECEIVE, ARP_REQUEST, NEIGHBOR_SOLICITATION, ETH_LINK_UP and ETH_LINK_DOWN. -/
def Obligations.FramesAreFilteredAndAnswered : Prop :=
  ∀ (s : State) (n : Nat) (f : EthFrame), asleep s.dev = false → n < 2 →
    let d := s.dev
    let x := d.ethp n
    let c := x.conf
    let PortIs (y : Eth) (e : Dev) : Prop := e.ethp n = y ∧ ∀ k, k ≠ n → e.ethp k = d.ethp k
    let back : Back := { port := n, mac := f.src, vlan := f.vlan, encap := f.encap }
    let u (off k : Nat) : Nat := fieldLe f.data off k
    let req : PldReq := { seq := u 4 3, op := u 1 1, back := back, bytes := f.data.take (32 + u 0x0E 2) }
    let serving := x.linkUp = true ∧ d.pld.boardLoaded = true
    let clocked := (if n = 0 then d.sys.refclkAAbsent else d.sys.refclkBAbsent) = false
    let whole := f.fcsOk = true ∧ f.length ≤ 9216 ∧ vlanOk c f = true ∧ frameDestOk c f = true ∧ encapOk c f = true
    let pldFrame := f.encap = .raw ∨ (∃ a b p q o, f.encap = .udp4 a b p q o) ∨ (∃ a b p q o, f.encap = .udp6 a b p q o)
    let counted : Eth := { x with frames := sat32 x.frames }
    (¬ serving → YieldsSome (exec (.ethFrameReceive n f) s) s (fun e => e = d))
    ∧ (serving → f.fcsOk = false → YieldsSome (exec (.ethFrameReceive n f) s) s (fun e =>
        PortIs { x with fcsErrors := sat32 x.fcsErrors, dropped := sat32 x.dropped } e ∧ e = { d with eth := e.eth }))
    ∧ (serving → f.fcsOk = true → ¬ whole → YieldsSome (exec (.ethFrameReceive n f) s) s (fun e =>
        PortIs { x with dropped := sat32 x.dropped } e ∧ e = { d with eth := e.eth }))
    ∧ (∀ i, ((∃ t, f.encap = .arp t) ∧ (i = Instr.arpRequest n f ∨ i = .ethFrameReceive n f)) ∨ ((∃ t, f.encap = .ns t) ∧ (i = .neighborSolicitation n f ∨ i = .ethFrameReceive n f)) →
      serving → whole → f.macsec = none →
      let recent := x.answered.filter (fun t => decide (d.clp.elapsed < t + nsUnits d 1000000000))
      (recent.length < 1000 → YieldsSome (exec i s) s (fun e =>
        PortIs { counted with answered := d.clp.elapsed :: recent } e
        ∧ e = { d with eth := e.eth, pld := { d.pld with out := d.pld.out ++ [{ port := n, dest := f.src, vlan := f.vlan, macsec := none, encap := f.encap, data := [] }] } }))
      ∧ (1000 ≤ recent.length → YieldsSome (exec i s) s (fun e => PortIs { counted with answered := recent } e ∧ e = { d with eth := e.eth })))
    ∧ (serving → whole → pldFrame → f.macsec = none → (∀ h, h < 8 → peerOk (d.conn h).conf n f = false ∨ (d.conn h).conf.macsec = true) →
        YieldsSome (exec (.ethFrameReceive n f) s) s (fun e => PortIs counted e ∧ e = { d with eth := e.eth, pld := { d.pld with rxUnbound := sat32 d.pld.rxUnbound } }))
    ∧ (∀ h, h < 8 → serving → whole → pldFrame → f.macsec = none → peerOk (d.conn h).conf n f = true → (d.conn h).conf.macsec = false →
      (∀ k, k < h → peerOk (d.conn k).conf n f = false ∨ (d.conn k).conf.macsec = true) →
      let z := d.conn h
      let formed := 32 + u 0x0E 2 ≤ f.data.length ∧ u 0 1 = 1 ∧ natBit (u 2 1) 0 = false
      let Only (y : Conn) (e : Dev) : Prop :=
        PortIs counted e ∧ e.conn h = y ∧ (∀ k, k ≠ h → e.conn k = d.conn k) ∧ e = { d with eth := e.eth, pld := { d.pld with conns := e.pld.conns } }
      (¬ formed → YieldsSome (exec (.ethFrameReceive n f) s) s (fun e =>
        PortIs counted e ∧ e = { d with eth := e.eth, pld := { d.pld with rxBad := sat32 d.pld.rxBad } }))
      ∧ (formed → beforeReady d = false → z.state = .opened → req.op ≠ 15 → u 0x0C 2 = z.session.toNat → u 8 3 = z.low →
        0 ≤ seqDiff req.seq z.low → seqDiff req.seq z.low < 512 → (∀ q ∈ z.reqs, q.seq ≠ req.seq ∧ 0 ≤ seqDiff q.seq z.low ∧ q.phase ≠ .waiting) →
        1 ≤ req.op → req.op ≤ 9 →
        YieldsSome (exec (.ethFrameReceive n f) s) s (Only { z with reqs := z.reqs ++ [req] }))
      ∧ (formed → beforeReady d = false → z.state = .opened → req.op ≠ 15 → u 0x0C 2 = z.session.toNat → u 8 3 = z.low →
        (seqDiff req.seq z.low < 0 ∨ 512 ≤ seqDiff req.seq z.low) → (∀ q ∈ z.reqs, 0 ≤ seqDiff q.seq z.low ∧ q.phase ≠ .waiting) →
        YieldsSome (exec (.ethFrameReceive n f) s) s (Only { z with window := sat32 z.window }))
      ∧ (formed → beforeReady d = false → z.state = .closed → req.op = 15 → z.opening = none →
        YieldsSome (exec (.ethFrameReceive n f) s) s (Only { z with opening := some req }))
      ∧ (formed → beforeReady d = false → (z.state = .closed ∨ (z.state = .opened ∧ u 0x0C 2 ≠ z.session.toNat)) → req.op ≠ 15 →
        YieldsSome (exec (.ethFrameReceive n f) s) s (fun e => PortIs counted e
          ∧ e = { d with eth := e.eth, pld := { d.pld with out := d.pld.out ++ [{ port := n, dest := f.src, vlan := f.vlan, macsec := none, encap := swapEncap f.encap, data := responseBytes z req (u 0x0C 2) { status := 4 } }] } }))
      ∧ (formed → beforeReady d = true → z.lastNotReady = 0 →
        YieldsSome (exec (.ethFrameReceive n f) s) s (fun e => PortIs counted e ∧ e.conn h = { z with lastNotReady := d.clp.elapsed + 1 } ∧ (∀ k, k ≠ h → e.conn k = d.conn k)
          ∧ e = { d with eth := e.eth, pld := { d.pld with conns := e.pld.conns, out := d.pld.out ++ [{ port := n, dest := f.src, vlan := f.vlan, macsec := none, encap := swapEncap f.encap, data := responseBytes z req (u 0x0C 2) { status := 3 } }] } })))
    ∧ ((c.medium = 1 ∨ c.medium = 2) → clocked → YieldsSome (exec (.ethLinkUp n) s) s (fun e => PortIs { x with linkUp := true, medium := c.medium } e ∧ e = { d with eth := e.eth }))
    ∧ (((c.medium ≠ 1 ∧ c.medium ≠ 2) ∨ ¬ clocked) → YieldsSome (exec (.ethLinkUp n) s) s (fun e => PortIs x e ∧ e = { d with eth := e.eth }))
    ∧ (x.linkUp = true → YieldsSome (exec (.ethLinkDown n) s) s (fun e => PortIs { x with linkUp := false, medium := 0, linkLost := true } e ∧ e = { d with eth := e.eth }))
    ∧ (x.linkUp = false → YieldsSome (exec (.ethLinkDown n) s) s (fun e => PortIs x e ∧ e = { d with eth := e.eth }))

/-- PLD_REG_RD, PLD_REG_WR, PLD_MEM_RD and PLD_MEM_WR, and the requests of every operation that lines 3 and 4 of R413 turn away. -/
def Obligations.HostReadsAndWritesAreSettled : Prop :=
  ∀ (s : State) (h seq : Nat) (r : PldReq), asleep s.dev = false →
    let d := s.dev
    let off := r.addr % 2 ^ 48
    let space := natBits r.addr 51 48
    let page := off % 16 = 0 ∧ off % 4096 + r.arg ≤ 4096
    let rows : List (Nat × Instr) := [(1, .pldRegRd h seq), (2, .pldRegWr h seq), (3, .pldMemRd h seq), (4, .pldMemWr h seq), (5, .pldPoll h seq), (6, .pldHostfence h seq), (7, .pldDoorbell h seq), (8, .pldMbxWr h seq), (9, .pldMbxRd h seq)]
    (∀ row ∈ rows, Waits d h seq row.1 r →
      (formOk d h r = false → YieldsSome (exec row.2 s) s (Settled d h r { status := 1, detail := 0x95 }))
      ∧ (formOk d h r = true → (readOnlyDenies (d.conn h).conf r = true ∨ (namesRemote d r = true ∧ (d.conn h).conf.domain = false)) →
        YieldsSome (exec row.2 s) s (Settled d h r { status := 1, detail := 0x94 })))
    ∧ (Admitted d h seq 1 r →
      let t := readWords s.nv h r.addr r.arg 0 d
      YieldsSome (exec (.pldRegRd h seq) s) s (Settled t.2.2 h r
        { status := if t.2.1 = 0 then 0 else 1, detail := t.2.1.toNat, arg := t.1.length, payload := t.1.flatMap (fun w => leBytes 4 w.toNat) })
      ∧ t.1.length ≤ r.arg ∧ (t.2.1 = 0 → t.1.length = r.arg))
    ∧ (Admitted d h seq 2 r →
      let t := writeWords h r.addr r.body r.arg 0 d
      YieldsSome (exec (.pldRegWr h seq) s) s (Settled t.2.2 h r { status := if t.2.1 = 0 then 0 else 1, detail := t.2.1.toNat, arg := t.1 })
      ∧ t.1 ≤ r.arg ∧ (t.2.1 = 0 → t.1 = r.arg))
    ∧ (Admitted d h seq 3 r → namesRemote d r = false →
      (space = 3 → let t := regRead s.nv d (.host h) off
        YieldsSome (exec (.pldMemRd h seq) s) s (Settled t.1 h r (if t.2.error = 0 then { payload := leBytes 4 t.2.value.toNat } else { status := 1, detail := t.2.error.toNat })))
      ∧ (space ≠ 3 → off % 16 ≠ 0 → YieldsSome (exec (.pldMemRd h seq) s) s (Settled d h r { status := 1, detail := 0x93 }))
      ∧ (∀ x, space ≠ 3 → page → outsidePlace d false space off r.arg = .error x → YieldsSome (exec (.pldMemRd h seq) s) s (Settled d h r (denialAnswer x)))
      ∧ (∀ pl, space ≠ 3 → page → outsidePlace d false space off r.arg = .ok pl →
        ((placeRead d pl r.arg).2 = false → YieldsSome (exec (.pldMemRd h seq) s) s (Settled (countHbm d false pl r.arg) h r { payload := (placeRead d pl r.arg).1 }))
        ∧ ((placeRead d pl r.arg).2 = true → YieldsSome (exec (.pldMemRd h seq) s) s (fun e => ∃ o, o < r.arg ∧ firstPoison d pl r.arg = some o
          ∧ Settled (countHbm d false pl r.arg) h r { status := 2, arg := o, payload := (placeRead d pl r.arg).1 } e))))
    ∧ (Admitted d h seq 4 r → namesRemote d r = false →
      (space = 3 → let t := regWrite d (.host h) off (BitVec.ofNat 32 (fieldLe r.body 0 4))
        YieldsSome (exec (.pldMemWr h seq) s) s (Settled t.1 h r (if t.2.error = 0 then {} else { status := 1, detail := t.2.error.toNat })))
      ∧ (space ≠ 3 → off % 16 ≠ 0 → YieldsSome (exec (.pldMemWr h seq) s) s (Settled d h r { status := 1, detail := 0x93 }))
      ∧ (∀ x, space ≠ 3 → page → outsidePlace d true space off r.arg = .error x → YieldsSome (exec (.pldMemWr h seq) s) s (Settled d h r (denialAnswer x)))
      ∧ (∀ pl, space ≠ 3 → page → outsidePlace d true space off r.arg = .ok pl → YieldsSome (exec (.pldMemWr h seq) s) s (fun e => ∃ d2, Settled d2 h r {} e
          ∧ (∀ c, pl = .cells c → CellsKept d d2 [(c, r.arg)] ∧ ((sramBase ≤ c ∨ stackDead d c = false) → d2.mem = memWrite d.mem c r.body))
          ∧ (∀ u, tabGet false d2.poison u = true → tabGet false d.poison u = true)
          ∧ (∀ k, d2.stack k = { d.stack k with hold := (d2.stack k).hold, holdPeak := (d2.stack k).holdPeak })
          ∧ d2 = { d with mem := d2.mem, poison := d2.poison, upsets := d2.upsets, cnt := d2.cnt, hbm := d2.hbm })))
    ∧ (∀ row ∈ [(3, Instr.pldMemRd h seq), (4, .pldMemWr h seq)], Admitted d h seq row.1 r → namesRemote d r = true →
      let sized := if space = 3 then off % 4 = 0 else page
      let part : PldReq := { r with phase := .remote, left := 1, parts := [], failed := none, poison := none }
      ((4 ≤ space ∨ off % (if space = 3 then 4 else 16) ≠ 0) → YieldsSome (exec row.2 s) s (Settled d h r { status := 1, detail := 0x93 }))
      ∧ (space < 4 → sized → routePort d (r.addr / 2 ^ 52) = none →
        YieldsSome (exec row.2 s) s (Settled d h { r with left := 0, parts := [], failed := some (0, 0x63), poison := none } { status := 5, detail := 0x63 }))
      ∧ (∀ p d1, space < 4 → sized → requestPacket d (.remote r.addr) (if row.1 = 4 then some r.body else none) r.arg false = some p →
        sendRequest d p r.arg 0 (.host h seq 0) = some d1 →
        YieldsSome (exec row.2 s) s (fun e => e.conn h = (d.conn h).put part ∧ (∀ k, k ≠ h → e.conn k = d.conn k) ∧ e = { d1 with pld := { d1.pld with conns := e.pld.conns } })))

/-- PLD_POLL, PLD_HOSTFENCE, HOSTFENCE_COMPLETE and PLD_DOORBELL. -/
def Obligations.PollsFencesAndBellsAreSettled : Prop :=
  ∀ (s : State) (h seq : Nat) (r : PldReq), asleep s.dev = false →
    let d := s.dev
    let c := d.conn h
    let entry (i : Nat) : Nat := fieldLe r.body (8 * i) 8
    let got (x : Dev) (g : Nat) : Word × Nat := match outsidePlace x false (natBits g 51 48) (g % 2 ^ 48) 4 with
      | .error _ => (0, 0x93)
      | .ok pl => if (placeRead x pl 4).2 then (0, 0xA3) else (BitVec.ofNat 32 (leNat (placeRead x pl 4).1), 0)
    let joined (i : Nat) : Prop := 0 < i ∧ entry (i - 1) % 2 ^ 52 / 32 = entry i % 2 ^ 52 / 32 ∧ entry (i - 1) % 2 ^ 52 < entry i % 2 ^ 52
    let after (x : Dev) (g : Nat) : Dev := match outsidePlace x false (natBits g 51 48) (g % 2 ^ 48) 4 with
      | .error _ => x
      | .ok pl => countHbm x false pl 4
    (Admitted d h seq 5 r →
      ((∃ i, i < r.arg ∧ pollShape (entry i) = false) → YieldsSome (exec (.pldPoll h seq) s) s (Settled d h r { status := 1, detail := 0x93 }))
      ∧ ((∀ i, i < r.arg → pollShape (entry i) = true) → coldSpaces d = true → (∃ i, i < r.arg ∧ natBits (entry i) 51 48 = 0) →
        YieldsSome (exec (.pldPoll h seq) s) s (Settled d h r { status := 3 }))
      ∧ ((∀ i, i < r.arg → pollShape (entry i) = true ∧ natBits (entry i) 51 48 ≠ 3) → coldSpaces d = false →
        YieldsSome (exec (.pldPoll h seq) s) s (fun e => ∃ (ds : Nat → Dev) (a : Answer),
          let gots : List (Word × Nat) := (List.range r.arg).map (fun i => got (ds i) (entry i))
          ds 0 = d ∧ (∀ i, i < r.arg → (joined i → ds (i + 1) = ds i) ∧ (¬ joined i → ds (i + 1) = after (ds i) (entry i)) ∧ HbmRead d (ds (i + 1))) ∧ Settled (ds r.arg) h r a e
          ∧ a.status = 0 ∧ a.payload = gots.flatMap (fun w => leBytes 4 w.1.toNat) ∧ a.detail = ((gots.find? (fun w => w.2 != 0)).map (·.2)).getD 0
          ∧ (∀ i, i < r.arg → (natBit a.arg i = true ↔ (got (ds i) (entry i)).2 ≠ 0)) ∧ a.arg < 2 ^ r.arg))
      ∧ (r.arg = 1 → natBits (entry 0) 51 48 = 3 → entry 0 % 4 = 0 →
        let t := regRead s.nv d (.host h) (entry 0 % 2 ^ 48)
        YieldsSome (exec (.pldPoll h seq) s) s (Settled t.1 h r (if t.2.error = 0 then { payload := leBytes 4 t.2.value.toNat }
          else { detail := t.2.error.toNat, arg := 1, payload := [0, 0, 0, 0] }))))
    ∧ (Admitted d h seq 6 r → YieldsSome (exec (.pldHostfence h seq) s) s (Shelved d h r))
    ∧ (h < 8 →
      let n := tabGet 0 d.trn.hostfenceDone h + 1
      let d1 : Dev := { d with trn := { d.trn with hostfenceDone := tabSet 0 d.trn.hostfenceDone h n } }
      let ready := noGap c r.seq = true ∧ earlierDone c r.seq (fun q => q.op == 2 || q.op == 4 || q.op == 6) = true
      let bells := c.reqs.filter (fun q => q.op == 7 && q.phase == .waiting)
      (nextFence c = none → YieldsSome (exec (.hostfenceComplete h) s) s (fun e => e = d))
      ∧ (nextFence c = some r → ¬ ready → YieldsSome (exec (.hostfenceComplete h) s) s (fun e => e = d))
      ∧ (nextFence c = some r → ready → bells = [] → YieldsSome (exec (.hostfenceComplete h) s) s (Settled d1 h r { arg := n.toNat }))
      ∧ (∀ q, nextFence c = some r → ready → bells = [q] → q.seq ≠ r.seq → noGap c q.seq = true →
        (∀ y ∈ c.reqs, y.op = 6 → seqDiff y.seq q.seq < 0 → y.seq = r.seq ∨ answeredReq y = true) →
        YieldsSome (exec (.hostfenceComplete h) s) s (fun e => ∃ d2, Settled d1 h r { arg := n.toNat } d2
          ∧ Settled (jobDoorbell d2 q.addr (BitVec.ofNat 32 q.arg)) h q {} e)))
    ∧ (Admitted d h seq 7 r →
      (64 ≤ r.addr → YieldsSome (exec (.pldDoorbell h seq) s) s (Settled d h r { status := 1, detail := 0x93 }))
      ∧ (r.addr < 64 → bellFree c r.seq = true →
        YieldsSome (exec (.pldDoorbell h seq) s) s (Settled (jobDoorbell d r.addr (BitVec.ofNat 32 r.arg)) h r {}))
      ∧ (r.addr < 64 → bellFree c r.seq = false → YieldsSome (exec (.pldDoorbell h seq) s) s (Shelved d h r)))

/-- PLD_OPEN, SESSION_DRAIN_DONE and BOARD_RECORD_LOAD. -/
def Obligations.SessionsOpenDrainAndClose : Prop :=
  ∀ (s : State), asleep s.dev = false →
    let d := s.dev
    (∀ h seq, h < 8 → seq < 0x1000000 →
      let c := d.conn h
      let quiet := ∀ q ∈ c.reqs, q.phase ≠ .waiting
      let ConnIs (y : Conn) (e : Dev) : Prop := e.conn h = y ∧ (∀ k, k ≠ h → e.conn k = d.conn k) ∧ e = { d with pld := { d.pld with conns := e.pld.conns } }
      ((∀ r, c.opening = some r → r.seq ≠ seq) → YieldsSome (exec (.pldOpen h seq) s) s (fun e => e = d))
      ∧ (∀ r, c.opening = some r → r.seq = seq → pnExhausted d c.conf = true → YieldsSome (exec (.pldOpen h seq) s) s (fun e => e = d))
      ∧ (∀ r, c.opening = some r → r.seq = seq → pnExhausted d c.conf = false →
        let c1 := { c with opening := none, requests := sat32 c.requests }
        (formOk d h r = false → YieldsSome (exec (.pldOpen h seq) s) s (fun e =>
          e.conn h = c1 ∧ (∀ k, k ≠ h → e.conn k = d.conn k) ∧ Sent d h r.back (responseBytes c1 r (r.u 0x0C 2) { status := 1, detail := 0x95 }) e
          ∧ e = { d with pld := { d.pld with conns := e.pld.conns, out := e.pld.out }, sec := e.sec }))
        ∧ (formOk d h r = true → c.state = .closed → YieldsSome (exec (.pldOpen h seq) s) s (Opened d h r))
        ∧ (formOk d h r = true → c.state = .opened → quiet → YieldsSome (exec (.pldOpen h seq) s) s (ConnIs { c with state := .draining }))
        ∧ (formOk d h r = true → c.state = .draining → YieldsSome (exec (.pldOpen h seq) s) s (fun e => e = d)))
      ∧ ((c.state ≠ .draining ∨ (quiet ∧ ∃ q ∈ c.reqs, answeredReq q = false)) → YieldsSome (exec (.sessionDrainDone h) s) s (fun e => e = d))
      ∧ (∀ r, c.state = .draining → (∀ q ∈ c.reqs, answeredReq q = true) → c.opening = some r → YieldsSome (exec (.sessionDrainDone h) s) s (Opened d h r))
      ∧ (c.state = .draining → (∀ q ∈ c.reqs, answeredReq q = true) → c.opening = none → YieldsSome (exec (.sessionDrainDone h) s) s
          (ConnIs { c with state := .closed, session := 0, openSeq := 0, openReply := [], low := 0, reqs := [] })))
    ∧ ((d.sec.state ≠ .running ∨ d.pld.boardLoaded = true) → YieldsSome (exec .boardRecordLoad s) s (fun e => e = d))
    ∧ (d.sec.state = .running → d.pld.boardLoaded = false → YieldsBoth (exec .boardRecordLoad s) s (fun nv e =>
        (∀ n, n < 2 → e.ethp n = { d.ethp n with conf := tabGet {} s.nv.board.eth n }) ∧ (∀ n, 2 ≤ n → e.ethp n = d.ethp n)
        ∧ (∀ h, h < 8 → e.conn h = { d.conn h with conf := tabGet {} s.nv.board.conns h }) ∧ (∀ h, 8 ≤ h → e.conn h = d.conn h)
        ∧ e.sec = { d.sec with assocs := e.sec.assocs, lastReason := e.sec.lastReason, refusals := e.sec.refusals }
        ∧ (s.nv.board.keys = [] → e.sec = d.sec) ∧ (∀ k, tabGet 0 s.nv.epochs k ≤ tabGet 0 nv.epochs k)
        ∧ e = { d with eth := e.eth, pld := { d.pld with conns := e.pld.conns, boardLoaded := true }, sec := e.sec }
        ∧ nv = { s.nv with epochs := nv.epochs }))

/-- SEC_BOOT_COMPLETE and FW_FRAGMENT. -/
def Obligations.BootTakesVerifiedFirmware : Prop :=
  ∀ (s : State), asleep s.dev = false →
    let d := s.dev
    let nv := s.nv
    let go := exec .secBootComplete s
    let booting := d.sys.state = .boot ∧ d.sec.state = .boot
    let Recovers (d : Dev) (e : Dev) : Prop :=
      e.sec = { d.sec with state := .recovery } ∧ e.mbxc 16 = { d.mbxc 16 with sender := 8, receiver := 10 } ∧ e.mbxc 17 = { d.mbxc 17 with sender := 10, receiver := 8 }
      ∧ (∀ c, c ≠ 16 → c ≠ 17 → e.mbxc c = d.mbxc c) ∧ e = { d with sec := e.sec, mbx := e.mbx }
    (¬ booting → Yields go s d)
    ∧ (booting → nv.consistent = false → Yields go s { d with sec := { d.sec with state := .failed, lastReason := 0x87 } })
    ∧ (booting → nv.consistent = true →
      (∀ img, d.sys.bootMode = 0 → checkFirmware nv nv.fwA = .ok img → YieldsSome go s (FirmwareIn nv d 1 img))
      ∧ (∀ a img, d.sys.bootMode = 0 → checkFirmware nv nv.fwA = .error a → checkFirmware nv nv.fwB = .ok img → YieldsSome go s (FirmwareIn nv (secNoted d a) 2 img))
      ∧ (∀ a b, d.sys.bootMode = 0 → checkFirmware nv nv.fwA = .error a → checkFirmware nv nv.fwB = .error b → YieldsSome go s (Recovers (secNoted (secNoted d a) b)))
      ∧ (d.sys.bootMode = 1 → YieldsSome go s (Recovers d))
      ∧ (d.sys.bootMode = 2 → Yields go s d)
      ∧ (d.sys.bootMode = 3 → Yields go s { d with sec := { d.sec with state := .failed, lastReason := 0x82 } }))
    ∧ (∀ c w, Carries d c 3 w →
      let go := exec (.fwFragment c) s
      let x := d.schan c
      let clear : SecChan := { x with assembling := false, next := 0, buf := [] }
      let Kept (d1 : Dev) (ws : List (List Word)) : Nv → Dev → Prop := fun nv2 e => nv2 = nv ∧ Replied d1 c ws e
      ((d.sec.state ≠ .recovery ∨ c ≠ 16) → YieldsBoth go s (Kept (secNoted (emptied d c) 0x88) (statusWord 0 0x88)))
      ∧ (d.sec.state = .recovery → c = 16 →
        (addFragment x w = none → YieldsBoth go s (Kept ((emptied d c).setSchan c clear) (statusWord 0 0x82)))
        ∧ (∀ y, addFragment x w = some y → natBit (msgWord w 0) 9 = false → YieldsSome go s (fun e => e = (emptied d c).setSchan c y))
        ∧ (∀ y why, addFragment x w = some y → natBit (msgWord w 0) 9 = true → checkFirmware nv y.buf = .error why →
          YieldsBoth go s (Kept (secNoted ((emptied d c).setSchan c { y with assembling := false, next := 0, buf := [] }) why) (statusWord 0 why.toNat)))
        ∧ (∀ y img, addFragment x w = some y → natBit (msgWord w 0) 9 = true → checkFirmware nv y.buf = .ok img →
          YieldsBoth go s (fun nv2 e => nv2 = { nv with fwA := img } ∧ ∃ d1, FirmwareIn nv2 ((emptied d c).setSchan c { y with assembling := false, next := 0, buf := [] }) 3 img d1
            ∧ Replied d1 16 (statusWord 0 0) e))))

/-- ENROLL_OWNER, LOAD_MACSEC and COMMIT_FW. -/
def Obligations.SecurityCommandsCheckWhatTheyTake : Prop :=
  ∀ (s : State) (c : Nat) (w : List Word), asleep s.dev = false → Carries s.dev c 2 w →
    let d := s.dev
    let nv := s.nv
    let code := natBits (msgWord w 0) 7 0
    let allowed := c < 8 ∨ c = 18
    let Refuses (i : Instr) (why : Byte) : Prop :=
      YieldsBoth (exec i s) s (fun nv2 e => nv2 = nv ∧ Replied (secNoted (emptied d c) why) c (statusWord code why.toNat) e)
    let accepted (nv1 : Nv) (d1 : Dev) : Nv → Dev → Prop := fun nv2 e => nv2 = nv1 ∧ Replied d1 c (statusWord code 0) e
    let fresh : Dev := { emptied d c with sec := { d.sec with issue := d.free }, free := d.free + 1 }
    let first := firstWaiting d (d.mbxc c).arrived
    (∀ i ∈ [Instr.enrollOwner c, .loadMacsec c, .commitFw c], first = false → YieldsBoth (exec i s) s (fun nv2 e => nv2 = nv ∧ e = d))
    ∧ (first = true → (∀ row ∈ [(1, Instr.enrollOwner c), (2, .loadMacsec c), (4, .commitFw c)],
      (code ≠ row.1 → YieldsBoth (exec row.2 s) s (fun nv2 e => nv2 = nv ∧ e = d))
      ∧ (code = row.1 → ¬ allowed → Refuses row.2 0x88))
    ∧ (code = 4 → allowed → YieldsBoth (exec (.commitFw c) s) s (accepted { nv with fwCounter := max nv.fwCounter (min d.sec.fwVersion.toNat 64) } fresh))
    ∧ (code = 1 → allowed →
      (ownerEnrolled nv = true → Refuses (.enrollOwner c) 0x83)
      ∧ (ownerEnrolled nv = false → commandBlock d w = none → Refuses (.enrollOwner c) 0x82)
      ∧ (∀ b, ownerEnrolled nv = false → commandBlock d w = some b →
        let owner := (b.drop 0x10).take 48
        let formed := b.length = 0x110 ∧ fieldLe b 0 4 = 0x454F4C47 ∧ fieldLe b 4 4 = 0 ∧ owner.all (· == 0) = false
        (¬ formed → Refuses (.enrollOwner c) 0x82)
        ∧ (formed → signedBy nv 0 b = false → Refuses (.enrollOwner c) 0x80)
        ∧ (formed → signedBy nv 0 b = true → fieldLe b 8 8 ≠ nv.serial.toNat → Refuses (.enrollOwner c) 0x84)
        ∧ (formed → signedBy nv 0 b = true → fieldLe b 8 8 = nv.serial.toNat →
          YieldsBoth (exec (.enrollOwner c) s) s (accepted { nv with ownerHash := owner } fresh))))
    ∧ (code = 2 → allowed →
      (commandBlock d w = none → Refuses (.loadMacsec c) 0x82)
      ∧ (∀ b, commandBlock d w = some b →
        let sa := fieldLe b 4 1
        let epoch := fieldLe b 8 4
        let signer := if ownerEnrolled nv then 1 else 0
        (keyBlockOk b = false → Refuses (.loadMacsec c) 0x82)
        ∧ (keyBlockOk b = true → signedBy nv signer b = false → Refuses (.loadMacsec c) 0x80)
        ∧ (keyBlockOk b = true → signedBy nv signer b = true → epoch ≤ tabGet 0 nv.epochs sa → Refuses (.loadMacsec c) 0x86)
        ∧ (keyBlockOk b = true → signedBy nv signer b = true → tabGet 0 nv.epochs sa < epoch → wrappingKey nv b = none → Refuses (.loadMacsec c) 0x82)
        ∧ (∀ k, keyBlockOk b = true → signedBy nv signer b = true → tabGet 0 nv.epochs sa < epoch → wrappingKey nv b = some k →
          (unwrapKey k ((b.drop 0xB0).take 40) = none ∨ unwrapKey k ((b.drop 0xD8).take 40) = none) → Refuses (.loadMacsec c) 0x82)
        ∧ (∀ k rx tx, keyBlockOk b = true → signedBy nv signer b = true → tabGet 0 nv.epochs sa < epoch → wrappingKey nv b = some k →
          unwrapKey k ((b.drop 0xB0).take 40) = some rx → unwrapKey k ((b.drop 0xD8).take 40) = some tx →
          YieldsBoth (exec (.loadMacsec c) s) s (fun nv2 e => ∃ d1, d1.assoc sa = blockAssoc b rx tx ∧ (∀ i, i ≠ sa → d1.assoc i = d.assoc i)
            ∧ d1 = { emptied d c with sec := { d.sec with assocs := d1.sec.assocs } }
            ∧ tabGet 0 nv2.epochs sa = epoch ∧ (∀ i, i ≠ sa → tabGet 0 nv2.epochs i = tabGet 0 nv.epochs i) ∧ nv2 = { nv with epochs := nv2.epochs }
            ∧ Replied d1 c (statusWord code 0) e)))))

/-- DEBUG_UNLOCK and JTAG_INSTRUCTION. -/
def Obligations.DebugOpensByTokenAlone : Prop :=
  ∀ (s : State),
    let d := s.dev
    let nv := s.nv
    (∀ c w, asleep d = false → Carries d c 2 w →
      let code := natBits (msgWord w 0) 7 0
      let go := exec (.debugUnlock c) s
      let allowed := c < 8 ∨ c = 18 ∨ c = 16
      let renewed : Dev := { emptied d c with sec := { d.sec with challenge := (List.range 32).map (fun i => Config.freeByte (d.free + i)) }, free := d.free + 32 }
      let Refuses (d1 : Dev) (why : Byte) : Prop := YieldsSome go s (Replied (secNoted d1 why) c (statusWord 3 why.toNat))
      let first := firstWaiting d (d.mbxc c).arrived = true
      ((code ≠ 3 ∨ ¬ first) → Yields go s d)
      ∧ (code = 3 → first → ¬ allowed → Refuses renewed 0x88)
      ∧ (code = 3 → first → allowed → commandBlock d w = none → Refuses renewed 0x82)
      ∧ (∀ b, code = 3 → first → allowed → commandBlock d w = some b →
        let formed := b.length = 0x110 ∧ fieldLe b 0 4 = 0x55444C47 ∧ fieldLe b 4 4 = 0 ∧ fieldLe b 0x30 16 = 0
        let signed := signedBy nv (if ownerEnrolled nv then 1 else 0) b = true
        let ours := fieldLe b 8 8 = nv.serial.toNat
        let answers := (b.drop 0x10).take 32 = d.sec.challenge
        (¬ formed → Refuses renewed 0x82)
        ∧ (formed → ¬ signed → Refuses renewed 0x80)
        ∧ (formed → signed → ¬ ours → Refuses renewed 0x84)
        ∧ (formed → signed → ours → ¬ answers → Refuses renewed 0x85)
        ∧ (formed → signed → ours → answers → YieldsSome go s
            (Replied { renewed with sec := { renewed.sec with debugUnlocked := true, issue := d.free + 32 }, free := d.free + 33 } c (statusWord 3 0)))))
    ∧ (∀ op, (∀ k, op ≠ .private_ k) → Yields (exec (.jtagInstruction op) s) s { d with sec := { d.sec with jtag := op } })
    ∧ (∀ k, d.sec.debugUnlocked = false → Yields (exec (.jtagInstruction (.private_ k)) s) s { d with sec := { d.sec with jtag := .bypass } })
    ∧ (∀ k, d.sec.debugUnlocked = true → exec (.jtagInstruction (.private_ k)) s = .refused (.privateJtag k))

/-- SPDM_FRAGMENT, GET_VERSION, GET_CAPABILITIES, NEGOTIATE_ALGORITHMS, GET_DIGESTS, GET_CERTIFICATE, CHALLENGE, GET_MEASUREMENTS and
SPDM_UNSUPPORTED_REQUEST; the bytes of SPDM's own formats are the model's (notes/assumptions/60.md). -/
def Obligations.SpdmRequestsAreAssembledAndAnswered : Prop :=
  ∀ (s : State) (c : Nat), asleep s.dev = false → c < 32 →
    let d := s.dev
    let nv := s.nv
    let x := d.schan c
    let stepTo (d : Dev) (stage : Nat) : Dev := d.setSchan c { x with msg := none, stage := stage }
    let frags (b : List Byte) : List (List Word) := spdmFragments (b.length / 60 + 1) 0 b
    let Answers (i : Instr) (stage : Nat) (b : List Byte) : Prop := answerChannel c ≠ none → YieldsSome (exec i s) s (Replied (stepTo d stage) c (frags b))
    let AnswersFree (i : Instr) (k : Nat) (ok : List Byte → Prop) : Prop := answerChannel c ≠ none → YieldsSome (exec i s) s (fun e =>
      ∃ b, ok b ∧ Replied { stepTo d 3 with free := d.free + k } c (frags b) e)
    let first := firstWaiting d x.arrived
    let rows : List (Nat × Nat × Instr) := [(0xE1, 1, .getCapabilities c), (0xE3, 2, .negotiateAlgorithms c), (0x81, 3, .getDigests c), (0x82, 3, .getCertificate c), (0x83, 3, .challenge c), (0xE0, 3, .getMeasurements c)]
    (∀ w, Carries d c 1 w → x.msg = none → answerChannel c ≠ none →
      let go := exec (.spdmFragment c) s
      let dropped : Dev := (emptied d c).setSchan c { x with assembling := false, next := 0, buf := [] }
      (addFragment x w = none → YieldsSome go s (Replied dropped c (statusWord 0 0x82)))
      ∧ (∀ y, addFragment x w = some y → 4096 < y.buf.length → YieldsSome go s (Replied dropped c (statusWord 0 0x82)))
      ∧ (∀ y, addFragment x w = some y → y.buf.length ≤ 4096 → natBit (msgWord w 0) 9 = false → YieldsSome go s (fun e => e = (emptied d c).setSchan c y))
      ∧ (∀ y, addFragment x w = some y → y.buf.length ≤ 4096 → natBit (msgWord w 0) 9 = true → YieldsSome go s (fun e =>
          e = (emptied d c).setSchan c { y with assembling := false, next := 0, buf := [], msg := some y.buf, arrived := (e.schan c).arrived }
          ∧ (∀ k, (d.mbxc k).arrived < (e.schan c).arrived) ∧ ∀ k, (d.schan k).arrived < (e.schan c).arrived)))
    ∧ (first = false → ∀ i ∈ Instr.getVersion c :: .spdmUnsupportedRequest c :: rows.map (·.2.2), YieldsSome (exec i s) s (fun e => e = d))
    ∧ (∀ row ∈ rows, (∀ m, x.msg = some m → fieldLe m 1 1 ≠ row.1) → YieldsSome (exec row.2.2 s) s (fun e => e = d))
    ∧ (∀ m row, x.msg = some m → first = true → row ∈ rows → fieldLe m 1 1 = row.1 →
      (x.stage < row.2.1 → Answers row.2.2 x.stage [0x12, 0x7F, 4, 0]) ∧ (row.2.1 ≤ x.stage → fieldLe m 0 1 ≠ 0x12 → Answers row.2.2 x.stage [0x12, 0x7F, 0x41, 0]))
    ∧ (∀ m, x.msg = some m → first = true →
      let code := fieldLe m 1 1
      let v12 := fieldLe m 0 1 = 0x12
      let slot0 := fieldLe m 2 1 % 16 = 0
      let op := fieldLe m 3 1
      let whole := measurementIndices.flatMap (measurementBlock nv d)
      let one := measurementBlock nv d op
      let signed := natBit (fieldLe m 2 1) 0
      (code = 0x84 → Answers (.getVersion c) 1 [0x10, 0x04, 0, 0, 0, 1, 0x00, 0x12])
      ∧ (code = 0xE1 → 1 ≤ x.stage → v12 → answerChannel c ≠ none → YieldsSome (exec (.getCapabilities c) s) s (fun e =>
          ∃ t, Replied { stepTo d 2 with free := d.free + 1 } c (frags ([0x12, 0x61, 0, 0, 0, t, 0, 0] ++ leBytes 4 0x16 ++ leBytes 4 4096 ++ leBytes 4 4096)) e))
      ∧ (code = 0xE3 → 2 ≤ x.stage → v12 → Answers (.negotiateAlgorithms c) 3 ([0x12, 0x63, 0, 0, 40, 0, 1, 0, 4, 0, 0, 0, 0, 0, 0, 0, 2, 0, 0, 0] ++ List.replicate 12 0 ++ [1, 0, 0, 0, 4, 0, 1, 0]))
      ∧ (code = 0x81 → 3 ≤ x.stage → v12 → Answers (.getDigests c) 3 ([0x12, 0x01, 0, 1] ++ sha384 (spdmChain nv d)))
      ∧ (code = 0x82 → 3 ≤ x.stage → v12 → Answers (.getCertificate c) 3 (getCertificate nv d m))
      ∧ (code = 0x83 → 3 ≤ x.stage → v12 → ¬ slot0 → Answers (.challenge c) 3 [0x12, 0x7F, 1, 0])
      ∧ (code = 0x83 → 3 ≤ x.stage → v12 → slot0 → op = 0 → AnswersFree (.challenge c) 128 (fun b =>
          ∃ nonce sig, nonce.length = 32 ∧ sig.length = 96 ∧ b = [0x12, 0x03, 0, 1] ++ sha384 (spdmChain nv d) ++ nonce ++ [0, 0] ++ sig))
      ∧ (code = 0x83 → 3 ≤ x.stage → v12 → slot0 → op = 0xFF → AnswersFree (.challenge c) 128 (fun b =>
          ∃ nonce sig, nonce.length = 32 ∧ sig.length = 96 ∧ b = [0x12, 0x03, 0, 1] ++ sha384 (spdmChain nv d) ++ nonce ++ sha384 whole ++ [0, 0] ++ sig))
      ∧ (code = 0xE0 → 3 ≤ x.stage → v12 → op ≠ 0 → op ≠ 0xFF → one = [] → Answers (.getMeasurements c) 3 [0x12, 0x7F, 1, 0])
      ∧ (code = 0xE0 → 3 ≤ x.stage → v12 → op = 0 → AnswersFree (.getMeasurements c) (if signed then 128 else 32) (fun b =>
          ∃ nonce sig, nonce.length = 32 ∧ sig.length = (if signed then 96 else 0) ∧ b = [0x12, 0x60, 69, 0, 0, 0, 0, 0] ++ nonce ++ [0, 0] ++ sig))
      ∧ (code = 0xE0 → 3 ≤ x.stage → v12 → op ≠ 0 → op ≠ 0xFF → one ≠ [] → one.length ≤ 3900 → AnswersFree (.getMeasurements c) (if signed then 128 else 32) (fun b =>
          ∃ nonce sig, nonce.length = 32 ∧ sig.length = (if signed then 96 else 0) ∧ b = [0x12, 0x60, 0, 0, 1] ++ leBytes 3 one.length ++ one ++ nonce ++ [0, 0] ++ sig))
      ∧ (code = 0xE0 → 3 ≤ x.stage → v12 → op = 0xFF → whole.length ≤ 3900 → AnswersFree (.getMeasurements c) (if signed then 128 else 32) (fun b =>
          ∃ nonce sig, nonce.length = 32 ∧ sig.length = (if signed then 96 else 0) ∧ b = [0x12, 0x60, 0, 0, 69] ++ leBytes 3 whole.length ++ whole ++ nonce ++ [0, 0] ++ sig))
      ∧ (spdmKnown code = false → Answers (.spdmUnsupportedRequest c) x.stage [0x12, 0x7F, 0x07, BitVec.ofNat 8 code]))
    ∧ ((∀ m, x.msg = some m → spdmKnown (fieldLe m 1 1) = true) → YieldsSome (exec (.spdmUnsupportedRequest c) s) s (fun e => e = d))

/-- Every NaN that is written is the canonical encoding of its format, whatever NaN came in. -/
def Obligations.NansAreWrittenCanonical : Prop :=
  ∀ (mode : RMode),
    (∀ f, fmtOf 8 = some f → encodeF 8 f mode .nan = 0x7FC00000) ∧ (∀ f, fmtOf 0 = some f → encodeF 0 f mode .nan = 0x7FC0)
    ∧ (∀ f, fmtOf 1 = some f → encodeF 1 f mode .nan = 0x7E00) ∧ (∀ f, fmtOf 10 = some f → encodeF 10 f mode .nan = 0x7FF8000000000000)
    ∧ (∀ f, fmtOf 2 = some f → encodeF 2 f mode .nan = 0x7F ∧ decodeF f 0x7F = .nan) ∧ (∀ f, fmtOf 3 = some f → encodeF 3 f mode .nan = 0x7F ∧ decodeF f 0x7F = .nan)
    ∧ (∀ code f bits, fmtOf code = some f → decodeF f bits = .nan → encodeF code f mode (decodeF f bits) = canonNan code)

/-- Conversions to BF16, FP16 and FP32: round to nearest even, toward zero, and stochastic rounding to one of the two neighbours,
with subnormals, overflow, infinities and NaN. -/
def Obligations.ConversionsFollowIeee754 : Prop :=
  ∀ (code : Nat) (f : FFmt), code ∈ [0, 1, 8] → fmtOf code = some f →
    let last := fieldEnd f - 1
    let value (y : Nat) : ℚ := match decodeF f y with
      | .fin _ m e => (m : ℚ) * 2 ^ e
      | _ => 0
    let limit : ℚ := value last + (value last - value (last - 1)) / 2
    let sign (n : Bool) : Nat := if n then 2 ^ (f.eb + f.mb) else 0
    (∀ mode n, encodeF code f mode (.inf n) = sign n + last + 1 ∧ encodeF code f mode .nan = canonNan code)
    ∧ (∀ (n : Bool) (m : Nat) (e : Int), let x : ℚ := (m : ℚ) * 2 ^ e
      (∃ y, y ≤ last ∧ encodeF code f .rtz (.fin n m e) = sign n + y ∧ value y ≤ x ∧ (y < last → x < value (y + 1)))
      ∧ (x < limit → ∃ y, y ≤ last ∧ encodeF code f .rne (.fin n m e) = sign n + y
        ∧ ∀ z, z ≤ last → |x - value y| ≤ |x - value z| ∧ (|x - value y| = |x - value z| → z = y ∨ y % 2 = 0))
      ∧ (limit ≤ x → encodeF code f .rne (.fin n m e) = sign n + last + 1)
      ∧ (∀ u, u < 65536 → ∃ y, y ≤ last ∧ value y ≤ x ∧ (y < last → x < value (y + 1))
        ∧ (encodeF code f (.sr u) (.fin n m e) = sign n + y ∨ (value y < x ∧ encodeF code f (.sr u) (.fin n m e) = sign n + y + 1))))

/-- The fragments of an SPDM message: FIRST, LAST, counter and length as R442 states, and a receiver that takes them in order holds the
message. -/
def Obligations.FragmentsReassembleTheMessage : Prop :=
  ∀ (b : List Byte),
    let ws := spdmFragments (b.length / 60 + 1) 0 b
    (∀ i w, ws[i]? = some w → natBits (msgWord w 0) 31 24 = 1 ∧ natBits (msgWord w 0) 7 0 = i % 256 ∧ natBits (msgWord w 0) 21 16 ≤ 60 ∧ w.length = 16
      ∧ (natBit (msgWord w 0) 8 = true ↔ i = 0) ∧ (natBit (msgWord w 0) 9 = true ↔ i + 1 = ws.length))
    ∧ ∃ x, ws.foldl (fun (acc : Option SecChan) w => acc.bind (fun x => addFragment x w)) (some {}) = some x ∧ x.buf = b

/-- MBX_WR writes all 16 registers and sets GO in one step or writes nothing, MBX_RD reads one instant and may release, and MBX_WR leaves a
channel as 16 register writes and GO do. -/
def Obligations.MailboxOperationsAreIndivisible : Prop :=
  ∀ (s : State) (h seq : Nat) (r : PldReq), asleep s.dev = false →
    let d := s.dev
    let x := d.mbxc r.addr
    let words : List Word := (List.range 16).map (fun i => BitVec.ofNat 32 (fieldLe r.body (4 * i) 4))
    let Turned (y : Mbx) (d1 : Dev) : Prop := d1.mbxc r.addr = y ∧ (∀ k, k ≠ r.addr → d1.mbxc k = d.mbxc k) ∧ d1 = { d with mbx := d1.mbx }
    (∀ row ∈ [(8, Instr.pldMbxWr h seq), (9, .pldMbxRd h seq)], Admitted d h seq row.1 r → 32 ≤ r.addr →
        YieldsSome (exec row.2 s) s (Settled d h r { status := 1, detail := 0x93 }))
    ∧ (Admitted d h seq 8 r → r.addr < 32 →
      let refused (why : Byte) (e : Dev) : Prop := ∃ d1, Turned { x with refusal := why } d1 ∧ Settled d1 h r { status := 1, detail := why.toNat } e
      (mbxIsSender x (.host h) = false → YieldsSome (exec (.pldMbxWr h seq) s) s (refused 0x91))
      ∧ (mbxIsSender x (.host h) = true → x.full = true → YieldsSome (exec (.pldMbxWr h seq) s) s (refused 0x90))
      ∧ (mbxIsSender x (.host h) = true → x.full = false → YieldsSome (exec (.pldMbxWr h seq) s) s (fun e => ∃ d1 m,
          Turned { x with msg := m, full := true, count := x.count + 1, arrived := (d1.mbxc r.addr).arrived } d1
          ∧ (∀ k, (d.mbxc k).arrived < (d1.mbxc r.addr).arrived) ∧ (∀ k, (d.schan k).arrived < (d1.mbxc r.addr).arrived) ∧ (∀ i, i < 16 → tabGet 0 m i = BitVec.ofNat 32 (fieldLe r.body (4 * i) 4))
          ∧ Settled d1 h r {} e)
        ∧ (let byRegisters := (words.zipIdx.foldl (fun d w => (mbxMsgWrite d (.host h) r.addr w.2 w.1).1) d)
          let byRegisters := (mbxGo byRegisters (.host h) r.addr).1
          mbxWords (byRegisters.mbxc r.addr) = words ∧ (byRegisters.mbxc r.addr).full = true ∧ (byRegisters.mbxc r.addr).count = x.count + 1)))
    ∧ (Admitted d h seq 9 r → r.addr < 32 →
      let read : Answer := { arg := (if x.full then 1 else 0) + x.count.toNat * 0x10000, payload := (mbxWords x).flatMap (fun w => leBytes 4 w.toNat) }
      (mbxIsSender x (.host h) = false → mbxIsReceiver x (.host h) = false → YieldsSome (exec (.pldMbxRd h seq) s) s (fun e =>
          ∃ d1, Turned { x with refusal := 0x91 } d1 ∧ Settled d1 h r { status := 1, detail := 0x91 } e))
      ∧ (((mbxIsSender x (.host h) = true ∧ mbxIsReceiver x (.host h) = false) ∨ (mbxIsReceiver x (.host h) = true ∧ natBit r.arg 0 = false)) →
        YieldsSome (exec (.pldMbxRd h seq) s) s (Settled d h r read))
      ∧ (mbxIsReceiver x (.host h) = true → natBit r.arg 0 = true → (∀ k, requestChannel r.addr = some k → (d.schan k).answers = []) →
        YieldsSome (exec (.pldMbxRd h seq) s) s (fun e => ∃ d1, Turned { x with full := false } d1 ∧ Settled d1 h r read e))
      ∧ (∀ k w rest, mbxIsReceiver x (.host h) = true → mbxIsSender x .sec = true → natBit r.arg 0 = true → x.full = true →
        requestChannel r.addr = some k → (d.schan k).answers = w :: rest →
        YieldsSome (exec (.pldMbxRd h seq) s) s (fun e => ∃ d1, d1.mbxc r.addr = { x with full := true, count := x.count + 1, msg := tabOfList 0 (w.take 16) }
          ∧ (∀ j, j ≠ r.addr → d1.mbxc j = d.mbxc j) ∧ (d1.schan k).answers = rest ∧ d1 = { d with mbx := d1.mbx, sec := { d.sec with chans := d1.sec.chans } }
          ∧ Settled d1 h r read e)))
end

