-- ==== Sys2Proof/Laws/Tab.lean ====
section
/-! SUPPORT. The laws of sparse tables: reading after writing, and that every operation keeps the canonical form. -/

namespace Sys2Proof.Machine

variable {α : Type}

theorem tabGet_tabErase_self (d : α) (t : Tab α) (i : Nat) : tabGet d (tabErase t i) i = d := by
  induction t with
  | nil => rfl
  | cons e t ih =>
    obtain ⟨k, v⟩ := e
    by_cases h : k = i
    · simpa [tabErase, h] using ih
    · simpa [tabErase, h, tabGet] using ih

theorem tabGet_tabErase_other (d : α) (t : Tab α) {i j : Nat} (h : j ≠ i) : tabGet d (tabErase t i) j = tabGet d t j := by
  induction t with
  | nil => rfl
  | cons e t ih =>
    obtain ⟨k, v⟩ := e
    by_cases hk : k = i
    · subst hk
      simpa [tabErase, tabGet, Ne.symm h] using ih
    · have : tabErase ((k, v) :: t) i = (k, v) :: tabErase t i := by simp [tabErase, hk]
      rw [this]
      simp only [tabGet, ih]

theorem tabGet_tabInsert_self (d : α) (t : Tab α) (i : Nat) (v : α) : tabGet d (tabInsert t i v) i = v := by
  induction t with
  | nil => simp [tabInsert, tabGet]
  | cons e t ih =>
    obtain ⟨k, w⟩ := e
    unfold tabInsert
    split
    · simp [tabGet]
    · split
      · simp [tabGet]
      · simp [tabGet, *]

theorem tabGet_tabInsert_other (d : α) (t : Tab α) {i j : Nat} (v : α) (h : j ≠ i) :
    tabGet d (tabInsert t i v) j = tabGet d t j := by
  induction t with
  | nil => simp [tabInsert, tabGet, Ne.symm h]
  | cons e t ih =>
    obtain ⟨k, w⟩ := e
    unfold tabInsert
    split
    · simp [tabGet, Ne.symm h]
    · split
      · rename_i hk
        subst hk
        simp [tabGet, Ne.symm h]
      · simp only [tabGet, ih]

/-- A dropped key reads the default. -/
theorem tabGet_tabDrop_in (d : α) (t : Tab α) {lo hi i : Nat} (h : lo ≤ i ∧ i < hi) : tabGet d (tabDrop t lo hi) i = d := by
  induction t with
  | nil => rfl
  | cons e t ih =>
    obtain ⟨k, v⟩ := e
    unfold tabDrop at ih ⊢
    rw [List.filter_cons]
    split
    · rename_i hk
      simp only [tabGet]
      rw [if_neg, ih]
      intro he
      subst he
      simp at hk
      omega
    · exact ih

/-- Any other key reads as before. -/
theorem tabGet_tabDrop_out (d : α) (t : Tab α) {lo hi i : Nat} (h : ¬(lo ≤ i ∧ i < hi)) : tabGet d (tabDrop t lo hi) i = tabGet d t i := by
  induction t with
  | nil => rfl
  | cons e t ih =>
    obtain ⟨k, v⟩ := e
    unfold tabDrop at ih ⊢
    rw [List.filter_cons]
    split
    · simp only [tabGet, ih]
    · rename_i hk
      simp only [tabGet]
      rw [if_neg, ih]
      intro he
      subst he
      simp at hk
      omega

/-! ## The canonical form -/

theorem tabRising_cons (lo : Option Nat) (e : Nat × α) (t : Tab α) :
    tabRising lo (e :: t) = ((lo.all (fun l => decide (l < e.1))) && tabRising (some e.1) t) := by
  obtain ⟨k, v⟩ := e
  cases lo <;> simp [tabRising]

theorem tabRising_lower {lo hi : Option Nat} (h : ∀ k, hi.all (fun l => decide (l < k)) = true → lo.all (fun l => decide (l < k)) = true) :
    ∀ {t : Tab α}, tabRising hi t = true → tabRising lo t = true
  | [], _ => by cases lo <;> rfl
  | e :: t, ht => by
    rw [tabRising_cons] at ht ⊢
    simp only [Bool.and_eq_true] at ht ⊢
    exact ⟨h _ ht.1, ht.2⟩

theorem tabRising_filter (p : Nat × α → Bool) : ∀ (lo : Option Nat) {t : Tab α}, tabRising lo t = true → tabRising lo (t.filter p) = true
  | lo, [], _ => by cases lo <;> rfl
  | lo, e :: t, h => by
    rw [tabRising_cons, Bool.and_eq_true] at h
    have ih := tabRising_filter p (some e.1) h.2
    rw [List.filter_cons]
    split
    · rw [tabRising_cons, Bool.and_eq_true]
      exact ⟨h.1, ih⟩
    · refine tabRising_lower (hi := some e.1) ?_ ih
      intro k hk
      cases lo with
      | none => rfl
      | some l =>
        simp at h hk ⊢
        omega

theorem tabRising_tabInsert (i : Nat) (v : α) : ∀ (lo : Option Nat) {t : Tab α}, tabRising lo t = true →
    lo.all (fun l => decide (l < i)) = true → tabRising lo (tabInsert t i v) = true
  | lo, [], _, hi => by simp only [tabInsert, tabRising_cons, hi, tabRising, Bool.and_self]
  | lo, (k, w) :: t, h, hi => by
    rw [tabRising_cons, Bool.and_eq_true] at h
    unfold tabInsert
    split
    · rename_i hk
      rw [tabRising_cons, tabRising_cons]
      simp [hi, hk, h.2]
    · split
      · rename_i hk
        rw [tabRising_cons]
        simp only [hi, Bool.true_and]
        simpa [hk] using h.2
      · rename_i h1 h2
        rw [tabRising_cons]
        simp only [h.1, Bool.true_and]
        refine tabRising_tabInsert i v (some k) h.2 ?_
        simp
        omega

theorem tabInsert_all {p : Nat × α → Bool} {i : Nat} {v : α} (hv : p (i, v) = true) :
    ∀ {t : Tab α}, t.all p = true → (tabInsert t i v).all p = true
  | [], _ => by simp [tabInsert, hv]
  | (k, w) :: t, h => by
    rw [List.all_cons, Bool.and_eq_true] at h
    unfold tabInsert
    split
    · simp only [List.all_cons, hv, h.1, h.2, Bool.and_self]
    · split
      · simp only [List.all_cons, hv, h.2, Bool.and_self]
      · simp only [List.all_cons, h.1, tabInsert_all hv h.2, Bool.and_self]

variable [DecidableEq α]

/-- A key reads back what was written to it. -/
@[simp] theorem tabGet_tabSet_self (d : α) (t : Tab α) (i : Nat) (v : α) : tabGet d (tabSet d t i v) i = v := by
  unfold tabSet
  split
  · rename_i h
    rw [tabGet_tabErase_self, h]
  · exact tabGet_tabInsert_self d t i v

/-- A write leaves every other key alone. -/
theorem tabGet_tabSet_other (d : α) (t : Tab α) {i j : Nat} (v : α) (h : j ≠ i) : tabGet d (tabSet d t i v) j = tabGet d t j := by
  unfold tabSet
  split
  · exact tabGet_tabErase_other d t h
  · exact tabGet_tabInsert_other d t v h

/-- Both at once. -/
theorem tabGet_tabSet (d : α) (t : Tab α) (i j : Nat) (v : α) :
    tabGet d (tabSet d t i v) j = if j = i then v else tabGet d t j := by
  split
  · rename_i h
    rw [h, tabGet_tabSet_self]
  · rename_i h
    exact tabGet_tabSet_other d t v h

theorem tabWf_filter (d : α) (p : Nat × α → Bool) {t : Tab α} (h : tabWf d t = true) : tabWf d (t.filter p) = true := by
  unfold tabWf at h ⊢
  rw [Bool.and_eq_true] at h ⊢
  refine ⟨tabRising_filter p none h.1, ?_⟩
  rw [List.all_eq_true] at h ⊢
  exact fun x hx => h.2 x (List.mem_of_mem_filter hx)

/-- A write keeps the canonical form. -/
theorem tabWf_tabSet (d : α) {t : Tab α} (i : Nat) (v : α) (h : tabWf d t = true) : tabWf d (tabSet d t i v) = true := by
  unfold tabSet
  split
  · exact tabWf_filter d _ h
  · rename_i hv
    unfold tabWf at h ⊢
    rw [Bool.and_eq_true] at h ⊢
    exact ⟨tabRising_tabInsert i v none h.1 rfl, tabInsert_all (by simp [hv]) h.2⟩

/-- Dropping a range of keys keeps the canonical form. -/
theorem tabWf_tabDrop (d : α) {t : Tab α} (lo hi : Nat) (h : tabWf d t = true) : tabWf d (tabDrop t lo hi) = true :=
  tabWf_filter d _ h

end Sys2Proof.Machine
end

