-- ==== Sys2Proof/Laws/State.lean ====
section
/-! SUPPORT. What each update of one indexed part of the state leaves of every other part, and what reading that part gives
after it; true by unfolding, so that no proof unfolds a record update. -/

namespace Sys2Proof.Machine

/-! ## A modification is a write of what was read -/

@[simp] theorem Dev.modJob_eq (d : Dev) (i : Nat) (f : Job → Job) : d.modJob i f = d.setJob i (f (d.job i)) := rfl
@[simp] theorem Dev.modTslot_eq (d : Dev) (i : Nat) (f : TrnSlot → TrnSlot) : d.modTslot i f = d.setTslot i (f (d.tslot i)) := rfl
@[simp] theorem Dev.modBasin_eq (d : Dev) (i : Nat) (f : Basin → Basin) : d.modBasin i f = d.setBasin i (f (d.basin i)) := rfl
@[simp] theorem Dev.modFrame_eq (d : Dev) (i : Nat) (f : Frame → Frame) : d.modFrame i f = d.setFrame i (f (d.frame i)) := rfl
@[simp] theorem Dev.modCore_eq (d : Dev) (i : Nat) (f : CoreSt → CoreSt) : d.modCore i f = d.setCore i (f (d.core i)) := rfl
@[simp] theorem Dev.modStack_eq (d : Dev) (i : Nat) (f : Stack → Stack) : d.modStack i f = d.setStack i (f (d.stack i)) := rfl
@[simp] theorem Dev.modPort_eq (d : Dev) (i : Nat) (f : Port → Port) : d.modPort i f = d.setPort i (f (d.port i)) := rfl
@[simp] theorem Dev.modStream_eq (d : Dev) (i : Nat) (f : Stream → Stream) : d.modStream i f = d.setStream i (f (d.stream i)) := rfl
@[simp] theorem Dev.modEthp_eq (d : Dev) (i : Nat) (f : Eth → Eth) : d.modEthp i f = d.setEthp i (f (d.ethp i)) := rfl
@[simp] theorem Dev.modConn_eq (d : Dev) (i : Nat) (f : Conn → Conn) : d.modConn i f = d.setConn i (f (d.conn i)) := rfl
@[simp] theorem Dev.modCtx_eq (d : Dev) (i : Nat) (f : Ctx → Ctx) :
    d.modCtx i f = d.setCore i { d.core i with ctx := f (d.core i).ctx } := rfl

/-! ## The part written -/

theorem Dev.job_setJob (d : Dev) (i k : Nat) (x : Job) : (d.setJob i x).job k = if k = i then x else d.job k := tabGet_tabSet _ _ _ _ _
@[simp] theorem Dev.job_setJob_self (d : Dev) (i : Nat) (x : Job) : (d.setJob i x).job i = x := tabGet_tabSet_self _ _ _ _
theorem Dev.tslot_setTslot (d : Dev) (i k : Nat) (x : TrnSlot) : (d.setTslot i x).tslot k = if k = i then x else d.tslot k := tabGet_tabSet _ _ _ _ _
@[simp] theorem Dev.tslot_setTslot_self (d : Dev) (i : Nat) (x : TrnSlot) : (d.setTslot i x).tslot i = x := tabGet_tabSet_self _ _ _ _
theorem Dev.basin_setBasin (d : Dev) (i k : Nat) (x : Basin) : (d.setBasin i x).basin k = if k = i then x else d.basin k := tabGet_tabSet _ _ _ _ _
@[simp] theorem Dev.basin_setBasin_self (d : Dev) (i : Nat) (x : Basin) : (d.setBasin i x).basin i = x := tabGet_tabSet_self _ _ _ _
theorem Dev.frame_setFrame (d : Dev) (i k : Nat) (x : Frame) : (d.setFrame i x).frame k = if k = i then x else d.frame k := tabGet_tabSet _ _ _ _ _
@[simp] theorem Dev.frame_setFrame_self (d : Dev) (i : Nat) (x : Frame) : (d.setFrame i x).frame i = x := tabGet_tabSet_self _ _ _ _
theorem Dev.freeStack_setFreeStack (d : Dev) (i k : Nat) (x : List Nat) : (d.setFreeStack i x).freeStack k = if k = i then x else d.freeStack k := tabGet_tabSet _ _ _ _ _
@[simp] theorem Dev.freeStack_setFreeStack_self (d : Dev) (i : Nat) (x : List Nat) : (d.setFreeStack i x).freeStack i = x := tabGet_tabSet_self _ _ _ _
theorem Dev.core_setCore (d : Dev) (i k : Nat) (x : CoreSt) : (d.setCore i x).core k = if k = i then x else d.core k := tabGet_tabSet _ _ _ _ _
@[simp] theorem Dev.core_setCore_self (d : Dev) (i : Nat) (x : CoreSt) : (d.setCore i x).core i = x := tabGet_tabSet_self _ _ _ _
theorem Dev.stack_setStack (d : Dev) (i k : Nat) (x : Stack) : (d.setStack i x).stack k = if k = i then x else d.stack k := tabGet_tabSet _ _ _ _ _
@[simp] theorem Dev.stack_setStack_self (d : Dev) (i : Nat) (x : Stack) : (d.setStack i x).stack i = x := tabGet_tabSet_self _ _ _ _
theorem Dev.port_setPort (d : Dev) (i k : Nat) (x : Port) : (d.setPort i x).port k = if k = i then x else d.port k := tabGet_tabSet _ _ _ _ _
@[simp] theorem Dev.port_setPort_self (d : Dev) (i : Nat) (x : Port) : (d.setPort i x).port i = x := tabGet_tabSet_self _ _ _ _
theorem Dev.grp_setGrp (d : Dev) (i k : Nat) (x : Grp) : (d.setGrp i x).grp k = if k = i then x else d.grp k := tabGet_tabSet _ _ _ _ _
@[simp] theorem Dev.grp_setGrp_self (d : Dev) (i : Nat) (x : Grp) : (d.setGrp i x).grp i = x := tabGet_tabSet_self _ _ _ _
theorem Dev.spout_setSpout (d : Dev) (i k : Nat) (x : Spout) : (d.setSpout i x).spout k = if k = i then x else d.spout k := tabGet_tabSet _ _ _ _ _
@[simp] theorem Dev.spout_setSpout_self (d : Dev) (i : Nat) (x : Spout) : (d.setSpout i x).spout i = x := tabGet_tabSet_self _ _ _ _
theorem Dev.stream_setStream (d : Dev) (i k : Nat) (x : Stream) : (d.setStream i x).stream k = if k = i then x else d.stream k := tabGet_tabSet _ _ _ _ _
@[simp] theorem Dev.stream_setStream_self (d : Dev) (i : Nat) (x : Stream) : (d.setStream i x).stream i = x := tabGet_tabSet_self _ _ _ _
theorem Dev.mbxc_setMbxc (d : Dev) (i k : Nat) (x : Mbx) : (d.setMbxc i x).mbxc k = if k = i then x else d.mbxc k := tabGet_tabSet _ _ _ _ _
@[simp] theorem Dev.mbxc_setMbxc_self (d : Dev) (i : Nat) (x : Mbx) : (d.setMbxc i x).mbxc i = x := tabGet_tabSet_self _ _ _ _
theorem Dev.schan_setSchan (d : Dev) (i k : Nat) (x : SecChan) : (d.setSchan i x).schan k = if k = i then x else d.schan k := tabGet_tabSet _ _ _ _ _
@[simp] theorem Dev.schan_setSchan_self (d : Dev) (i : Nat) (x : SecChan) : (d.setSchan i x).schan i = x := tabGet_tabSet_self _ _ _ _
theorem Dev.ethp_setEthp (d : Dev) (i k : Nat) (x : Eth) : (d.setEthp i x).ethp k = if k = i then x else d.ethp k := tabGet_tabSet _ _ _ _ _
@[simp] theorem Dev.ethp_setEthp_self (d : Dev) (i : Nat) (x : Eth) : (d.setEthp i x).ethp i = x := tabGet_tabSet_self _ _ _ _
theorem Dev.conn_setConn (d : Dev) (i k : Nat) (x : Conn) : (d.setConn i x).conn k = if k = i then x else d.conn k := tabGet_tabSet _ _ _ _ _
@[simp] theorem Dev.conn_setConn_self (d : Dev) (i : Nat) (x : Conn) : (d.setConn i x).conn i = x := tabGet_tabSet_self _ _ _ _
theorem Dev.assoc_setAssoc (d : Dev) (i k : Nat) (x : Assoc) : (d.setAssoc i x).assoc k = if k = i then x else d.assoc k := tabGet_tabSet _ _ _ _ _
@[simp] theorem Dev.assoc_setAssoc_self (d : Dev) (i : Nat) (x : Assoc) : (d.setAssoc i x).assoc i = x := tabGet_tabSet_self _ _ _ _

/-! ## The other parts -/

@[simp] theorem Dev.setJob_readLatch (d : Dev) (j : Nat) (x : Job) : (d.setJob j x).readLatch = d.readLatch := rfl
@[simp] theorem Dev.setJob_writeLatch (d : Dev) (j : Nat) (x : Job) : (d.setJob j x).writeLatch = d.writeLatch := rfl
@[simp] theorem Dev.setJob_str (d : Dev) (j : Nat) (x : Job) : (d.setJob j x).str = d.str := rfl
@[simp] theorem Dev.setJob_trn (d : Dev) (j : Nat) (x : Job) : (d.setJob j x).trn = d.trn := rfl
@[simp] theorem Dev.setJob_clp (d : Dev) (j : Nat) (x : Job) : (d.setJob j x).clp = d.clp := rfl
@[simp] theorem Dev.setJob_sch (d : Dev) (j : Nat) (x : Job) : (d.setJob j x).sch = d.sch := rfl
@[simp] theorem Dev.setJob_flt (d : Dev) (j : Nat) (x : Job) : (d.setJob j x).flt = d.flt := rfl
@[simp] theorem Dev.setJob_cnt (d : Dev) (j : Nat) (x : Job) : (d.setJob j x).cnt = d.cnt := rfl
@[simp] theorem Dev.setJob_sys (d : Dev) (j : Nat) (x : Job) : (d.setJob j x).sys = d.sys := rfl
@[simp] theorem Dev.setJob_hbm (d : Dev) (j : Nat) (x : Job) : (d.setJob j x).hbm = d.hbm := rfl
@[simp] theorem Dev.setJob_weir (d : Dev) (j : Nat) (x : Job) : (d.setJob j x).weir = d.weir := rfl
@[simp] theorem Dev.setJob_cores (d : Dev) (j : Nat) (x : Job) : (d.setJob j x).cores = d.cores := rfl
@[simp] theorem Dev.setJob_sems (d : Dev) (j : Nat) (x : Job) : (d.setJob j x).sems = d.sems := rfl
@[simp] theorem Dev.setJob_saved (d : Dev) (j : Nat) (x : Job) : (d.setJob j x).saved = d.saved := rfl
@[simp] theorem Dev.setJob_tmNext (d : Dev) (j : Nat) (x : Job) : (d.setJob j x).tmNext = d.tmNext := rfl
@[simp] theorem Dev.setJob_spouts (d : Dev) (j : Nat) (x : Job) : (d.setJob j x).spouts = d.spouts := rfl
@[simp] theorem Dev.setJob_klz (d : Dev) (j : Nat) (x : Job) : (d.setJob j x).klz = d.klz := rfl
@[simp] theorem Dev.setJob_cod (d : Dev) (j : Nat) (x : Job) : (d.setJob j x).cod = d.cod := rfl
@[simp] theorem Dev.setJob_eth (d : Dev) (j : Nat) (x : Job) : (d.setJob j x).eth = d.eth := rfl
@[simp] theorem Dev.setJob_pld (d : Dev) (j : Nat) (x : Job) : (d.setJob j x).pld = d.pld := rfl
@[simp] theorem Dev.setJob_mbxLocked (d : Dev) (j : Nat) (x : Job) : (d.setJob j x).mbxLocked = d.mbxLocked := rfl
@[simp] theorem Dev.setJob_mbx (d : Dev) (j : Nat) (x : Job) : (d.setJob j x).mbx = d.mbx := rfl
@[simp] theorem Dev.setJob_i3c (d : Dev) (j : Nat) (x : Job) : (d.setJob j x).i3c = d.i3c := rfl
@[simp] theorem Dev.setJob_sec (d : Dev) (j : Nat) (x : Job) : (d.setJob j x).sec = d.sec := rfl
@[simp] theorem Dev.setJob_bus (d : Dev) (j : Nat) (x : Job) : (d.setJob j x).bus = d.bus := rfl
@[simp] theorem Dev.setJob_mem (d : Dev) (j : Nat) (x : Job) : (d.setJob j x).mem = d.mem := rfl
@[simp] theorem Dev.setJob_poison (d : Dev) (j : Nat) (x : Job) : (d.setJob j x).poison = d.poison := rfl
@[simp] theorem Dev.setJob_upsets (d : Dev) (j : Nat) (x : Job) : (d.setJob j x).upsets = d.upsets := rfl
@[simp] theorem Dev.setJob_repairsDue (d : Dev) (j : Nat) (x : Job) : (d.setJob j x).repairsDue = d.repairsDue := rfl
@[simp] theorem Dev.setJob_free (d : Dev) (j : Nat) (x : Job) : (d.setJob j x).free = d.free := rfl
@[simp] theorem Dev.setJob_tslot (d : Dev) (j : Nat) (x : Job) (z : Nat) : (d.setJob j x).tslot z = d.tslot z := rfl
@[simp] theorem Dev.setJob_basin (d : Dev) (j : Nat) (x : Job) (z : Nat) : (d.setJob j x).basin z = d.basin z := rfl
@[simp] theorem Dev.setJob_frame (d : Dev) (j : Nat) (x : Job) (z : Nat) : (d.setJob j x).frame z = d.frame z := rfl
@[simp] theorem Dev.setJob_freeStack (d : Dev) (j : Nat) (x : Job) (z : Nat) : (d.setJob j x).freeStack z = d.freeStack z := rfl
@[simp] theorem Dev.setJob_core (d : Dev) (j : Nat) (x : Job) (z : Nat) : (d.setJob j x).core z = d.core z := rfl
@[simp] theorem Dev.setJob_stack (d : Dev) (j : Nat) (x : Job) (z : Nat) : (d.setJob j x).stack z = d.stack z := rfl
@[simp] theorem Dev.setJob_port (d : Dev) (j : Nat) (x : Job) (z : Nat) : (d.setJob j x).port z = d.port z := rfl
@[simp] theorem Dev.setJob_grp (d : Dev) (j : Nat) (x : Job) (z : Nat) : (d.setJob j x).grp z = d.grp z := rfl
@[simp] theorem Dev.setJob_spout (d : Dev) (j : Nat) (x : Job) (z : Nat) : (d.setJob j x).spout z = d.spout z := rfl
@[simp] theorem Dev.setJob_stream (d : Dev) (j : Nat) (x : Job) (z : Nat) : (d.setJob j x).stream z = d.stream z := rfl
@[simp] theorem Dev.setJob_mbxc (d : Dev) (j : Nat) (x : Job) (z : Nat) : (d.setJob j x).mbxc z = d.mbxc z := rfl
@[simp] theorem Dev.setJob_schan (d : Dev) (j : Nat) (x : Job) (z : Nat) : (d.setJob j x).schan z = d.schan z := rfl
@[simp] theorem Dev.setJob_ethp (d : Dev) (j : Nat) (x : Job) (z : Nat) : (d.setJob j x).ethp z = d.ethp z := rfl
@[simp] theorem Dev.setJob_conn (d : Dev) (j : Nat) (x : Job) (z : Nat) : (d.setJob j x).conn z = d.conn z := rfl
@[simp] theorem Dev.setJob_assoc (d : Dev) (j : Nat) (x : Job) (z : Nat) : (d.setJob j x).assoc z = d.assoc z := rfl
@[simp] theorem Dev.setTslot_readLatch (d : Dev) (j : Nat) (x : TrnSlot) : (d.setTslot j x).readLatch = d.readLatch := rfl
@[simp] theorem Dev.setTslot_writeLatch (d : Dev) (j : Nat) (x : TrnSlot) : (d.setTslot j x).writeLatch = d.writeLatch := rfl
@[simp] theorem Dev.setTslot_str (d : Dev) (j : Nat) (x : TrnSlot) : (d.setTslot j x).str = d.str := rfl
@[simp] theorem Dev.setTslot_clp (d : Dev) (j : Nat) (x : TrnSlot) : (d.setTslot j x).clp = d.clp := rfl
@[simp] theorem Dev.setTslot_jobs (d : Dev) (j : Nat) (x : TrnSlot) : (d.setTslot j x).jobs = d.jobs := rfl
@[simp] theorem Dev.setTslot_sch (d : Dev) (j : Nat) (x : TrnSlot) : (d.setTslot j x).sch = d.sch := rfl
@[simp] theorem Dev.setTslot_flt (d : Dev) (j : Nat) (x : TrnSlot) : (d.setTslot j x).flt = d.flt := rfl
@[simp] theorem Dev.setTslot_cnt (d : Dev) (j : Nat) (x : TrnSlot) : (d.setTslot j x).cnt = d.cnt := rfl
@[simp] theorem Dev.setTslot_sys (d : Dev) (j : Nat) (x : TrnSlot) : (d.setTslot j x).sys = d.sys := rfl
@[simp] theorem Dev.setTslot_hbm (d : Dev) (j : Nat) (x : TrnSlot) : (d.setTslot j x).hbm = d.hbm := rfl
@[simp] theorem Dev.setTslot_weir (d : Dev) (j : Nat) (x : TrnSlot) : (d.setTslot j x).weir = d.weir := rfl
@[simp] theorem Dev.setTslot_cores (d : Dev) (j : Nat) (x : TrnSlot) : (d.setTslot j x).cores = d.cores := rfl
@[simp] theorem Dev.setTslot_sems (d : Dev) (j : Nat) (x : TrnSlot) : (d.setTslot j x).sems = d.sems := rfl
@[simp] theorem Dev.setTslot_saved (d : Dev) (j : Nat) (x : TrnSlot) : (d.setTslot j x).saved = d.saved := rfl
@[simp] theorem Dev.setTslot_tmNext (d : Dev) (j : Nat) (x : TrnSlot) : (d.setTslot j x).tmNext = d.tmNext := rfl
@[simp] theorem Dev.setTslot_spouts (d : Dev) (j : Nat) (x : TrnSlot) : (d.setTslot j x).spouts = d.spouts := rfl
@[simp] theorem Dev.setTslot_klz (d : Dev) (j : Nat) (x : TrnSlot) : (d.setTslot j x).klz = d.klz := rfl
@[simp] theorem Dev.setTslot_cod (d : Dev) (j : Nat) (x : TrnSlot) : (d.setTslot j x).cod = d.cod := rfl
@[simp] theorem Dev.setTslot_eth (d : Dev) (j : Nat) (x : TrnSlot) : (d.setTslot j x).eth = d.eth := rfl
@[simp] theorem Dev.setTslot_pld (d : Dev) (j : Nat) (x : TrnSlot) : (d.setTslot j x).pld = d.pld := rfl
@[simp] theorem Dev.setTslot_mbxLocked (d : Dev) (j : Nat) (x : TrnSlot) : (d.setTslot j x).mbxLocked = d.mbxLocked := rfl
@[simp] theorem Dev.setTslot_mbx (d : Dev) (j : Nat) (x : TrnSlot) : (d.setTslot j x).mbx = d.mbx := rfl
@[simp] theorem Dev.setTslot_i3c (d : Dev) (j : Nat) (x : TrnSlot) : (d.setTslot j x).i3c = d.i3c := rfl
@[simp] theorem Dev.setTslot_sec (d : Dev) (j : Nat) (x : TrnSlot) : (d.setTslot j x).sec = d.sec := rfl
@[simp] theorem Dev.setTslot_bus (d : Dev) (j : Nat) (x : TrnSlot) : (d.setTslot j x).bus = d.bus := rfl
@[simp] theorem Dev.setTslot_mem (d : Dev) (j : Nat) (x : TrnSlot) : (d.setTslot j x).mem = d.mem := rfl
@[simp] theorem Dev.setTslot_poison (d : Dev) (j : Nat) (x : TrnSlot) : (d.setTslot j x).poison = d.poison := rfl
@[simp] theorem Dev.setTslot_upsets (d : Dev) (j : Nat) (x : TrnSlot) : (d.setTslot j x).upsets = d.upsets := rfl
@[simp] theorem Dev.setTslot_repairsDue (d : Dev) (j : Nat) (x : TrnSlot) : (d.setTslot j x).repairsDue = d.repairsDue := rfl
@[simp] theorem Dev.setTslot_free (d : Dev) (j : Nat) (x : TrnSlot) : (d.setTslot j x).free = d.free := rfl
@[simp] theorem Dev.setTslot_job (d : Dev) (j : Nat) (x : TrnSlot) (z : Nat) : (d.setTslot j x).job z = d.job z := rfl
@[simp] theorem Dev.setTslot_basin (d : Dev) (j : Nat) (x : TrnSlot) (z : Nat) : (d.setTslot j x).basin z = d.basin z := rfl
@[simp] theorem Dev.setTslot_frame (d : Dev) (j : Nat) (x : TrnSlot) (z : Nat) : (d.setTslot j x).frame z = d.frame z := rfl
@[simp] theorem Dev.setTslot_freeStack (d : Dev) (j : Nat) (x : TrnSlot) (z : Nat) : (d.setTslot j x).freeStack z = d.freeStack z := rfl
@[simp] theorem Dev.setTslot_core (d : Dev) (j : Nat) (x : TrnSlot) (z : Nat) : (d.setTslot j x).core z = d.core z := rfl
@[simp] theorem Dev.setTslot_stack (d : Dev) (j : Nat) (x : TrnSlot) (z : Nat) : (d.setTslot j x).stack z = d.stack z := rfl
@[simp] theorem Dev.setTslot_port (d : Dev) (j : Nat) (x : TrnSlot) (z : Nat) : (d.setTslot j x).port z = d.port z := rfl
@[simp] theorem Dev.setTslot_grp (d : Dev) (j : Nat) (x : TrnSlot) (z : Nat) : (d.setTslot j x).grp z = d.grp z := rfl
@[simp] theorem Dev.setTslot_spout (d : Dev) (j : Nat) (x : TrnSlot) (z : Nat) : (d.setTslot j x).spout z = d.spout z := rfl
@[simp] theorem Dev.setTslot_stream (d : Dev) (j : Nat) (x : TrnSlot) (z : Nat) : (d.setTslot j x).stream z = d.stream z := rfl
@[simp] theorem Dev.setTslot_mbxc (d : Dev) (j : Nat) (x : TrnSlot) (z : Nat) : (d.setTslot j x).mbxc z = d.mbxc z := rfl
@[simp] theorem Dev.setTslot_schan (d : Dev) (j : Nat) (x : TrnSlot) (z : Nat) : (d.setTslot j x).schan z = d.schan z := rfl
@[simp] theorem Dev.setTslot_ethp (d : Dev) (j : Nat) (x : TrnSlot) (z : Nat) : (d.setTslot j x).ethp z = d.ethp z := rfl
@[simp] theorem Dev.setTslot_conn (d : Dev) (j : Nat) (x : TrnSlot) (z : Nat) : (d.setTslot j x).conn z = d.conn z := rfl
@[simp] theorem Dev.setTslot_assoc (d : Dev) (j : Nat) (x : TrnSlot) (z : Nat) : (d.setTslot j x).assoc z = d.assoc z := rfl
@[simp] theorem Dev.setBasin_readLatch (d : Dev) (b : Nat) (x : Basin) : (d.setBasin b x).readLatch = d.readLatch := rfl
@[simp] theorem Dev.setBasin_writeLatch (d : Dev) (b : Nat) (x : Basin) : (d.setBasin b x).writeLatch = d.writeLatch := rfl
@[simp] theorem Dev.setBasin_str (d : Dev) (b : Nat) (x : Basin) : (d.setBasin b x).str = d.str := rfl
@[simp] theorem Dev.setBasin_trn (d : Dev) (b : Nat) (x : Basin) : (d.setBasin b x).trn = d.trn := rfl
@[simp] theorem Dev.setBasin_clp (d : Dev) (b : Nat) (x : Basin) : (d.setBasin b x).clp = d.clp := rfl
@[simp] theorem Dev.setBasin_jobs (d : Dev) (b : Nat) (x : Basin) : (d.setBasin b x).jobs = d.jobs := rfl
@[simp] theorem Dev.setBasin_flt (d : Dev) (b : Nat) (x : Basin) : (d.setBasin b x).flt = d.flt := rfl
@[simp] theorem Dev.setBasin_cnt (d : Dev) (b : Nat) (x : Basin) : (d.setBasin b x).cnt = d.cnt := rfl
@[simp] theorem Dev.setBasin_sys (d : Dev) (b : Nat) (x : Basin) : (d.setBasin b x).sys = d.sys := rfl
@[simp] theorem Dev.setBasin_hbm (d : Dev) (b : Nat) (x : Basin) : (d.setBasin b x).hbm = d.hbm := rfl
@[simp] theorem Dev.setBasin_weir (d : Dev) (b : Nat) (x : Basin) : (d.setBasin b x).weir = d.weir := rfl
@[simp] theorem Dev.setBasin_cores (d : Dev) (b : Nat) (x : Basin) : (d.setBasin b x).cores = d.cores := rfl
@[simp] theorem Dev.setBasin_sems (d : Dev) (b : Nat) (x : Basin) : (d.setBasin b x).sems = d.sems := rfl
@[simp] theorem Dev.setBasin_saved (d : Dev) (b : Nat) (x : Basin) : (d.setBasin b x).saved = d.saved := rfl
@[simp] theorem Dev.setBasin_tmNext (d : Dev) (b : Nat) (x : Basin) : (d.setBasin b x).tmNext = d.tmNext := rfl
@[simp] theorem Dev.setBasin_spouts (d : Dev) (b : Nat) (x : Basin) : (d.setBasin b x).spouts = d.spouts := rfl
@[simp] theorem Dev.setBasin_klz (d : Dev) (b : Nat) (x : Basin) : (d.setBasin b x).klz = d.klz := rfl
@[simp] theorem Dev.setBasin_cod (d : Dev) (b : Nat) (x : Basin) : (d.setBasin b x).cod = d.cod := rfl
@[simp] theorem Dev.setBasin_eth (d : Dev) (b : Nat) (x : Basin) : (d.setBasin b x).eth = d.eth := rfl
@[simp] theorem Dev.setBasin_pld (d : Dev) (b : Nat) (x : Basin) : (d.setBasin b x).pld = d.pld := rfl
@[simp] theorem Dev.setBasin_mbxLocked (d : Dev) (b : Nat) (x : Basin) : (d.setBasin b x).mbxLocked = d.mbxLocked := rfl
@[simp] theorem Dev.setBasin_mbx (d : Dev) (b : Nat) (x : Basin) : (d.setBasin b x).mbx = d.mbx := rfl
@[simp] theorem Dev.setBasin_i3c (d : Dev) (b : Nat) (x : Basin) : (d.setBasin b x).i3c = d.i3c := rfl
@[simp] theorem Dev.setBasin_sec (d : Dev) (b : Nat) (x : Basin) : (d.setBasin b x).sec = d.sec := rfl
@[simp] theorem Dev.setBasin_bus (d : Dev) (b : Nat) (x : Basin) : (d.setBasin b x).bus = d.bus := rfl
@[simp] theorem Dev.setBasin_mem (d : Dev) (b : Nat) (x : Basin) : (d.setBasin b x).mem = d.mem := rfl
@[simp] theorem Dev.setBasin_poison (d : Dev) (b : Nat) (x : Basin) : (d.setBasin b x).poison = d.poison := rfl
@[simp] theorem Dev.setBasin_upsets (d : Dev) (b : Nat) (x : Basin) : (d.setBasin b x).upsets = d.upsets := rfl
@[simp] theorem Dev.setBasin_repairsDue (d : Dev) (b : Nat) (x : Basin) : (d.setBasin b x).repairsDue = d.repairsDue := rfl
@[simp] theorem Dev.setBasin_free (d : Dev) (b : Nat) (x : Basin) : (d.setBasin b x).free = d.free := rfl
@[simp] theorem Dev.setBasin_job (d : Dev) (b : Nat) (x : Basin) (z : Nat) : (d.setBasin b x).job z = d.job z := rfl
@[simp] theorem Dev.setBasin_tslot (d : Dev) (b : Nat) (x : Basin) (z : Nat) : (d.setBasin b x).tslot z = d.tslot z := rfl
@[simp] theorem Dev.setBasin_frame (d : Dev) (b : Nat) (x : Basin) (z : Nat) : (d.setBasin b x).frame z = d.frame z := rfl
@[simp] theorem Dev.setBasin_freeStack (d : Dev) (b : Nat) (x : Basin) (z : Nat) : (d.setBasin b x).freeStack z = d.freeStack z := rfl
@[simp] theorem Dev.setBasin_core (d : Dev) (b : Nat) (x : Basin) (z : Nat) : (d.setBasin b x).core z = d.core z := rfl
@[simp] theorem Dev.setBasin_stack (d : Dev) (b : Nat) (x : Basin) (z : Nat) : (d.setBasin b x).stack z = d.stack z := rfl
@[simp] theorem Dev.setBasin_port (d : Dev) (b : Nat) (x : Basin) (z : Nat) : (d.setBasin b x).port z = d.port z := rfl
@[simp] theorem Dev.setBasin_grp (d : Dev) (b : Nat) (x : Basin) (z : Nat) : (d.setBasin b x).grp z = d.grp z := rfl
@[simp] theorem Dev.setBasin_spout (d : Dev) (b : Nat) (x : Basin) (z : Nat) : (d.setBasin b x).spout z = d.spout z := rfl
@[simp] theorem Dev.setBasin_stream (d : Dev) (b : Nat) (x : Basin) (z : Nat) : (d.setBasin b x).stream z = d.stream z := rfl
@[simp] theorem Dev.setBasin_mbxc (d : Dev) (b : Nat) (x : Basin) (z : Nat) : (d.setBasin b x).mbxc z = d.mbxc z := rfl
@[simp] theorem Dev.setBasin_schan (d : Dev) (b : Nat) (x : Basin) (z : Nat) : (d.setBasin b x).schan z = d.schan z := rfl
@[simp] theorem Dev.setBasin_ethp (d : Dev) (b : Nat) (x : Basin) (z : Nat) : (d.setBasin b x).ethp z = d.ethp z := rfl
@[simp] theorem Dev.setBasin_conn (d : Dev) (b : Nat) (x : Basin) (z : Nat) : (d.setBasin b x).conn z = d.conn z := rfl
@[simp] theorem Dev.setBasin_assoc (d : Dev) (b : Nat) (x : Basin) (z : Nat) : (d.setBasin b x).assoc z = d.assoc z := rfl
@[simp] theorem Dev.setFrame_readLatch (d : Dev) (f : Nat) (x : Frame) : (d.setFrame f x).readLatch = d.readLatch := rfl
@[simp] theorem Dev.setFrame_writeLatch (d : Dev) (f : Nat) (x : Frame) : (d.setFrame f x).writeLatch = d.writeLatch := rfl
@[simp] theorem Dev.setFrame_str (d : Dev) (f : Nat) (x : Frame) : (d.setFrame f x).str = d.str := rfl
@[simp] theorem Dev.setFrame_clp (d : Dev) (f : Nat) (x : Frame) : (d.setFrame f x).clp = d.clp := rfl
@[simp] theorem Dev.setFrame_jobs (d : Dev) (f : Nat) (x : Frame) : (d.setFrame f x).jobs = d.jobs := rfl
@[simp] theorem Dev.setFrame_sch (d : Dev) (f : Nat) (x : Frame) : (d.setFrame f x).sch = d.sch := rfl
@[simp] theorem Dev.setFrame_flt (d : Dev) (f : Nat) (x : Frame) : (d.setFrame f x).flt = d.flt := rfl
@[simp] theorem Dev.setFrame_cnt (d : Dev) (f : Nat) (x : Frame) : (d.setFrame f x).cnt = d.cnt := rfl
@[simp] theorem Dev.setFrame_sys (d : Dev) (f : Nat) (x : Frame) : (d.setFrame f x).sys = d.sys := rfl
@[simp] theorem Dev.setFrame_hbm (d : Dev) (f : Nat) (x : Frame) : (d.setFrame f x).hbm = d.hbm := rfl
@[simp] theorem Dev.setFrame_weir (d : Dev) (f : Nat) (x : Frame) : (d.setFrame f x).weir = d.weir := rfl
@[simp] theorem Dev.setFrame_cores (d : Dev) (f : Nat) (x : Frame) : (d.setFrame f x).cores = d.cores := rfl
@[simp] theorem Dev.setFrame_sems (d : Dev) (f : Nat) (x : Frame) : (d.setFrame f x).sems = d.sems := rfl
@[simp] theorem Dev.setFrame_saved (d : Dev) (f : Nat) (x : Frame) : (d.setFrame f x).saved = d.saved := rfl
@[simp] theorem Dev.setFrame_tmNext (d : Dev) (f : Nat) (x : Frame) : (d.setFrame f x).tmNext = d.tmNext := rfl
@[simp] theorem Dev.setFrame_spouts (d : Dev) (f : Nat) (x : Frame) : (d.setFrame f x).spouts = d.spouts := rfl
@[simp] theorem Dev.setFrame_klz (d : Dev) (f : Nat) (x : Frame) : (d.setFrame f x).klz = d.klz := rfl
@[simp] theorem Dev.setFrame_cod (d : Dev) (f : Nat) (x : Frame) : (d.setFrame f x).cod = d.cod := rfl
@[simp] theorem Dev.setFrame_eth (d : Dev) (f : Nat) (x : Frame) : (d.setFrame f x).eth = d.eth := rfl
@[simp] theorem Dev.setFrame_pld (d : Dev) (f : Nat) (x : Frame) : (d.setFrame f x).pld = d.pld := rfl
@[simp] theorem Dev.setFrame_mbxLocked (d : Dev) (f : Nat) (x : Frame) : (d.setFrame f x).mbxLocked = d.mbxLocked := rfl
@[simp] theorem Dev.setFrame_mbx (d : Dev) (f : Nat) (x : Frame) : (d.setFrame f x).mbx = d.mbx := rfl
@[simp] theorem Dev.setFrame_i3c (d : Dev) (f : Nat) (x : Frame) : (d.setFrame f x).i3c = d.i3c := rfl
@[simp] theorem Dev.setFrame_sec (d : Dev) (f : Nat) (x : Frame) : (d.setFrame f x).sec = d.sec := rfl
@[simp] theorem Dev.setFrame_bus (d : Dev) (f : Nat) (x : Frame) : (d.setFrame f x).bus = d.bus := rfl
@[simp] theorem Dev.setFrame_mem (d : Dev) (f : Nat) (x : Frame) : (d.setFrame f x).mem = d.mem := rfl
@[simp] theorem Dev.setFrame_poison (d : Dev) (f : Nat) (x : Frame) : (d.setFrame f x).poison = d.poison := rfl
@[simp] theorem Dev.setFrame_upsets (d : Dev) (f : Nat) (x : Frame) : (d.setFrame f x).upsets = d.upsets := rfl
@[simp] theorem Dev.setFrame_repairsDue (d : Dev) (f : Nat) (x : Frame) : (d.setFrame f x).repairsDue = d.repairsDue := rfl
@[simp] theorem Dev.setFrame_free (d : Dev) (f : Nat) (x : Frame) : (d.setFrame f x).free = d.free := rfl
@[simp] theorem Dev.setFrame_job (d : Dev) (f : Nat) (x : Frame) (z : Nat) : (d.setFrame f x).job z = d.job z := rfl
@[simp] theorem Dev.setFrame_tslot (d : Dev) (f : Nat) (x : Frame) (z : Nat) : (d.setFrame f x).tslot z = d.tslot z := rfl
@[simp] theorem Dev.setFrame_basin (d : Dev) (f : Nat) (x : Frame) (z : Nat) : (d.setFrame f x).basin z = d.basin z := rfl
@[simp] theorem Dev.setFrame_freeStack (d : Dev) (f : Nat) (x : Frame) (z : Nat) : (d.setFrame f x).freeStack z = d.freeStack z := rfl
@[simp] theorem Dev.setFrame_core (d : Dev) (f : Nat) (x : Frame) (z : Nat) : (d.setFrame f x).core z = d.core z := rfl
@[simp] theorem Dev.setFrame_stack (d : Dev) (f : Nat) (x : Frame) (z : Nat) : (d.setFrame f x).stack z = d.stack z := rfl
@[simp] theorem Dev.setFrame_port (d : Dev) (f : Nat) (x : Frame) (z : Nat) : (d.setFrame f x).port z = d.port z := rfl
@[simp] theorem Dev.setFrame_grp (d : Dev) (f : Nat) (x : Frame) (z : Nat) : (d.setFrame f x).grp z = d.grp z := rfl
@[simp] theorem Dev.setFrame_spout (d : Dev) (f : Nat) (x : Frame) (z : Nat) : (d.setFrame f x).spout z = d.spout z := rfl
@[simp] theorem Dev.setFrame_stream (d : Dev) (f : Nat) (x : Frame) (z : Nat) : (d.setFrame f x).stream z = d.stream z := rfl
@[simp] theorem Dev.setFrame_mbxc (d : Dev) (f : Nat) (x : Frame) (z : Nat) : (d.setFrame f x).mbxc z = d.mbxc z := rfl
@[simp] theorem Dev.setFrame_schan (d : Dev) (f : Nat) (x : Frame) (z : Nat) : (d.setFrame f x).schan z = d.schan z := rfl
@[simp] theorem Dev.setFrame_ethp (d : Dev) (f : Nat) (x : Frame) (z : Nat) : (d.setFrame f x).ethp z = d.ethp z := rfl
@[simp] theorem Dev.setFrame_conn (d : Dev) (f : Nat) (x : Frame) (z : Nat) : (d.setFrame f x).conn z = d.conn z := rfl
@[simp] theorem Dev.setFrame_assoc (d : Dev) (f : Nat) (x : Frame) (z : Nat) : (d.setFrame f x).assoc z = d.assoc z := rfl
@[simp] theorem Dev.setFreeStack_readLatch (d : Dev) (b : Nat) (l : List Nat) : (d.setFreeStack b l).readLatch = d.readLatch := rfl
@[simp] theorem Dev.setFreeStack_writeLatch (d : Dev) (b : Nat) (l : List Nat) : (d.setFreeStack b l).writeLatch = d.writeLatch := rfl
@[simp] theorem Dev.setFreeStack_str (d : Dev) (b : Nat) (l : List Nat) : (d.setFreeStack b l).str = d.str := rfl
@[simp] theorem Dev.setFreeStack_clp (d : Dev) (b : Nat) (l : List Nat) : (d.setFreeStack b l).clp = d.clp := rfl
@[simp] theorem Dev.setFreeStack_jobs (d : Dev) (b : Nat) (l : List Nat) : (d.setFreeStack b l).jobs = d.jobs := rfl
@[simp] theorem Dev.setFreeStack_sch (d : Dev) (b : Nat) (l : List Nat) : (d.setFreeStack b l).sch = d.sch := rfl
@[simp] theorem Dev.setFreeStack_flt (d : Dev) (b : Nat) (l : List Nat) : (d.setFreeStack b l).flt = d.flt := rfl
@[simp] theorem Dev.setFreeStack_cnt (d : Dev) (b : Nat) (l : List Nat) : (d.setFreeStack b l).cnt = d.cnt := rfl
@[simp] theorem Dev.setFreeStack_sys (d : Dev) (b : Nat) (l : List Nat) : (d.setFreeStack b l).sys = d.sys := rfl
@[simp] theorem Dev.setFreeStack_hbm (d : Dev) (b : Nat) (l : List Nat) : (d.setFreeStack b l).hbm = d.hbm := rfl
@[simp] theorem Dev.setFreeStack_weir (d : Dev) (b : Nat) (l : List Nat) : (d.setFreeStack b l).weir = d.weir := rfl
@[simp] theorem Dev.setFreeStack_cores (d : Dev) (b : Nat) (l : List Nat) : (d.setFreeStack b l).cores = d.cores := rfl
@[simp] theorem Dev.setFreeStack_sems (d : Dev) (b : Nat) (l : List Nat) : (d.setFreeStack b l).sems = d.sems := rfl
@[simp] theorem Dev.setFreeStack_saved (d : Dev) (b : Nat) (l : List Nat) : (d.setFreeStack b l).saved = d.saved := rfl
@[simp] theorem Dev.setFreeStack_tmNext (d : Dev) (b : Nat) (l : List Nat) : (d.setFreeStack b l).tmNext = d.tmNext := rfl
@[simp] theorem Dev.setFreeStack_spouts (d : Dev) (b : Nat) (l : List Nat) : (d.setFreeStack b l).spouts = d.spouts := rfl
@[simp] theorem Dev.setFreeStack_klz (d : Dev) (b : Nat) (l : List Nat) : (d.setFreeStack b l).klz = d.klz := rfl
@[simp] theorem Dev.setFreeStack_cod (d : Dev) (b : Nat) (l : List Nat) : (d.setFreeStack b l).cod = d.cod := rfl
@[simp] theorem Dev.setFreeStack_eth (d : Dev) (b : Nat) (l : List Nat) : (d.setFreeStack b l).eth = d.eth := rfl
@[simp] theorem Dev.setFreeStack_pld (d : Dev) (b : Nat) (l : List Nat) : (d.setFreeStack b l).pld = d.pld := rfl
@[simp] theorem Dev.setFreeStack_mbxLocked (d : Dev) (b : Nat) (l : List Nat) : (d.setFreeStack b l).mbxLocked = d.mbxLocked := rfl
@[simp] theorem Dev.setFreeStack_mbx (d : Dev) (b : Nat) (l : List Nat) : (d.setFreeStack b l).mbx = d.mbx := rfl
@[simp] theorem Dev.setFreeStack_i3c (d : Dev) (b : Nat) (l : List Nat) : (d.setFreeStack b l).i3c = d.i3c := rfl
@[simp] theorem Dev.setFreeStack_sec (d : Dev) (b : Nat) (l : List Nat) : (d.setFreeStack b l).sec = d.sec := rfl
@[simp] theorem Dev.setFreeStack_bus (d : Dev) (b : Nat) (l : List Nat) : (d.setFreeStack b l).bus = d.bus := rfl
@[simp] theorem Dev.setFreeStack_mem (d : Dev) (b : Nat) (l : List Nat) : (d.setFreeStack b l).mem = d.mem := rfl
@[simp] theorem Dev.setFreeStack_poison (d : Dev) (b : Nat) (l : List Nat) : (d.setFreeStack b l).poison = d.poison := rfl
@[simp] theorem Dev.setFreeStack_upsets (d : Dev) (b : Nat) (l : List Nat) : (d.setFreeStack b l).upsets = d.upsets := rfl
@[simp] theorem Dev.setFreeStack_repairsDue (d : Dev) (b : Nat) (l : List Nat) : (d.setFreeStack b l).repairsDue = d.repairsDue := rfl
@[simp] theorem Dev.setFreeStack_free (d : Dev) (b : Nat) (l : List Nat) : (d.setFreeStack b l).free = d.free := rfl
@[simp] theorem Dev.setFreeStack_job (d : Dev) (b : Nat) (l : List Nat) (z : Nat) : (d.setFreeStack b l).job z = d.job z := rfl
@[simp] theorem Dev.setFreeStack_tslot (d : Dev) (b : Nat) (l : List Nat) (z : Nat) : (d.setFreeStack b l).tslot z = d.tslot z := rfl
@[simp] theorem Dev.setFreeStack_basin (d : Dev) (b : Nat) (l : List Nat) (z : Nat) : (d.setFreeStack b l).basin z = d.basin z := rfl
@[simp] theorem Dev.setFreeStack_frame (d : Dev) (b : Nat) (l : List Nat) (z : Nat) : (d.setFreeStack b l).frame z = d.frame z := rfl
@[simp] theorem Dev.setFreeStack_core (d : Dev) (b : Nat) (l : List Nat) (z : Nat) : (d.setFreeStack b l).core z = d.core z := rfl
@[simp] theorem Dev.setFreeStack_stack (d : Dev) (b : Nat) (l : List Nat) (z : Nat) : (d.setFreeStack b l).stack z = d.stack z := rfl
@[simp] theorem Dev.setFreeStack_port (d : Dev) (b : Nat) (l : List Nat) (z : Nat) : (d.setFreeStack b l).port z = d.port z := rfl
@[simp] theorem Dev.setFreeStack_grp (d : Dev) (b : Nat) (l : List Nat) (z : Nat) : (d.setFreeStack b l).grp z = d.grp z := rfl
@[simp] theorem Dev.setFreeStack_spout (d : Dev) (b : Nat) (l : List Nat) (z : Nat) : (d.setFreeStack b l).spout z = d.spout z := rfl
@[simp] theorem Dev.setFreeStack_stream (d : Dev) (b : Nat) (l : List Nat) (z : Nat) : (d.setFreeStack b l).stream z = d.stream z := rfl
@[simp] theorem Dev.setFreeStack_mbxc (d : Dev) (b : Nat) (l : List Nat) (z : Nat) : (d.setFreeStack b l).mbxc z = d.mbxc z := rfl
@[simp] theorem Dev.setFreeStack_schan (d : Dev) (b : Nat) (l : List Nat) (z : Nat) : (d.setFreeStack b l).schan z = d.schan z := rfl
@[simp] theorem Dev.setFreeStack_ethp (d : Dev) (b : Nat) (l : List Nat) (z : Nat) : (d.setFreeStack b l).ethp z = d.ethp z := rfl
@[simp] theorem Dev.setFreeStack_conn (d : Dev) (b : Nat) (l : List Nat) (z : Nat) : (d.setFreeStack b l).conn z = d.conn z := rfl
@[simp] theorem Dev.setFreeStack_assoc (d : Dev) (b : Nat) (l : List Nat) (z : Nat) : (d.setFreeStack b l).assoc z = d.assoc z := rfl
@[simp] theorem Dev.setCore_readLatch (d : Dev) (p : Nat) (x : CoreSt) : (d.setCore p x).readLatch = d.readLatch := rfl
@[simp] theorem Dev.setCore_writeLatch (d : Dev) (p : Nat) (x : CoreSt) : (d.setCore p x).writeLatch = d.writeLatch := rfl
@[simp] theorem Dev.setCore_str (d : Dev) (p : Nat) (x : CoreSt) : (d.setCore p x).str = d.str := rfl
@[simp] theorem Dev.setCore_trn (d : Dev) (p : Nat) (x : CoreSt) : (d.setCore p x).trn = d.trn := rfl
@[simp] theorem Dev.setCore_clp (d : Dev) (p : Nat) (x : CoreSt) : (d.setCore p x).clp = d.clp := rfl
@[simp] theorem Dev.setCore_jobs (d : Dev) (p : Nat) (x : CoreSt) : (d.setCore p x).jobs = d.jobs := rfl
@[simp] theorem Dev.setCore_sch (d : Dev) (p : Nat) (x : CoreSt) : (d.setCore p x).sch = d.sch := rfl
@[simp] theorem Dev.setCore_flt (d : Dev) (p : Nat) (x : CoreSt) : (d.setCore p x).flt = d.flt := rfl
@[simp] theorem Dev.setCore_cnt (d : Dev) (p : Nat) (x : CoreSt) : (d.setCore p x).cnt = d.cnt := rfl
@[simp] theorem Dev.setCore_sys (d : Dev) (p : Nat) (x : CoreSt) : (d.setCore p x).sys = d.sys := rfl
@[simp] theorem Dev.setCore_hbm (d : Dev) (p : Nat) (x : CoreSt) : (d.setCore p x).hbm = d.hbm := rfl
@[simp] theorem Dev.setCore_weir (d : Dev) (p : Nat) (x : CoreSt) : (d.setCore p x).weir = d.weir := rfl
@[simp] theorem Dev.setCore_sems (d : Dev) (p : Nat) (x : CoreSt) : (d.setCore p x).sems = d.sems := rfl
@[simp] theorem Dev.setCore_saved (d : Dev) (p : Nat) (x : CoreSt) : (d.setCore p x).saved = d.saved := rfl
@[simp] theorem Dev.setCore_tmNext (d : Dev) (p : Nat) (x : CoreSt) : (d.setCore p x).tmNext = d.tmNext := rfl
@[simp] theorem Dev.setCore_spouts (d : Dev) (p : Nat) (x : CoreSt) : (d.setCore p x).spouts = d.spouts := rfl
@[simp] theorem Dev.setCore_klz (d : Dev) (p : Nat) (x : CoreSt) : (d.setCore p x).klz = d.klz := rfl
@[simp] theorem Dev.setCore_cod (d : Dev) (p : Nat) (x : CoreSt) : (d.setCore p x).cod = d.cod := rfl
@[simp] theorem Dev.setCore_eth (d : Dev) (p : Nat) (x : CoreSt) : (d.setCore p x).eth = d.eth := rfl
@[simp] theorem Dev.setCore_pld (d : Dev) (p : Nat) (x : CoreSt) : (d.setCore p x).pld = d.pld := rfl
@[simp] theorem Dev.setCore_mbxLocked (d : Dev) (p : Nat) (x : CoreSt) : (d.setCore p x).mbxLocked = d.mbxLocked := rfl
@[simp] theorem Dev.setCore_mbx (d : Dev) (p : Nat) (x : CoreSt) : (d.setCore p x).mbx = d.mbx := rfl
@[simp] theorem Dev.setCore_i3c (d : Dev) (p : Nat) (x : CoreSt) : (d.setCore p x).i3c = d.i3c := rfl
@[simp] theorem Dev.setCore_sec (d : Dev) (p : Nat) (x : CoreSt) : (d.setCore p x).sec = d.sec := rfl
@[simp] theorem Dev.setCore_bus (d : Dev) (p : Nat) (x : CoreSt) : (d.setCore p x).bus = d.bus := rfl
@[simp] theorem Dev.setCore_mem (d : Dev) (p : Nat) (x : CoreSt) : (d.setCore p x).mem = d.mem := rfl
@[simp] theorem Dev.setCore_poison (d : Dev) (p : Nat) (x : CoreSt) : (d.setCore p x).poison = d.poison := rfl
@[simp] theorem Dev.setCore_upsets (d : Dev) (p : Nat) (x : CoreSt) : (d.setCore p x).upsets = d.upsets := rfl
@[simp] theorem Dev.setCore_repairsDue (d : Dev) (p : Nat) (x : CoreSt) : (d.setCore p x).repairsDue = d.repairsDue := rfl
@[simp] theorem Dev.setCore_free (d : Dev) (p : Nat) (x : CoreSt) : (d.setCore p x).free = d.free := rfl
@[simp] theorem Dev.setCore_job (d : Dev) (p : Nat) (x : CoreSt) (z : Nat) : (d.setCore p x).job z = d.job z := rfl
@[simp] theorem Dev.setCore_tslot (d : Dev) (p : Nat) (x : CoreSt) (z : Nat) : (d.setCore p x).tslot z = d.tslot z := rfl
@[simp] theorem Dev.setCore_basin (d : Dev) (p : Nat) (x : CoreSt) (z : Nat) : (d.setCore p x).basin z = d.basin z := rfl
@[simp] theorem Dev.setCore_frame (d : Dev) (p : Nat) (x : CoreSt) (z : Nat) : (d.setCore p x).frame z = d.frame z := rfl
@[simp] theorem Dev.setCore_freeStack (d : Dev) (p : Nat) (x : CoreSt) (z : Nat) : (d.setCore p x).freeStack z = d.freeStack z := rfl
@[simp] theorem Dev.setCore_stack (d : Dev) (p : Nat) (x : CoreSt) (z : Nat) : (d.setCore p x).stack z = d.stack z := rfl
@[simp] theorem Dev.setCore_port (d : Dev) (p : Nat) (x : CoreSt) (z : Nat) : (d.setCore p x).port z = d.port z := rfl
@[simp] theorem Dev.setCore_grp (d : Dev) (p : Nat) (x : CoreSt) (z : Nat) : (d.setCore p x).grp z = d.grp z := rfl
@[simp] theorem Dev.setCore_spout (d : Dev) (p : Nat) (x : CoreSt) (z : Nat) : (d.setCore p x).spout z = d.spout z := rfl
@[simp] theorem Dev.setCore_stream (d : Dev) (p : Nat) (x : CoreSt) (z : Nat) : (d.setCore p x).stream z = d.stream z := rfl
@[simp] theorem Dev.setCore_mbxc (d : Dev) (p : Nat) (x : CoreSt) (z : Nat) : (d.setCore p x).mbxc z = d.mbxc z := rfl
@[simp] theorem Dev.setCore_schan (d : Dev) (p : Nat) (x : CoreSt) (z : Nat) : (d.setCore p x).schan z = d.schan z := rfl
@[simp] theorem Dev.setCore_ethp (d : Dev) (p : Nat) (x : CoreSt) (z : Nat) : (d.setCore p x).ethp z = d.ethp z := rfl
@[simp] theorem Dev.setCore_conn (d : Dev) (p : Nat) (x : CoreSt) (z : Nat) : (d.setCore p x).conn z = d.conn z := rfl
@[simp] theorem Dev.setCore_assoc (d : Dev) (p : Nat) (x : CoreSt) (z : Nat) : (d.setCore p x).assoc z = d.assoc z := rfl
@[simp] theorem Dev.setStack_readLatch (d : Dev) (k : Nat) (x : Stack) : (d.setStack k x).readLatch = d.readLatch := rfl
@[simp] theorem Dev.setStack_writeLatch (d : Dev) (k : Nat) (x : Stack) : (d.setStack k x).writeLatch = d.writeLatch := rfl
@[simp] theorem Dev.setStack_str (d : Dev) (k : Nat) (x : Stack) : (d.setStack k x).str = d.str := rfl
@[simp] theorem Dev.setStack_trn (d : Dev) (k : Nat) (x : Stack) : (d.setStack k x).trn = d.trn := rfl
@[simp] theorem Dev.setStack_clp (d : Dev) (k : Nat) (x : Stack) : (d.setStack k x).clp = d.clp := rfl
@[simp] theorem Dev.setStack_jobs (d : Dev) (k : Nat) (x : Stack) : (d.setStack k x).jobs = d.jobs := rfl
@[simp] theorem Dev.setStack_sch (d : Dev) (k : Nat) (x : Stack) : (d.setStack k x).sch = d.sch := rfl
@[simp] theorem Dev.setStack_flt (d : Dev) (k : Nat) (x : Stack) : (d.setStack k x).flt = d.flt := rfl
@[simp] theorem Dev.setStack_cnt (d : Dev) (k : Nat) (x : Stack) : (d.setStack k x).cnt = d.cnt := rfl
@[simp] theorem Dev.setStack_sys (d : Dev) (k : Nat) (x : Stack) : (d.setStack k x).sys = d.sys := rfl
@[simp] theorem Dev.setStack_weir (d : Dev) (k : Nat) (x : Stack) : (d.setStack k x).weir = d.weir := rfl
@[simp] theorem Dev.setStack_cores (d : Dev) (k : Nat) (x : Stack) : (d.setStack k x).cores = d.cores := rfl
@[simp] theorem Dev.setStack_sems (d : Dev) (k : Nat) (x : Stack) : (d.setStack k x).sems = d.sems := rfl
@[simp] theorem Dev.setStack_saved (d : Dev) (k : Nat) (x : Stack) : (d.setStack k x).saved = d.saved := rfl
@[simp] theorem Dev.setStack_tmNext (d : Dev) (k : Nat) (x : Stack) : (d.setStack k x).tmNext = d.tmNext := rfl
@[simp] theorem Dev.setStack_spouts (d : Dev) (k : Nat) (x : Stack) : (d.setStack k x).spouts = d.spouts := rfl
@[simp] theorem Dev.setStack_klz (d : Dev) (k : Nat) (x : Stack) : (d.setStack k x).klz = d.klz := rfl
@[simp] theorem Dev.setStack_cod (d : Dev) (k : Nat) (x : Stack) : (d.setStack k x).cod = d.cod := rfl
@[simp] theorem Dev.setStack_eth (d : Dev) (k : Nat) (x : Stack) : (d.setStack k x).eth = d.eth := rfl
@[simp] theorem Dev.setStack_pld (d : Dev) (k : Nat) (x : Stack) : (d.setStack k x).pld = d.pld := rfl
@[simp] theorem Dev.setStack_mbxLocked (d : Dev) (k : Nat) (x : Stack) : (d.setStack k x).mbxLocked = d.mbxLocked := rfl
@[simp] theorem Dev.setStack_mbx (d : Dev) (k : Nat) (x : Stack) : (d.setStack k x).mbx = d.mbx := rfl
@[simp] theorem Dev.setStack_i3c (d : Dev) (k : Nat) (x : Stack) : (d.setStack k x).i3c = d.i3c := rfl
@[simp] theorem Dev.setStack_sec (d : Dev) (k : Nat) (x : Stack) : (d.setStack k x).sec = d.sec := rfl
@[simp] theorem Dev.setStack_bus (d : Dev) (k : Nat) (x : Stack) : (d.setStack k x).bus = d.bus := rfl
@[simp] theorem Dev.setStack_mem (d : Dev) (k : Nat) (x : Stack) : (d.setStack k x).mem = d.mem := rfl
@[simp] theorem Dev.setStack_poison (d : Dev) (k : Nat) (x : Stack) : (d.setStack k x).poison = d.poison := rfl
@[simp] theorem Dev.setStack_upsets (d : Dev) (k : Nat) (x : Stack) : (d.setStack k x).upsets = d.upsets := rfl
@[simp] theorem Dev.setStack_repairsDue (d : Dev) (k : Nat) (x : Stack) : (d.setStack k x).repairsDue = d.repairsDue := rfl
@[simp] theorem Dev.setStack_free (d : Dev) (k : Nat) (x : Stack) : (d.setStack k x).free = d.free := rfl
@[simp] theorem Dev.setStack_job (d : Dev) (k : Nat) (x : Stack) (z : Nat) : (d.setStack k x).job z = d.job z := rfl
@[simp] theorem Dev.setStack_tslot (d : Dev) (k : Nat) (x : Stack) (z : Nat) : (d.setStack k x).tslot z = d.tslot z := rfl
@[simp] theorem Dev.setStack_basin (d : Dev) (k : Nat) (x : Stack) (z : Nat) : (d.setStack k x).basin z = d.basin z := rfl
@[simp] theorem Dev.setStack_frame (d : Dev) (k : Nat) (x : Stack) (z : Nat) : (d.setStack k x).frame z = d.frame z := rfl
@[simp] theorem Dev.setStack_freeStack (d : Dev) (k : Nat) (x : Stack) (z : Nat) : (d.setStack k x).freeStack z = d.freeStack z := rfl
@[simp] theorem Dev.setStack_core (d : Dev) (k : Nat) (x : Stack) (z : Nat) : (d.setStack k x).core z = d.core z := rfl
@[simp] theorem Dev.setStack_port (d : Dev) (k : Nat) (x : Stack) (z : Nat) : (d.setStack k x).port z = d.port z := rfl
@[simp] theorem Dev.setStack_grp (d : Dev) (k : Nat) (x : Stack) (z : Nat) : (d.setStack k x).grp z = d.grp z := rfl
@[simp] theorem Dev.setStack_spout (d : Dev) (k : Nat) (x : Stack) (z : Nat) : (d.setStack k x).spout z = d.spout z := rfl
@[simp] theorem Dev.setStack_stream (d : Dev) (k : Nat) (x : Stack) (z : Nat) : (d.setStack k x).stream z = d.stream z := rfl
@[simp] theorem Dev.setStack_mbxc (d : Dev) (k : Nat) (x : Stack) (z : Nat) : (d.setStack k x).mbxc z = d.mbxc z := rfl
@[simp] theorem Dev.setStack_schan (d : Dev) (k : Nat) (x : Stack) (z : Nat) : (d.setStack k x).schan z = d.schan z := rfl
@[simp] theorem Dev.setStack_ethp (d : Dev) (k : Nat) (x : Stack) (z : Nat) : (d.setStack k x).ethp z = d.ethp z := rfl
@[simp] theorem Dev.setStack_conn (d : Dev) (k : Nat) (x : Stack) (z : Nat) : (d.setStack k x).conn z = d.conn z := rfl
@[simp] theorem Dev.setStack_assoc (d : Dev) (k : Nat) (x : Stack) (z : Nat) : (d.setStack k x).assoc z = d.assoc z := rfl
@[simp] theorem Dev.setPort_readLatch (d : Dev) (n : Nat) (x : Port) : (d.setPort n x).readLatch = d.readLatch := rfl
@[simp] theorem Dev.setPort_writeLatch (d : Dev) (n : Nat) (x : Port) : (d.setPort n x).writeLatch = d.writeLatch := rfl
@[simp] theorem Dev.setPort_str (d : Dev) (n : Nat) (x : Port) : (d.setPort n x).str = d.str := rfl
@[simp] theorem Dev.setPort_trn (d : Dev) (n : Nat) (x : Port) : (d.setPort n x).trn = d.trn := rfl
@[simp] theorem Dev.setPort_clp (d : Dev) (n : Nat) (x : Port) : (d.setPort n x).clp = d.clp := rfl
@[simp] theorem Dev.setPort_jobs (d : Dev) (n : Nat) (x : Port) : (d.setPort n x).jobs = d.jobs := rfl
@[simp] theorem Dev.setPort_sch (d : Dev) (n : Nat) (x : Port) : (d.setPort n x).sch = d.sch := rfl
@[simp] theorem Dev.setPort_flt (d : Dev) (n : Nat) (x : Port) : (d.setPort n x).flt = d.flt := rfl
@[simp] theorem Dev.setPort_cnt (d : Dev) (n : Nat) (x : Port) : (d.setPort n x).cnt = d.cnt := rfl
@[simp] theorem Dev.setPort_sys (d : Dev) (n : Nat) (x : Port) : (d.setPort n x).sys = d.sys := rfl
@[simp] theorem Dev.setPort_hbm (d : Dev) (n : Nat) (x : Port) : (d.setPort n x).hbm = d.hbm := rfl
@[simp] theorem Dev.setPort_weir (d : Dev) (n : Nat) (x : Port) : (d.setPort n x).weir = d.weir := rfl
@[simp] theorem Dev.setPort_cores (d : Dev) (n : Nat) (x : Port) : (d.setPort n x).cores = d.cores := rfl
@[simp] theorem Dev.setPort_sems (d : Dev) (n : Nat) (x : Port) : (d.setPort n x).sems = d.sems := rfl
@[simp] theorem Dev.setPort_saved (d : Dev) (n : Nat) (x : Port) : (d.setPort n x).saved = d.saved := rfl
@[simp] theorem Dev.setPort_tmNext (d : Dev) (n : Nat) (x : Port) : (d.setPort n x).tmNext = d.tmNext := rfl
@[simp] theorem Dev.setPort_spouts (d : Dev) (n : Nat) (x : Port) : (d.setPort n x).spouts = d.spouts := rfl
@[simp] theorem Dev.setPort_cod (d : Dev) (n : Nat) (x : Port) : (d.setPort n x).cod = d.cod := rfl
@[simp] theorem Dev.setPort_eth (d : Dev) (n : Nat) (x : Port) : (d.setPort n x).eth = d.eth := rfl
@[simp] theorem Dev.setPort_pld (d : Dev) (n : Nat) (x : Port) : (d.setPort n x).pld = d.pld := rfl
@[simp] theorem Dev.setPort_mbxLocked (d : Dev) (n : Nat) (x : Port) : (d.setPort n x).mbxLocked = d.mbxLocked := rfl
@[simp] theorem Dev.setPort_mbx (d : Dev) (n : Nat) (x : Port) : (d.setPort n x).mbx = d.mbx := rfl
@[simp] theorem Dev.setPort_i3c (d : Dev) (n : Nat) (x : Port) : (d.setPort n x).i3c = d.i3c := rfl
@[simp] theorem Dev.setPort_sec (d : Dev) (n : Nat) (x : Port) : (d.setPort n x).sec = d.sec := rfl
@[simp] theorem Dev.setPort_bus (d : Dev) (n : Nat) (x : Port) : (d.setPort n x).bus = d.bus := rfl
@[simp] theorem Dev.setPort_mem (d : Dev) (n : Nat) (x : Port) : (d.setPort n x).mem = d.mem := rfl
@[simp] theorem Dev.setPort_poison (d : Dev) (n : Nat) (x : Port) : (d.setPort n x).poison = d.poison := rfl
@[simp] theorem Dev.setPort_upsets (d : Dev) (n : Nat) (x : Port) : (d.setPort n x).upsets = d.upsets := rfl
@[simp] theorem Dev.setPort_repairsDue (d : Dev) (n : Nat) (x : Port) : (d.setPort n x).repairsDue = d.repairsDue := rfl
@[simp] theorem Dev.setPort_free (d : Dev) (n : Nat) (x : Port) : (d.setPort n x).free = d.free := rfl
@[simp] theorem Dev.setPort_job (d : Dev) (n : Nat) (x : Port) (z : Nat) : (d.setPort n x).job z = d.job z := rfl
@[simp] theorem Dev.setPort_tslot (d : Dev) (n : Nat) (x : Port) (z : Nat) : (d.setPort n x).tslot z = d.tslot z := rfl
@[simp] theorem Dev.setPort_basin (d : Dev) (n : Nat) (x : Port) (z : Nat) : (d.setPort n x).basin z = d.basin z := rfl
@[simp] theorem Dev.setPort_frame (d : Dev) (n : Nat) (x : Port) (z : Nat) : (d.setPort n x).frame z = d.frame z := rfl
@[simp] theorem Dev.setPort_freeStack (d : Dev) (n : Nat) (x : Port) (z : Nat) : (d.setPort n x).freeStack z = d.freeStack z := rfl
@[simp] theorem Dev.setPort_core (d : Dev) (n : Nat) (x : Port) (z : Nat) : (d.setPort n x).core z = d.core z := rfl
@[simp] theorem Dev.setPort_stack (d : Dev) (n : Nat) (x : Port) (z : Nat) : (d.setPort n x).stack z = d.stack z := rfl
@[simp] theorem Dev.setPort_grp (d : Dev) (n : Nat) (x : Port) (z : Nat) : (d.setPort n x).grp z = d.grp z := rfl
@[simp] theorem Dev.setPort_spout (d : Dev) (n : Nat) (x : Port) (z : Nat) : (d.setPort n x).spout z = d.spout z := rfl
@[simp] theorem Dev.setPort_stream (d : Dev) (n : Nat) (x : Port) (z : Nat) : (d.setPort n x).stream z = d.stream z := rfl
@[simp] theorem Dev.setPort_mbxc (d : Dev) (n : Nat) (x : Port) (z : Nat) : (d.setPort n x).mbxc z = d.mbxc z := rfl
@[simp] theorem Dev.setPort_schan (d : Dev) (n : Nat) (x : Port) (z : Nat) : (d.setPort n x).schan z = d.schan z := rfl
@[simp] theorem Dev.setPort_ethp (d : Dev) (n : Nat) (x : Port) (z : Nat) : (d.setPort n x).ethp z = d.ethp z := rfl
@[simp] theorem Dev.setPort_conn (d : Dev) (n : Nat) (x : Port) (z : Nat) : (d.setPort n x).conn z = d.conn z := rfl
@[simp] theorem Dev.setPort_assoc (d : Dev) (n : Nat) (x : Port) (z : Nat) : (d.setPort n x).assoc z = d.assoc z := rfl
@[simp] theorem Dev.setGrp_readLatch (d : Dev) (g : Nat) (x : Grp) : (d.setGrp g x).readLatch = d.readLatch := rfl
@[simp] theorem Dev.setGrp_writeLatch (d : Dev) (g : Nat) (x : Grp) : (d.setGrp g x).writeLatch = d.writeLatch := rfl
@[simp] theorem Dev.setGrp_str (d : Dev) (g : Nat) (x : Grp) : (d.setGrp g x).str = d.str := rfl
@[simp] theorem Dev.setGrp_trn (d : Dev) (g : Nat) (x : Grp) : (d.setGrp g x).trn = d.trn := rfl
@[simp] theorem Dev.setGrp_clp (d : Dev) (g : Nat) (x : Grp) : (d.setGrp g x).clp = d.clp := rfl
@[simp] theorem Dev.setGrp_jobs (d : Dev) (g : Nat) (x : Grp) : (d.setGrp g x).jobs = d.jobs := rfl
@[simp] theorem Dev.setGrp_sch (d : Dev) (g : Nat) (x : Grp) : (d.setGrp g x).sch = d.sch := rfl
@[simp] theorem Dev.setGrp_flt (d : Dev) (g : Nat) (x : Grp) : (d.setGrp g x).flt = d.flt := rfl
@[simp] theorem Dev.setGrp_cnt (d : Dev) (g : Nat) (x : Grp) : (d.setGrp g x).cnt = d.cnt := rfl
@[simp] theorem Dev.setGrp_sys (d : Dev) (g : Nat) (x : Grp) : (d.setGrp g x).sys = d.sys := rfl
@[simp] theorem Dev.setGrp_hbm (d : Dev) (g : Nat) (x : Grp) : (d.setGrp g x).hbm = d.hbm := rfl
@[simp] theorem Dev.setGrp_weir (d : Dev) (g : Nat) (x : Grp) : (d.setGrp g x).weir = d.weir := rfl
@[simp] theorem Dev.setGrp_cores (d : Dev) (g : Nat) (x : Grp) : (d.setGrp g x).cores = d.cores := rfl
@[simp] theorem Dev.setGrp_sems (d : Dev) (g : Nat) (x : Grp) : (d.setGrp g x).sems = d.sems := rfl
@[simp] theorem Dev.setGrp_saved (d : Dev) (g : Nat) (x : Grp) : (d.setGrp g x).saved = d.saved := rfl
@[simp] theorem Dev.setGrp_tmNext (d : Dev) (g : Nat) (x : Grp) : (d.setGrp g x).tmNext = d.tmNext := rfl
@[simp] theorem Dev.setGrp_spouts (d : Dev) (g : Nat) (x : Grp) : (d.setGrp g x).spouts = d.spouts := rfl
@[simp] theorem Dev.setGrp_cod (d : Dev) (g : Nat) (x : Grp) : (d.setGrp g x).cod = d.cod := rfl
@[simp] theorem Dev.setGrp_eth (d : Dev) (g : Nat) (x : Grp) : (d.setGrp g x).eth = d.eth := rfl
@[simp] theorem Dev.setGrp_pld (d : Dev) (g : Nat) (x : Grp) : (d.setGrp g x).pld = d.pld := rfl
@[simp] theorem Dev.setGrp_mbxLocked (d : Dev) (g : Nat) (x : Grp) : (d.setGrp g x).mbxLocked = d.mbxLocked := rfl
@[simp] theorem Dev.setGrp_mbx (d : Dev) (g : Nat) (x : Grp) : (d.setGrp g x).mbx = d.mbx := rfl
@[simp] theorem Dev.setGrp_i3c (d : Dev) (g : Nat) (x : Grp) : (d.setGrp g x).i3c = d.i3c := rfl
@[simp] theorem Dev.setGrp_sec (d : Dev) (g : Nat) (x : Grp) : (d.setGrp g x).sec = d.sec := rfl
@[simp] theorem Dev.setGrp_bus (d : Dev) (g : Nat) (x : Grp) : (d.setGrp g x).bus = d.bus := rfl
@[simp] theorem Dev.setGrp_mem (d : Dev) (g : Nat) (x : Grp) : (d.setGrp g x).mem = d.mem := rfl
@[simp] theorem Dev.setGrp_poison (d : Dev) (g : Nat) (x : Grp) : (d.setGrp g x).poison = d.poison := rfl
@[simp] theorem Dev.setGrp_upsets (d : Dev) (g : Nat) (x : Grp) : (d.setGrp g x).upsets = d.upsets := rfl
@[simp] theorem Dev.setGrp_repairsDue (d : Dev) (g : Nat) (x : Grp) : (d.setGrp g x).repairsDue = d.repairsDue := rfl
@[simp] theorem Dev.setGrp_free (d : Dev) (g : Nat) (x : Grp) : (d.setGrp g x).free = d.free := rfl
@[simp] theorem Dev.setGrp_job (d : Dev) (g : Nat) (x : Grp) (z : Nat) : (d.setGrp g x).job z = d.job z := rfl
@[simp] theorem Dev.setGrp_tslot (d : Dev) (g : Nat) (x : Grp) (z : Nat) : (d.setGrp g x).tslot z = d.tslot z := rfl
@[simp] theorem Dev.setGrp_basin (d : Dev) (g : Nat) (x : Grp) (z : Nat) : (d.setGrp g x).basin z = d.basin z := rfl
@[simp] theorem Dev.setGrp_frame (d : Dev) (g : Nat) (x : Grp) (z : Nat) : (d.setGrp g x).frame z = d.frame z := rfl
@[simp] theorem Dev.setGrp_freeStack (d : Dev) (g : Nat) (x : Grp) (z : Nat) : (d.setGrp g x).freeStack z = d.freeStack z := rfl
@[simp] theorem Dev.setGrp_core (d : Dev) (g : Nat) (x : Grp) (z : Nat) : (d.setGrp g x).core z = d.core z := rfl
@[simp] theorem Dev.setGrp_stack (d : Dev) (g : Nat) (x : Grp) (z : Nat) : (d.setGrp g x).stack z = d.stack z := rfl
@[simp] theorem Dev.setGrp_port (d : Dev) (g : Nat) (x : Grp) (z : Nat) : (d.setGrp g x).port z = d.port z := rfl
@[simp] theorem Dev.setGrp_spout (d : Dev) (g : Nat) (x : Grp) (z : Nat) : (d.setGrp g x).spout z = d.spout z := rfl
@[simp] theorem Dev.setGrp_stream (d : Dev) (g : Nat) (x : Grp) (z : Nat) : (d.setGrp g x).stream z = d.stream z := rfl
@[simp] theorem Dev.setGrp_mbxc (d : Dev) (g : Nat) (x : Grp) (z : Nat) : (d.setGrp g x).mbxc z = d.mbxc z := rfl
@[simp] theorem Dev.setGrp_schan (d : Dev) (g : Nat) (x : Grp) (z : Nat) : (d.setGrp g x).schan z = d.schan z := rfl
@[simp] theorem Dev.setGrp_ethp (d : Dev) (g : Nat) (x : Grp) (z : Nat) : (d.setGrp g x).ethp z = d.ethp z := rfl
@[simp] theorem Dev.setGrp_conn (d : Dev) (g : Nat) (x : Grp) (z : Nat) : (d.setGrp g x).conn z = d.conn z := rfl
@[simp] theorem Dev.setGrp_assoc (d : Dev) (g : Nat) (x : Grp) (z : Nat) : (d.setGrp g x).assoc z = d.assoc z := rfl
@[simp] theorem Dev.setSpout_readLatch (d : Dev) (k : Nat) (x : Spout) : (d.setSpout k x).readLatch = d.readLatch := rfl
@[simp] theorem Dev.setSpout_writeLatch (d : Dev) (k : Nat) (x : Spout) : (d.setSpout k x).writeLatch = d.writeLatch := rfl
@[simp] theorem Dev.setSpout_str (d : Dev) (k : Nat) (x : Spout) : (d.setSpout k x).str = d.str := rfl
@[simp] theorem Dev.setSpout_trn (d : Dev) (k : Nat) (x : Spout) : (d.setSpout k x).trn = d.trn := rfl
@[simp] theorem Dev.setSpout_clp (d : Dev) (k : Nat) (x : Spout) : (d.setSpout k x).clp = d.clp := rfl
@[simp] theorem Dev.setSpout_jobs (d : Dev) (k : Nat) (x : Spout) : (d.setSpout k x).jobs = d.jobs := rfl
@[simp] theorem Dev.setSpout_sch (d : Dev) (k : Nat) (x : Spout) : (d.setSpout k x).sch = d.sch := rfl
@[simp] theorem Dev.setSpout_flt (d : Dev) (k : Nat) (x : Spout) : (d.setSpout k x).flt = d.flt := rfl
@[simp] theorem Dev.setSpout_cnt (d : Dev) (k : Nat) (x : Spout) : (d.setSpout k x).cnt = d.cnt := rfl
@[simp] theorem Dev.setSpout_sys (d : Dev) (k : Nat) (x : Spout) : (d.setSpout k x).sys = d.sys := rfl
@[simp] theorem Dev.setSpout_hbm (d : Dev) (k : Nat) (x : Spout) : (d.setSpout k x).hbm = d.hbm := rfl
@[simp] theorem Dev.setSpout_weir (d : Dev) (k : Nat) (x : Spout) : (d.setSpout k x).weir = d.weir := rfl
@[simp] theorem Dev.setSpout_cores (d : Dev) (k : Nat) (x : Spout) : (d.setSpout k x).cores = d.cores := rfl
@[simp] theorem Dev.setSpout_sems (d : Dev) (k : Nat) (x : Spout) : (d.setSpout k x).sems = d.sems := rfl
@[simp] theorem Dev.setSpout_saved (d : Dev) (k : Nat) (x : Spout) : (d.setSpout k x).saved = d.saved := rfl
@[simp] theorem Dev.setSpout_tmNext (d : Dev) (k : Nat) (x : Spout) : (d.setSpout k x).tmNext = d.tmNext := rfl
@[simp] theorem Dev.setSpout_klz (d : Dev) (k : Nat) (x : Spout) : (d.setSpout k x).klz = d.klz := rfl
@[simp] theorem Dev.setSpout_cod (d : Dev) (k : Nat) (x : Spout) : (d.setSpout k x).cod = d.cod := rfl
@[simp] theorem Dev.setSpout_eth (d : Dev) (k : Nat) (x : Spout) : (d.setSpout k x).eth = d.eth := rfl
@[simp] theorem Dev.setSpout_pld (d : Dev) (k : Nat) (x : Spout) : (d.setSpout k x).pld = d.pld := rfl
@[simp] theorem Dev.setSpout_mbxLocked (d : Dev) (k : Nat) (x : Spout) : (d.setSpout k x).mbxLocked = d.mbxLocked := rfl
@[simp] theorem Dev.setSpout_mbx (d : Dev) (k : Nat) (x : Spout) : (d.setSpout k x).mbx = d.mbx := rfl
@[simp] theorem Dev.setSpout_i3c (d : Dev) (k : Nat) (x : Spout) : (d.setSpout k x).i3c = d.i3c := rfl
@[simp] theorem Dev.setSpout_sec (d : Dev) (k : Nat) (x : Spout) : (d.setSpout k x).sec = d.sec := rfl
@[simp] theorem Dev.setSpout_bus (d : Dev) (k : Nat) (x : Spout) : (d.setSpout k x).bus = d.bus := rfl
@[simp] theorem Dev.setSpout_mem (d : Dev) (k : Nat) (x : Spout) : (d.setSpout k x).mem = d.mem := rfl
@[simp] theorem Dev.setSpout_poison (d : Dev) (k : Nat) (x : Spout) : (d.setSpout k x).poison = d.poison := rfl
@[simp] theorem Dev.setSpout_upsets (d : Dev) (k : Nat) (x : Spout) : (d.setSpout k x).upsets = d.upsets := rfl
@[simp] theorem Dev.setSpout_repairsDue (d : Dev) (k : Nat) (x : Spout) : (d.setSpout k x).repairsDue = d.repairsDue := rfl
@[simp] theorem Dev.setSpout_free (d : Dev) (k : Nat) (x : Spout) : (d.setSpout k x).free = d.free := rfl
@[simp] theorem Dev.setSpout_job (d : Dev) (k : Nat) (x : Spout) (z : Nat) : (d.setSpout k x).job z = d.job z := rfl
@[simp] theorem Dev.setSpout_tslot (d : Dev) (k : Nat) (x : Spout) (z : Nat) : (d.setSpout k x).tslot z = d.tslot z := rfl
@[simp] theorem Dev.setSpout_basin (d : Dev) (k : Nat) (x : Spout) (z : Nat) : (d.setSpout k x).basin z = d.basin z := rfl
@[simp] theorem Dev.setSpout_frame (d : Dev) (k : Nat) (x : Spout) (z : Nat) : (d.setSpout k x).frame z = d.frame z := rfl
@[simp] theorem Dev.setSpout_freeStack (d : Dev) (k : Nat) (x : Spout) (z : Nat) : (d.setSpout k x).freeStack z = d.freeStack z := rfl
@[simp] theorem Dev.setSpout_core (d : Dev) (k : Nat) (x : Spout) (z : Nat) : (d.setSpout k x).core z = d.core z := rfl
@[simp] theorem Dev.setSpout_stack (d : Dev) (k : Nat) (x : Spout) (z : Nat) : (d.setSpout k x).stack z = d.stack z := rfl
@[simp] theorem Dev.setSpout_port (d : Dev) (k : Nat) (x : Spout) (z : Nat) : (d.setSpout k x).port z = d.port z := rfl
@[simp] theorem Dev.setSpout_grp (d : Dev) (k : Nat) (x : Spout) (z : Nat) : (d.setSpout k x).grp z = d.grp z := rfl
@[simp] theorem Dev.setSpout_stream (d : Dev) (k : Nat) (x : Spout) (z : Nat) : (d.setSpout k x).stream z = d.stream z := rfl
@[simp] theorem Dev.setSpout_mbxc (d : Dev) (k : Nat) (x : Spout) (z : Nat) : (d.setSpout k x).mbxc z = d.mbxc z := rfl
@[simp] theorem Dev.setSpout_schan (d : Dev) (k : Nat) (x : Spout) (z : Nat) : (d.setSpout k x).schan z = d.schan z := rfl
@[simp] theorem Dev.setSpout_ethp (d : Dev) (k : Nat) (x : Spout) (z : Nat) : (d.setSpout k x).ethp z = d.ethp z := rfl
@[simp] theorem Dev.setSpout_conn (d : Dev) (k : Nat) (x : Spout) (z : Nat) : (d.setSpout k x).conn z = d.conn z := rfl
@[simp] theorem Dev.setSpout_assoc (d : Dev) (k : Nat) (x : Spout) (z : Nat) : (d.setSpout k x).assoc z = d.assoc z := rfl
@[simp] theorem Dev.setStream_readLatch (d : Dev) (k : Nat) (x : Stream) : (d.setStream k x).readLatch = d.readLatch := rfl
@[simp] theorem Dev.setStream_writeLatch (d : Dev) (k : Nat) (x : Stream) : (d.setStream k x).writeLatch = d.writeLatch := rfl
@[simp] theorem Dev.setStream_str (d : Dev) (k : Nat) (x : Stream) : (d.setStream k x).str = d.str := rfl
@[simp] theorem Dev.setStream_trn (d : Dev) (k : Nat) (x : Stream) : (d.setStream k x).trn = d.trn := rfl
@[simp] theorem Dev.setStream_clp (d : Dev) (k : Nat) (x : Stream) : (d.setStream k x).clp = d.clp := rfl
@[simp] theorem Dev.setStream_jobs (d : Dev) (k : Nat) (x : Stream) : (d.setStream k x).jobs = d.jobs := rfl
@[simp] theorem Dev.setStream_sch (d : Dev) (k : Nat) (x : Stream) : (d.setStream k x).sch = d.sch := rfl
@[simp] theorem Dev.setStream_flt (d : Dev) (k : Nat) (x : Stream) : (d.setStream k x).flt = d.flt := rfl
@[simp] theorem Dev.setStream_cnt (d : Dev) (k : Nat) (x : Stream) : (d.setStream k x).cnt = d.cnt := rfl
@[simp] theorem Dev.setStream_sys (d : Dev) (k : Nat) (x : Stream) : (d.setStream k x).sys = d.sys := rfl
@[simp] theorem Dev.setStream_hbm (d : Dev) (k : Nat) (x : Stream) : (d.setStream k x).hbm = d.hbm := rfl
@[simp] theorem Dev.setStream_weir (d : Dev) (k : Nat) (x : Stream) : (d.setStream k x).weir = d.weir := rfl
@[simp] theorem Dev.setStream_cores (d : Dev) (k : Nat) (x : Stream) : (d.setStream k x).cores = d.cores := rfl
@[simp] theorem Dev.setStream_sems (d : Dev) (k : Nat) (x : Stream) : (d.setStream k x).sems = d.sems := rfl
@[simp] theorem Dev.setStream_saved (d : Dev) (k : Nat) (x : Stream) : (d.setStream k x).saved = d.saved := rfl
@[simp] theorem Dev.setStream_tmNext (d : Dev) (k : Nat) (x : Stream) : (d.setStream k x).tmNext = d.tmNext := rfl
@[simp] theorem Dev.setStream_spouts (d : Dev) (k : Nat) (x : Stream) : (d.setStream k x).spouts = d.spouts := rfl
@[simp] theorem Dev.setStream_klz (d : Dev) (k : Nat) (x : Stream) : (d.setStream k x).klz = d.klz := rfl
@[simp] theorem Dev.setStream_eth (d : Dev) (k : Nat) (x : Stream) : (d.setStream k x).eth = d.eth := rfl
@[simp] theorem Dev.setStream_pld (d : Dev) (k : Nat) (x : Stream) : (d.setStream k x).pld = d.pld := rfl
@[simp] theorem Dev.setStream_mbxLocked (d : Dev) (k : Nat) (x : Stream) : (d.setStream k x).mbxLocked = d.mbxLocked := rfl
@[simp] theorem Dev.setStream_mbx (d : Dev) (k : Nat) (x : Stream) : (d.setStream k x).mbx = d.mbx := rfl
@[simp] theorem Dev.setStream_i3c (d : Dev) (k : Nat) (x : Stream) : (d.setStream k x).i3c = d.i3c := rfl
@[simp] theorem Dev.setStream_sec (d : Dev) (k : Nat) (x : Stream) : (d.setStream k x).sec = d.sec := rfl
@[simp] theorem Dev.setStream_bus (d : Dev) (k : Nat) (x : Stream) : (d.setStream k x).bus = d.bus := rfl
@[simp] theorem Dev.setStream_mem (d : Dev) (k : Nat) (x : Stream) : (d.setStream k x).mem = d.mem := rfl
@[simp] theorem Dev.setStream_poison (d : Dev) (k : Nat) (x : Stream) : (d.setStream k x).poison = d.poison := rfl
@[simp] theorem Dev.setStream_upsets (d : Dev) (k : Nat) (x : Stream) : (d.setStream k x).upsets = d.upsets := rfl
@[simp] theorem Dev.setStream_repairsDue (d : Dev) (k : Nat) (x : Stream) : (d.setStream k x).repairsDue = d.repairsDue := rfl
@[simp] theorem Dev.setStream_free (d : Dev) (k : Nat) (x : Stream) : (d.setStream k x).free = d.free := rfl
@[simp] theorem Dev.setStream_job (d : Dev) (k : Nat) (x : Stream) (z : Nat) : (d.setStream k x).job z = d.job z := rfl
@[simp] theorem Dev.setStream_tslot (d : Dev) (k : Nat) (x : Stream) (z : Nat) : (d.setStream k x).tslot z = d.tslot z := rfl
@[simp] theorem Dev.setStream_basin (d : Dev) (k : Nat) (x : Stream) (z : Nat) : (d.setStream k x).basin z = d.basin z := rfl
@[simp] theorem Dev.setStream_frame (d : Dev) (k : Nat) (x : Stream) (z : Nat) : (d.setStream k x).frame z = d.frame z := rfl
@[simp] theorem Dev.setStream_freeStack (d : Dev) (k : Nat) (x : Stream) (z : Nat) : (d.setStream k x).freeStack z = d.freeStack z := rfl
@[simp] theorem Dev.setStream_core (d : Dev) (k : Nat) (x : Stream) (z : Nat) : (d.setStream k x).core z = d.core z := rfl
@[simp] theorem Dev.setStream_stack (d : Dev) (k : Nat) (x : Stream) (z : Nat) : (d.setStream k x).stack z = d.stack z := rfl
@[simp] theorem Dev.setStream_port (d : Dev) (k : Nat) (x : Stream) (z : Nat) : (d.setStream k x).port z = d.port z := rfl
@[simp] theorem Dev.setStream_grp (d : Dev) (k : Nat) (x : Stream) (z : Nat) : (d.setStream k x).grp z = d.grp z := rfl
@[simp] theorem Dev.setStream_spout (d : Dev) (k : Nat) (x : Stream) (z : Nat) : (d.setStream k x).spout z = d.spout z := rfl
@[simp] theorem Dev.setStream_mbxc (d : Dev) (k : Nat) (x : Stream) (z : Nat) : (d.setStream k x).mbxc z = d.mbxc z := rfl
@[simp] theorem Dev.setStream_schan (d : Dev) (k : Nat) (x : Stream) (z : Nat) : (d.setStream k x).schan z = d.schan z := rfl
@[simp] theorem Dev.setStream_ethp (d : Dev) (k : Nat) (x : Stream) (z : Nat) : (d.setStream k x).ethp z = d.ethp z := rfl
@[simp] theorem Dev.setStream_conn (d : Dev) (k : Nat) (x : Stream) (z : Nat) : (d.setStream k x).conn z = d.conn z := rfl
@[simp] theorem Dev.setStream_assoc (d : Dev) (k : Nat) (x : Stream) (z : Nat) : (d.setStream k x).assoc z = d.assoc z := rfl
@[simp] theorem Dev.setSem_readLatch (d : Dev) (b i : Nat) (x : SharedSem) : (d.setSem b i x).readLatch = d.readLatch := rfl
@[simp] theorem Dev.setSem_writeLatch (d : Dev) (b i : Nat) (x : SharedSem) : (d.setSem b i x).writeLatch = d.writeLatch := rfl
@[simp] theorem Dev.setSem_str (d : Dev) (b i : Nat) (x : SharedSem) : (d.setSem b i x).str = d.str := rfl
@[simp] theorem Dev.setSem_trn (d : Dev) (b i : Nat) (x : SharedSem) : (d.setSem b i x).trn = d.trn := rfl
@[simp] theorem Dev.setSem_clp (d : Dev) (b i : Nat) (x : SharedSem) : (d.setSem b i x).clp = d.clp := rfl
@[simp] theorem Dev.setSem_jobs (d : Dev) (b i : Nat) (x : SharedSem) : (d.setSem b i x).jobs = d.jobs := rfl
@[simp] theorem Dev.setSem_sch (d : Dev) (b i : Nat) (x : SharedSem) : (d.setSem b i x).sch = d.sch := rfl
@[simp] theorem Dev.setSem_flt (d : Dev) (b i : Nat) (x : SharedSem) : (d.setSem b i x).flt = d.flt := rfl
@[simp] theorem Dev.setSem_cnt (d : Dev) (b i : Nat) (x : SharedSem) : (d.setSem b i x).cnt = d.cnt := rfl
@[simp] theorem Dev.setSem_sys (d : Dev) (b i : Nat) (x : SharedSem) : (d.setSem b i x).sys = d.sys := rfl
@[simp] theorem Dev.setSem_hbm (d : Dev) (b i : Nat) (x : SharedSem) : (d.setSem b i x).hbm = d.hbm := rfl
@[simp] theorem Dev.setSem_weir (d : Dev) (b i : Nat) (x : SharedSem) : (d.setSem b i x).weir = d.weir := rfl
@[simp] theorem Dev.setSem_cores (d : Dev) (b i : Nat) (x : SharedSem) : (d.setSem b i x).cores = d.cores := rfl
@[simp] theorem Dev.setSem_saved (d : Dev) (b i : Nat) (x : SharedSem) : (d.setSem b i x).saved = d.saved := rfl
@[simp] theorem Dev.setSem_tmNext (d : Dev) (b i : Nat) (x : SharedSem) : (d.setSem b i x).tmNext = d.tmNext := rfl
@[simp] theorem Dev.setSem_spouts (d : Dev) (b i : Nat) (x : SharedSem) : (d.setSem b i x).spouts = d.spouts := rfl
@[simp] theorem Dev.setSem_klz (d : Dev) (b i : Nat) (x : SharedSem) : (d.setSem b i x).klz = d.klz := rfl
@[simp] theorem Dev.setSem_cod (d : Dev) (b i : Nat) (x : SharedSem) : (d.setSem b i x).cod = d.cod := rfl
@[simp] theorem Dev.setSem_eth (d : Dev) (b i : Nat) (x : SharedSem) : (d.setSem b i x).eth = d.eth := rfl
@[simp] theorem Dev.setSem_pld (d : Dev) (b i : Nat) (x : SharedSem) : (d.setSem b i x).pld = d.pld := rfl
@[simp] theorem Dev.setSem_mbxLocked (d : Dev) (b i : Nat) (x : SharedSem) : (d.setSem b i x).mbxLocked = d.mbxLocked := rfl
@[simp] theorem Dev.setSem_mbx (d : Dev) (b i : Nat) (x : SharedSem) : (d.setSem b i x).mbx = d.mbx := rfl
@[simp] theorem Dev.setSem_i3c (d : Dev) (b i : Nat) (x : SharedSem) : (d.setSem b i x).i3c = d.i3c := rfl
@[simp] theorem Dev.setSem_sec (d : Dev) (b i : Nat) (x : SharedSem) : (d.setSem b i x).sec = d.sec := rfl
@[simp] theorem Dev.setSem_bus (d : Dev) (b i : Nat) (x : SharedSem) : (d.setSem b i x).bus = d.bus := rfl
@[simp] theorem Dev.setSem_mem (d : Dev) (b i : Nat) (x : SharedSem) : (d.setSem b i x).mem = d.mem := rfl
@[simp] theorem Dev.setSem_poison (d : Dev) (b i : Nat) (x : SharedSem) : (d.setSem b i x).poison = d.poison := rfl
@[simp] theorem Dev.setSem_upsets (d : Dev) (b i : Nat) (x : SharedSem) : (d.setSem b i x).upsets = d.upsets := rfl
@[simp] theorem Dev.setSem_repairsDue (d : Dev) (b i : Nat) (x : SharedSem) : (d.setSem b i x).repairsDue = d.repairsDue := rfl
@[simp] theorem Dev.setSem_free (d : Dev) (b i : Nat) (x : SharedSem) : (d.setSem b i x).free = d.free := rfl
@[simp] theorem Dev.setSem_job (d : Dev) (b i : Nat) (x : SharedSem) (z : Nat) : (d.setSem b i x).job z = d.job z := rfl
@[simp] theorem Dev.setSem_tslot (d : Dev) (b i : Nat) (x : SharedSem) (z : Nat) : (d.setSem b i x).tslot z = d.tslot z := rfl
@[simp] theorem Dev.setSem_basin (d : Dev) (b i : Nat) (x : SharedSem) (z : Nat) : (d.setSem b i x).basin z = d.basin z := rfl
@[simp] theorem Dev.setSem_frame (d : Dev) (b i : Nat) (x : SharedSem) (z : Nat) : (d.setSem b i x).frame z = d.frame z := rfl
@[simp] theorem Dev.setSem_freeStack (d : Dev) (b i : Nat) (x : SharedSem) (z : Nat) : (d.setSem b i x).freeStack z = d.freeStack z := rfl
@[simp] theorem Dev.setSem_core (d : Dev) (b i : Nat) (x : SharedSem) (z : Nat) : (d.setSem b i x).core z = d.core z := rfl
@[simp] theorem Dev.setSem_stack (d : Dev) (b i : Nat) (x : SharedSem) (z : Nat) : (d.setSem b i x).stack z = d.stack z := rfl
@[simp] theorem Dev.setSem_port (d : Dev) (b i : Nat) (x : SharedSem) (z : Nat) : (d.setSem b i x).port z = d.port z := rfl
@[simp] theorem Dev.setSem_grp (d : Dev) (b i : Nat) (x : SharedSem) (z : Nat) : (d.setSem b i x).grp z = d.grp z := rfl
@[simp] theorem Dev.setSem_spout (d : Dev) (b i : Nat) (x : SharedSem) (z : Nat) : (d.setSem b i x).spout z = d.spout z := rfl
@[simp] theorem Dev.setSem_stream (d : Dev) (b i : Nat) (x : SharedSem) (z : Nat) : (d.setSem b i x).stream z = d.stream z := rfl
@[simp] theorem Dev.setSem_mbxc (d : Dev) (b i : Nat) (x : SharedSem) (z : Nat) : (d.setSem b i x).mbxc z = d.mbxc z := rfl
@[simp] theorem Dev.setSem_schan (d : Dev) (b i : Nat) (x : SharedSem) (z : Nat) : (d.setSem b i x).schan z = d.schan z := rfl
@[simp] theorem Dev.setSem_ethp (d : Dev) (b i : Nat) (x : SharedSem) (z : Nat) : (d.setSem b i x).ethp z = d.ethp z := rfl
@[simp] theorem Dev.setSem_conn (d : Dev) (b i : Nat) (x : SharedSem) (z : Nat) : (d.setSem b i x).conn z = d.conn z := rfl
@[simp] theorem Dev.setSem_assoc (d : Dev) (b i : Nat) (x : SharedSem) (z : Nat) : (d.setSem b i x).assoc z = d.assoc z := rfl
@[simp] theorem Dev.setMbxc_readLatch (d : Dev) (c : Nat) (x : Mbx) : (d.setMbxc c x).readLatch = d.readLatch := rfl
@[simp] theorem Dev.setMbxc_writeLatch (d : Dev) (c : Nat) (x : Mbx) : (d.setMbxc c x).writeLatch = d.writeLatch := rfl
@[simp] theorem Dev.setMbxc_str (d : Dev) (c : Nat) (x : Mbx) : (d.setMbxc c x).str = d.str := rfl
@[simp] theorem Dev.setMbxc_trn (d : Dev) (c : Nat) (x : Mbx) : (d.setMbxc c x).trn = d.trn := rfl
@[simp] theorem Dev.setMbxc_clp (d : Dev) (c : Nat) (x : Mbx) : (d.setMbxc c x).clp = d.clp := rfl
@[simp] theorem Dev.setMbxc_jobs (d : Dev) (c : Nat) (x : Mbx) : (d.setMbxc c x).jobs = d.jobs := rfl
@[simp] theorem Dev.setMbxc_sch (d : Dev) (c : Nat) (x : Mbx) : (d.setMbxc c x).sch = d.sch := rfl
@[simp] theorem Dev.setMbxc_flt (d : Dev) (c : Nat) (x : Mbx) : (d.setMbxc c x).flt = d.flt := rfl
@[simp] theorem Dev.setMbxc_cnt (d : Dev) (c : Nat) (x : Mbx) : (d.setMbxc c x).cnt = d.cnt := rfl
@[simp] theorem Dev.setMbxc_sys (d : Dev) (c : Nat) (x : Mbx) : (d.setMbxc c x).sys = d.sys := rfl
@[simp] theorem Dev.setMbxc_hbm (d : Dev) (c : Nat) (x : Mbx) : (d.setMbxc c x).hbm = d.hbm := rfl
@[simp] theorem Dev.setMbxc_weir (d : Dev) (c : Nat) (x : Mbx) : (d.setMbxc c x).weir = d.weir := rfl
@[simp] theorem Dev.setMbxc_cores (d : Dev) (c : Nat) (x : Mbx) : (d.setMbxc c x).cores = d.cores := rfl
@[simp] theorem Dev.setMbxc_sems (d : Dev) (c : Nat) (x : Mbx) : (d.setMbxc c x).sems = d.sems := rfl
@[simp] theorem Dev.setMbxc_saved (d : Dev) (c : Nat) (x : Mbx) : (d.setMbxc c x).saved = d.saved := rfl
@[simp] theorem Dev.setMbxc_tmNext (d : Dev) (c : Nat) (x : Mbx) : (d.setMbxc c x).tmNext = d.tmNext := rfl
@[simp] theorem Dev.setMbxc_spouts (d : Dev) (c : Nat) (x : Mbx) : (d.setMbxc c x).spouts = d.spouts := rfl
@[simp] theorem Dev.setMbxc_klz (d : Dev) (c : Nat) (x : Mbx) : (d.setMbxc c x).klz = d.klz := rfl
@[simp] theorem Dev.setMbxc_cod (d : Dev) (c : Nat) (x : Mbx) : (d.setMbxc c x).cod = d.cod := rfl
@[simp] theorem Dev.setMbxc_eth (d : Dev) (c : Nat) (x : Mbx) : (d.setMbxc c x).eth = d.eth := rfl
@[simp] theorem Dev.setMbxc_pld (d : Dev) (c : Nat) (x : Mbx) : (d.setMbxc c x).pld = d.pld := rfl
@[simp] theorem Dev.setMbxc_mbxLocked (d : Dev) (c : Nat) (x : Mbx) : (d.setMbxc c x).mbxLocked = d.mbxLocked := rfl
@[simp] theorem Dev.setMbxc_i3c (d : Dev) (c : Nat) (x : Mbx) : (d.setMbxc c x).i3c = d.i3c := rfl
@[simp] theorem Dev.setMbxc_sec (d : Dev) (c : Nat) (x : Mbx) : (d.setMbxc c x).sec = d.sec := rfl
@[simp] theorem Dev.setMbxc_bus (d : Dev) (c : Nat) (x : Mbx) : (d.setMbxc c x).bus = d.bus := rfl
@[simp] theorem Dev.setMbxc_mem (d : Dev) (c : Nat) (x : Mbx) : (d.setMbxc c x).mem = d.mem := rfl
@[simp] theorem Dev.setMbxc_poison (d : Dev) (c : Nat) (x : Mbx) : (d.setMbxc c x).poison = d.poison := rfl
@[simp] theorem Dev.setMbxc_upsets (d : Dev) (c : Nat) (x : Mbx) : (d.setMbxc c x).upsets = d.upsets := rfl
@[simp] theorem Dev.setMbxc_repairsDue (d : Dev) (c : Nat) (x : Mbx) : (d.setMbxc c x).repairsDue = d.repairsDue := rfl
@[simp] theorem Dev.setMbxc_free (d : Dev) (c : Nat) (x : Mbx) : (d.setMbxc c x).free = d.free := rfl
@[simp] theorem Dev.setMbxc_job (d : Dev) (c : Nat) (x : Mbx) (z : Nat) : (d.setMbxc c x).job z = d.job z := rfl
@[simp] theorem Dev.setMbxc_tslot (d : Dev) (c : Nat) (x : Mbx) (z : Nat) : (d.setMbxc c x).tslot z = d.tslot z := rfl
@[simp] theorem Dev.setMbxc_basin (d : Dev) (c : Nat) (x : Mbx) (z : Nat) : (d.setMbxc c x).basin z = d.basin z := rfl
@[simp] theorem Dev.setMbxc_frame (d : Dev) (c : Nat) (x : Mbx) (z : Nat) : (d.setMbxc c x).frame z = d.frame z := rfl
@[simp] theorem Dev.setMbxc_freeStack (d : Dev) (c : Nat) (x : Mbx) (z : Nat) : (d.setMbxc c x).freeStack z = d.freeStack z := rfl
@[simp] theorem Dev.setMbxc_core (d : Dev) (c : Nat) (x : Mbx) (z : Nat) : (d.setMbxc c x).core z = d.core z := rfl
@[simp] theorem Dev.setMbxc_stack (d : Dev) (c : Nat) (x : Mbx) (z : Nat) : (d.setMbxc c x).stack z = d.stack z := rfl
@[simp] theorem Dev.setMbxc_port (d : Dev) (c : Nat) (x : Mbx) (z : Nat) : (d.setMbxc c x).port z = d.port z := rfl
@[simp] theorem Dev.setMbxc_grp (d : Dev) (c : Nat) (x : Mbx) (z : Nat) : (d.setMbxc c x).grp z = d.grp z := rfl
@[simp] theorem Dev.setMbxc_spout (d : Dev) (c : Nat) (x : Mbx) (z : Nat) : (d.setMbxc c x).spout z = d.spout z := rfl
@[simp] theorem Dev.setMbxc_stream (d : Dev) (c : Nat) (x : Mbx) (z : Nat) : (d.setMbxc c x).stream z = d.stream z := rfl
@[simp] theorem Dev.setMbxc_schan (d : Dev) (c : Nat) (x : Mbx) (z : Nat) : (d.setMbxc c x).schan z = d.schan z := rfl
@[simp] theorem Dev.setMbxc_ethp (d : Dev) (c : Nat) (x : Mbx) (z : Nat) : (d.setMbxc c x).ethp z = d.ethp z := rfl
@[simp] theorem Dev.setMbxc_conn (d : Dev) (c : Nat) (x : Mbx) (z : Nat) : (d.setMbxc c x).conn z = d.conn z := rfl
@[simp] theorem Dev.setMbxc_assoc (d : Dev) (c : Nat) (x : Mbx) (z : Nat) : (d.setMbxc c x).assoc z = d.assoc z := rfl
@[simp] theorem Dev.setSchan_readLatch (d : Dev) (c : Nat) (x : SecChan) : (d.setSchan c x).readLatch = d.readLatch := rfl
@[simp] theorem Dev.setSchan_writeLatch (d : Dev) (c : Nat) (x : SecChan) : (d.setSchan c x).writeLatch = d.writeLatch := rfl
@[simp] theorem Dev.setSchan_str (d : Dev) (c : Nat) (x : SecChan) : (d.setSchan c x).str = d.str := rfl
@[simp] theorem Dev.setSchan_trn (d : Dev) (c : Nat) (x : SecChan) : (d.setSchan c x).trn = d.trn := rfl
@[simp] theorem Dev.setSchan_clp (d : Dev) (c : Nat) (x : SecChan) : (d.setSchan c x).clp = d.clp := rfl
@[simp] theorem Dev.setSchan_jobs (d : Dev) (c : Nat) (x : SecChan) : (d.setSchan c x).jobs = d.jobs := rfl
@[simp] theorem Dev.setSchan_sch (d : Dev) (c : Nat) (x : SecChan) : (d.setSchan c x).sch = d.sch := rfl
@[simp] theorem Dev.setSchan_flt (d : Dev) (c : Nat) (x : SecChan) : (d.setSchan c x).flt = d.flt := rfl
@[simp] theorem Dev.setSchan_cnt (d : Dev) (c : Nat) (x : SecChan) : (d.setSchan c x).cnt = d.cnt := rfl
@[simp] theorem Dev.setSchan_sys (d : Dev) (c : Nat) (x : SecChan) : (d.setSchan c x).sys = d.sys := rfl
@[simp] theorem Dev.setSchan_hbm (d : Dev) (c : Nat) (x : SecChan) : (d.setSchan c x).hbm = d.hbm := rfl
@[simp] theorem Dev.setSchan_weir (d : Dev) (c : Nat) (x : SecChan) : (d.setSchan c x).weir = d.weir := rfl
@[simp] theorem Dev.setSchan_cores (d : Dev) (c : Nat) (x : SecChan) : (d.setSchan c x).cores = d.cores := rfl
@[simp] theorem Dev.setSchan_sems (d : Dev) (c : Nat) (x : SecChan) : (d.setSchan c x).sems = d.sems := rfl
@[simp] theorem Dev.setSchan_saved (d : Dev) (c : Nat) (x : SecChan) : (d.setSchan c x).saved = d.saved := rfl
@[simp] theorem Dev.setSchan_tmNext (d : Dev) (c : Nat) (x : SecChan) : (d.setSchan c x).tmNext = d.tmNext := rfl
@[simp] theorem Dev.setSchan_spouts (d : Dev) (c : Nat) (x : SecChan) : (d.setSchan c x).spouts = d.spouts := rfl
@[simp] theorem Dev.setSchan_klz (d : Dev) (c : Nat) (x : SecChan) : (d.setSchan c x).klz = d.klz := rfl
@[simp] theorem Dev.setSchan_cod (d : Dev) (c : Nat) (x : SecChan) : (d.setSchan c x).cod = d.cod := rfl
@[simp] theorem Dev.setSchan_eth (d : Dev) (c : Nat) (x : SecChan) : (d.setSchan c x).eth = d.eth := rfl
@[simp] theorem Dev.setSchan_pld (d : Dev) (c : Nat) (x : SecChan) : (d.setSchan c x).pld = d.pld := rfl
@[simp] theorem Dev.setSchan_mbxLocked (d : Dev) (c : Nat) (x : SecChan) : (d.setSchan c x).mbxLocked = d.mbxLocked := rfl
@[simp] theorem Dev.setSchan_mbx (d : Dev) (c : Nat) (x : SecChan) : (d.setSchan c x).mbx = d.mbx := rfl
@[simp] theorem Dev.setSchan_i3c (d : Dev) (c : Nat) (x : SecChan) : (d.setSchan c x).i3c = d.i3c := rfl
@[simp] theorem Dev.setSchan_bus (d : Dev) (c : Nat) (x : SecChan) : (d.setSchan c x).bus = d.bus := rfl
@[simp] theorem Dev.setSchan_mem (d : Dev) (c : Nat) (x : SecChan) : (d.setSchan c x).mem = d.mem := rfl
@[simp] theorem Dev.setSchan_poison (d : Dev) (c : Nat) (x : SecChan) : (d.setSchan c x).poison = d.poison := rfl
@[simp] theorem Dev.setSchan_upsets (d : Dev) (c : Nat) (x : SecChan) : (d.setSchan c x).upsets = d.upsets := rfl
@[simp] theorem Dev.setSchan_repairsDue (d : Dev) (c : Nat) (x : SecChan) : (d.setSchan c x).repairsDue = d.repairsDue := rfl
@[simp] theorem Dev.setSchan_free (d : Dev) (c : Nat) (x : SecChan) : (d.setSchan c x).free = d.free := rfl
@[simp] theorem Dev.setSchan_job (d : Dev) (c : Nat) (x : SecChan) (z : Nat) : (d.setSchan c x).job z = d.job z := rfl
@[simp] theorem Dev.setSchan_tslot (d : Dev) (c : Nat) (x : SecChan) (z : Nat) : (d.setSchan c x).tslot z = d.tslot z := rfl
@[simp] theorem Dev.setSchan_basin (d : Dev) (c : Nat) (x : SecChan) (z : Nat) : (d.setSchan c x).basin z = d.basin z := rfl
@[simp] theorem Dev.setSchan_frame (d : Dev) (c : Nat) (x : SecChan) (z : Nat) : (d.setSchan c x).frame z = d.frame z := rfl
@[simp] theorem Dev.setSchan_freeStack (d : Dev) (c : Nat) (x : SecChan) (z : Nat) : (d.setSchan c x).freeStack z = d.freeStack z := rfl
@[simp] theorem Dev.setSchan_core (d : Dev) (c : Nat) (x : SecChan) (z : Nat) : (d.setSchan c x).core z = d.core z := rfl
@[simp] theorem Dev.setSchan_stack (d : Dev) (c : Nat) (x : SecChan) (z : Nat) : (d.setSchan c x).stack z = d.stack z := rfl
@[simp] theorem Dev.setSchan_port (d : Dev) (c : Nat) (x : SecChan) (z : Nat) : (d.setSchan c x).port z = d.port z := rfl
@[simp] theorem Dev.setSchan_grp (d : Dev) (c : Nat) (x : SecChan) (z : Nat) : (d.setSchan c x).grp z = d.grp z := rfl
@[simp] theorem Dev.setSchan_spout (d : Dev) (c : Nat) (x : SecChan) (z : Nat) : (d.setSchan c x).spout z = d.spout z := rfl
@[simp] theorem Dev.setSchan_stream (d : Dev) (c : Nat) (x : SecChan) (z : Nat) : (d.setSchan c x).stream z = d.stream z := rfl
@[simp] theorem Dev.setSchan_mbxc (d : Dev) (c : Nat) (x : SecChan) (z : Nat) : (d.setSchan c x).mbxc z = d.mbxc z := rfl
@[simp] theorem Dev.setSchan_ethp (d : Dev) (c : Nat) (x : SecChan) (z : Nat) : (d.setSchan c x).ethp z = d.ethp z := rfl
@[simp] theorem Dev.setSchan_conn (d : Dev) (c : Nat) (x : SecChan) (z : Nat) : (d.setSchan c x).conn z = d.conn z := rfl
@[simp] theorem Dev.setSchan_assoc (d : Dev) (c : Nat) (x : SecChan) (z : Nat) : (d.setSchan c x).assoc z = d.assoc z := rfl
@[simp] theorem Dev.setEthp_readLatch (d : Dev) (n : Nat) (x : Eth) : (d.setEthp n x).readLatch = d.readLatch := rfl
@[simp] theorem Dev.setEthp_writeLatch (d : Dev) (n : Nat) (x : Eth) : (d.setEthp n x).writeLatch = d.writeLatch := rfl
@[simp] theorem Dev.setEthp_str (d : Dev) (n : Nat) (x : Eth) : (d.setEthp n x).str = d.str := rfl
@[simp] theorem Dev.setEthp_trn (d : Dev) (n : Nat) (x : Eth) : (d.setEthp n x).trn = d.trn := rfl
@[simp] theorem Dev.setEthp_clp (d : Dev) (n : Nat) (x : Eth) : (d.setEthp n x).clp = d.clp := rfl
@[simp] theorem Dev.setEthp_jobs (d : Dev) (n : Nat) (x : Eth) : (d.setEthp n x).jobs = d.jobs := rfl
@[simp] theorem Dev.setEthp_sch (d : Dev) (n : Nat) (x : Eth) : (d.setEthp n x).sch = d.sch := rfl
@[simp] theorem Dev.setEthp_flt (d : Dev) (n : Nat) (x : Eth) : (d.setEthp n x).flt = d.flt := rfl
@[simp] theorem Dev.setEthp_cnt (d : Dev) (n : Nat) (x : Eth) : (d.setEthp n x).cnt = d.cnt := rfl
@[simp] theorem Dev.setEthp_sys (d : Dev) (n : Nat) (x : Eth) : (d.setEthp n x).sys = d.sys := rfl
@[simp] theorem Dev.setEthp_hbm (d : Dev) (n : Nat) (x : Eth) : (d.setEthp n x).hbm = d.hbm := rfl
@[simp] theorem Dev.setEthp_weir (d : Dev) (n : Nat) (x : Eth) : (d.setEthp n x).weir = d.weir := rfl
@[simp] theorem Dev.setEthp_cores (d : Dev) (n : Nat) (x : Eth) : (d.setEthp n x).cores = d.cores := rfl
@[simp] theorem Dev.setEthp_sems (d : Dev) (n : Nat) (x : Eth) : (d.setEthp n x).sems = d.sems := rfl
@[simp] theorem Dev.setEthp_saved (d : Dev) (n : Nat) (x : Eth) : (d.setEthp n x).saved = d.saved := rfl
@[simp] theorem Dev.setEthp_tmNext (d : Dev) (n : Nat) (x : Eth) : (d.setEthp n x).tmNext = d.tmNext := rfl
@[simp] theorem Dev.setEthp_spouts (d : Dev) (n : Nat) (x : Eth) : (d.setEthp n x).spouts = d.spouts := rfl
@[simp] theorem Dev.setEthp_klz (d : Dev) (n : Nat) (x : Eth) : (d.setEthp n x).klz = d.klz := rfl
@[simp] theorem Dev.setEthp_cod (d : Dev) (n : Nat) (x : Eth) : (d.setEthp n x).cod = d.cod := rfl
@[simp] theorem Dev.setEthp_pld (d : Dev) (n : Nat) (x : Eth) : (d.setEthp n x).pld = d.pld := rfl
@[simp] theorem Dev.setEthp_mbxLocked (d : Dev) (n : Nat) (x : Eth) : (d.setEthp n x).mbxLocked = d.mbxLocked := rfl
@[simp] theorem Dev.setEthp_mbx (d : Dev) (n : Nat) (x : Eth) : (d.setEthp n x).mbx = d.mbx := rfl
@[simp] theorem Dev.setEthp_i3c (d : Dev) (n : Nat) (x : Eth) : (d.setEthp n x).i3c = d.i3c := rfl
@[simp] theorem Dev.setEthp_sec (d : Dev) (n : Nat) (x : Eth) : (d.setEthp n x).sec = d.sec := rfl
@[simp] theorem Dev.setEthp_bus (d : Dev) (n : Nat) (x : Eth) : (d.setEthp n x).bus = d.bus := rfl
@[simp] theorem Dev.setEthp_mem (d : Dev) (n : Nat) (x : Eth) : (d.setEthp n x).mem = d.mem := rfl
@[simp] theorem Dev.setEthp_poison (d : Dev) (n : Nat) (x : Eth) : (d.setEthp n x).poison = d.poison := rfl
@[simp] theorem Dev.setEthp_upsets (d : Dev) (n : Nat) (x : Eth) : (d.setEthp n x).upsets = d.upsets := rfl
@[simp] theorem Dev.setEthp_repairsDue (d : Dev) (n : Nat) (x : Eth) : (d.setEthp n x).repairsDue = d.repairsDue := rfl
@[simp] theorem Dev.setEthp_free (d : Dev) (n : Nat) (x : Eth) : (d.setEthp n x).free = d.free := rfl
@[simp] theorem Dev.setEthp_job (d : Dev) (n : Nat) (x : Eth) (z : Nat) : (d.setEthp n x).job z = d.job z := rfl
@[simp] theorem Dev.setEthp_tslot (d : Dev) (n : Nat) (x : Eth) (z : Nat) : (d.setEthp n x).tslot z = d.tslot z := rfl
@[simp] theorem Dev.setEthp_basin (d : Dev) (n : Nat) (x : Eth) (z : Nat) : (d.setEthp n x).basin z = d.basin z := rfl
@[simp] theorem Dev.setEthp_frame (d : Dev) (n : Nat) (x : Eth) (z : Nat) : (d.setEthp n x).frame z = d.frame z := rfl
@[simp] theorem Dev.setEthp_freeStack (d : Dev) (n : Nat) (x : Eth) (z : Nat) : (d.setEthp n x).freeStack z = d.freeStack z := rfl
@[simp] theorem Dev.setEthp_core (d : Dev) (n : Nat) (x : Eth) (z : Nat) : (d.setEthp n x).core z = d.core z := rfl
@[simp] theorem Dev.setEthp_stack (d : Dev) (n : Nat) (x : Eth) (z : Nat) : (d.setEthp n x).stack z = d.stack z := rfl
@[simp] theorem Dev.setEthp_port (d : Dev) (n : Nat) (x : Eth) (z : Nat) : (d.setEthp n x).port z = d.port z := rfl
@[simp] theorem Dev.setEthp_grp (d : Dev) (n : Nat) (x : Eth) (z : Nat) : (d.setEthp n x).grp z = d.grp z := rfl
@[simp] theorem Dev.setEthp_spout (d : Dev) (n : Nat) (x : Eth) (z : Nat) : (d.setEthp n x).spout z = d.spout z := rfl
@[simp] theorem Dev.setEthp_stream (d : Dev) (n : Nat) (x : Eth) (z : Nat) : (d.setEthp n x).stream z = d.stream z := rfl
@[simp] theorem Dev.setEthp_mbxc (d : Dev) (n : Nat) (x : Eth) (z : Nat) : (d.setEthp n x).mbxc z = d.mbxc z := rfl
@[simp] theorem Dev.setEthp_schan (d : Dev) (n : Nat) (x : Eth) (z : Nat) : (d.setEthp n x).schan z = d.schan z := rfl
@[simp] theorem Dev.setEthp_conn (d : Dev) (n : Nat) (x : Eth) (z : Nat) : (d.setEthp n x).conn z = d.conn z := rfl
@[simp] theorem Dev.setEthp_assoc (d : Dev) (n : Nat) (x : Eth) (z : Nat) : (d.setEthp n x).assoc z = d.assoc z := rfl
@[simp] theorem Dev.setConn_readLatch (d : Dev) (h : Nat) (x : Conn) : (d.setConn h x).readLatch = d.readLatch := rfl
@[simp] theorem Dev.setConn_writeLatch (d : Dev) (h : Nat) (x : Conn) : (d.setConn h x).writeLatch = d.writeLatch := rfl
@[simp] theorem Dev.setConn_str (d : Dev) (h : Nat) (x : Conn) : (d.setConn h x).str = d.str := rfl
@[simp] theorem Dev.setConn_trn (d : Dev) (h : Nat) (x : Conn) : (d.setConn h x).trn = d.trn := rfl
@[simp] theorem Dev.setConn_clp (d : Dev) (h : Nat) (x : Conn) : (d.setConn h x).clp = d.clp := rfl
@[simp] theorem Dev.setConn_jobs (d : Dev) (h : Nat) (x : Conn) : (d.setConn h x).jobs = d.jobs := rfl
@[simp] theorem Dev.setConn_sch (d : Dev) (h : Nat) (x : Conn) : (d.setConn h x).sch = d.sch := rfl
@[simp] theorem Dev.setConn_flt (d : Dev) (h : Nat) (x : Conn) : (d.setConn h x).flt = d.flt := rfl
@[simp] theorem Dev.setConn_cnt (d : Dev) (h : Nat) (x : Conn) : (d.setConn h x).cnt = d.cnt := rfl
@[simp] theorem Dev.setConn_sys (d : Dev) (h : Nat) (x : Conn) : (d.setConn h x).sys = d.sys := rfl
@[simp] theorem Dev.setConn_hbm (d : Dev) (h : Nat) (x : Conn) : (d.setConn h x).hbm = d.hbm := rfl
@[simp] theorem Dev.setConn_weir (d : Dev) (h : Nat) (x : Conn) : (d.setConn h x).weir = d.weir := rfl
@[simp] theorem Dev.setConn_cores (d : Dev) (h : Nat) (x : Conn) : (d.setConn h x).cores = d.cores := rfl
@[simp] theorem Dev.setConn_sems (d : Dev) (h : Nat) (x : Conn) : (d.setConn h x).sems = d.sems := rfl
@[simp] theorem Dev.setConn_saved (d : Dev) (h : Nat) (x : Conn) : (d.setConn h x).saved = d.saved := rfl
@[simp] theorem Dev.setConn_tmNext (d : Dev) (h : Nat) (x : Conn) : (d.setConn h x).tmNext = d.tmNext := rfl
@[simp] theorem Dev.setConn_spouts (d : Dev) (h : Nat) (x : Conn) : (d.setConn h x).spouts = d.spouts := rfl
@[simp] theorem Dev.setConn_klz (d : Dev) (h : Nat) (x : Conn) : (d.setConn h x).klz = d.klz := rfl
@[simp] theorem Dev.setConn_cod (d : Dev) (h : Nat) (x : Conn) : (d.setConn h x).cod = d.cod := rfl
@[simp] theorem Dev.setConn_eth (d : Dev) (h : Nat) (x : Conn) : (d.setConn h x).eth = d.eth := rfl
@[simp] theorem Dev.setConn_mbxLocked (d : Dev) (h : Nat) (x : Conn) : (d.setConn h x).mbxLocked = d.mbxLocked := rfl
@[simp] theorem Dev.setConn_mbx (d : Dev) (h : Nat) (x : Conn) : (d.setConn h x).mbx = d.mbx := rfl
@[simp] theorem Dev.setConn_i3c (d : Dev) (h : Nat) (x : Conn) : (d.setConn h x).i3c = d.i3c := rfl
@[simp] theorem Dev.setConn_sec (d : Dev) (h : Nat) (x : Conn) : (d.setConn h x).sec = d.sec := rfl
@[simp] theorem Dev.setConn_bus (d : Dev) (h : Nat) (x : Conn) : (d.setConn h x).bus = d.bus := rfl
@[simp] theorem Dev.setConn_mem (d : Dev) (h : Nat) (x : Conn) : (d.setConn h x).mem = d.mem := rfl
@[simp] theorem Dev.setConn_poison (d : Dev) (h : Nat) (x : Conn) : (d.setConn h x).poison = d.poison := rfl
@[simp] theorem Dev.setConn_upsets (d : Dev) (h : Nat) (x : Conn) : (d.setConn h x).upsets = d.upsets := rfl
@[simp] theorem Dev.setConn_repairsDue (d : Dev) (h : Nat) (x : Conn) : (d.setConn h x).repairsDue = d.repairsDue := rfl
@[simp] theorem Dev.setConn_free (d : Dev) (h : Nat) (x : Conn) : (d.setConn h x).free = d.free := rfl
@[simp] theorem Dev.setConn_job (d : Dev) (h : Nat) (x : Conn) (z : Nat) : (d.setConn h x).job z = d.job z := rfl
@[simp] theorem Dev.setConn_tslot (d : Dev) (h : Nat) (x : Conn) (z : Nat) : (d.setConn h x).tslot z = d.tslot z := rfl
@[simp] theorem Dev.setConn_basin (d : Dev) (h : Nat) (x : Conn) (z : Nat) : (d.setConn h x).basin z = d.basin z := rfl
@[simp] theorem Dev.setConn_frame (d : Dev) (h : Nat) (x : Conn) (z : Nat) : (d.setConn h x).frame z = d.frame z := rfl
@[simp] theorem Dev.setConn_freeStack (d : Dev) (h : Nat) (x : Conn) (z : Nat) : (d.setConn h x).freeStack z = d.freeStack z := rfl
@[simp] theorem Dev.setConn_core (d : Dev) (h : Nat) (x : Conn) (z : Nat) : (d.setConn h x).core z = d.core z := rfl
@[simp] theorem Dev.setConn_stack (d : Dev) (h : Nat) (x : Conn) (z : Nat) : (d.setConn h x).stack z = d.stack z := rfl
@[simp] theorem Dev.setConn_port (d : Dev) (h : Nat) (x : Conn) (z : Nat) : (d.setConn h x).port z = d.port z := rfl
@[simp] theorem Dev.setConn_grp (d : Dev) (h : Nat) (x : Conn) (z : Nat) : (d.setConn h x).grp z = d.grp z := rfl
@[simp] theorem Dev.setConn_spout (d : Dev) (h : Nat) (x : Conn) (z : Nat) : (d.setConn h x).spout z = d.spout z := rfl
@[simp] theorem Dev.setConn_stream (d : Dev) (h : Nat) (x : Conn) (z : Nat) : (d.setConn h x).stream z = d.stream z := rfl
@[simp] theorem Dev.setConn_mbxc (d : Dev) (h : Nat) (x : Conn) (z : Nat) : (d.setConn h x).mbxc z = d.mbxc z := rfl
@[simp] theorem Dev.setConn_schan (d : Dev) (h : Nat) (x : Conn) (z : Nat) : (d.setConn h x).schan z = d.schan z := rfl
@[simp] theorem Dev.setConn_ethp (d : Dev) (h : Nat) (x : Conn) (z : Nat) : (d.setConn h x).ethp z = d.ethp z := rfl
@[simp] theorem Dev.setConn_assoc (d : Dev) (h : Nat) (x : Conn) (z : Nat) : (d.setConn h x).assoc z = d.assoc z := rfl
@[simp] theorem Dev.setAssoc_readLatch (d : Dev) (i : Nat) (x : Assoc) : (d.setAssoc i x).readLatch = d.readLatch := rfl
@[simp] theorem Dev.setAssoc_writeLatch (d : Dev) (i : Nat) (x : Assoc) : (d.setAssoc i x).writeLatch = d.writeLatch := rfl
@[simp] theorem Dev.setAssoc_str (d : Dev) (i : Nat) (x : Assoc) : (d.setAssoc i x).str = d.str := rfl
@[simp] theorem Dev.setAssoc_trn (d : Dev) (i : Nat) (x : Assoc) : (d.setAssoc i x).trn = d.trn := rfl
@[simp] theorem Dev.setAssoc_clp (d : Dev) (i : Nat) (x : Assoc) : (d.setAssoc i x).clp = d.clp := rfl
@[simp] theorem Dev.setAssoc_jobs (d : Dev) (i : Nat) (x : Assoc) : (d.setAssoc i x).jobs = d.jobs := rfl
@[simp] theorem Dev.setAssoc_sch (d : Dev) (i : Nat) (x : Assoc) : (d.setAssoc i x).sch = d.sch := rfl
@[simp] theorem Dev.setAssoc_flt (d : Dev) (i : Nat) (x : Assoc) : (d.setAssoc i x).flt = d.flt := rfl
@[simp] theorem Dev.setAssoc_cnt (d : Dev) (i : Nat) (x : Assoc) : (d.setAssoc i x).cnt = d.cnt := rfl
@[simp] theorem Dev.setAssoc_sys (d : Dev) (i : Nat) (x : Assoc) : (d.setAssoc i x).sys = d.sys := rfl
@[simp] theorem Dev.setAssoc_hbm (d : Dev) (i : Nat) (x : Assoc) : (d.setAssoc i x).hbm = d.hbm := rfl
@[simp] theorem Dev.setAssoc_weir (d : Dev) (i : Nat) (x : Assoc) : (d.setAssoc i x).weir = d.weir := rfl
@[simp] theorem Dev.setAssoc_cores (d : Dev) (i : Nat) (x : Assoc) : (d.setAssoc i x).cores = d.cores := rfl
@[simp] theorem Dev.setAssoc_sems (d : Dev) (i : Nat) (x : Assoc) : (d.setAssoc i x).sems = d.sems := rfl
@[simp] theorem Dev.setAssoc_saved (d : Dev) (i : Nat) (x : Assoc) : (d.setAssoc i x).saved = d.saved := rfl
@[simp] theorem Dev.setAssoc_tmNext (d : Dev) (i : Nat) (x : Assoc) : (d.setAssoc i x).tmNext = d.tmNext := rfl
@[simp] theorem Dev.setAssoc_spouts (d : Dev) (i : Nat) (x : Assoc) : (d.setAssoc i x).spouts = d.spouts := rfl
@[simp] theorem Dev.setAssoc_klz (d : Dev) (i : Nat) (x : Assoc) : (d.setAssoc i x).klz = d.klz := rfl
@[simp] theorem Dev.setAssoc_cod (d : Dev) (i : Nat) (x : Assoc) : (d.setAssoc i x).cod = d.cod := rfl
@[simp] theorem Dev.setAssoc_eth (d : Dev) (i : Nat) (x : Assoc) : (d.setAssoc i x).eth = d.eth := rfl
@[simp] theorem Dev.setAssoc_pld (d : Dev) (i : Nat) (x : Assoc) : (d.setAssoc i x).pld = d.pld := rfl
@[simp] theorem Dev.setAssoc_mbxLocked (d : Dev) (i : Nat) (x : Assoc) : (d.setAssoc i x).mbxLocked = d.mbxLocked := rfl
@[simp] theorem Dev.setAssoc_mbx (d : Dev) (i : Nat) (x : Assoc) : (d.setAssoc i x).mbx = d.mbx := rfl
@[simp] theorem Dev.setAssoc_i3c (d : Dev) (i : Nat) (x : Assoc) : (d.setAssoc i x).i3c = d.i3c := rfl
@[simp] theorem Dev.setAssoc_bus (d : Dev) (i : Nat) (x : Assoc) : (d.setAssoc i x).bus = d.bus := rfl
@[simp] theorem Dev.setAssoc_mem (d : Dev) (i : Nat) (x : Assoc) : (d.setAssoc i x).mem = d.mem := rfl
@[simp] theorem Dev.setAssoc_poison (d : Dev) (i : Nat) (x : Assoc) : (d.setAssoc i x).poison = d.poison := rfl
@[simp] theorem Dev.setAssoc_upsets (d : Dev) (i : Nat) (x : Assoc) : (d.setAssoc i x).upsets = d.upsets := rfl
@[simp] theorem Dev.setAssoc_repairsDue (d : Dev) (i : Nat) (x : Assoc) : (d.setAssoc i x).repairsDue = d.repairsDue := rfl
@[simp] theorem Dev.setAssoc_free (d : Dev) (i : Nat) (x : Assoc) : (d.setAssoc i x).free = d.free := rfl
@[simp] theorem Dev.setAssoc_job (d : Dev) (i : Nat) (x : Assoc) (z : Nat) : (d.setAssoc i x).job z = d.job z := rfl
@[simp] theorem Dev.setAssoc_tslot (d : Dev) (i : Nat) (x : Assoc) (z : Nat) : (d.setAssoc i x).tslot z = d.tslot z := rfl
@[simp] theorem Dev.setAssoc_basin (d : Dev) (i : Nat) (x : Assoc) (z : Nat) : (d.setAssoc i x).basin z = d.basin z := rfl
@[simp] theorem Dev.setAssoc_frame (d : Dev) (i : Nat) (x : Assoc) (z : Nat) : (d.setAssoc i x).frame z = d.frame z := rfl
@[simp] theorem Dev.setAssoc_freeStack (d : Dev) (i : Nat) (x : Assoc) (z : Nat) : (d.setAssoc i x).freeStack z = d.freeStack z := rfl
@[simp] theorem Dev.setAssoc_core (d : Dev) (i : Nat) (x : Assoc) (z : Nat) : (d.setAssoc i x).core z = d.core z := rfl
@[simp] theorem Dev.setAssoc_stack (d : Dev) (i : Nat) (x : Assoc) (z : Nat) : (d.setAssoc i x).stack z = d.stack z := rfl
@[simp] theorem Dev.setAssoc_port (d : Dev) (i : Nat) (x : Assoc) (z : Nat) : (d.setAssoc i x).port z = d.port z := rfl
@[simp] theorem Dev.setAssoc_grp (d : Dev) (i : Nat) (x : Assoc) (z : Nat) : (d.setAssoc i x).grp z = d.grp z := rfl
@[simp] theorem Dev.setAssoc_spout (d : Dev) (i : Nat) (x : Assoc) (z : Nat) : (d.setAssoc i x).spout z = d.spout z := rfl
@[simp] theorem Dev.setAssoc_stream (d : Dev) (i : Nat) (x : Assoc) (z : Nat) : (d.setAssoc i x).stream z = d.stream z := rfl
@[simp] theorem Dev.setAssoc_mbxc (d : Dev) (i : Nat) (x : Assoc) (z : Nat) : (d.setAssoc i x).mbxc z = d.mbxc z := rfl
@[simp] theorem Dev.setAssoc_schan (d : Dev) (i : Nat) (x : Assoc) (z : Nat) : (d.setAssoc i x).schan z = d.schan z := rfl
@[simp] theorem Dev.setAssoc_ethp (d : Dev) (i : Nat) (x : Assoc) (z : Nat) : (d.setAssoc i x).ethp z = d.ethp z := rfl
@[simp] theorem Dev.setAssoc_conn (d : Dev) (i : Nat) (x : Assoc) (z : Nat) : (d.setAssoc i x).conn z = d.conn z := rfl
@[simp] theorem Dev.count_readLatch (d : Dev) (n k : Nat) : (d.count n k).readLatch = d.readLatch := rfl
@[simp] theorem Dev.count_writeLatch (d : Dev) (n k : Nat) : (d.count n k).writeLatch = d.writeLatch := rfl
@[simp] theorem Dev.count_str (d : Dev) (n k : Nat) : (d.count n k).str = d.str := rfl
@[simp] theorem Dev.count_trn (d : Dev) (n k : Nat) : (d.count n k).trn = d.trn := rfl
@[simp] theorem Dev.count_clp (d : Dev) (n k : Nat) : (d.count n k).clp = d.clp := rfl
@[simp] theorem Dev.count_jobs (d : Dev) (n k : Nat) : (d.count n k).jobs = d.jobs := rfl
@[simp] theorem Dev.count_sch (d : Dev) (n k : Nat) : (d.count n k).sch = d.sch := rfl
@[simp] theorem Dev.count_flt (d : Dev) (n k : Nat) : (d.count n k).flt = d.flt := rfl
@[simp] theorem Dev.count_sys (d : Dev) (n k : Nat) : (d.count n k).sys = d.sys := rfl
@[simp] theorem Dev.count_hbm (d : Dev) (n k : Nat) : (d.count n k).hbm = d.hbm := rfl
@[simp] theorem Dev.count_weir (d : Dev) (n k : Nat) : (d.count n k).weir = d.weir := rfl
@[simp] theorem Dev.count_cores (d : Dev) (n k : Nat) : (d.count n k).cores = d.cores := rfl
@[simp] theorem Dev.count_sems (d : Dev) (n k : Nat) : (d.count n k).sems = d.sems := rfl
@[simp] theorem Dev.count_saved (d : Dev) (n k : Nat) : (d.count n k).saved = d.saved := rfl
@[simp] theorem Dev.count_tmNext (d : Dev) (n k : Nat) : (d.count n k).tmNext = d.tmNext := rfl
@[simp] theorem Dev.count_spouts (d : Dev) (n k : Nat) : (d.count n k).spouts = d.spouts := rfl
@[simp] theorem Dev.count_klz (d : Dev) (n k : Nat) : (d.count n k).klz = d.klz := rfl
@[simp] theorem Dev.count_cod (d : Dev) (n k : Nat) : (d.count n k).cod = d.cod := rfl
@[simp] theorem Dev.count_eth (d : Dev) (n k : Nat) : (d.count n k).eth = d.eth := rfl
@[simp] theorem Dev.count_pld (d : Dev) (n k : Nat) : (d.count n k).pld = d.pld := rfl
@[simp] theorem Dev.count_mbxLocked (d : Dev) (n k : Nat) : (d.count n k).mbxLocked = d.mbxLocked := rfl
@[simp] theorem Dev.count_mbx (d : Dev) (n k : Nat) : (d.count n k).mbx = d.mbx := rfl
@[simp] theorem Dev.count_i3c (d : Dev) (n k : Nat) : (d.count n k).i3c = d.i3c := rfl
@[simp] theorem Dev.count_sec (d : Dev) (n k : Nat) : (d.count n k).sec = d.sec := rfl
@[simp] theorem Dev.count_bus (d : Dev) (n k : Nat) : (d.count n k).bus = d.bus := rfl
@[simp] theorem Dev.count_mem (d : Dev) (n k : Nat) : (d.count n k).mem = d.mem := rfl
@[simp] theorem Dev.count_poison (d : Dev) (n k : Nat) : (d.count n k).poison = d.poison := rfl
@[simp] theorem Dev.count_upsets (d : Dev) (n k : Nat) : (d.count n k).upsets = d.upsets := rfl
@[simp] theorem Dev.count_repairsDue (d : Dev) (n k : Nat) : (d.count n k).repairsDue = d.repairsDue := rfl
@[simp] theorem Dev.count_free (d : Dev) (n k : Nat) : (d.count n k).free = d.free := rfl
@[simp] theorem Dev.count_job (d : Dev) (n k : Nat) (z : Nat) : (d.count n k).job z = d.job z := rfl
@[simp] theorem Dev.count_tslot (d : Dev) (n k : Nat) (z : Nat) : (d.count n k).tslot z = d.tslot z := rfl
@[simp] theorem Dev.count_basin (d : Dev) (n k : Nat) (z : Nat) : (d.count n k).basin z = d.basin z := rfl
@[simp] theorem Dev.count_frame (d : Dev) (n k : Nat) (z : Nat) : (d.count n k).frame z = d.frame z := rfl
@[simp] theorem Dev.count_freeStack (d : Dev) (n k : Nat) (z : Nat) : (d.count n k).freeStack z = d.freeStack z := rfl
@[simp] theorem Dev.count_core (d : Dev) (n k : Nat) (z : Nat) : (d.count n k).core z = d.core z := rfl
@[simp] theorem Dev.count_stack (d : Dev) (n k : Nat) (z : Nat) : (d.count n k).stack z = d.stack z := rfl
@[simp] theorem Dev.count_port (d : Dev) (n k : Nat) (z : Nat) : (d.count n k).port z = d.port z := rfl
@[simp] theorem Dev.count_grp (d : Dev) (n k : Nat) (z : Nat) : (d.count n k).grp z = d.grp z := rfl
@[simp] theorem Dev.count_spout (d : Dev) (n k : Nat) (z : Nat) : (d.count n k).spout z = d.spout z := rfl
@[simp] theorem Dev.count_stream (d : Dev) (n k : Nat) (z : Nat) : (d.count n k).stream z = d.stream z := rfl
@[simp] theorem Dev.count_mbxc (d : Dev) (n k : Nat) (z : Nat) : (d.count n k).mbxc z = d.mbxc z := rfl
@[simp] theorem Dev.count_schan (d : Dev) (n k : Nat) (z : Nat) : (d.count n k).schan z = d.schan z := rfl
@[simp] theorem Dev.count_ethp (d : Dev) (n k : Nat) (z : Nat) : (d.count n k).ethp z = d.ethp z := rfl
@[simp] theorem Dev.count_conn (d : Dev) (n k : Nat) (z : Nat) : (d.count n k).conn z = d.conn z := rfl
@[simp] theorem Dev.count_assoc (d : Dev) (n k : Nat) (z : Nat) : (d.count n k).assoc z = d.assoc z := rfl
@[simp] theorem Dev.cellPut_readLatch (d : Dev) (a : Nat) (bs : List Byte) : (d.cellPut a bs).readLatch = d.readLatch := rfl
@[simp] theorem Dev.cellPut_writeLatch (d : Dev) (a : Nat) (bs : List Byte) : (d.cellPut a bs).writeLatch = d.writeLatch := rfl
@[simp] theorem Dev.cellPut_str (d : Dev) (a : Nat) (bs : List Byte) : (d.cellPut a bs).str = d.str := rfl
@[simp] theorem Dev.cellPut_trn (d : Dev) (a : Nat) (bs : List Byte) : (d.cellPut a bs).trn = d.trn := rfl
@[simp] theorem Dev.cellPut_clp (d : Dev) (a : Nat) (bs : List Byte) : (d.cellPut a bs).clp = d.clp := rfl
@[simp] theorem Dev.cellPut_jobs (d : Dev) (a : Nat) (bs : List Byte) : (d.cellPut a bs).jobs = d.jobs := rfl
@[simp] theorem Dev.cellPut_sch (d : Dev) (a : Nat) (bs : List Byte) : (d.cellPut a bs).sch = d.sch := rfl
@[simp] theorem Dev.cellPut_flt (d : Dev) (a : Nat) (bs : List Byte) : (d.cellPut a bs).flt = d.flt := rfl
@[simp] theorem Dev.cellPut_cnt (d : Dev) (a : Nat) (bs : List Byte) : (d.cellPut a bs).cnt = d.cnt := rfl
@[simp] theorem Dev.cellPut_sys (d : Dev) (a : Nat) (bs : List Byte) : (d.cellPut a bs).sys = d.sys := rfl
@[simp] theorem Dev.cellPut_hbm (d : Dev) (a : Nat) (bs : List Byte) : (d.cellPut a bs).hbm = d.hbm := rfl
@[simp] theorem Dev.cellPut_weir (d : Dev) (a : Nat) (bs : List Byte) : (d.cellPut a bs).weir = d.weir := rfl
@[simp] theorem Dev.cellPut_cores (d : Dev) (a : Nat) (bs : List Byte) : (d.cellPut a bs).cores = d.cores := rfl
@[simp] theorem Dev.cellPut_sems (d : Dev) (a : Nat) (bs : List Byte) : (d.cellPut a bs).sems = d.sems := rfl
@[simp] theorem Dev.cellPut_saved (d : Dev) (a : Nat) (bs : List Byte) : (d.cellPut a bs).saved = d.saved := rfl
@[simp] theorem Dev.cellPut_tmNext (d : Dev) (a : Nat) (bs : List Byte) : (d.cellPut a bs).tmNext = d.tmNext := rfl
@[simp] theorem Dev.cellPut_spouts (d : Dev) (a : Nat) (bs : List Byte) : (d.cellPut a bs).spouts = d.spouts := rfl
@[simp] theorem Dev.cellPut_klz (d : Dev) (a : Nat) (bs : List Byte) : (d.cellPut a bs).klz = d.klz := rfl
@[simp] theorem Dev.cellPut_cod (d : Dev) (a : Nat) (bs : List Byte) : (d.cellPut a bs).cod = d.cod := rfl
@[simp] theorem Dev.cellPut_eth (d : Dev) (a : Nat) (bs : List Byte) : (d.cellPut a bs).eth = d.eth := rfl
@[simp] theorem Dev.cellPut_pld (d : Dev) (a : Nat) (bs : List Byte) : (d.cellPut a bs).pld = d.pld := rfl
@[simp] theorem Dev.cellPut_mbxLocked (d : Dev) (a : Nat) (bs : List Byte) : (d.cellPut a bs).mbxLocked = d.mbxLocked := rfl
@[simp] theorem Dev.cellPut_mbx (d : Dev) (a : Nat) (bs : List Byte) : (d.cellPut a bs).mbx = d.mbx := rfl
@[simp] theorem Dev.cellPut_i3c (d : Dev) (a : Nat) (bs : List Byte) : (d.cellPut a bs).i3c = d.i3c := rfl
@[simp] theorem Dev.cellPut_sec (d : Dev) (a : Nat) (bs : List Byte) : (d.cellPut a bs).sec = d.sec := rfl
@[simp] theorem Dev.cellPut_bus (d : Dev) (a : Nat) (bs : List Byte) : (d.cellPut a bs).bus = d.bus := rfl
@[simp] theorem Dev.cellPut_repairsDue (d : Dev) (a : Nat) (bs : List Byte) : (d.cellPut a bs).repairsDue = d.repairsDue := rfl
@[simp] theorem Dev.cellPut_free (d : Dev) (a : Nat) (bs : List Byte) : (d.cellPut a bs).free = d.free := rfl
@[simp] theorem Dev.cellPut_job (d : Dev) (a : Nat) (bs : List Byte) (z : Nat) : (d.cellPut a bs).job z = d.job z := rfl
@[simp] theorem Dev.cellPut_tslot (d : Dev) (a : Nat) (bs : List Byte) (z : Nat) : (d.cellPut a bs).tslot z = d.tslot z := rfl
@[simp] theorem Dev.cellPut_basin (d : Dev) (a : Nat) (bs : List Byte) (z : Nat) : (d.cellPut a bs).basin z = d.basin z := rfl
@[simp] theorem Dev.cellPut_frame (d : Dev) (a : Nat) (bs : List Byte) (z : Nat) : (d.cellPut a bs).frame z = d.frame z := rfl
@[simp] theorem Dev.cellPut_freeStack (d : Dev) (a : Nat) (bs : List Byte) (z : Nat) : (d.cellPut a bs).freeStack z = d.freeStack z := rfl
@[simp] theorem Dev.cellPut_core (d : Dev) (a : Nat) (bs : List Byte) (z : Nat) : (d.cellPut a bs).core z = d.core z := rfl
@[simp] theorem Dev.cellPut_stack (d : Dev) (a : Nat) (bs : List Byte) (z : Nat) : (d.cellPut a bs).stack z = d.stack z := rfl
@[simp] theorem Dev.cellPut_port (d : Dev) (a : Nat) (bs : List Byte) (z : Nat) : (d.cellPut a bs).port z = d.port z := rfl
@[simp] theorem Dev.cellPut_grp (d : Dev) (a : Nat) (bs : List Byte) (z : Nat) : (d.cellPut a bs).grp z = d.grp z := rfl
@[simp] theorem Dev.cellPut_spout (d : Dev) (a : Nat) (bs : List Byte) (z : Nat) : (d.cellPut a bs).spout z = d.spout z := rfl
@[simp] theorem Dev.cellPut_stream (d : Dev) (a : Nat) (bs : List Byte) (z : Nat) : (d.cellPut a bs).stream z = d.stream z := rfl
@[simp] theorem Dev.cellPut_mbxc (d : Dev) (a : Nat) (bs : List Byte) (z : Nat) : (d.cellPut a bs).mbxc z = d.mbxc z := rfl
@[simp] theorem Dev.cellPut_schan (d : Dev) (a : Nat) (bs : List Byte) (z : Nat) : (d.cellPut a bs).schan z = d.schan z := rfl
@[simp] theorem Dev.cellPut_ethp (d : Dev) (a : Nat) (bs : List Byte) (z : Nat) : (d.cellPut a bs).ethp z = d.ethp z := rfl
@[simp] theorem Dev.cellPut_conn (d : Dev) (a : Nat) (bs : List Byte) (z : Nat) : (d.cellPut a bs).conn z = d.conn z := rfl
@[simp] theorem Dev.cellPut_assoc (d : Dev) (a : Nat) (bs : List Byte) (z : Nat) : (d.cellPut a bs).assoc z = d.assoc z := rfl
@[simp] theorem Dev.cellZero_readLatch (d : Dev) (a n : Nat) : (d.cellZero a n).readLatch = d.readLatch := rfl
@[simp] theorem Dev.cellZero_writeLatch (d : Dev) (a n : Nat) : (d.cellZero a n).writeLatch = d.writeLatch := rfl
@[simp] theorem Dev.cellZero_str (d : Dev) (a n : Nat) : (d.cellZero a n).str = d.str := rfl
@[simp] theorem Dev.cellZero_trn (d : Dev) (a n : Nat) : (d.cellZero a n).trn = d.trn := rfl
@[simp] theorem Dev.cellZero_clp (d : Dev) (a n : Nat) : (d.cellZero a n).clp = d.clp := rfl
@[simp] theorem Dev.cellZero_jobs (d : Dev) (a n : Nat) : (d.cellZero a n).jobs = d.jobs := rfl
@[simp] theorem Dev.cellZero_sch (d : Dev) (a n : Nat) : (d.cellZero a n).sch = d.sch := rfl
@[simp] theorem Dev.cellZero_flt (d : Dev) (a n : Nat) : (d.cellZero a n).flt = d.flt := rfl
@[simp] theorem Dev.cellZero_cnt (d : Dev) (a n : Nat) : (d.cellZero a n).cnt = d.cnt := rfl
@[simp] theorem Dev.cellZero_sys (d : Dev) (a n : Nat) : (d.cellZero a n).sys = d.sys := rfl
@[simp] theorem Dev.cellZero_hbm (d : Dev) (a n : Nat) : (d.cellZero a n).hbm = d.hbm := rfl
@[simp] theorem Dev.cellZero_weir (d : Dev) (a n : Nat) : (d.cellZero a n).weir = d.weir := rfl
@[simp] theorem Dev.cellZero_cores (d : Dev) (a n : Nat) : (d.cellZero a n).cores = d.cores := rfl
@[simp] theorem Dev.cellZero_sems (d : Dev) (a n : Nat) : (d.cellZero a n).sems = d.sems := rfl
@[simp] theorem Dev.cellZero_saved (d : Dev) (a n : Nat) : (d.cellZero a n).saved = d.saved := rfl
@[simp] theorem Dev.cellZero_tmNext (d : Dev) (a n : Nat) : (d.cellZero a n).tmNext = d.tmNext := rfl
@[simp] theorem Dev.cellZero_spouts (d : Dev) (a n : Nat) : (d.cellZero a n).spouts = d.spouts := rfl
@[simp] theorem Dev.cellZero_klz (d : Dev) (a n : Nat) : (d.cellZero a n).klz = d.klz := rfl
@[simp] theorem Dev.cellZero_cod (d : Dev) (a n : Nat) : (d.cellZero a n).cod = d.cod := rfl
@[simp] theorem Dev.cellZero_eth (d : Dev) (a n : Nat) : (d.cellZero a n).eth = d.eth := rfl
@[simp] theorem Dev.cellZero_pld (d : Dev) (a n : Nat) : (d.cellZero a n).pld = d.pld := rfl
@[simp] theorem Dev.cellZero_mbxLocked (d : Dev) (a n : Nat) : (d.cellZero a n).mbxLocked = d.mbxLocked := rfl
@[simp] theorem Dev.cellZero_mbx (d : Dev) (a n : Nat) : (d.cellZero a n).mbx = d.mbx := rfl
@[simp] theorem Dev.cellZero_i3c (d : Dev) (a n : Nat) : (d.cellZero a n).i3c = d.i3c := rfl
@[simp] theorem Dev.cellZero_sec (d : Dev) (a n : Nat) : (d.cellZero a n).sec = d.sec := rfl
@[simp] theorem Dev.cellZero_bus (d : Dev) (a n : Nat) : (d.cellZero a n).bus = d.bus := rfl
@[simp] theorem Dev.cellZero_repairsDue (d : Dev) (a n : Nat) : (d.cellZero a n).repairsDue = d.repairsDue := rfl
@[simp] theorem Dev.cellZero_free (d : Dev) (a n : Nat) : (d.cellZero a n).free = d.free := rfl
@[simp] theorem Dev.cellZero_job (d : Dev) (a n : Nat) (z : Nat) : (d.cellZero a n).job z = d.job z := rfl
@[simp] theorem Dev.cellZero_tslot (d : Dev) (a n : Nat) (z : Nat) : (d.cellZero a n).tslot z = d.tslot z := rfl
@[simp] theorem Dev.cellZero_basin (d : Dev) (a n : Nat) (z : Nat) : (d.cellZero a n).basin z = d.basin z := rfl
@[simp] theorem Dev.cellZero_frame (d : Dev) (a n : Nat) (z : Nat) : (d.cellZero a n).frame z = d.frame z := rfl
@[simp] theorem Dev.cellZero_freeStack (d : Dev) (a n : Nat) (z : Nat) : (d.cellZero a n).freeStack z = d.freeStack z := rfl
@[simp] theorem Dev.cellZero_core (d : Dev) (a n : Nat) (z : Nat) : (d.cellZero a n).core z = d.core z := rfl
@[simp] theorem Dev.cellZero_stack (d : Dev) (a n : Nat) (z : Nat) : (d.cellZero a n).stack z = d.stack z := rfl
@[simp] theorem Dev.cellZero_port (d : Dev) (a n : Nat) (z : Nat) : (d.cellZero a n).port z = d.port z := rfl
@[simp] theorem Dev.cellZero_grp (d : Dev) (a n : Nat) (z : Nat) : (d.cellZero a n).grp z = d.grp z := rfl
@[simp] theorem Dev.cellZero_spout (d : Dev) (a n : Nat) (z : Nat) : (d.cellZero a n).spout z = d.spout z := rfl
@[simp] theorem Dev.cellZero_stream (d : Dev) (a n : Nat) (z : Nat) : (d.cellZero a n).stream z = d.stream z := rfl
@[simp] theorem Dev.cellZero_mbxc (d : Dev) (a n : Nat) (z : Nat) : (d.cellZero a n).mbxc z = d.mbxc z := rfl
@[simp] theorem Dev.cellZero_schan (d : Dev) (a n : Nat) (z : Nat) : (d.cellZero a n).schan z = d.schan z := rfl
@[simp] theorem Dev.cellZero_ethp (d : Dev) (a n : Nat) (z : Nat) : (d.cellZero a n).ethp z = d.ethp z := rfl
@[simp] theorem Dev.cellZero_conn (d : Dev) (a n : Nat) (z : Nat) : (d.cellZero a n).conn z = d.conn z := rfl
@[simp] theorem Dev.cellZero_assoc (d : Dev) (a n : Nat) (z : Nat) : (d.cellZero a n).assoc z = d.assoc z := rfl
@[simp] theorem Dev.cellHavoc_readLatch (d : Dev) (a n : Nat) : (d.cellHavoc a n).readLatch = d.readLatch := rfl
@[simp] theorem Dev.cellHavoc_writeLatch (d : Dev) (a n : Nat) : (d.cellHavoc a n).writeLatch = d.writeLatch := rfl
@[simp] theorem Dev.cellHavoc_str (d : Dev) (a n : Nat) : (d.cellHavoc a n).str = d.str := rfl
@[simp] theorem Dev.cellHavoc_trn (d : Dev) (a n : Nat) : (d.cellHavoc a n).trn = d.trn := rfl
@[simp] theorem Dev.cellHavoc_clp (d : Dev) (a n : Nat) : (d.cellHavoc a n).clp = d.clp := rfl
@[simp] theorem Dev.cellHavoc_jobs (d : Dev) (a n : Nat) : (d.cellHavoc a n).jobs = d.jobs := rfl
@[simp] theorem Dev.cellHavoc_sch (d : Dev) (a n : Nat) : (d.cellHavoc a n).sch = d.sch := rfl
@[simp] theorem Dev.cellHavoc_flt (d : Dev) (a n : Nat) : (d.cellHavoc a n).flt = d.flt := rfl
@[simp] theorem Dev.cellHavoc_cnt (d : Dev) (a n : Nat) : (d.cellHavoc a n).cnt = d.cnt := rfl
@[simp] theorem Dev.cellHavoc_sys (d : Dev) (a n : Nat) : (d.cellHavoc a n).sys = d.sys := rfl
@[simp] theorem Dev.cellHavoc_hbm (d : Dev) (a n : Nat) : (d.cellHavoc a n).hbm = d.hbm := rfl
@[simp] theorem Dev.cellHavoc_weir (d : Dev) (a n : Nat) : (d.cellHavoc a n).weir = d.weir := rfl
@[simp] theorem Dev.cellHavoc_cores (d : Dev) (a n : Nat) : (d.cellHavoc a n).cores = d.cores := rfl
@[simp] theorem Dev.cellHavoc_sems (d : Dev) (a n : Nat) : (d.cellHavoc a n).sems = d.sems := rfl
@[simp] theorem Dev.cellHavoc_saved (d : Dev) (a n : Nat) : (d.cellHavoc a n).saved = d.saved := rfl
@[simp] theorem Dev.cellHavoc_tmNext (d : Dev) (a n : Nat) : (d.cellHavoc a n).tmNext = d.tmNext := rfl
@[simp] theorem Dev.cellHavoc_spouts (d : Dev) (a n : Nat) : (d.cellHavoc a n).spouts = d.spouts := rfl
@[simp] theorem Dev.cellHavoc_klz (d : Dev) (a n : Nat) : (d.cellHavoc a n).klz = d.klz := rfl
@[simp] theorem Dev.cellHavoc_cod (d : Dev) (a n : Nat) : (d.cellHavoc a n).cod = d.cod := rfl
@[simp] theorem Dev.cellHavoc_eth (d : Dev) (a n : Nat) : (d.cellHavoc a n).eth = d.eth := rfl
@[simp] theorem Dev.cellHavoc_pld (d : Dev) (a n : Nat) : (d.cellHavoc a n).pld = d.pld := rfl
@[simp] theorem Dev.cellHavoc_mbxLocked (d : Dev) (a n : Nat) : (d.cellHavoc a n).mbxLocked = d.mbxLocked := rfl
@[simp] theorem Dev.cellHavoc_mbx (d : Dev) (a n : Nat) : (d.cellHavoc a n).mbx = d.mbx := rfl
@[simp] theorem Dev.cellHavoc_i3c (d : Dev) (a n : Nat) : (d.cellHavoc a n).i3c = d.i3c := rfl
@[simp] theorem Dev.cellHavoc_sec (d : Dev) (a n : Nat) : (d.cellHavoc a n).sec = d.sec := rfl
@[simp] theorem Dev.cellHavoc_bus (d : Dev) (a n : Nat) : (d.cellHavoc a n).bus = d.bus := rfl
@[simp] theorem Dev.cellHavoc_poison (d : Dev) (a n : Nat) : (d.cellHavoc a n).poison = d.poison := rfl
@[simp] theorem Dev.cellHavoc_upsets (d : Dev) (a n : Nat) : (d.cellHavoc a n).upsets = d.upsets := rfl
@[simp] theorem Dev.cellHavoc_repairsDue (d : Dev) (a n : Nat) : (d.cellHavoc a n).repairsDue = d.repairsDue := rfl
@[simp] theorem Dev.cellHavoc_job (d : Dev) (a n : Nat) (z : Nat) : (d.cellHavoc a n).job z = d.job z := rfl
@[simp] theorem Dev.cellHavoc_tslot (d : Dev) (a n : Nat) (z : Nat) : (d.cellHavoc a n).tslot z = d.tslot z := rfl
@[simp] theorem Dev.cellHavoc_basin (d : Dev) (a n : Nat) (z : Nat) : (d.cellHavoc a n).basin z = d.basin z := rfl
@[simp] theorem Dev.cellHavoc_frame (d : Dev) (a n : Nat) (z : Nat) : (d.cellHavoc a n).frame z = d.frame z := rfl
@[simp] theorem Dev.cellHavoc_freeStack (d : Dev) (a n : Nat) (z : Nat) : (d.cellHavoc a n).freeStack z = d.freeStack z := rfl
@[simp] theorem Dev.cellHavoc_core (d : Dev) (a n : Nat) (z : Nat) : (d.cellHavoc a n).core z = d.core z := rfl
@[simp] theorem Dev.cellHavoc_stack (d : Dev) (a n : Nat) (z : Nat) : (d.cellHavoc a n).stack z = d.stack z := rfl
@[simp] theorem Dev.cellHavoc_port (d : Dev) (a n : Nat) (z : Nat) : (d.cellHavoc a n).port z = d.port z := rfl
@[simp] theorem Dev.cellHavoc_grp (d : Dev) (a n : Nat) (z : Nat) : (d.cellHavoc a n).grp z = d.grp z := rfl
@[simp] theorem Dev.cellHavoc_spout (d : Dev) (a n : Nat) (z : Nat) : (d.cellHavoc a n).spout z = d.spout z := rfl
@[simp] theorem Dev.cellHavoc_stream (d : Dev) (a n : Nat) (z : Nat) : (d.cellHavoc a n).stream z = d.stream z := rfl
@[simp] theorem Dev.cellHavoc_mbxc (d : Dev) (a n : Nat) (z : Nat) : (d.cellHavoc a n).mbxc z = d.mbxc z := rfl
@[simp] theorem Dev.cellHavoc_schan (d : Dev) (a n : Nat) (z : Nat) : (d.cellHavoc a n).schan z = d.schan z := rfl
@[simp] theorem Dev.cellHavoc_ethp (d : Dev) (a n : Nat) (z : Nat) : (d.cellHavoc a n).ethp z = d.ethp z := rfl
@[simp] theorem Dev.cellHavoc_conn (d : Dev) (a n : Nat) (z : Nat) : (d.cellHavoc a n).conn z = d.conn z := rfl
@[simp] theorem Dev.cellHavoc_assoc (d : Dev) (a n : Nat) (z : Nat) : (d.cellHavoc a n).assoc z = d.assoc z := rfl
@[simp] theorem Dev.cellFree_readLatch (d : Dev) (a n : Nat) : (d.cellFree a n).readLatch = d.readLatch := rfl
@[simp] theorem Dev.cellFree_writeLatch (d : Dev) (a n : Nat) : (d.cellFree a n).writeLatch = d.writeLatch := rfl
@[simp] theorem Dev.cellFree_str (d : Dev) (a n : Nat) : (d.cellFree a n).str = d.str := rfl
@[simp] theorem Dev.cellFree_trn (d : Dev) (a n : Nat) : (d.cellFree a n).trn = d.trn := rfl
@[simp] theorem Dev.cellFree_clp (d : Dev) (a n : Nat) : (d.cellFree a n).clp = d.clp := rfl
@[simp] theorem Dev.cellFree_jobs (d : Dev) (a n : Nat) : (d.cellFree a n).jobs = d.jobs := rfl
@[simp] theorem Dev.cellFree_sch (d : Dev) (a n : Nat) : (d.cellFree a n).sch = d.sch := rfl
@[simp] theorem Dev.cellFree_flt (d : Dev) (a n : Nat) : (d.cellFree a n).flt = d.flt := rfl
@[simp] theorem Dev.cellFree_cnt (d : Dev) (a n : Nat) : (d.cellFree a n).cnt = d.cnt := rfl
@[simp] theorem Dev.cellFree_sys (d : Dev) (a n : Nat) : (d.cellFree a n).sys = d.sys := rfl
@[simp] theorem Dev.cellFree_hbm (d : Dev) (a n : Nat) : (d.cellFree a n).hbm = d.hbm := rfl
@[simp] theorem Dev.cellFree_weir (d : Dev) (a n : Nat) : (d.cellFree a n).weir = d.weir := rfl
@[simp] theorem Dev.cellFree_cores (d : Dev) (a n : Nat) : (d.cellFree a n).cores = d.cores := rfl
@[simp] theorem Dev.cellFree_sems (d : Dev) (a n : Nat) : (d.cellFree a n).sems = d.sems := rfl
@[simp] theorem Dev.cellFree_saved (d : Dev) (a n : Nat) : (d.cellFree a n).saved = d.saved := rfl
@[simp] theorem Dev.cellFree_tmNext (d : Dev) (a n : Nat) : (d.cellFree a n).tmNext = d.tmNext := rfl
@[simp] theorem Dev.cellFree_spouts (d : Dev) (a n : Nat) : (d.cellFree a n).spouts = d.spouts := rfl
@[simp] theorem Dev.cellFree_klz (d : Dev) (a n : Nat) : (d.cellFree a n).klz = d.klz := rfl
@[simp] theorem Dev.cellFree_cod (d : Dev) (a n : Nat) : (d.cellFree a n).cod = d.cod := rfl
@[simp] theorem Dev.cellFree_eth (d : Dev) (a n : Nat) : (d.cellFree a n).eth = d.eth := rfl
@[simp] theorem Dev.cellFree_pld (d : Dev) (a n : Nat) : (d.cellFree a n).pld = d.pld := rfl
@[simp] theorem Dev.cellFree_mbxLocked (d : Dev) (a n : Nat) : (d.cellFree a n).mbxLocked = d.mbxLocked := rfl
@[simp] theorem Dev.cellFree_mbx (d : Dev) (a n : Nat) : (d.cellFree a n).mbx = d.mbx := rfl
@[simp] theorem Dev.cellFree_i3c (d : Dev) (a n : Nat) : (d.cellFree a n).i3c = d.i3c := rfl
@[simp] theorem Dev.cellFree_sec (d : Dev) (a n : Nat) : (d.cellFree a n).sec = d.sec := rfl
@[simp] theorem Dev.cellFree_bus (d : Dev) (a n : Nat) : (d.cellFree a n).bus = d.bus := rfl
@[simp] theorem Dev.cellFree_repairsDue (d : Dev) (a n : Nat) : (d.cellFree a n).repairsDue = d.repairsDue := rfl
@[simp] theorem Dev.cellFree_job (d : Dev) (a n : Nat) (z : Nat) : (d.cellFree a n).job z = d.job z := rfl
@[simp] theorem Dev.cellFree_tslot (d : Dev) (a n : Nat) (z : Nat) : (d.cellFree a n).tslot z = d.tslot z := rfl
@[simp] theorem Dev.cellFree_basin (d : Dev) (a n : Nat) (z : Nat) : (d.cellFree a n).basin z = d.basin z := rfl
@[simp] theorem Dev.cellFree_frame (d : Dev) (a n : Nat) (z : Nat) : (d.cellFree a n).frame z = d.frame z := rfl
@[simp] theorem Dev.cellFree_freeStack (d : Dev) (a n : Nat) (z : Nat) : (d.cellFree a n).freeStack z = d.freeStack z := rfl
@[simp] theorem Dev.cellFree_core (d : Dev) (a n : Nat) (z : Nat) : (d.cellFree a n).core z = d.core z := rfl
@[simp] theorem Dev.cellFree_stack (d : Dev) (a n : Nat) (z : Nat) : (d.cellFree a n).stack z = d.stack z := rfl
@[simp] theorem Dev.cellFree_port (d : Dev) (a n : Nat) (z : Nat) : (d.cellFree a n).port z = d.port z := rfl
@[simp] theorem Dev.cellFree_grp (d : Dev) (a n : Nat) (z : Nat) : (d.cellFree a n).grp z = d.grp z := rfl
@[simp] theorem Dev.cellFree_spout (d : Dev) (a n : Nat) (z : Nat) : (d.cellFree a n).spout z = d.spout z := rfl
@[simp] theorem Dev.cellFree_stream (d : Dev) (a n : Nat) (z : Nat) : (d.cellFree a n).stream z = d.stream z := rfl
@[simp] theorem Dev.cellFree_mbxc (d : Dev) (a n : Nat) (z : Nat) : (d.cellFree a n).mbxc z = d.mbxc z := rfl
@[simp] theorem Dev.cellFree_schan (d : Dev) (a n : Nat) (z : Nat) : (d.cellFree a n).schan z = d.schan z := rfl
@[simp] theorem Dev.cellFree_ethp (d : Dev) (a n : Nat) (z : Nat) : (d.cellFree a n).ethp z = d.ethp z := rfl
@[simp] theorem Dev.cellFree_conn (d : Dev) (a n : Nat) (z : Nat) : (d.cellFree a n).conn z = d.conn z := rfl
@[simp] theorem Dev.cellFree_assoc (d : Dev) (a n : Nat) (z : Nat) : (d.cellFree a n).assoc z = d.assoc z := rfl

/-! ## What the structure in force says -/

@[simp] theorem Dev.setJob_coreRec (d : Dev) (j : Nat) (x : Job) (z : Nat) : (d.setJob j x).coreRec z = d.coreRec z := rfl
@[simp] theorem Dev.setJob_basinRec (d : Dev) (j : Nat) (x : Job) (z : Nat) : (d.setJob j x).basinRec z = d.basinRec z := rfl
@[simp] theorem Dev.setJob_phys (d : Dev) (j : Nat) (x : Job) (z : Nat) : (d.setJob j x).phys z = d.phys z := rfl
@[simp] theorem Dev.setJob_logical (d : Dev) (j : Nat) (x : Job) (z : Nat) : (d.setJob j x).logical z = d.logical z := rfl
@[simp] theorem hbmEnd_setJob (d : Dev) (j : Nat) (x : Job) : hbmEnd (d.setJob j x) = hbmEnd d := rfl
@[simp] theorem spreadKey_setJob (d : Dev) (j : Nat) (x : Job) : spreadKey (d.setJob j x) = spreadKey d := rfl
@[simp] theorem hbmCap_setJob (d : Dev) (j : Nat) (x : Job) : hbmCap (d.setJob j x) = hbmCap d := rfl
@[simp] theorem hbmCell_setJob (d : Dev) (j : Nat) (x : Job) (off : Nat) : hbmCell (d.setJob j x) off = hbmCell d off := rfl
@[simp] theorem Dev.setTslot_coreRec (d : Dev) (j : Nat) (x : TrnSlot) (z : Nat) : (d.setTslot j x).coreRec z = d.coreRec z := rfl
@[simp] theorem Dev.setTslot_basinRec (d : Dev) (j : Nat) (x : TrnSlot) (z : Nat) : (d.setTslot j x).basinRec z = d.basinRec z := rfl
@[simp] theorem Dev.setTslot_phys (d : Dev) (j : Nat) (x : TrnSlot) (z : Nat) : (d.setTslot j x).phys z = d.phys z := rfl
@[simp] theorem Dev.setTslot_logical (d : Dev) (j : Nat) (x : TrnSlot) (z : Nat) : (d.setTslot j x).logical z = d.logical z := rfl
@[simp] theorem hbmEnd_setTslot (d : Dev) (j : Nat) (x : TrnSlot) : hbmEnd (d.setTslot j x) = hbmEnd d := rfl
@[simp] theorem spreadKey_setTslot (d : Dev) (j : Nat) (x : TrnSlot) : spreadKey (d.setTslot j x) = spreadKey d := rfl
@[simp] theorem hbmCap_setTslot (d : Dev) (j : Nat) (x : TrnSlot) : hbmCap (d.setTslot j x) = hbmCap d := rfl
@[simp] theorem hbmCell_setTslot (d : Dev) (j : Nat) (x : TrnSlot) (off : Nat) : hbmCell (d.setTslot j x) off = hbmCell d off := rfl
@[simp] theorem Dev.setBasin_coreRec (d : Dev) (b : Nat) (x : Basin) (z : Nat) : (d.setBasin b x).coreRec z = d.coreRec z := rfl
@[simp] theorem Dev.setBasin_basinRec (d : Dev) (b : Nat) (x : Basin) (z : Nat) : (d.setBasin b x).basinRec z = d.basinRec z := rfl
@[simp] theorem Dev.setBasin_phys (d : Dev) (b : Nat) (x : Basin) (z : Nat) : (d.setBasin b x).phys z = d.phys z := rfl
@[simp] theorem Dev.setBasin_logical (d : Dev) (b : Nat) (x : Basin) (z : Nat) : (d.setBasin b x).logical z = d.logical z := rfl
@[simp] theorem hbmEnd_setBasin (d : Dev) (b : Nat) (x : Basin) : hbmEnd (d.setBasin b x) = hbmEnd d := rfl
@[simp] theorem spreadKey_setBasin (d : Dev) (b : Nat) (x : Basin) : spreadKey (d.setBasin b x) = spreadKey d := rfl
@[simp] theorem hbmCap_setBasin (d : Dev) (b : Nat) (x : Basin) : hbmCap (d.setBasin b x) = hbmCap d := rfl
@[simp] theorem hbmCell_setBasin (d : Dev) (b : Nat) (x : Basin) (off : Nat) : hbmCell (d.setBasin b x) off = hbmCell d off := rfl
@[simp] theorem Dev.setFrame_coreRec (d : Dev) (f : Nat) (x : Frame) (z : Nat) : (d.setFrame f x).coreRec z = d.coreRec z := rfl
@[simp] theorem Dev.setFrame_basinRec (d : Dev) (f : Nat) (x : Frame) (z : Nat) : (d.setFrame f x).basinRec z = d.basinRec z := rfl
@[simp] theorem Dev.setFrame_phys (d : Dev) (f : Nat) (x : Frame) (z : Nat) : (d.setFrame f x).phys z = d.phys z := rfl
@[simp] theorem Dev.setFrame_logical (d : Dev) (f : Nat) (x : Frame) (z : Nat) : (d.setFrame f x).logical z = d.logical z := rfl
@[simp] theorem hbmEnd_setFrame (d : Dev) (f : Nat) (x : Frame) : hbmEnd (d.setFrame f x) = hbmEnd d := rfl
@[simp] theorem spreadKey_setFrame (d : Dev) (f : Nat) (x : Frame) : spreadKey (d.setFrame f x) = spreadKey d := rfl
@[simp] theorem hbmCap_setFrame (d : Dev) (f : Nat) (x : Frame) : hbmCap (d.setFrame f x) = hbmCap d := rfl
@[simp] theorem hbmCell_setFrame (d : Dev) (f : Nat) (x : Frame) (off : Nat) : hbmCell (d.setFrame f x) off = hbmCell d off := rfl
@[simp] theorem Dev.setFreeStack_coreRec (d : Dev) (b : Nat) (l : List Nat) (z : Nat) : (d.setFreeStack b l).coreRec z = d.coreRec z := rfl
@[simp] theorem Dev.setFreeStack_basinRec (d : Dev) (b : Nat) (l : List Nat) (z : Nat) : (d.setFreeStack b l).basinRec z = d.basinRec z := rfl
@[simp] theorem Dev.setFreeStack_phys (d : Dev) (b : Nat) (l : List Nat) (z : Nat) : (d.setFreeStack b l).phys z = d.phys z := rfl
@[simp] theorem Dev.setFreeStack_logical (d : Dev) (b : Nat) (l : List Nat) (z : Nat) : (d.setFreeStack b l).logical z = d.logical z := rfl
@[simp] theorem hbmEnd_setFreeStack (d : Dev) (b : Nat) (l : List Nat) : hbmEnd (d.setFreeStack b l) = hbmEnd d := rfl
@[simp] theorem spreadKey_setFreeStack (d : Dev) (b : Nat) (l : List Nat) : spreadKey (d.setFreeStack b l) = spreadKey d := rfl
@[simp] theorem hbmCap_setFreeStack (d : Dev) (b : Nat) (l : List Nat) : hbmCap (d.setFreeStack b l) = hbmCap d := rfl
@[simp] theorem hbmCell_setFreeStack (d : Dev) (b : Nat) (l : List Nat) (off : Nat) : hbmCell (d.setFreeStack b l) off = hbmCell d off := rfl
@[simp] theorem Dev.setCore_coreRec (d : Dev) (p : Nat) (x : CoreSt) (z : Nat) : (d.setCore p x).coreRec z = d.coreRec z := rfl
@[simp] theorem Dev.setCore_basinRec (d : Dev) (p : Nat) (x : CoreSt) (z : Nat) : (d.setCore p x).basinRec z = d.basinRec z := rfl
@[simp] theorem Dev.setCore_phys (d : Dev) (p : Nat) (x : CoreSt) (z : Nat) : (d.setCore p x).phys z = d.phys z := rfl
@[simp] theorem Dev.setCore_logical (d : Dev) (p : Nat) (x : CoreSt) (z : Nat) : (d.setCore p x).logical z = d.logical z := rfl
@[simp] theorem hbmEnd_setCore (d : Dev) (p : Nat) (x : CoreSt) : hbmEnd (d.setCore p x) = hbmEnd d := rfl
@[simp] theorem spreadKey_setCore (d : Dev) (p : Nat) (x : CoreSt) : spreadKey (d.setCore p x) = spreadKey d := rfl
@[simp] theorem hbmCap_setCore (d : Dev) (p : Nat) (x : CoreSt) : hbmCap (d.setCore p x) = hbmCap d := rfl
@[simp] theorem hbmCell_setCore (d : Dev) (p : Nat) (x : CoreSt) (off : Nat) : hbmCell (d.setCore p x) off = hbmCell d off := rfl
@[simp] theorem Dev.setStack_coreRec (d : Dev) (k : Nat) (x : Stack) (z : Nat) : (d.setStack k x).coreRec z = d.coreRec z := rfl
@[simp] theorem Dev.setStack_basinRec (d : Dev) (k : Nat) (x : Stack) (z : Nat) : (d.setStack k x).basinRec z = d.basinRec z := rfl
@[simp] theorem Dev.setStack_phys (d : Dev) (k : Nat) (x : Stack) (z : Nat) : (d.setStack k x).phys z = d.phys z := rfl
@[simp] theorem Dev.setStack_logical (d : Dev) (k : Nat) (x : Stack) (z : Nat) : (d.setStack k x).logical z = d.logical z := rfl
@[simp] theorem hbmEnd_setStack (d : Dev) (k : Nat) (x : Stack) : hbmEnd (d.setStack k x) = hbmEnd d := rfl
@[simp] theorem spreadKey_setStack (d : Dev) (k : Nat) (x : Stack) : spreadKey (d.setStack k x) = spreadKey d := rfl
@[simp] theorem hbmCap_setStack (d : Dev) (k : Nat) (x : Stack) : hbmCap (d.setStack k x) = hbmCap d := rfl
@[simp] theorem hbmCell_setStack (d : Dev) (k : Nat) (x : Stack) (off : Nat) : hbmCell (d.setStack k x) off = hbmCell d off := rfl
@[simp] theorem Dev.setPort_coreRec (d : Dev) (n : Nat) (x : Port) (z : Nat) : (d.setPort n x).coreRec z = d.coreRec z := rfl
@[simp] theorem Dev.setPort_basinRec (d : Dev) (n : Nat) (x : Port) (z : Nat) : (d.setPort n x).basinRec z = d.basinRec z := rfl
@[simp] theorem Dev.setPort_phys (d : Dev) (n : Nat) (x : Port) (z : Nat) : (d.setPort n x).phys z = d.phys z := rfl
@[simp] theorem Dev.setPort_logical (d : Dev) (n : Nat) (x : Port) (z : Nat) : (d.setPort n x).logical z = d.logical z := rfl
@[simp] theorem hbmEnd_setPort (d : Dev) (n : Nat) (x : Port) : hbmEnd (d.setPort n x) = hbmEnd d := rfl
@[simp] theorem spreadKey_setPort (d : Dev) (n : Nat) (x : Port) : spreadKey (d.setPort n x) = spreadKey d := rfl
@[simp] theorem hbmCap_setPort (d : Dev) (n : Nat) (x : Port) : hbmCap (d.setPort n x) = hbmCap d := rfl
@[simp] theorem hbmCell_setPort (d : Dev) (n : Nat) (x : Port) (off : Nat) : hbmCell (d.setPort n x) off = hbmCell d off := rfl
@[simp] theorem Dev.setGrp_coreRec (d : Dev) (g : Nat) (x : Grp) (z : Nat) : (d.setGrp g x).coreRec z = d.coreRec z := rfl
@[simp] theorem Dev.setGrp_basinRec (d : Dev) (g : Nat) (x : Grp) (z : Nat) : (d.setGrp g x).basinRec z = d.basinRec z := rfl
@[simp] theorem Dev.setGrp_phys (d : Dev) (g : Nat) (x : Grp) (z : Nat) : (d.setGrp g x).phys z = d.phys z := rfl
@[simp] theorem Dev.setGrp_logical (d : Dev) (g : Nat) (x : Grp) (z : Nat) : (d.setGrp g x).logical z = d.logical z := rfl
@[simp] theorem hbmEnd_setGrp (d : Dev) (g : Nat) (x : Grp) : hbmEnd (d.setGrp g x) = hbmEnd d := rfl
@[simp] theorem spreadKey_setGrp (d : Dev) (g : Nat) (x : Grp) : spreadKey (d.setGrp g x) = spreadKey d := rfl
@[simp] theorem hbmCap_setGrp (d : Dev) (g : Nat) (x : Grp) : hbmCap (d.setGrp g x) = hbmCap d := rfl
@[simp] theorem hbmCell_setGrp (d : Dev) (g : Nat) (x : Grp) (off : Nat) : hbmCell (d.setGrp g x) off = hbmCell d off := rfl
@[simp] theorem Dev.setSpout_coreRec (d : Dev) (k : Nat) (x : Spout) (z : Nat) : (d.setSpout k x).coreRec z = d.coreRec z := rfl
@[simp] theorem Dev.setSpout_basinRec (d : Dev) (k : Nat) (x : Spout) (z : Nat) : (d.setSpout k x).basinRec z = d.basinRec z := rfl
@[simp] theorem Dev.setSpout_phys (d : Dev) (k : Nat) (x : Spout) (z : Nat) : (d.setSpout k x).phys z = d.phys z := rfl
@[simp] theorem Dev.setSpout_logical (d : Dev) (k : Nat) (x : Spout) (z : Nat) : (d.setSpout k x).logical z = d.logical z := rfl
@[simp] theorem hbmEnd_setSpout (d : Dev) (k : Nat) (x : Spout) : hbmEnd (d.setSpout k x) = hbmEnd d := rfl
@[simp] theorem spreadKey_setSpout (d : Dev) (k : Nat) (x : Spout) : spreadKey (d.setSpout k x) = spreadKey d := rfl
@[simp] theorem hbmCap_setSpout (d : Dev) (k : Nat) (x : Spout) : hbmCap (d.setSpout k x) = hbmCap d := rfl
@[simp] theorem hbmCell_setSpout (d : Dev) (k : Nat) (x : Spout) (off : Nat) : hbmCell (d.setSpout k x) off = hbmCell d off := rfl
@[simp] theorem Dev.setStream_coreRec (d : Dev) (k : Nat) (x : Stream) (z : Nat) : (d.setStream k x).coreRec z = d.coreRec z := rfl
@[simp] theorem Dev.setStream_basinRec (d : Dev) (k : Nat) (x : Stream) (z : Nat) : (d.setStream k x).basinRec z = d.basinRec z := rfl
@[simp] theorem Dev.setStream_phys (d : Dev) (k : Nat) (x : Stream) (z : Nat) : (d.setStream k x).phys z = d.phys z := rfl
@[simp] theorem Dev.setStream_logical (d : Dev) (k : Nat) (x : Stream) (z : Nat) : (d.setStream k x).logical z = d.logical z := rfl
@[simp] theorem hbmEnd_setStream (d : Dev) (k : Nat) (x : Stream) : hbmEnd (d.setStream k x) = hbmEnd d := rfl
@[simp] theorem spreadKey_setStream (d : Dev) (k : Nat) (x : Stream) : spreadKey (d.setStream k x) = spreadKey d := rfl
@[simp] theorem hbmCap_setStream (d : Dev) (k : Nat) (x : Stream) : hbmCap (d.setStream k x) = hbmCap d := rfl
@[simp] theorem hbmCell_setStream (d : Dev) (k : Nat) (x : Stream) (off : Nat) : hbmCell (d.setStream k x) off = hbmCell d off := rfl
@[simp] theorem Dev.setSem_coreRec (d : Dev) (b i : Nat) (x : SharedSem) (z : Nat) : (d.setSem b i x).coreRec z = d.coreRec z := rfl
@[simp] theorem Dev.setSem_basinRec (d : Dev) (b i : Nat) (x : SharedSem) (z : Nat) : (d.setSem b i x).basinRec z = d.basinRec z := rfl
@[simp] theorem Dev.setSem_phys (d : Dev) (b i : Nat) (x : SharedSem) (z : Nat) : (d.setSem b i x).phys z = d.phys z := rfl
@[simp] theorem Dev.setSem_logical (d : Dev) (b i : Nat) (x : SharedSem) (z : Nat) : (d.setSem b i x).logical z = d.logical z := rfl
@[simp] theorem hbmEnd_setSem (d : Dev) (b i : Nat) (x : SharedSem) : hbmEnd (d.setSem b i x) = hbmEnd d := rfl
@[simp] theorem spreadKey_setSem (d : Dev) (b i : Nat) (x : SharedSem) : spreadKey (d.setSem b i x) = spreadKey d := rfl
@[simp] theorem hbmCap_setSem (d : Dev) (b i : Nat) (x : SharedSem) : hbmCap (d.setSem b i x) = hbmCap d := rfl
@[simp] theorem hbmCell_setSem (d : Dev) (b i : Nat) (x : SharedSem) (off : Nat) : hbmCell (d.setSem b i x) off = hbmCell d off := rfl
@[simp] theorem Dev.setMbxc_coreRec (d : Dev) (c : Nat) (x : Mbx) (z : Nat) : (d.setMbxc c x).coreRec z = d.coreRec z := rfl
@[simp] theorem Dev.setMbxc_basinRec (d : Dev) (c : Nat) (x : Mbx) (z : Nat) : (d.setMbxc c x).basinRec z = d.basinRec z := rfl
@[simp] theorem Dev.setMbxc_phys (d : Dev) (c : Nat) (x : Mbx) (z : Nat) : (d.setMbxc c x).phys z = d.phys z := rfl
@[simp] theorem Dev.setMbxc_logical (d : Dev) (c : Nat) (x : Mbx) (z : Nat) : (d.setMbxc c x).logical z = d.logical z := rfl
@[simp] theorem hbmEnd_setMbxc (d : Dev) (c : Nat) (x : Mbx) : hbmEnd (d.setMbxc c x) = hbmEnd d := rfl
@[simp] theorem spreadKey_setMbxc (d : Dev) (c : Nat) (x : Mbx) : spreadKey (d.setMbxc c x) = spreadKey d := rfl
@[simp] theorem hbmCap_setMbxc (d : Dev) (c : Nat) (x : Mbx) : hbmCap (d.setMbxc c x) = hbmCap d := rfl
@[simp] theorem hbmCell_setMbxc (d : Dev) (c : Nat) (x : Mbx) (off : Nat) : hbmCell (d.setMbxc c x) off = hbmCell d off := rfl
@[simp] theorem Dev.setSchan_coreRec (d : Dev) (c : Nat) (x : SecChan) (z : Nat) : (d.setSchan c x).coreRec z = d.coreRec z := rfl
@[simp] theorem Dev.setSchan_basinRec (d : Dev) (c : Nat) (x : SecChan) (z : Nat) : (d.setSchan c x).basinRec z = d.basinRec z := rfl
@[simp] theorem Dev.setSchan_phys (d : Dev) (c : Nat) (x : SecChan) (z : Nat) : (d.setSchan c x).phys z = d.phys z := rfl
@[simp] theorem Dev.setSchan_logical (d : Dev) (c : Nat) (x : SecChan) (z : Nat) : (d.setSchan c x).logical z = d.logical z := rfl
@[simp] theorem hbmEnd_setSchan (d : Dev) (c : Nat) (x : SecChan) : hbmEnd (d.setSchan c x) = hbmEnd d := rfl
@[simp] theorem spreadKey_setSchan (d : Dev) (c : Nat) (x : SecChan) : spreadKey (d.setSchan c x) = spreadKey d := rfl
@[simp] theorem hbmCap_setSchan (d : Dev) (c : Nat) (x : SecChan) : hbmCap (d.setSchan c x) = hbmCap d := rfl
@[simp] theorem hbmCell_setSchan (d : Dev) (c : Nat) (x : SecChan) (off : Nat) : hbmCell (d.setSchan c x) off = hbmCell d off := rfl
@[simp] theorem Dev.setEthp_coreRec (d : Dev) (n : Nat) (x : Eth) (z : Nat) : (d.setEthp n x).coreRec z = d.coreRec z := rfl
@[simp] theorem Dev.setEthp_basinRec (d : Dev) (n : Nat) (x : Eth) (z : Nat) : (d.setEthp n x).basinRec z = d.basinRec z := rfl
@[simp] theorem Dev.setEthp_phys (d : Dev) (n : Nat) (x : Eth) (z : Nat) : (d.setEthp n x).phys z = d.phys z := rfl
@[simp] theorem Dev.setEthp_logical (d : Dev) (n : Nat) (x : Eth) (z : Nat) : (d.setEthp n x).logical z = d.logical z := rfl
@[simp] theorem hbmEnd_setEthp (d : Dev) (n : Nat) (x : Eth) : hbmEnd (d.setEthp n x) = hbmEnd d := rfl
@[simp] theorem spreadKey_setEthp (d : Dev) (n : Nat) (x : Eth) : spreadKey (d.setEthp n x) = spreadKey d := rfl
@[simp] theorem hbmCap_setEthp (d : Dev) (n : Nat) (x : Eth) : hbmCap (d.setEthp n x) = hbmCap d := rfl
@[simp] theorem hbmCell_setEthp (d : Dev) (n : Nat) (x : Eth) (off : Nat) : hbmCell (d.setEthp n x) off = hbmCell d off := rfl
@[simp] theorem Dev.setConn_coreRec (d : Dev) (h : Nat) (x : Conn) (z : Nat) : (d.setConn h x).coreRec z = d.coreRec z := rfl
@[simp] theorem Dev.setConn_basinRec (d : Dev) (h : Nat) (x : Conn) (z : Nat) : (d.setConn h x).basinRec z = d.basinRec z := rfl
@[simp] theorem Dev.setConn_phys (d : Dev) (h : Nat) (x : Conn) (z : Nat) : (d.setConn h x).phys z = d.phys z := rfl
@[simp] theorem Dev.setConn_logical (d : Dev) (h : Nat) (x : Conn) (z : Nat) : (d.setConn h x).logical z = d.logical z := rfl
@[simp] theorem hbmEnd_setConn (d : Dev) (h : Nat) (x : Conn) : hbmEnd (d.setConn h x) = hbmEnd d := rfl
@[simp] theorem spreadKey_setConn (d : Dev) (h : Nat) (x : Conn) : spreadKey (d.setConn h x) = spreadKey d := rfl
@[simp] theorem hbmCap_setConn (d : Dev) (h : Nat) (x : Conn) : hbmCap (d.setConn h x) = hbmCap d := rfl
@[simp] theorem hbmCell_setConn (d : Dev) (h : Nat) (x : Conn) (off : Nat) : hbmCell (d.setConn h x) off = hbmCell d off := rfl
@[simp] theorem Dev.setAssoc_coreRec (d : Dev) (i : Nat) (x : Assoc) (z : Nat) : (d.setAssoc i x).coreRec z = d.coreRec z := rfl
@[simp] theorem Dev.setAssoc_basinRec (d : Dev) (i : Nat) (x : Assoc) (z : Nat) : (d.setAssoc i x).basinRec z = d.basinRec z := rfl
@[simp] theorem Dev.setAssoc_phys (d : Dev) (i : Nat) (x : Assoc) (z : Nat) : (d.setAssoc i x).phys z = d.phys z := rfl
@[simp] theorem Dev.setAssoc_logical (d : Dev) (i : Nat) (x : Assoc) (z : Nat) : (d.setAssoc i x).logical z = d.logical z := rfl
@[simp] theorem hbmEnd_setAssoc (d : Dev) (i : Nat) (x : Assoc) : hbmEnd (d.setAssoc i x) = hbmEnd d := rfl
@[simp] theorem spreadKey_setAssoc (d : Dev) (i : Nat) (x : Assoc) : spreadKey (d.setAssoc i x) = spreadKey d := rfl
@[simp] theorem hbmCap_setAssoc (d : Dev) (i : Nat) (x : Assoc) : hbmCap (d.setAssoc i x) = hbmCap d := rfl
@[simp] theorem hbmCell_setAssoc (d : Dev) (i : Nat) (x : Assoc) (off : Nat) : hbmCell (d.setAssoc i x) off = hbmCell d off := rfl
@[simp] theorem Dev.count_coreRec (d : Dev) (n k : Nat) (z : Nat) : (d.count n k).coreRec z = d.coreRec z := rfl
@[simp] theorem Dev.count_basinRec (d : Dev) (n k : Nat) (z : Nat) : (d.count n k).basinRec z = d.basinRec z := rfl
@[simp] theorem Dev.count_phys (d : Dev) (n k : Nat) (z : Nat) : (d.count n k).phys z = d.phys z := rfl
@[simp] theorem Dev.count_logical (d : Dev) (n k : Nat) (z : Nat) : (d.count n k).logical z = d.logical z := rfl
@[simp] theorem hbmEnd_count (d : Dev) (n k : Nat) : hbmEnd (d.count n k) = hbmEnd d := rfl
@[simp] theorem spreadKey_count (d : Dev) (n k : Nat) : spreadKey (d.count n k) = spreadKey d := rfl
@[simp] theorem hbmCap_count (d : Dev) (n k : Nat) : hbmCap (d.count n k) = hbmCap d := rfl
@[simp] theorem hbmCell_count (d : Dev) (n k : Nat) (off : Nat) : hbmCell (d.count n k) off = hbmCell d off := rfl
@[simp] theorem Dev.cellPut_coreRec (d : Dev) (a : Nat) (bs : List Byte) (z : Nat) : (d.cellPut a bs).coreRec z = d.coreRec z := rfl
@[simp] theorem Dev.cellPut_basinRec (d : Dev) (a : Nat) (bs : List Byte) (z : Nat) : (d.cellPut a bs).basinRec z = d.basinRec z := rfl
@[simp] theorem Dev.cellPut_phys (d : Dev) (a : Nat) (bs : List Byte) (z : Nat) : (d.cellPut a bs).phys z = d.phys z := rfl
@[simp] theorem Dev.cellPut_logical (d : Dev) (a : Nat) (bs : List Byte) (z : Nat) : (d.cellPut a bs).logical z = d.logical z := rfl
@[simp] theorem hbmEnd_cellPut (d : Dev) (a : Nat) (bs : List Byte) : hbmEnd (d.cellPut a bs) = hbmEnd d := rfl
@[simp] theorem spreadKey_cellPut (d : Dev) (a : Nat) (bs : List Byte) : spreadKey (d.cellPut a bs) = spreadKey d := rfl
@[simp] theorem hbmCap_cellPut (d : Dev) (a : Nat) (bs : List Byte) : hbmCap (d.cellPut a bs) = hbmCap d := rfl
@[simp] theorem hbmCell_cellPut (d : Dev) (a : Nat) (bs : List Byte) (off : Nat) : hbmCell (d.cellPut a bs) off = hbmCell d off := rfl
@[simp] theorem Dev.cellZero_coreRec (d : Dev) (a n : Nat) (z : Nat) : (d.cellZero a n).coreRec z = d.coreRec z := rfl
@[simp] theorem Dev.cellZero_basinRec (d : Dev) (a n : Nat) (z : Nat) : (d.cellZero a n).basinRec z = d.basinRec z := rfl
@[simp] theorem Dev.cellZero_phys (d : Dev) (a n : Nat) (z : Nat) : (d.cellZero a n).phys z = d.phys z := rfl
@[simp] theorem Dev.cellZero_logical (d : Dev) (a n : Nat) (z : Nat) : (d.cellZero a n).logical z = d.logical z := rfl
@[simp] theorem hbmEnd_cellZero (d : Dev) (a n : Nat) : hbmEnd (d.cellZero a n) = hbmEnd d := rfl
@[simp] theorem spreadKey_cellZero (d : Dev) (a n : Nat) : spreadKey (d.cellZero a n) = spreadKey d := rfl
@[simp] theorem hbmCap_cellZero (d : Dev) (a n : Nat) : hbmCap (d.cellZero a n) = hbmCap d := rfl
@[simp] theorem hbmCell_cellZero (d : Dev) (a n : Nat) (off : Nat) : hbmCell (d.cellZero a n) off = hbmCell d off := rfl
@[simp] theorem Dev.cellHavoc_coreRec (d : Dev) (a n : Nat) (z : Nat) : (d.cellHavoc a n).coreRec z = d.coreRec z := rfl
@[simp] theorem Dev.cellHavoc_basinRec (d : Dev) (a n : Nat) (z : Nat) : (d.cellHavoc a n).basinRec z = d.basinRec z := rfl
@[simp] theorem Dev.cellHavoc_phys (d : Dev) (a n : Nat) (z : Nat) : (d.cellHavoc a n).phys z = d.phys z := rfl
@[simp] theorem Dev.cellHavoc_logical (d : Dev) (a n : Nat) (z : Nat) : (d.cellHavoc a n).logical z = d.logical z := rfl
@[simp] theorem hbmEnd_cellHavoc (d : Dev) (a n : Nat) : hbmEnd (d.cellHavoc a n) = hbmEnd d := rfl
@[simp] theorem spreadKey_cellHavoc (d : Dev) (a n : Nat) : spreadKey (d.cellHavoc a n) = spreadKey d := rfl
@[simp] theorem hbmCap_cellHavoc (d : Dev) (a n : Nat) : hbmCap (d.cellHavoc a n) = hbmCap d := rfl
@[simp] theorem hbmCell_cellHavoc (d : Dev) (a n : Nat) (off : Nat) : hbmCell (d.cellHavoc a n) off = hbmCell d off := rfl
@[simp] theorem Dev.cellFree_coreRec (d : Dev) (a n : Nat) (z : Nat) : (d.cellFree a n).coreRec z = d.coreRec z := rfl
@[simp] theorem Dev.cellFree_basinRec (d : Dev) (a n : Nat) (z : Nat) : (d.cellFree a n).basinRec z = d.basinRec z := rfl
@[simp] theorem Dev.cellFree_phys (d : Dev) (a n : Nat) (z : Nat) : (d.cellFree a n).phys z = d.phys z := rfl
@[simp] theorem Dev.cellFree_logical (d : Dev) (a n : Nat) (z : Nat) : (d.cellFree a n).logical z = d.logical z := rfl
@[simp] theorem hbmEnd_cellFree (d : Dev) (a n : Nat) : hbmEnd (d.cellFree a n) = hbmEnd d := rfl
@[simp] theorem spreadKey_cellFree (d : Dev) (a n : Nat) : spreadKey (d.cellFree a n) = spreadKey d := rfl
@[simp] theorem hbmCap_cellFree (d : Dev) (a n : Nat) : hbmCap (d.cellFree a n) = hbmCap d := rfl
@[simp] theorem hbmCell_cellFree (d : Dev) (a n : Nat) (off : Nat) : hbmCell (d.cellFree a n) off = hbmCell d off := rfl

end Sys2Proof.Machine
end

