-- ==== Sys2Proof/Laws/Issue.lean ====
section
/-! SUPPORT. What the shared forms of a meaning answer, and what issuing a command of a core's stream does. -/

namespace Sys2Proof.Machine

/-! ## The forms of a meaning -/

@[simp] theorem onDev_true_next {s : State} {f : Nv → Dev → Dev} (h : asleep s.dev = false) :
    onDev true f s = .next { s with dev := f s.nv s.dev } := by simp [onDev, h]

theorem onDev_next {ok : Bool} {f : Nv → Dev → Dev} {s : State} (hok : ok = true) (h : asleep s.dev = false) :
    onDev ok f s = .next { s with dev := f s.nv s.dev } := by simp [onDev, hok, h]

theorem onDev_asleep {ok : Bool} {f : Nv → Dev → Dev} {s : State} (hok : ok = true) (h : asleep s.dev = true) :
    onDev ok f s = .next s := by simp [onDev, hok, h]

theorem onBoth_next {ok : Bool} {f : Nv → Dev → Nv × Dev} {s : State} (hok : ok = true) (h : asleep s.dev = false) :
    onBoth ok f s = .next { s with nv := (f s.nv s.dev).1, dev := (f s.nv s.dev).2 } := by simp [onBoth, hok, h]

theorem onBoth_asleep {ok : Bool} {f : Nv → Dev → Nv × Dev} {s : State} (hok : ok = true) (h : asleep s.dev = true) :
    onBoth ok f s = .next s := by simp [onBoth, hok, h]

/-- A meaning of the volatile part leaves fuses, flash and the queue. -/
theorem onDev_frame {ok : Bool} {f : Nv → Dev → Dev} {s t : State} (h : onDev ok f s = .next t) :
    t.nv = s.nv ∧ t.pending = s.pending := by
  unfold onDev at h
  split at h
  · cases h; exact ⟨rfl, rfl⟩
  · cases h

theorem onPins_frame {f : Nv → Dev → Dev} {s t : State} (h : onPins f s = .next t) : t.nv = s.nv ∧ t.pending = s.pending := by
  unfold onPins at h
  cases h; exact ⟨rfl, rfl⟩

theorem onBoth_pending {ok : Bool} {f : Nv → Dev → Nv × Dev} {s t : State} (h : onBoth ok f s = .next t) : t.pending = s.pending := by
  unfold onBoth at h
  split at h
  · split at h <;> cases h <;> rfl
  · cases h

/-! ## Issuing (spec/08_vector_engine.md R193 to R199) -/

/-- A core that stands at a listed command of this opcode runs it. -/
theorem issue_eq {d : Dev} {core op engine : Nat} {ops : Nat → Bool} {f : Dev → Cmd → Acc Issued} {c : Cmd}
    (h : Stands d core op c) (hl : listedOp op = true) (ho : ops op = true) :
    issue core engine ops f d = match f (unwait d core) c with
      | .ok (.next d2) => issued d2 core op (c.pc + 1)
      | .ok (.goto d2 t) => issued d2 core op t
      | .ok (.stall d2) => d2
      | .error e => jobFault d c.slot core engine c.logical c.pc e := by
  obtain ⟨ccore, cslot, clog, cpc, cb⟩ := c
  have hw : ((d.core core).ctx.wait == .none || (d.core core).ctx.wait == .queue) = true := by
    rcases h.free with h | h <;> simp [h]
  have hcore := h.own
  have hlog := h.logical
  have hpc := h.pc
  have hb := h.bytes
  have hop := h.opcode
  have hst := h.stream
  simp only at hcore hlog hpc hb hop hst
  subst hcore hlog hpc
  unfold issue
  simp only [h.slot, h.active, hw, Bool.not_true, Bool.or_self, Bool.false_eq_true, ↓reduceIte, hop, hl, ho]
  rw [if_neg (by simp; omega)]
  simp only [decide_eq_true_eq, ← hb]
  rfl

/-- An engine's steps, one lemma per outcome: rewrite with these and leave the monad's definition folded. -/
@[simp] theorem acc_bind_ok {α β : Type} (a : α) (f : α → Acc β) : ((Except.ok a : Acc α) >>= f) = f a := rfl
@[simp] theorem acc_bind_error {α β : Type} (e : JFault) (f : α → Acc β) : ((Except.error e : Acc α) >>= f) = .error e := rfl
theorem legal_ok {c : Bool} (h : c = true) : legal c = .ok () := by simp [legal, h]
theorem legal_error {c : Bool} (h : c = false) : legal c = .error fltIllegal := by simp [legal, h]

@[simp] theorem unwait_eq (d : Dev) (core : Nat) :
    unwait d core = d.setCore core { d.core core with ctx := { (d.core core).ctx with wait := .none } } := rfl

/-- A command that its core issues and goes on from. -/
theorem issue_yields {s : State} {core op engine : Nat} {ops : Nat → Bool} {f : Dev → Cmd → Acc Issued} {c : Cmd}
    (ha : asleep s.dev = false) (h : Stands s.dev core op c) (hl : listedOp op = true) (ho : ops op = true) (P : Dev → Prop)
    {d2 : Dev} (hf : f (unwait s.dev core) c = .ok (.next d2)) (hp : P (issued d2 core op (c.pc + 1))) :
    YieldsSome (onDev (isCore core) (fun _ d => issue core engine ops f d) s) s P := by
  refine ⟨_, onDev_next ?_ ha, ?_⟩
  · simpa [isCore] using h.core_lt
  · rw [issue_eq h hl ho, hf]
    exact hp

/-- A command that sends its core to another. -/
theorem issue_goto {s : State} {core op engine : Nat} {ops : Nat → Bool} {f : Dev → Cmd → Acc Issued} {c : Cmd}
    (ha : asleep s.dev = false) (h : Stands s.dev core op c) (hl : listedOp op = true) (ho : ops op = true) (P : Dev → Prop)
    {d2 : Dev} {pc : Nat} (hf : f (unwait s.dev core) c = .ok (.goto d2 pc)) (hp : P (issued d2 core op pc)) :
    YieldsSome (onDev (isCore core) (fun _ d => issue core engine ops f d) s) s P := by
  refine ⟨_, onDev_next ?_ ha, ?_⟩
  · simpa [isCore] using h.core_lt
  · rw [issue_eq h hl ho, hf]
    exact hp

/-- A command that its core waits at. -/
theorem issue_stall {s : State} {core op engine : Nat} {ops : Nat → Bool} {f : Dev → Cmd → Acc Issued} {c : Cmd}
    (ha : asleep s.dev = false) (h : Stands s.dev core op c) (hl : listedOp op = true) (ho : ops op = true) (P : Dev → Prop)
    {d2 : Dev} (hf : f (unwait s.dev core) c = .ok (.stall d2)) (hp : P d2) :
    YieldsSome (onDev (isCore core) (fun _ d => issue core engine ops f d) s) s P := by
  refine ⟨_, onDev_next ?_ ha, ?_⟩
  · simpa [isCore] using h.core_lt
  · rw [issue_eq h hl ho, hf]
    exact hp

/-- A command that is illegal, or meets poison or an address it may not use. -/
theorem issue_fault {s : State} {core op engine : Nat} {ops : Nat → Bool} {f : Dev → Cmd → Acc Issued} {c : Cmd}
    (ha : asleep s.dev = false) (h : Stands s.dev core op c) (hl : listedOp op = true) (ho : ops op = true)
    {e : JFault} (hf : f (unwait s.dev core) c = .error e) :
    Yields (onDev (isCore core) (fun _ d => issue core engine ops f d) s) s (jobFault s.dev c.slot core engine c.logical c.pc e) := by
  refine (onDev_next ?_ ha).trans ?_
  · simpa [isCore] using h.core_lt
  · rw [issue_eq h hl ho, hf]

theorem coreStep_one (d : Dev) (core : Nat) (x : CoreSt) : CoreStep d core x (d.setCore core x) :=
  ⟨by simp, fun k hk => by simp [Dev.core_setCore, hk], rfl⟩
theorem coreStep_set {d e : Dev} {core : Nat} {y : CoreSt} (h : CoreStep d core y e) (x : CoreSt) : CoreStep d core x (e.setCore core x) :=
  ⟨by simp, fun k hk => by simp [Dev.core_setCore, hk, h.2.1 k hk], by rw [h.2.2]; rfl⟩

@[simp] theorem setSreg_wait (x : Ctx) (w : Wait) (i : Nat) (v : Dword) :
    ({ x with wait := w } : Ctx).setSreg i v = { x.setSreg i v with wait := w } := by
  unfold Ctx.setSreg
  split <;> rfl
@[simp] theorem sreg_wait (x : Ctx) (w : Wait) (i : Nat) : ({ x with wait := w } : Ctx).sreg i = x.sreg i := rfl

end Sys2Proof.Machine
end

