-- ==== Sys2Proof/Laws/Memory.lean ====
section
/-! SUPPORT. The laws of memory: reading after writing, and that every operation keeps the canonical form. -/

namespace Sys2Proof.Machine

/-! ## The canonical form -/

theorem memWrite_wf : ∀ (bs : List Byte) {m : List Host.Cell} (a : Nat), Memory.wf m → Memory.wf (memWrite m a bs)
  | [], _, _, h => h
  | b :: bs, _, a, h => memWrite_wf bs (a + 1) (tabWf_tabSet 0 a b h)

theorem cellPut_wf {d : Dev} (a : Nat) (bs : List Byte) (h : Memory.wf d.mem) : Memory.wf (d.cellPut a bs).mem :=
  memWrite_wf bs a h

theorem cellZero_wf {d : Dev} (a n : Nat) (h : Memory.wf d.mem) : Memory.wf (d.cellZero a n).mem :=
  tabWf_tabDrop 0 a (a + n) h

theorem cellHavoc_wf {d : Dev} (a n : Nat) (h : Memory.wf d.mem) : Memory.wf (d.cellHavoc a n).mem :=
  memWrite_wf _ a h

theorem cellFree_wf {d : Dev} (a n : Nat) (h : Memory.wf d.mem) : Memory.wf (d.cellFree a n).mem :=
  memWrite_wf _ a h

/-- A fold of steps that keep the form keeps it. -/
theorem foldl_mem_wf {β : Type} (f : Dev → β → Dev) (hf : ∀ d b, Memory.wf d.mem → Memory.wf (f d b).mem) :
    ∀ (l : List β) {d : Dev}, Memory.wf d.mem → Memory.wf (l.foldl f d).mem
  | [], _, h => h
  | b :: l, _, h => foldl_mem_wf f hf l (hf _ b h)

theorem hbmWrite_wf {d : Dev} (off : Nat) (bs : List Byte) (h : Memory.wf d.mem) : Memory.wf (d.hbmWrite off bs).mem := by
  unfold Dev.hbmWrite
  generalize pieces off bs.length = l
  suffices H : ∀ (l : List (Nat × Nat)) (acc : Dev × List Byte), Memory.wf acc.1.mem →
      Memory.wf (l.foldl (fun (acc : Dev × List Byte) p =>
        let c := hbmCell acc.1 p.1
        (if stackDead acc.1 c then acc.1 else acc.1.cellPut c (acc.2.take p.2), acc.2.drop p.2)) acc).1.mem from H l (d, bs) h
  intro l
  induction l with
  | nil => exact fun _ h => h
  | cons p l ih =>
    intro acc ha
    refine ih _ ?_
    dsimp only
    split
    · exact ha
    · exact cellPut_wf _ _ ha

theorem placeWrite_wf {d : Dev} (p : Place) (bs : List Byte) (h : Memory.wf d.mem) : Memory.wf (placeWrite d p bs).mem := by
  unfold placeWrite
  repeat' split
  all_goals first | exact h | exact cellPut_wf _ _ h

/-! ## Errors and copies -/

theorem foldl_mem {β : Type} (f : Dev → β → Dev) (hf : ∀ d b, (f d b).mem = d.mem) : ∀ (l : List β) (d : Dev), (l.foldl f d).mem = d.mem
  | [], _ => rfl
  | b :: l, d => (foldl_mem f hf l (f d b)).trans (hf d b)

/-- A read of HBM counts, captures and marks; it writes no byte. -/
theorem countRow_mem (d : Dev) (s : Nat) (r : Row) (whole : Bool) : (countRow d s r whole).mem = d.mem := by
  have h : (recordRepair d s r).mem = d.mem := by unfold recordRepair; dsimp only; split <;> rfl
  unfold countRow
  split
  · rfl
  · extract_lets x old n y e full
    have h : e.mem = d.mem := h
    repeat' split
    all_goals first | rfl | exact h

theorem meetUnit_mem (d : Dev) (u : Nat) : (meetUnit d u).mem = d.mem := by
  unfold meetUnit
  dsimp only
  split
  · rfl
  · rfl
  · exact countRow_mem _ _ _ _
  · exact countRow_mem _ _ _ _

theorem meetCells_mem (d : Dev) (cell n : Nat) : (meetCells d cell n).mem = d.mem := by
  unfold meetCells
  repeat' split
  · rfl
  · rfl
  · exact foldl_mem _ meetUnit_mem _ d

theorem meetHbm_mem (d : Dev) (off n : Nat) : (meetHbm d off n).mem = d.mem := by
  unfold meetHbm
  generalize pieces off n = l
  induction l generalizing d with
  | nil => rfl
  | cons p l ih => rw [List.foldl_cons, ih, meetCells_mem]

theorem carryPoison_mem (bad : List Nat) (d : Dev) (src dst n : Nat) : (carryPoison bad d src dst n).mem = d.mem := by
  unfold carryPoison
  induction bad generalizing d with
  | nil => rfl
  | cons u l ih => exact (ih _).trans rfl

theorem moveCells_wf {d : Dev} (src dst n : Nat) (h : Memory.wf d.mem) : Memory.wf (moveCells d src dst n).mem := by
  unfold moveCells
  split
  · exact h
  · rw [carryPoison_mem]
    exact cellPut_wf _ _ h

theorem copyCells_wf {d : Dev} (src dst n : Nat) (h : Memory.wf d.mem) : Memory.wf (copyCells d src dst n).mem :=
  moveCells_wf src dst n (by rw [meetCells_mem]; exact h)

theorem fillShadow_wf {d : Dev} (shadow cur : Nat) (h : Memory.wf d.mem) : Memory.wf (fillShadow d shadow cur).mem := by
  unfold fillShadow
  refine foldl_mem_wf _ (fun d i hd => ?_) _ h
  dsimp only
  repeat' split
  · exact hd
  · exact cellZero_wf _ _ hd
  · exact copyCells_wf _ _ _ hd

/-! ## Reading after writing -/

/-- A cell outside the bytes written reads as before. -/
theorem memGet_memWrite_out : ∀ (bs : List Byte) (m : List Host.Cell) (a x : Nat), x < a ∨ a + bs.length ≤ x →
    memGet (memWrite m a bs) x = memGet m x
  | [], _, _, _, _ => rfl
  | b :: bs, m, a, x, h => by
    simp only [List.length_cons] at h
    rw [memWrite, memGet_memWrite_out bs _ (a + 1) x (by omega)]
    exact tabGet_tabSet_other 0 m b (by omega)

/-- A cell inside reads the byte written there. -/
theorem memGet_memWrite_in : ∀ (bs : List Byte) (m : List Host.Cell) (a i : Nat) (h : i < bs.length),
    memGet (memWrite m a bs) (a + i) = bs[i]
  | b :: bs, m, a, 0, _ => by
    rw [memWrite, memGet_memWrite_out bs _ (a + 1) (a + 0) (by omega)]
    exact tabGet_tabSet_self 0 m a b
  | b :: bs, m, a, i + 1, h => by
    rw [memWrite, show a + (i + 1) = a + 1 + i by omega]
    exact memGet_memWrite_in bs _ (a + 1) i (by simpa using h)

/-- A range reads back what was written to it. -/
theorem memRead_memWrite (bs : List Byte) : ∀ (m : List Host.Cell) (a : Nat), memRead (memWrite m a bs) a bs.length = bs := by
  suffices H : ∀ (n : Nat) (m : List Host.Cell) (a : Nat) (l : List Byte), l.length = n → (∀ i (h : i < l.length), memGet m (a + i) = l[i]) →
      memRead m a n = l from
    fun m a => H bs.length _ a bs rfl (fun i h => memGet_memWrite_in bs m a i h)
  intro n
  induction n with
  | zero => intro m a l hl _; cases l with
    | nil => rfl
    | cons => simp at hl
  | succ n ih =>
    intro m a l hl h
    cases l with
    | nil => simp at hl
    | cons b l =>
      simp only [memRead]
      have h0 := h 0 (by simp)
      simp at h0
      rw [h0, ih m (a + 1) l (by simpa using hl)]
      intro i hi
      have := h (i + 1) (by simpa using hi)
      simpa [show a + 1 + i = a + (i + 1) by omega] using this

theorem memRead_length (m : List Host.Cell) : ∀ (n a : Nat), (memRead m a n).length = n
  | 0, _ => rfl
  | n + 1, a => by simp [memRead, memRead_length m n (a + 1)]

/-- Cells outside a write to consecutive cells read as before. -/
theorem cellPut_frame (d : Dev) (a : Nat) (bs : List Byte) (x : Nat) (h : x < a ∨ a + bs.length ≤ x) :
    memGet (d.cellPut a bs).mem x = memGet d.mem x := memGet_memWrite_out bs d.mem a x h

theorem cellFree_frame (d : Dev) (a n x : Nat) (h : x < a ∨ a + n ≤ x) : memGet (d.cellFree a n).mem x = memGet d.mem x :=
  memGet_memWrite_out _ d.mem a x (by simpa using h)

/-- A copy reaches no cell outside its destination. -/
theorem moveCells_frame (d : Dev) (src dst n x : Nat) (h : x < dst ∨ dst + n ≤ x) : memGet (moveCells d src dst n).mem x = memGet d.mem x := by
  unfold moveCells
  split
  · rfl
  · rw [carryPoison_mem]
    exact cellPut_frame d dst _ x (by rw [memRead_length]; exact h)

/-- Undefined contents reach no cell outside their range. -/
theorem cellHavoc_frame (d : Dev) (a n x : Nat) (h : x < a ∨ a + n ≤ x) : memGet (d.cellHavoc a n).mem x = memGet d.mem x :=
  memGet_memWrite_out _ d.mem a x (by simpa using h)

/-- A zero-filled range reads 0, and the rest as before. -/
theorem cellZero_get (d : Dev) (a n x : Nat) :
    memGet (d.cellZero a n).mem x = if a ≤ x ∧ x < a + n then 0 else memGet d.mem x := by
  split
  · exact tabGet_tabDrop_in 0 d.mem (by assumption)
  · exact tabGet_tabDrop_out 0 d.mem (by assumption)

end Sys2Proof.Machine
end

