-- ==== Sys2Proof/Laws/Tick.lean ====
section
/-! SUPPORT. What a tick changes of the clock: what befalls stacks and ports in it leaves the clock alone. -/

namespace Sys2Proof.Machine

theorem strikeBurst_clp (d : Dev) (u : Nat) (hard : Bool) (p : Nat) : (strikeBurst d u hard p).clp = d.clp := by
  unfold strikeBurst
  dsimp only
  repeat' split
  all_goals rfl

theorem failPin_clp (d : Dev) (s pc p : Nat) : (failPin d s pc p).clp = d.clp := by
  unfold failPin
  dsimp only
  split
  · rfl
  · split
    · rfl
    · rw [foldl_clp]
      · rfl
      · intro d e
        split <;> rfl
where
  foldl_clp {β : Type} (f : Dev → β → Dev) (hf : ∀ d b, (f d b).clp = d.clp) : ∀ (l : List β) (d : Dev), (l.foldl f d).clp = d.clp
    | [], _ => rfl
    | b :: l, d => (foldl_clp f hf l (f d b)).trans (hf d b)

theorem strikeHbm_clp (d : Dev) : (strikeHbm d).clp = d.clp := by
  unfold strikeHbm
  dsimp only
  repeat' split
  · rfl
  · exact strikeBurst_clp _ _ _ _
  · exact strikeBurst_clp _ _ _ _
  · exact failPin_clp _ _ _ _
  · rfl

/-- The clock after a tick (spec/04_clepsydra_and_scheduling.md R83, R87). -/
theorem tick_clp (d : Dev) : (tick d).clp =
    if clockRuns d = true then
      let c := d.clp
      let turn := c.elapsed % 1000 == 999 && !(c.slew == 0)
      { c with
        elapsed := c.elapsed + 1
        now := if turn && decide (0 < c.slew) then c.now + 2 else if turn && decide (c.slew < 0) then c.now else c.now + 1
        slew := if turn && decide (0 < c.slew) then c.slew - 1 else if turn && decide (c.slew < 0) then c.slew + 1 else c.slew }
    else d.clp := by
  unfold tick
  cases clockRuns d with
  | false => rfl
  | true =>
    simp only [Bool.not_true, Bool.false_eq_true, ↓reduceIte]
    exact strikeHbm_clp _

end Sys2Proof.Machine
end

