-- ==== Sys2Proof/Tests/Slice0.lean ====
section
/-! SUPPORT. The model's own tests: ill-formed commands, one step on small states, and for the statements of
Certificates/Slice0/Obligations.lean states and operands that meet their hypotheses. -/

namespace Sys2Proof.Tests

open Sys2Proof.Machine

set_option maxRecDepth 100000

/-! ## Small states -/

/-- A structure with one basin of logical core 0: 1 MiB of each partition, a square and a wide array, one shared semaphore. -/
def str0 : Structure :=
  { hash := [], rollback := 0, cores := [(0, { basin := 0, scratch := 1, acc := 1, page := 1, exch := 1, form1 := 1 })],
    basins := [(0, { valid := true, sharedSem := 1, slice := 100, grace := 10, shadowFrames := 4, shadowBase := 0x10000000 })],
    bound := [(0, 0)], spares := [], preloads := [], tables := [], spreadKey := 0, ownDevice := 0, maxHops := 1, horizon := 50000,
    routes := [(0, 0xFE), (1, 0)], codec := [], num := 60, den := 1, pinsafe := false, remap := false, threshold := 16 }

/-- A program of logical core 0 with `n` commands and one pattern. -/
def prog0 (n : Nat) : Prog :=
  { cores := [(0, { patCount := 1, bytes := 32 * n })], turns := [], root := 0, patterns := 0, streams := 0, bytes := 0, kv := none }

/-- Bytes as memory cells from `a` up, zeros left out. -/
def cellsAt (a : Nat) (bs : List Byte) : List Host.Cell := (bs.zipIdx.filter (fun e => !(e.1 == 0))).map (fun e => (a + e.2, e.1))

/-- A command word from its first bytes. -/
def word (l : List Byte) : List Byte := l ++ List.replicate (32 - l.length) 0

/-- Core 0 of slot 0 in a running turn. -/
def core0 : CoreSt := { slot := some 0, active := true }

/-- The device with core 0 in state `x`, `n` commands in its stream, and `b` the command it stands at. -/
def devAt (x : CoreSt) (n : Nat) (b : List Byte) : Dev :=
  { sys := { state := .running }, str := { inForce := some str0, bind := [(0, 0)] }, jobs := [(0, { state := .running, image := some (prog0 n) })],
    sch := { basins := [(0, { holder := some 0 })] }, trn := { slots := [(0, { phase := .running })] }, cores := [(0, x)],
    mem := cellsAt (cmdCell 0 (32 * x.ctx.pc)) b }

def stateAt (x : CoreSt) (n : Nat) (b : List Byte) : State := { dev := devAt x n b }

/-- The command core 0 of slot 0 stands at. -/
def cmdAt (pc : Nat) (b : List Byte) : Cmd := { core := 0, slot := 0, logical := 0, pc := pc, b := b }

/-- `Stands` as a test. -/
def standsB (d : Dev) (core op : Nat) (c : Cmd) : Bool :=
  decide (core < 144) && (d.core core).slot == some c.slot && (d.core core).active && ((d.core core).ctx.wait == .none || (d.core core).ctx.wait == .queue)
    && c.core == core && c.logical == d.logical core && c.pc == (d.core core).ctx.pc && decide (32 * c.pc + 32 ≤ streamBytes d c.slot c.logical)
    && fieldLe (memRead d.mem (cmdCell core (32 * c.pc)) 32) 0 1 == op
    && c.b == (if 0x20 ≤ op then applyAddf (memRead d.mem (cmdCell core (32 * c.pc)) 32) (d.core core).ctx.addf
               else memRead d.mem (cmdCell core (32 * c.pc)) 32)

theorem stands_of {d : Dev} {core op : Nat} {c : Cmd} (h : standsB d core op c = true) : Stands d core op c := by
  simp only [standsB, Bool.and_eq_true, Bool.or_eq_true, decide_eq_true_eq, beq_iff_eq] at h
  obtain ⟨⟨⟨⟨⟨⟨⟨⟨⟨h1, h2⟩, h3⟩, h4⟩, h5⟩, h6⟩, h7⟩, h8⟩, h9⟩, h10⟩ := h
  exact ⟨h1, h2, h3, h4, h5, h6, h7, h8, h9, h10⟩

/-- A command of opcode `op` at which core 0 stands, with the test `p` on it. -/
def standsWith (x : CoreSt) (n : Nat) (b : List Byte) (p : Dev → Cmd → Bool) : Bool :=
  let d := devAt x n b
  let c := cmdAt x.ctx.pc b
  !asleep d && standsB d 0 (fieldLe b 0 1) c && p d c

/-- The device after a step of a command, and none where it stops. -/
def after (i : Instr) (s : State) : Option Dev :=
  match exec i s with
  | .next t => some t.dev
  | _ => none

/-! ## Ill-formed commands -/

/-- One command for each check of WellFormed whose operand names no unit; all are refused. -/
def illFormed : List Instr :=
  [.registerWrite (.host 8) 0 0, .rcRead (.remote 4096) 0, .rebindComplete 144, .coreHwFault 144 .sram 0, .trnFlush 64, .kfenceTimeout 16,
   .klzDisable 16 true, .sliceEnd 16, .nop 144, .pipDeposit 0 16, .pipDeposit 144 0, .coreSemAdd 0 64 0, .spoutDone 12, .cscDone 16 0, .cscDone 0 9,
   .hbmScrub 12 0 0 [], .hbmScrub 0 64 0 [], .hbmScrub 0 0 294912 [], .hbmRemapDone 0 64, .hbmRetrainDone 12, .hbmTrainGroupStart 3, .klzTrainGroupStart 4,
   .laneSignalLoss 16, .codStreamOpen 32, .codPictureStart 16, .ethLinkUp 2, .pldRegRd 8 0, .pldRegRd 0 0x1000000, .hostfenceComplete 8,
   .mbxMsgWrite .mgt 32 0 0, .mbxMsgWrite .mgt 0 16 0, .mbxGo (.host 8) 0, .spdmFragment 32, .uncorrectableCodeWords 16, .hbmRemapStart 0 64]

theorem test_illFormed : ∀ i ∈ illFormed, i.wf = false := by decide

theorem test_illFormed_faults : ∀ i ∈ illFormed, after i {} = none := by decide

theorem test_wellFormed : ∀ i ∈ ([.registerWrite (.host 7) 0 0, .rcRead (.remote 4095) 0, .nop 143, .pipDeposit 143 15, .coreSemAdd 143 63 0, .cscDone 15 8, .spoutDone 11,
    .hbmScrub 11 63 294911 [], .hbmTrainGroupStart 2, .klzTrainGroupStart 3, .codStreamOpen 31, .ethLinkUp 1, .pldRegRd 7 0xFFFFFF, .mbxMsgWrite .svp 31 15 0] : List Instr),
    i.wf = true := by decide

/-! ## Machine-wide statements -/

theorem witness_StepTakesTheFrontCommandOrTicks :
    (∃ s : State, s.pending = [] ∧ s.dev.sys.state ≠ .reset ∧ s.dev.sys.tripped = false ∧ s.dev.clp.elapsed % 1000 = 999 ∧ 0 < s.dev.clp.slew)
    ∧ (∃ s : State, s.pending = [] ∧ s.dev.sys.state ≠ .reset ∧ s.dev.sys.tripped = false ∧ s.dev.clp.elapsed % 1000 = 999 ∧ s.dev.clp.slew < 0)
    ∧ (∃ s : State, s.pending = [] ∧ s.dev.sys.state ≠ .reset ∧ s.dev.sys.tripped = false ∧ s.dev.clp.elapsed % 1000 ≠ 999 ∧ s.dev.repairsDue = [])
    ∧ (∃ s : State, s.pending = [] ∧ s.dev.sys.state = .reset ∧ ({ pc := 0, row := 0 } : Row) ∈ tabGet [] s.dev.repairsDue 3) :=
  ⟨⟨{ dev := { sys := { state := .ready }, clp := { elapsed := 999, slew := 1 } } }, by decide⟩,
   ⟨{ dev := { sys := { state := .ready }, clp := { elapsed := 999, slew := -1 } } }, by decide⟩,
   ⟨{ dev := { sys := { state := .ready }, clp := { elapsed := 998 } } }, by decide⟩, ⟨{ dev := { repairsDue := [(3, [{ pc := 0, row := 0 }])] } }, by decide⟩⟩

/-- The count wraps past its last value (spec/04_clepsydra_and_scheduling.md R83). -/
theorem test_step_tick : (tick { sys := { state := .ready }, clp := { now := 0xFFFFFFFFFFFFFFFF } }).clp.now = 0 := by
  rw [tick_clp]
  decide

/-- A repair record reaches the flash memory when the block idles, and the queue of records empties. -/
theorem test_step_repairs : (match step { dev := { repairsDue := [(3, [{ pc := 0, row := 7 }])] } } with
    | .next t => some (tabGet [] t.nv.repairs 3, t.dev.repairsDue)
    | _ => none) = some ([{ pc := 0, row := 7 }], []) := by decide

theorem test_step_front : step { pending := [.vinApply 64000, .powerGood] } = exec (.vinApply 64000) { pending := [.powerGood] } := rfl

theorem witness_CommandsOnExistingUnitsComplete :
    (Instr.nop 143).wf = true ∧ (∀ k, Instr.nop 143 = .jtagInstruction (.private_ k) → State.reset.dev.sec.debugUnlocked = false) ∧ (Instr.nop 144).wf = false :=
  ⟨by decide, (by intro k h; cases h), by decide⟩

theorem witness_OnlyPinsActInReset : State.reset.dev.sys.state = .reset ∧ (Instr.strLoad).wf = true ∧ ofPins .strLoad = false := by decide

theorem witness_FusesMoveOneWay : FusesFrom { strCounter := 3, epochs := [(2, 1)] } { nv := { strCounter := 4, epochs := [(2, 5)] } }
    ∧ ∃ t, step { nv := { strCounter := 4, epochs := [(2, 5)] } } = .next t :=
  ⟨⟨rfl, rfl, rfl, by decide, by decide, by decide, by decide, by
      intro k; by_cases h : 2 = k <;> simp [tabGet, h]⟩, ⟨_, rfl⟩⟩

/-! ## Control core -/

theorem witness_ScalarCommandsWriteTheirRegister :
    (∀ b ∈ [[0], [1, 0, 31], [2, 0x80, 31, 31], [0x0C, 0, 31], [0x0B, 0, 0, 31]], standsWith core0 1 (word b) (fun d c =>
      ctlOk c && decide (c.u 2 1 ≤ 31) && decide (c.u 3 1 ≤ 31) && decide (c.u 4 1 ≤ 31)
        && (aluOp (natBits (c.u 1 1) 3 0) ((d.core 0).ctx.sreg (c.u 3 1)) (BitVec.ofNat 64 (c.u 8 8))).isSome) = true) := by decide

/-- ALU SUB of an immediate from a register that is also the destination wraps. -/
theorem test_alu_wraps : (after (.alu 0) (stateAt core0 1 (word [2, 0x81, 5, 5, 0, 0, 0, 0, 1]))).map (fun d => ((d.core 0).ctx.sreg 5, (d.core 0).ctx.pc))
    = some (0xFFFFFFFFFFFFFFFF, 1) := by decide

theorem test_seti : (after (.seti 0) (stateAt core0 1 (word [1, 0, 3, 0, 0, 0, 0, 0, 0x78, 0x56, 0x34, 0x12, 0, 0, 0, 0x80]))).map (fun d => (d.core 0).ctx.sreg 3)
    = some 0x8000000012345678 := by decide

/-- A command that waits in an engine's queue. -/
def waiting0 : Queued := { stamp := 0, pc := 0, b := [] }

/-- Core 0 behind a command of the vector engine that has not ended. -/
def busyCore : CoreSt := { core0 with ctx := { vecQueue := [waiting0] } }

/-- Core 0 behind `n` commands of array 0. -/
def arrCore (n : Nat) : CoreSt := { core0 with ctx := { arr0 := { queue := List.replicate n waiting0 } } }

theorem witness_LoadAndStoreReachTheScratchpad :
    (∀ b ∈ [[3, 0, 31, 0, 0, 0, 0, 0, 0xF8, 0xFF, 0x0F], [4, 0, 0, 0, 31, 0, 0, 0, 8]], ∀ busy ∈ [false, true],
      standsWith (if busy then busyCore else core0) 1 (word b) (fun d c =>
        let o := ((d.core 0).ctx.sreg (c.u 3 1) + BitVec.ofNat 64 (c.u 8 8)).toNat
        ctlOk c && decide (c.u 3 1 ≤ 31) && o % 8 == 0 && decide (o + 8 ≤ (partition (d.coreRec c.logical) 0).2)
          && coreBusy (d.core 0) == busy && !arraysBusy (d.core 0) && !poisonedAt d.poison (sramCell 0 o) 8) = true)
    ∧ standsWith (arrCore 1) 1 (word [4, 0, 0, 0, 31, 0, 0, 0, 8]) (fun d c => ctlOk c && arraysBusy (d.core 0)) = true := by decide

/-- A LOAD behind a command of another engine neither reads nor advances. -/
theorem test_load_waits : (after (.load 0) (stateAt busyCore 1 (word [3, 0, 1]))).map (fun d => ((d.core 0).ctx.pc, (d.core 0).ctx.wait)) = some (0, .none) := by decide

/-- A stored register is loaded back from the scratchpad, little-endian. -/
theorem test_store : (after (.store 0) (stateAt { core0 with ctx := { sregs := [(2, 0x0102)] } } 1 (word [4, 0, 0, 0, 2, 0, 0, 0, 8]))).map
    (fun d => memRead d.mem (sramCell 0 8) 3) = some [2, 1, 0] := by decide

theorem witness_PipsAndPendingAdditionsAct :
    (∀ b ∈ [[5, 0, 31, 0, 0, 15], [6, 0, 0, 0, 0, 0, 0, 0, 0, 0x80]], standsWith core0 1 (word b) (fun d c =>
      ctlOk c && decide (c.u 2 1 ≤ 31) && decide (c.u 5 1 ≤ 15) && (List.range 16).all (fun i => !pipWaits (d.core 0).ctx i)) = true)
    ∧ standsWith core0 1 (word [7, 4, 0, 31, 31, 0, 0x1C]) (fun _ c => ctlOk c && addfOffset (c.u 1 1) && addfOffset (c.u 6 1)) = true
    ∧ (∀ x ∈ [{ core0 with ctx := { deposits := [{ pip := 15, val := {} }] } }, busyCore],
        standsWith x 1 (word [5, 0, 31, 0, 0, 15]) (fun d c => ctlOk c && pipWaits (d.core 0).ctx (c.u 5 1)) = true)
    ∧ (∃ e, ((devAt { core0 with ctx := { deposits := [{ pip := 15, val := {} }] } } 1 []).core 0).ctx.deposits.find? (fun q => q.pip == 15) = some e ∧ e.due = none) :=
  ⟨by decide, by decide, by decide, ⟨{ pip := 15, val := {} }, by decide⟩⟩

/-- ADDF adds to both pending words. -/
theorem test_addf : (after (.addf 0) (stateAt { core0 with ctx := { sregs := [(1, 7)] } } 1 (word [7, 4, 0, 1, 1, 0, 8]))).map (fun d => (d.core 0).ctx.addf)
    = some [(4, 7), (8, 7)] := by decide

theorem witness_BranchesKeepTheirBounds :
    (∀ b ∈ [[8, 0x80, 0, 31, 0, 0, 0], [8, 0, 0, 31, 31, 0, 1]], standsWith core0 1 (word b) (fun d c =>
      ctlOk c && (brCond (c.u 6 1) ((d.core 0).ctx.sreg (c.u 3 1)) 0).isSome && decide (32 * c.u 0x10 4 + 32 ≤ streamBytes d 0 0)) = true)
    ∧ (∀ w ∈ [false, true], standsWith (if w then { core0 with ctx := { deposits := [{ pip := 15, val := {} }] } } else core0) 1 (word [9, 0, 0, 0, 0, 15, 1]) (fun d c =>
        ctlOk c && (pipTest (tabGet {} (d.core 0).ctx.pips (c.u 5 1)) (c.u 6 1) (c.u 8 8)).isSome && pipWaits (d.core 0).ctx (c.u 5 1) == w
          && decide (32 * c.u 0x10 4 + 32 ≤ streamBytes d 0 0)) = true)
    ∧ standsWith core0 1 (word [0x0A, 0, 31]) (fun d c => ctlOk c && decide (32 * c.u 0x10 4 + 32 ≤ streamBytes d 0 0)) = true := by decide

/-- A backward branch whose count has reached BOUND falls through and shows it. -/
theorem test_br_bound : (after (.br 0) (stateAt { core0 with ctx := { taken := [(0, 2)] } } 1 (word [8, 0x80, 0, 0, 0, 0, 0, 0, 0, 0, 0, 0, 0, 0, 0, 0, 0, 0, 0, 0, 2]))).map
    (fun d => ((d.core 0).ctx.pc, (d.core 0).boundHit, (d.core 0).ctx.taken)) = some (1, true, []) := by decide

theorem witness_FencesWaitAndComplete :
    (∀ op ∈ [0x20, 0x21, 0x22], standsWith core0 1 (word [op]) (fun _ c => c.zero 1 31) = true)
    ∧ (let d := devAt { core0 with ctx := { wait := .fenceC } } 1 (word [0x20])
       coreDrained d 0 = true ∧ fieldLe (memRead d.mem (cmdCell 0 0) 1) 0 1 = 0x20)
    ∧ (let d := devAt { core0 with ctx := { wait := .fenceC } } 1 (word [0x24])
       coreDrained d 0 = true ∧ fieldLe (memRead d.mem (cmdCell 0 0) 1) 0 1 ≠ 0x20)
    ∧ (let d := devAt { core0 with ctx := { wait := .fenceB 1 } } 1 (word [0x21]); ((jobCores d 0).map d.phys).Nodup ∧ allAt d 0 (.fenceB 1) = true)
    ∧ (let d := devAt { core0 with ctx := { wait := .fenceD 1 } } 1 (word [0x22]); allAt d 0 (.fenceD 1) = true ∧ enginesDrained d 0 = true)
    ∧ (let d := devAt { core0 with ctx := { wait := .fenceB 1 }, active := false } 1 (word [0x21]); allAt d 0 (.fenceB 1) = false) := by decide

theorem test_fence_completes : (after (.fenceComplete 0) (stateAt { core0 with ctx := { wait := .fenceB 1 } } 1 (word [0x21]))).map (fun d => ((d.core 0).ctx.wait, (d.core 0).ctx.pc))
    = some (.none, 1) := by decide

theorem witness_SemaphoreCommandsAct :
    standsWith core0 1 (word [0x24, 0, 0, 0, 0xFF, 0xFF, 0, 0, 5]) (fun d c => semFieldsOk c && decide (c.u 2 1 < (d.basinRec 0).sharedSem)) = true
    ∧ standsWith core0 1 (word [0x24, 0, 63, 0, 0xFF, 0xFF]) (fun d c => semFieldsOk c && (d.coreRec 0).basin == 0 && (d.core (d.phys 0)).slot.isSome && c.u 4 2 == 0xFFFF) = true
    ∧ standsWith (arrCore 1) 1 (word [0x24, 1, 0, 0, 0xFF, 0xFF]) (fun d c => semFieldsOk c && !coreDrained d 0) = true
    ∧ standsWith core0 1 (word [0x25, 0, 0, 0, 0xFF, 0xFF]) (fun d c => semFieldsOk c && semReached (semValue d 0 0xFF 0) 0) = true
    ∧ standsWith core0 1 (word [0x25, 0, 0, 0, 0xFF, 0xFF, 0, 0, 1]) (fun d c => semFieldsOk c && !semReached (semValue d 0 0xFF 0) 1) = true
    ∧ standsWith core0 1 (word [0x26]) (fun d c => semFieldsOk c && (d.sem 0 0).owner == 0xFF) = true
    ∧ (let d := { devAt core0 1 (word [0x26]) with sems := [(0, { owner := 1 })] }; standsB d 0 0x26 (cmdAt 0 (word [0x26])) = true ∧ (d.sem 0 0).owner ≠ 0xFF)
    ∧ (let d := { devAt core0 1 (word [0x27]) with sems := [(0, { owner := 0 })] }; standsB d 0 0x27 (cmdAt 0 (word [0x27])) = true ∧ acquirers d 0 0 = [])
    ∧ (let d := devAt core0 1 []; (d.coreRec (d.logical 0)).basin ≠ 0xFF ∧ 0 < (d.basinRec 0).sharedSem) := by decide

/-- A device with a second core of the basin, waiting for the semaphore core 0 holds. -/
def twoCores (b : List Byte) : Dev :=
  { devAt core0 1 b with
    str := { inForce := some { str0 with cores := [(0, { basin := 0, scratch := 1, acc := 1 }), (1, { basin := 0, scratch := 1, acc := 1 })] }, bind := [(0, 0), (1, 1)] }
    sems := [(0, { owner := 0 })], cores := [(0, core0), (1, { core0 with ctx := { wait := .acquire 0 } })] }

theorem witness_SemaphoreRelease : standsB (twoCores (word [0x27])) 0 0x27 (cmdAt 0 (word [0x27])) = true ∧ acquirers (twoCores (word [0x27])) 0 0 = [1]
    ∧ (twoCores (word [0x27])).phys 1 ≠ 0 := by decide


/-! ## Engines of a core -/

/-- The plan succeeds. -/
def okP {α : Type} (a : Acc α) (p : α → Bool := fun _ => true) : Bool :=
  match a with
  | .ok x => p x
  | .error _ => false

theorem okP_ok {α : Type} {a : Acc α} {p : α → Bool} (h : okP a p = true) : ∃ x, a = .ok x ∧ p x = true := by
  cases a with
  | ok x => exact ⟨x, rfl, h⟩
  | error e => cases h

/-- A device with bytes written at HBM offsets and at cells. -/
def fill (d : Dev) (hbm cells : List (Nat × List Byte)) : Dev :=
  let d := hbm.foldl (fun d e => d.hbmWrite e.1 e.2) d
  { d with mem := cells.foldl (fun m e => memWrite m e.1 e.2) d.mem }

/-- Core 0 stands at a command of a device, and the test holds. -/
def onDevice (d : Dev) (b : List Byte) (p : Dev → Cmd → Bool) : Bool :=
  let c := cmdAt (d.core 0).ctx.pc b
  !asleep d && standsB d 0 (fieldLe b 0 1) c && p d c

/-- Page tables at 0: job virtual pages 0 and 1 are COMMITTED, on frames 16 and 17. -/
def tables0 : List (Nat × List Byte) :=
  [(0, leBytes 8 1 ++ leBytes 8 0x4000), (0x4000, leBytes 8 1 ++ leBytes 8 0x8000), (0x8000, leBytes 8 1 ++ leBytes 8 0xC000),
   (0xC000, [3, 3, 0, 0, 0, 0, 0, 0, 16, 0, 0, 0xFF, 0xFF, 0xFF]), (0xC010, [3, 3, 0, 0, 0, 0, 0, 0, 17, 0, 0, 0xFF, 0xFF, 0xFF])]

/-- `devAt` with the page tables, and both frames MAPPED. -/
def pagedAt (x : CoreSt) (n : Nat) (b : List Byte) : Dev :=
  let d := fill (devAt x n b) tables0 []
  { d with trn := { d.trn with frames := [(16, { count := 1, state := .mapped }), (17, { count := 1, state := .mapped })] } }

/-- TRN.SHARE of page 0 at page 1. -/
def shareBytes : List Byte := word ([0x29] ++ leBytes 7 0 ++ leBytes 8 0 ++ leBytes 8 0x10000 ++ leBytes 8 0x10000)
/-- TRN.RELEASE of page 1. -/
def releaseBytes : List Byte := word ([0x2A] ++ leBytes 7 0 ++ leBytes 8 0x10000 ++ leBytes 8 0x10000)

theorem witness_TurnCommandsBuildTheMoveList :
    standsWith core0 1 (word [0x28]) (fun d c => c.zero 1 31 && !(d.tslot c.slot).domain) = true
    ∧ (let d := devAt core0 1 (word [0x28])
       let d := { d with trn := { d.trn with slots := [(0, { phase := .running, domain := true })] }, klz := { d.klz with groups := [(0, { valid := true, root := true })] } }
       standsB d 0 0x28 (cmdAt 0 (word [0x28])) = true ∧ (d.tslot 0).domain = true ∧ (groupOf d 0).isSome = true)
    ∧ onDevice (pagedAt core0 1 shareBytes) shareBytes (fun d c => c.zero 1 7 && okP (committedPage d c.slot 0 false) && okP (committedPage d c.slot 0x10000 true)
        && c.u 0x18 8 / 0x10000 == 1 && (d.tslot c.slot).moves.isEmpty) = true
    ∧ onDevice (pagedAt core0 1 releaseBytes) releaseBytes (fun d c => c.zero 1 7 && c.zero 0x18 8 && okP (committedPage d c.slot 0x10000 true)
        && c.u 0x10 8 / 0x10000 == 1 && (d.tslot c.slot).moves.isEmpty) = true := by decide

/-- The end a list comes to. -/
def listEnds (d : Dev) (c : Cmd) : Nat :=
  match (listEntries (unwait d 0) c 1 0).2 with
  | .done => 0
  | .waits _ => 1
  | .fault _ => 2

/-- SHARE puts the source's frame at the destination. -/
theorem test_share : (after (.trnShare 0) { dev := pagedAt core0 1 shareBytes }).map (fun d => (d.tslot 0).moves.map (fun m => (m.kind, m.old, m.new)))
    = some [(.share, 17, 16)] := by decide

/-- An ARR.TILE or ARR.RUN of array 0 in BF16 with pattern 0. -/
def arrBytes (op ctl : Nat) : List Byte := word ([BitVec.ofNat 8 op, BitVec.ofNat 8 ctl] ++ leBytes 14 0 ++ (if op = 0x41 then leBytes 4 0 ++ leBytes 4 256 else []))

/-- Pattern 0: one line of one piece of 16 B at scratchpad 0. -/
def pattern0 : List Byte :=
  leBytes 4 0 ++ leBytes 2 16 ++ leBytes 2 0 ++ (List.replicate 3 (leBytes 2 1 ++ leBytes 2 0 ++ leBytes 2 0 ++ leBytes 2 1 ++ leBytes 4 0)).flatten

/-- A tile of one line whose first element is 1. -/
def tile0 : Tile := { fmt := 0, lines := [[0x80, 0x3F] ++ List.replicate 14 0], scales := [[]], pat := 0, adj := 0, sadj := 0 }

/-- `devAt` with pattern 0, and 2.0 and 3.0 in BF16 at scratchpad 0. -/
def arrAt (x : CoreSt) (b : List Byte) : Dev := fill (devAt x 1 b) [] [(cmdCell 0 0x40000, pattern0), (sramCell 0 0, [0, 0x40, 0x40, 0x40])]

/-- An ARR.LIST of one entry that reuses the active tile. -/
def listBytes : List Byte := word ([0x42, 0, 0, 0, 0, 0, 1, 0] ++ leBytes 4 0x100 ++ leBytes 4 0 ++ leBytes 4 0 ++ leBytes 4 256)

def listAt (entry : List Byte) : Dev := fill (arrAt { core0 with ctx := { arr0 := { active := some tile0 } } } listBytes) [] [(sramCell 0 0x100, entry)]

theorem witness_ArrayCommandsLoadAndAccumulate :
    onDevice (arrAt core0 (arrBytes 0x40 0)) (arrBytes 0x40 0) (fun d c => arrFieldsOk c false && !coreBusy (d.core 0) && (d.core 0).ctx.arr0.queue.isEmpty
        && okP (loadTile d 0 0 0 0 0 0 0 0) (fun t => t.lines.length == 1)) = true
    ∧ standsWith { core0 with ctx := { arr0 := { shadow := some tile0 } } } 1 (arrBytes 0x40 0) (fun _ c => arrFieldsOk c false) = true
    ∧ (∀ op ∈ [0x40, 0x41, 0x42], ∀ n ∈ [1, 8], standsWith (arrCore n) 1 (arrBytes op 0) (fun d _ => (d.core 0).ctx.arr0.queue.length == n) = true)
    ∧ onDevice (arrAt { core0 with ctx := { arr0 := { active := some tile0 } } } (arrBytes 0x41 0)) (arrBytes 0x41 0) (fun d c => arrFieldsOk c true && d.poison.isEmpty
        && okP (corePattern d 0 0 0 0) (fun p => patternOk p 0 128 0 0 && p.count 1 * p.count 2 == 1 && okP (feed d 0 0 0 p 0 0 1 1))
        && pairK 0 0 == some 64 && accPlaceOk d 0 (arrWide d 0 0) 0 256 1) = true
    ∧ onDevice (listAt (leBytes 20 0 ++ [1, 0, 1])) listBytes (fun d c => listFieldsOk c && listEnds d c == 0) = true
    ∧ onDevice (listAt (leBytes 20 0 ++ [0, 0, 1])) listBytes (fun d c => listFieldsOk c && listEnds d c == 2) = true
    ∧ (let d := fill (arrAt { core0 with ctx := { arr0 := { shadow := some tile0 } } } listBytes) [] [(sramCell 0 0x100, leBytes 20 0 ++ [1, 0, 0])]
       onDevice d listBytes (fun d c => listFieldsOk c && listEnds d c == 1
         && (match joinQueue (listEntries (unwait d 0) c 1 0).1 c .arr0 0 with | .next _ => true | _ => false)) = true) := by decide

/-- 1 × 2 joins a fresh FP32 accumulator as 2.0. -/
theorem test_arrRun : (after (.arrRun 0) { dev := arrAt { core0 with ctx := { arr0 := { active := some tile0 } } } (arrBytes 0x41 8) }).map
    (fun d => memRead d.mem (sramCell 0 0x100000) 4) = some [0, 0, 0, 0x40] := by decide

/-- A vector command over one row of one element: BF16 A at 0x100, D at 0x200. -/
def vec (op o fmts fd : Nat) (a b cnt : Nat) : List Byte :=
  word (leBytes 1 op ++ leBytes 1 o ++ leBytes 1 fmts ++ leBytes 1 fd ++ leBytes 4 0x200 ++ leBytes 4 a ++ leBytes 4 b ++ leBytes 4 0 ++ leBytes 4 cnt ++ leBytes 2 1)

theorem witness_VectorCommandsWriteOnlyTheirDestination :
    standsWith core0 1 (vec 0x50 0 0x88 8 0x100 0x110 1) (fun d c => okP (vecArithPlan d c)) = true
    ∧ standsWith core0 1 (vec 0x56 0 0x80 8 0 0x3F800000 0x20000001) (fun d c => okP (vecFillPlan d c)) = true
    ∧ standsWith core0 1 (vec 0x51 0 8 9 0x100 0 1) (fun d c => okP (vecCvtPlan d c) (fun p => isIntFmt p.v.fd)) = true
    ∧ standsWith core0 1 (vec 0x51 0 8 2 0x100 0x300 32) (fun d c => okP (vecCvtPlan d c) (fun p => isMx p.v.fd)) = true
    ∧ standsWith core0 1 (vec 0x52 2 0x88 0 0x100 0x110 1) (fun d c => okP (vecCmpPlan d c)) = true
    ∧ standsWith core0 1 (vec 0x53 0 8 8 0x100 0 0x10000004) (fun d c => okP (vecReducePlan d c) (fun p => p.v.deposit)) = true := by decide

/-- 1.5 − 0.25 in FP32. -/
theorem test_arith : (after (.vecArith 0) { dev := fill (devAt core0 1 (vec 0x50 1 0x88 8 0x100 0x110 1)) [] [(sramCell 0 0x100, [0, 0, 0xC0, 0x3F]), (sramCell 0 0x110, [0, 0, 0x80, 0x3E])] }).map
    (fun d => memRead d.mem (sramCell 0 0x200) 4) = some [0, 0, 0xA0, 0x3F] := by decide

/-- FP32 1e10 becomes INT8 127 (spec/05_precision_and_rounding.md R131). -/
theorem test_cvt_saturates : (after (.vecCvt 0) { dev := fill (devAt core0 1 (vec 0x51 0 8 7 0x100 0 1)) [] [(sramCell 0 0x100, leBytes 4 0x501502F9)] }).map
    (fun d => memRead d.mem (sramCell 0 0x200) 1) = some [0x7F] := by decide

theorem test_cmp : (after (.vecCmp 0) { dev := fill (devAt core0 1 (vec 0x52 2 0x88 0 0x100 0 0x20000002)) [] [(sramCell 0 0x104, leBytes 4 0xBF800000)] }).map
    (fun d => memRead d.mem (sramCell 0 0x200) 1) = some [2] := by decide

theorem test_fill : (after (.vecFill 0) { dev := devAt core0 1 (vec 0x56 0 0x90 9 0 7 0x20000002) }).map (fun d => memRead d.mem (sramCell 0 0x200) 8)
    = some [7, 0, 0, 0, 7, 0, 0, 0] := by decide

theorem witness_GatherAndScatterFollowTheirIndices :
    standsWith core0 1 (vec 0x54 0 0x98 8 0x100 0x110 1) (fun d c => okP (vecGatherPlan d c) (fun p => p.a.isSome
      && (p.b.toList ++ p.v.mask.toList).all (fun o => !opndMeet p.dst o)
      && okP (rowMask d 0 0 p.v.mask 0 p.v.count) (fun act => okP (rowB d c p.v p.b 0 act) (fun ix => ix.all (fun q => okP (indexed d 0 0 0x100 8 q.toInt)))))) = true
    ∧ standsWith core0 1 (word (leBytes 4 0x08980055 ++ leBytes 4 0x10000000 ++ leBytes 4 0x100 ++ leBytes 4 0x110 ++ leBytes 4 0 ++ leBytes 4 1 ++ [1])) (fun d c => okP (vecScatterPlan d c) (fun p => p.a.isSome
      && (p.b.toList ++ p.v.mask.toList).all (fun o => !(o.part == p.dst.part))
      && okP (rowMask d 0 0 p.v.mask 0 p.v.count) (fun act => okP (rowB d c p.v p.b 0 act) (fun ix => ix.all (fun q => okP (indexed d 0 1 0 8 q.toInt)))))) = true
    ∧ standsWith core0 1 (vec 0x54 0 0x98 8 0x100 0xFFFFFFFE 0x20000001) (fun d c => okP (vecGatherPlan d c) (fun p => p.v.rows == 1 && p.v.mask.isNone && p.b.isNone
      && decide ((immValue p.v.fb p.v.srcB).toInt < -1))) = true := by decide

theorem test_gather : (after (.vecGather 0) { dev := fill (devAt core0 1 (vec 0x54 0 0x98 8 0x100 0x110 1)) [] [(sramCell 0 0x108, [1, 2, 3, 4]), (sramCell 0 0x110, [2])] }).map
    (fun d => memRead d.mem (sramCell 0 0x200) 4) = some [1, 2, 3, 4] := by decide

/-- A special-function or row command over one row. -/
def sfw (op fn fmt m a par cnt : Nat) : List Byte :=
  word (leBytes 1 op ++ leBytes 1 fn ++ leBytes 1 fmt ++ leBytes 1 m ++ leBytes 4 0x200 ++ leBytes 4 a ++ leBytes 4 par ++ leBytes 4 0 ++ leBytes 4 cnt ++ leBytes 2 1)

/-- `devAt` with a table in slot 3. -/
def tableAt (b : List Byte) : Dev := let d := devAt core0 1 b
  { d with str := { d.str with inForce := some { str0 with tables := [(3, [1])] } } }

theorem witness_SpecialFunctionCommandsWriteOnlyTheirDestination :
    standsWith core0 1 (sfw 0x60 4 8 0x38 0x100 0 1) (fun d c => okP (sfBuiltinPlan d c)) = true
    ∧ onDevice (tableAt (sfw 0x61 3 0 0 0x100 0 0x10000001)) (sfw 0x61 3 0 0 0x100 0 0x10000001) (fun d c => okP (sfTablePlan d c) (fun p => p.v.deposit)) = true
    ∧ standsWith core0 1 (sfw 0x62 0 8 0 0x100 0 4) (fun d c => okP (rowStatsPlan d c)) = true
    ∧ standsWith core0 1 (sfw 0x63 0 0 0 0x100 1 0) (fun d c => okP (rowMergePlan d c)) = true
    ∧ standsWith core0 1 (sfw 0x64 0 8 0x18 0x100 0x3F800000 4) (fun d c => okP (rowSoftmaxPlan d c)) = true := by decide

/-! ### Attention -/

/-- `devAt` whose arrays are both square. -/
def squareAt (x : CoreSt) (b : List Byte) : Dev :=
  let d := devAt x 1 b
  { d with str := { d.str with inForce := some { str0 with cores := [(0, { basin := 0, scratch := 1, acc := 1, page := 1, exch := 1 })] } } }

/-- ATT.FINAL, ATT.EXPORT or ATT.MERGE of one row of HEAD_DIM 64, with `w` the word at 0x10. -/
def attBytes (op ctl fmt w : Nat) : List Byte :=
  word (leBytes 1 op ++ leBytes 1 ctl ++ leBytes 2 fmt ++ leBytes 4 0 ++ leBytes 4 0x100 ++ leBytes 2 1 ++ leBytes 2 64 ++ leBytes 4 w)

/-- ATT.RUN over one key with FIRST, its descriptor at scratchpad 0x1000. -/
def runBytes : List Byte := word (leBytes 4 0x0170 ++ leBytes 4 0x1000 ++ leBytes 4 0 ++ leBytes 4 1)

def runDesc : List Byte :=
  leBytes 2 0 ++ leBytes 2 64 ++ leBytes 2 1 ++ leBytes 2 1 ++ leBytes 4 0 ++ leBytes 4 0x3F800000 ++ leBytes 4 0x2000 ++ leBytes 4 0 ++ leBytes 4 0 ++ leBytes 4 0x10000
    ++ leBytes 24 0 ++ leBytes 4 0x3000 ++ leBytes 4 0x4000

/-- A layout of one layer and head, BF16, and an open turn with one sequence. -/
def kvDev (admitted : Bool) (b : List Byte) : Dev :=
  let d := pagedAt core0 1 b
  let d := fill d [(0xC000, [3, 3, 0, 0, 0, 0, 0, 0, 0xFF, 0xFF, 0xFF, 0xFF, 0xFF, 0xFF])] []
  let card : Card := { turn := 0, notBefore := 0, deadline := 0, seqList := 0, params := 0, seqCount := 1, paramBytes := 0, kind := 0, flags := 0, reserved := false, user := 0 }
  let t : Turn := { card := card, admitClp := 0, admitElapsed := 0, wcet := 0, seqs := [{ base := 0, length := 0, append := 1, scaleVa := 0, admitted := admitted, reason := 0 }] }
  { d with
      jobs := [(0, { state := .running, turn := some t, image := some { prog0 1 with kv := some { layers := 1, heads := 1, dim := 64, fmt := 0, pageBytes := 65536, admitVa := 0, kinds := [] } } })],
      trn := { d.trn with slots := [(0, { phase := .running, stock := [18, 19] })] } }

/-- KV.APPEND of one token of BF16, keys at scratchpad 0x100 and values at 0x200. -/
def appendBytes : List Byte := word (leBytes 4 0x0074 ++ leBytes 4 0 ++ leBytes 4 0 ++ leBytes 4 1 ++ leBytes 4 0x100 ++ leBytes 4 0x200)

/-- Core 0 with `n` commands in the queues of the vector engine, the row units and the mover. -/
def queuedCore (n : Nat) : CoreSt :=
  { core0 with ctx := { vecQueue := List.replicate n waiting0, sfQueue := List.replicate n waiting0, tmQueue := List.replicate (2 * n) waiting0 } }

/-- The engine of each queued command. -/
def queuedOps : List (Nat × Engine) :=
  [(0x50, .vec), (0x51, .vec), (0x52, .vec), (0x53, .vec), (0x54, .vec), (0x55, .vec), (0x56, .vec), (0x60, .row), (0x61, .row), (0x62, .row), (0x63, .row),
   (0x64, .row), (0x70, .row), (0x71, .row), (0x72, .row), (0x73, .row), (0x30, .tm), (0x31, .tm), (0x74, .tm)]

/-- The hypotheses of `QueuesBehind` for every queued command: its queue with room and full, and ATT.RUN held by an array. -/
theorem witness_QueuesBehind :
    (∀ n ∈ [1, 16], ∀ q ∈ queuedOps, standsWith (queuedCore n) 1 (word [BitVec.ofNat 8 q.1]) (fun d _ =>
      coreBusy (d.core 0) && queueFull (d.core 0) q.2 == (n == 16)) = true)
    ∧ standsWith (arrCore 1) 1 (word [0x70]) (fun d _ => arraysBusy (d.core 0) && !coreBusy (d.core 0) && !queueFull (d.core 0) .row) = true := by decide

/-- A FILL behind a command of its engine joins the queue, and the core goes on. -/
theorem test_vec_queues : (after (.vecFill 0) (stateAt (queuedCore 1) 1 (word [0x56]))).map (fun d => ((d.core 0).ctx.pc, (d.core 0).ctx.vecQueue.map (·.pc)))
    = some (1, [0, 0]) := by decide

theorem witness_AttentionCommandsKeepToTheirRegions :
    standsWith core0 1 (attBytes 0x71 0 8 0x10) (fun d c => okP (attFinalPlan d c)) = true
    ∧ standsWith core0 1 (attBytes 0x72 0 0 0x20) (fun d c => okP (attExportPlan d c)) = true
    ∧ standsWith core0 1 (attBytes 0x73 1 0 0x10020) (fun d c => okP (attMergePlan d c)) = true
    ∧ onDevice (fill (squareAt core0 runBytes) [] [(sramCell 0 0x1000, runDesc)]) runBytes (fun d c => !arraysBusy (d.core 0) && !coreBusy (d.core 0)
        && okP (attRunPlan d c) (fun a => !a.paged)) = true
    ∧ (∀ adm ∈ [false, true], onDevice (kvDev adm appendBytes) appendBytes (fun d c => natBits (c.u 1 1) 7 1 == 0 && c.zero 3 1 && (d.core 0).tm.isEmpty && d.poison.isEmpty
        && okP (kvTarget d 0 0 0 0) (fun t => t.2.admitted == adm && c.u 2 1 == t.1.fmt && decide (c.u 8 4 + c.u 0xC 4 ≤ t.2.append)
          && localSpace 0x100 && localSpace 0x200 && rowsInPart d 0 0x100 0 1 128 && rowsInPart d 0 0x200 0 1 128
          && okP ((tokenPages 0 1).foldlM (kvPage c t.1 t.2 0 0 0 0 127 127) (unwait d 0)))) = true) := by decide

/-! ## Tensor mover, Spout and Cascade -/

/-- A tensor descriptor of BF16: SPACE, rank 1, BASE, one row of `n` elements. -/
def tensorBytes (space base n : Nat) : List Byte :=
  ([0, BitVec.ofNat 8 space, 1, 0] ++ leBytes 4 0 ++ leBytes 8 base ++ leBytes 4 n ++ leBytes 4 1 ++ leBytes 4 1 ++ leBytes 4 1)

/-- `devAt` whose job has two tensors in core 0's scratchpad, 8 elements each, and a domain group with ring 0 on port 0. -/
def tensorAt (x : CoreSt) (b : List Byte) : Dev :=
  let d := fill (devAt x 1 b) [(0x100000, tensorBytes 1 0x100 8), (0x100060, tensorBytes 1 0x200 8)] []
  { d with jobs := [(0, { state := .running, prog := 0x100000, image := some { prog0 1 with tensorCount := 2 } })]
           klz := { d.klz with ports := [(0, { state := .active, neighbour := 1 })], groups := [(0, { valid := true, root := true, rings := [(0, { valid := true, size := 2 })] })] } }

def copyBytes : List Byte := word ([0x30, 2] ++ leBytes 2 0 ++ leBytes 2 1)

/-- TM.GATHER of one address at scratchpad 0x100 to 0x200. -/
def gatherBytes : List Byte := word (leBytes 4 0x31 ++ leBytes 4 0x100 ++ leBytes 4 1 ++ leBytes 4 0x200)

/-- A finished mover command that adds 5 to shared semaphore 0, or only ends. -/
def finished (signal : Bool) : TmCmd := { ident := 3, todo := [], command := 0, semCore := 0xFF, semIndex := 0, semAdd := 5, signal := signal, bulk := false, waiting := 0 }

theorem witness_MoverCommandsCopyAndSignal :
    onDevice (tensorAt core0 copyBytes) copyBytes (fun d c => natBits (c.u 1 1) 7 2 == 0 && c.zero 0x1C 4 && !natBit (c.u 1 1) 0 && (d.core 0).tm.isEmpty && !coreBusy (d.core 0)
      && okP (jobTensor d 0 0) (fun t => okP (jobTensor d 0 1) (fun u => t.fmt == u.fmt && t.space == 1 && u.space == 1
        && okP (boxRows d t u 0 0 16) (fun rows => rows == [(.sram 0 0x100, .sram 0 0x200)])))) = true
    ∧ (∀ a ∈ [List.replicate 8 (0xFF : Byte), leBytes 8 0x20], onDevice (fill (pagedAt core0 1 gatherBytes) [] [(sramCell 0 0x100, a)]) gatherBytes (fun d c =>
        natBits (c.u 1 1) 7 1 == 0 && c.zero 2 2 && c.zero 0x12 6 && c.zero 0x1C 4 && !natBit (c.u 1 1) 0 && (d.core 0).tm.isEmpty && d.phys 0 == 0
        && okP (partRead d 0 0 0 0x100 8) (fun q => q == a) && okP (partCell d 0 0 0 0x200 32) && (a == List.replicate 8 (0xFF : Byte)
          || (match startMover (unwait d 0) c [{ src := .va 0x20, dst := .sram 0 0x200, n := 32, whole := false, uses := true }] false false 0 0 0 (some 0x200) with
              | .next _ => true | _ => false))) = true)
    ∧ (∀ sg ∈ [false, true], ((devAt { core0 with tm := [finished sg] } 1 []).core 0).tm.find? (fun t => t.todo.isEmpty && t.waiting == 0) = some (finished sg))
    ∧ (∀ q ∈ ((devAt { core0 with tm := [{ finished true with waiting := 1 }] } 1 []).core 0).tm, q.todo ≠ [] ∨ q.waiting ≠ 0) := by decide

theorem test_tmCopy : (after (.tmCopy 0) { dev := fill (tensorAt core0 copyBytes) [] [(sramCell 0 0x100, [1, 2, 3])] }).map (fun d => memRead d.mem (sramCell 0 0x200) 4)
    = some [1, 2, 3, 0] := by decide

theorem test_tmDone : (after (.tmDone 0) { dev := devAt { core0 with tm := [finished true] } 1 [] }).map (fun d => ((d.sem 0 0).value, (d.core 0).tm)) = some (5, []) := by decide

/-- SPOUT.RUN with its descriptor at scratchpad 0x1000. -/
def spoutBytes (ctl : Nat) : List Byte := word (leBytes 1 0x78 ++ leBytes 1 ctl ++ leBytes 2 0 ++ leBytes 4 0x1000)

/-- A descriptor of one 1 × 1 output row, one channel, BF16, writing the map at job virtual 0x10000. -/
def spoutDesc (rows : Nat) : List Byte :=
  leBytes 8 0 ++ leBytes 8 0x10000 ++ leBytes 8 0x100 ++ leBytes 8 0 ++ leBytes 4 2 ++ leBytes 4 2 ++ leBytes 4 2 ++ leBytes 4 2
    ++ leBytes 2 1 ++ leBytes 2 1 ++ leBytes 2 1 ++ leBytes 2 0 ++ leBytes 2 rows ++ leBytes 2 1 ++ leBytes 2 1 ++ leBytes 1 1 ++ leBytes 1 1 ++ leBytes 1 1 ++ leBytes 5 0
    ++ leBytes 1 4 ++ leBytes 1 0 ++ leBytes 24 0

/-- A running Spout command. -/
def spoutCmd0 (ctl rows : Nat) : SpoutCmd := { ident := 0, core := 0, slot := 0, logical := 0, command := 0, bytes := spoutBytes ctl, owner := 0xFF, started := true, desc := spoutDesc 1, rows := rows }

/-- Page 1 a hole, with a reservation for it; page 0 a hole too. -/
def spoutAt (x : Spout) (b : List Byte) : Dev :=
  let d := fill (pagedAt core0 1 b) [(0xC000, [3, 3, 0, 0, 0, 0, 0, 0, 0xFF, 0xFF, 0xFF, 0xFF, 0xFF, 0xFF]), (0xC010, [3, 3, 0, 0, 0, 0, 0, 0, 0xFF, 0xFF, 0xFF, 0xFF, 0xFF, 0xFF])]
    [(sramCell 0 0x1000, spoutDesc 1)]
  { d with spouts := [(0, x)], trn := { d.trn with slots := [(0, { phase := .running, stock := [18] })] } }

theorem witness_SpoutEnginesRunTheirQueue :
    onDevice { spoutAt {} (spoutBytes 0) with spouts := [] } (spoutBytes 0) (fun d c => !natBit (c.u 1 1) 0 && !natBit (c.u 1 1) 1 && d.spout 0 == {} && !coreBusy (d.core 0)
      && okP (spoutStart (unwait d 0) { ident := d.tmNext, core := 0, slot := 0, logical := 0, command := 0, bytes := c.b, owner := 0 })) = true
    ∧ standsWith busyCore 1 (spoutBytes 0) (fun d _ => coreBusy (d.core 0)) = true
    ∧ onDevice (spoutAt { run := some (spoutCmd0 0 0) } (spoutBytes 0)) (spoutBytes 0) (fun d _ => (d.spout 0).run.isSome && (d.spout 0).queue.isEmpty) = true
    ∧ (let d := spoutAt { run := some (spoutCmd0 0 0) } []
       asleep d = false ∧ 0 < spoutLeft (spoutCmd0 0 0) ∧ okP (spoutRow d (spoutCmd0 0 0)) = true ∧ (d.spout 0).queue = [])
    ∧ (∀ rows ∈ [1, 3], let q := { spoutCmd0 0 1 with desc := spoutDesc rows }
       let d := spoutAt { run := some q, queue := [{ spoutCmd0 0 0 with slot := 1, started := false }] } []
       let d := { d with jobs := (1, { live := true }) :: d.jobs }
       liveWaits d 0 q = true ∧ q.started = true ∧ spoutLeft q = rows - 1)
    ∧ (∀ ctl ∈ [0, 1], let d := spoutAt { run := some (spoutCmd0 ctl 1) } []
       spoutLeft (spoutCmd0 ctl 1) = 0 ∧ (d.spout 0).queue = [] ∧ (d.spout 0).suspended = none ∧ natBit (fieldLe (spoutCmd0 ctl 1).bytes 1 1) 0 = (ctl == 1)) := by decide

/-- CSC.RUN (ALL_REDUCE of BF16 on ring 0) or CSC.PASS. -/
def cscBytes (op : Nat) : List Byte := word ([BitVec.ofNat 8 op, 0, 0, 0] ++ leBytes 2 0 ++ leBytes 2 1 ++ leBytes 12 0 ++ leBytes 2 (if op = 0x7D then 1 else 0))

/-- A PASS in progress on ring 0. -/
def pass0 (signal : Bool) : CscCmd := { core := 0, slot := 0, logical := 0, command := 0, group := 0, ring := 0, seq := 1, pass := true, op := 0, fmt := 0, redop := 0, narrow := false, bytes := 16, src := List.replicate 16 0, dst := [[{ place := .cells (sramCell 0 0x200), n := 16 }]], expected := 16, signal := signal, semCore := 0xFF, semIndex := 0, semAdd := 1 }

/-- Tensors, ring 0 and the given commands in progress. -/
def cscAt (x : CoreSt) (cs : List CscCmd) (b : List Byte) : Dev := let d := tensorAt x b
  { d with klz := { d.klz with cascade := cs } }

/-- A packet of device 1 for this device. -/
def packet (type : Byte) (payload : List Byte) : Packet :=
  { type := type, flags := 0, dest := 0, src := 1, tag := 0, hops := 0, status := 0, slotGroup := 0, ring := 0, address := 0, bytes := 0, payload := payload }

theorem witness_CascadeCommandsRunOverTheirRings :
    (∀ op ∈ [0x7C, 0x7D], ∀ cs ∈ [[], List.replicate 4 (pass0 false)], onDevice (cscAt core0 cs (cscBytes op)) (cscBytes op) (fun d c => !coreBusy (d.core 0)
      && okP (cscPlan (unwait d 0) c) (fun p => (cscDeadPort (unwait d 0) c p).isNone && okP (cscSides (unwait d 0) c p) (fun r => r.1.klz.early.isEmpty
        && (!cs.isEmpty || r.1.klz.cascade.all (fun y => !y.same (cscNew r.1 c p r.2.1 r.2.2)))))) = true)
    ∧ (∀ op ∈ [0x7C, 0x7D], standsWith busyCore 1 (cscBytes op) (fun d _ => coreBusy (d.core 0)) = true)
    ∧ (∀ t ∈ [tyCscData, tyCscReady],
       let p := { packet t (if t = tyCscData then List.replicate 16 7 else []) with address := 1, bytes := 16, tag := (pass0 false).tag }
       let d := cscAt core0 [pass0 false] []
       asleep d = false ∧ (d.port 0).state = .active ∧ d.str.inForce.isSome = true ∧ intact p = true ∧ p.slotGroup.toNat < 16 ∧ serves d 0 = true
         ∧ cscFrom d p.slotGroup.toNat p.ring.toNat 0 (p.type == tyCscReady) = true
         ∧ d.klz.cascade.find? (fun c => c.group == p.slotGroup.toNat && c.ring == p.ring.toNat && c.seq == natBits p.address.toNat 15 0) = some (pass0 false)
         ∧ p.bytes.toNat = (pass0 false).bytes ∧ p.tag = (pass0 false).tag ∧ p.flags.getLsbD 1 = false)
    ∧ (∀ sg ∈ [false, true], let c := { pass0 sg with got := 16, sent := true }
       cscComplete (cscAt core0 [c] []) c = true ∧ (∀ r ∈ c.dst.flatten, isRemote r.place = false) ∧ okP (farSend (cscAt core0 [] []) c) = true) := by decide

theorem test_cscData : (after (.cscDataReceive 0 { packet tyCscData [1, 2, 3, 4, 0, 0, 0, 0, 0, 0, 0, 0, 0, 0, 0, 5] with address := 1, bytes := 16, tag := (pass0 false).tag }) { dev := cscAt core0 [pass0 false] [] }).map
    (fun d => (memRead d.mem (sramCell 0 0x200) 4, d.klz.cascade.map (·.got))) = some ([1, 2, 3, 4], [16]) := by decide

/-! ## Clepsydra and Koliz -/

/-- A running device with a clock. -/
def clockAt (c : Clp) : Dev := { sys := { state := .ready }, clp := c }

/-- A clock with a flip of a domain turn decided. -/
def decidedAt (c : Clp) : Dev := { clockAt c with trn := { slots := [(0, { phase := .decided })] } }

theorem witness_ClepsydraFollowsItsSource :
    (clockAt {}).clp.source ≠ 1
    ∧ (∀ m ∈ [0, 1], let d := clockAt { source := 1, missing := m }; asleep d = false ∧ d.sys.tripped = false ∧ d.clp.source = 1)
    ∧ (∀ arm ∈ [none, some (5 : Int)], ∀ e ∈ [(0, 20, 1000), (20, 20, 1000), (21, 1000, 1000), (1006, 1000, 1000)],
        let d := clockAt { source := 1, now := BitVec.ofNat 64 e.1, pendingArm := arm, arm := arm.isSome }
        withinNs d (pulseError d * 0x100000000) e.2.1 = true ∧ (e.1 = 21 → withinNs d (pulseError d * 0x100000000) 20 = false) ∧ (d.clp.arm = false ∨ d.clp.pendingArm.isSome = true))
    ∧ (∀ arm ∈ [none, some (5 : Int)], ∀ n ∈ [1007, 10000], ∀ al ∈ [false, true],
        let d := clockAt { source := 1, now := BitVec.ofNat 64 n, pendingArm := arm, arm := arm.isSome, allowStep := al }
        withinNs d (pulseError d * 0x100000000) 1000 = false ∧ flipPending d = false)
    ∧ (let d := decidedAt { source := 1, now := 10000 }; asleep d = false ∧ withinNs d (pulseError d * 0x100000000) 1000 = false ∧ flipPending d = true)
    ∧ (∀ s ∈ [0, 1], ∀ al ∈ [false, true], let d := clockAt { source := s, arm := true, allowStep := al }; d.clp.pendingArm = none ∧ flipPending d = false)
    ∧ (∀ s ∈ [0, 1], let d := decidedAt { source := s, arm := true }; asleep d = false ∧ d.clp.pendingArm = none ∧ flipPending d = true)
    ∧ (∀ k ∈ [none, some (5 : Int)], ∀ j ∈ [none, some (7 : Int)], ∀ al ∈ [false, true],
        let d := clockAt { pendingStep := k, pendingArm := j, allowStep := al }; asleep d = false ∧ flipPending d = false)
    ∧ (let d := clockAt { source := 2, elapsed := 5000000 }; d.clp.exchangeAt + nsUnits d 4000000 ≤ d.clp.elapsed) := by decide

/-- The third good pulse in a row locks. -/
theorem test_pulse_locks : (after .timeFramePulse { dev := clockAt { source := 1, good := 2 } }).map (fun d => d.clp.locked) = some true := by decide

/-- An ARM step that waits for a flip is made after it, whatever the pulses between measure (spec/04_clepsydra_and_scheduling.md R90). -/
theorem test_armStep_kept : (after .timeFramePulse { dev := clockAt { source := 1, now := 10000, arm := true, pendingArm := some 5, setFrame := 3 } }).map
    (fun d => (d.clp.arm, d.clp.pendingArm)) = some (true, some 5) := by decide

theorem test_clpArm : (after .clpArm { dev := clockAt { setFrame := 3, now := 99 } }).map (fun d => (d.clp.now, d.clp.stepped)) = some (0x3000000, true) := by decide

/-- A running device of number 0 whose port 0 leads to device 1. -/
def klzAt (x : Port) : Dev := { sys := { state := .running }, str := { inForce := some str0, bind := [(0, 0)] }, klz := { ports := [(0, x)] } }

/-- A port towards device 1. -/
def port1 : Port := { state := .active, neighbour := 1 }

/-- `Reaches` as a test. -/
def reachesB (d : Dev) (port : Nat) (p : Packet) : Bool :=
  decide (port < 16) && carries (d.port port).state p && linkUp (d.port port).state && intact p
    && (hopType p.type || (d.str.inForce.isSome && p.dest.toNat == d.ownDevice)) && (d.str.inForce.isSome || !isRequest p)

theorem reaches_of {d : Dev} {port : Nat} {p : Packet} (h : reachesB d port p = true) : Reaches d port p := by
  simp only [reachesB, Bool.and_eq_true, Bool.or_eq_true, decide_eq_true_eq, beq_iff_eq, Bool.not_eq_true'] at h
  obtain ⟨⟨⟨⟨⟨h1, h2⟩, h3⟩, h4⟩, h5⟩, h6⟩ := h
  exact ⟨h1, ⟨h2, h3⟩, h4, h5, h6⟩

/-- A TIME_RESP 32 bits of phase fraction aside. -/
def timeResp (flags : Nat) (t : Nat) : Packet := packet tyTimeResp (leBytes 12 t ++ leBytes 12 t ++ leBytes 1 flags ++ leBytes 7 0)

/-- A fabric clock with a request out. -/
def askedAt (n : BitVec 12) : Dev :=
  let d := klzAt { port1 with neighbour := n }
  { d with clp := { source := 2, master := 1, reqT1 := some (0, 0) }, klz := { d.klz with timeTag := some 0 } }

theorem witness_TimeGoesOverTheFabric :
    (∀ st ∈ [PortState.active, .up, .mismatch], let d := { klzAt { port1 with state := st } with clp := { source := 2, master := 1 } }
       asleep d = false ∧ d.sys.tripped = false ∧ upstream d = some 0 ∧ reachesB d 0 (packet tyTimeReq []) = true)
    ∧ (let d := { klzAt { port1 with state := .tooFar } with clp := { source := 2, master := 1 } }; upstream d = some 0)
    ∧ (let d := { klzAt port1 with clp := { source := 2, master := 2 } }; d.route d.clp.master.toNat = 0xFF)
    ∧ (klzAt port1).clp.source ≠ 2 ∧ reachesB (klzAt port1) 0 (packet tyTimeReq []) = true
    ∧ (∀ e ∈ [((2 : BitVec 12), 0, 0), (1, 0, 0), (1, 0, 2 ^ 50), (2, 1, 0)], let d := askedAt e.1; let p := timeResp e.2.1 e.2.2
       reachesB d 0 p = true ∧ p.type = tyTimeResp ∧ d.clp.reqT1 = some (0, 0) ∧ d.klz.timeTag = some p.tag ∧ upstream d = some 0 ∧ d.clp.source = 2)
    ∧ (∀ e ∈ [(10, true, true), (11, false, true), (1006, false, true), (1007, false, false)],
        let v := (timeExchange 0 (e.1 * 2 ^ 32) (e.1 * 2 ^ 32) 0).2
        withinNs (askedAt 1) v 10 = e.2.1 ∧ withinNs (askedAt 1) v 1000 = e.2.2) := by decide

theorem witness_LinksAreLostAndHeld :
    (let d := klzAt port1; asleep d = false ∧ linkUp (d.port 0).state = true ∧ (∀ g, g < 16 → (d.grp g).valid = false) ∧ d.klz.cascade = [])
    ∧ ((klzAt { port1 with replaying := true }).port 0).replaying = true ∧ linkUp ((klzAt {}).port 0).state = false
    ∧ ((klzAt port1).port 0).replaying = false ∧ ((klzAt port1).port 0).dropping = false
    ∧ ((klzAt { started := true }).port 0).state = .idle ∧ ((klzAt { started := true }).port 0).started = true
    ∧ linkUp ((klzAt { state := .detect }).port 0).state = false ∧ ((klzAt { state := .detect }).port 0).state ≠ .idle
    ∧ (let d := cscAt core0 [pass0 false] []; (d.port 0).state = .active ∧ d.klz.cascade.any (fun c => (cscPorts (d.grp c.group) c.ring).contains 0 && !d.flt.faulted.contains c.slot) = true) := by decide

theorem test_laneLoss : (after (.laneSignalLoss 0) { dev := klzAt port1 }).map (fun d => ((d.port 0).state, (d.port 0).losses, (d.port 0).neighbour)) = some (.backoff, 1, 0) := by decide

/-- An IDENT of a device with a cadence. -/
def ident (dev num : Nat) : Packet := packet tyIdent (leBytes 2 dev ++ leBytes 2 0 ++ leBytes 4 num ++ leBytes 4 1 ++ leBytes 4 0)

theorem witness_PortsTrainAndIdentify :
    (∀ st ∈ [PortState.detect, .backoff, .train], asleep (klzAt { state := st }) = false ∧ ((klzAt { state := st }).port 0).state = st)
    ∧ (klzAt {}).sys.tripped = false ∧ (2000 < 2001 ∧ 2000 ≤ 2000)
    ∧ (∀ e ∈ [(1, 60), (1, 50), (0, 60)], reachesB (klzAt { state := .up }) 0 (ident e.1 e.2) = true)
    ∧ reachesB { klzAt { state := .up } with str := {} } 0 (ident 1 60) = true
    ∧ (let d := { klzAt { state := .train } with sys := { state := .ready, refclkAAbsent := true } }; asleep d = false ∧ (d.port 0).state = .train ∧ d.sys.refclkAAbsent = true ∧ d.sys.refclkBAbsent = false) := by decide

/-- Without REFCLK_A a port of die A does not train, and one of die B does (spec/18_power_and_package.md R490). -/
theorem test_train_without_refclk : (let d := { klzAt {} with sys := { state := .ready, refclkAAbsent := true }, klz := { ports := [(3, { state := .train }), (9, { state := .train })] } }
    ([3, 9].map (fun n => (after (.portTrainDone n true 100) { dev := d }).map (fun e => (e.port n).state)))) = [some .train, some .up] := by decide

theorem test_identReceive : (after (.identReceive 0 (ident 1 60)) { dev := klzAt { state := .up } }).map (fun d => ((d.port 0).state, (d.port 0).neighbour)) = some (.active, 1)
    ∧ (after (.identReceive 0 (ident 1 50)) { dev := klzAt { state := .up } }).map (fun d => ((d.port 0).state, (d.port 0).reason)) = some (.mismatch, 0x68) := by decide

theorem test_trainDone : (after (.portTrainDone 3 true 2001) { dev := { klzAt {} with klz := { ports := [(3, { state := .train })] } } }).map (fun d => ((d.port 3).state, (d.port 3).reason))
    = some (.tooFar, 0x62) := by decide

/-- ECHO to a device. -/
def echoAt (dev : BitVec 12) (x : Port) : Dev := let d := klzAt x
  { d with klz := { d.klz with echoDevice := dev, echoTag := some 0 } }

theorem witness_PacketsLeaveAndEchoesReturn :
    (echoAt 0 port1).klz.echoDevice.toNat = (echoAt 0 port1).ownDevice ∧ routePort (echoAt 2 port1) 2 = none ∧ routePort (echoAt 1 port1) 1 = some 0
    ∧ (∀ k ∈ [255, 256], let x : Port := { port1 with used := [(6, k)] }; let q := { newPacket (echoAt 1 x) tyEcho 1 [] with tag := 0, flags := 0 }
        x.waiting = [] ∧ x.sent.length < 1024 ∧ (tabGet 0 x.used (creditKey q) + 1 ≤ 256) = (k = 255))
    ∧ reachesB (klzAt port1) 0 (packet tyEcho []) = true ∧ routePort (klzAt port1) 1 = some 0
    ∧ intact (packet tyEchoResp []) = true ∧ (echoAt 1 port1).klz.echoTag = some 0 ∧ (klzAt port1).klz.echoTag = none
    ∧ (∀ h ∈ [(64 : Byte), 63], let p := { packet tyRead [] with dest := 1, hops := h }; carries .active p = true ∧ hopType p.type = false ∧ p.dest.toNat ≠ (klzAt port1).ownDevice ∧ routePort (klzAt port1) 1 = some 0)
    ∧ (let p := { packet tyRead [] with dest := 2 }; routePort (klzAt port1) 2 = none ∧ isRequest p = true ∧ routePort (klzAt port1) p.src.toNat = some 0) := by decide

/-- An ECHO leaves as one flit of 256 bytes that our own receiver takes (spec/13_koliz_fabric.md R323, R338). -/
theorem test_echo_flit : (after .klzEchoGo { dev := echoAt 1 port1 }).map (fun d => (d.port 0).lanes.map (fun b => (b.length, flitOk ⟨b⟩, (splitPackets 9 (sliceBytes b 0x0A 242)).1.map (·.type))))
    = some [(256, true, [tyEcho])] := by decide

theorem test_forward : (after (.klzForward 0 { packet tyEcho [] with dest := 1, hops := 63 }) { dev := klzAt port1 }).map (fun d => (d.port 0).line)
    = some [.packet { packet tyEcho [] with dest := 1, hops := 64 }] := by decide

/-- A flit with its CRC. -/
def flit (first : List Byte) (slots : List Byte) : Flit :=
  let b := first ++ List.replicate (10 - first.length) 0 ++ slots ++ List.replicate (242 - slots.length) 0
  ⟨b ++ leBytes 4 (crc32c b)⟩

/-- A READ packet of 32 bytes as it stands in slots. -/
def readSlots (type : Byte) : List Byte :=
  let h : List Byte := [type, 0, 0, 0, 0, 0, 1, 0] ++ List.replicate 20 0
  h ++ leBytes 4 (crc32c (h.take 1 ++ [0] ++ sliceBytes h 2 10 ++ [0] ++ sliceBytes h 0x0D 15))

theorem test_flit_refused : (after (.flitReceive 0 ⟨[]⟩) { dev := klzAt port1 }).map (fun d => ((d.port 0).dropping, (d.port 0).line)) = some (true, [.nak 0xFFFF]) := by decide

theorem witness_FlitsAreTakenInOrder :
    (let d := klzAt port1; asleep d = false ∧ linkUp (d.port 0).state = true ∧ flitOk ⟨[]⟩ = false ∧ (d.port 0).dropping = false)
    ∧ ((klzAt { port1 with dropping := true }).port 0).dropping = true
    ∧ (∀ fl ∈ [0, 1, 2], let f := flit [0, BitVec.ofNat 8 fl] []; flitOk f = true ∧ flitU f 0 1 = 0 ∧ natBits (flitU f 1 1) 1 0 = fl ∧ ((klzAt port1).port 0).waiting = [])
    ∧ (let f := flit [1, 0, 1] []; flitOk f = true ∧ flitU f 0 1 = 1 ∧ BitVec.ofNat 16 (flitU f 2 2) ≠ ((klzAt port1).port 0).rxSeq)
    ∧ (let f := flit [1, 0, 0, 0, 0, 0, 0, 0, 0xFF, 0xFF] []; flitOk f = true ∧ flitU f 0 1 = 1 ∧ BitVec.ofNat 16 (flitU f 2 2) = ((klzAt port1).port 0).rxSeq ∧ flitU f 8 2 = 0xFFFF ∧ (splitPackets 9 []).1 = [])
    ∧ (∀ t ∈ [tyRead, tyWrite, tyViewRead, tyViewWrite, tyCscData, tyCscReady, tyIdent, tyEcho], let f := flit [1] (readSlots t)
       flitU f 0 1 = 1 ∧ ((splitPackets 9 (sliceBytes f.bytes 0x0A 242)).1.map (·.type)) = [t])
    ∧ (∀ k ∈ [1, 2], let f := flit [1] (packetBytes (packet tyFence (leBytes 1 k ++ leBytes 31 0)))
       flitU f 0 1 = 1 ∧ ((splitPackets 9 (sliceBytes f.bytes 0x0A 242)).1.map (fun p => (p.type, fieldLe p.payload 0 1))) = [(tyFence, k)]) := by decide

/-! ## Requests from other devices, and responses -/

/-- The running device that serves device 1: page tables at 0 with a PLAIN page 0 of 64 KiB for SRAM, and a job. -/
def servedAt : Dev :=
  let d := { klzAt port1 with jobs := [(0, { state := .running, image := some (prog0 1) })] }
  fill d [(0, leBytes 8 1 ++ leBytes 8 0x4000), (0x4000, leBytes 8 1 ++ leBytes 8 0x8000), (0x8000, leBytes 8 1 ++ leBytes 8 0xC000), (0xC000, [2, 3] ++ leBytes 6 0 ++ leBytes 8 0x1000000000000)] []

/-- A request of 16 bytes at an address. -/
def request (t : Byte) (a : Nat) (n : Nat) (payload : List Byte) : Packet := { packet t payload with address := BitVec.ofNat 64 a, bytes := BitVec.ofNat 32 n }

/-- The answer is a place, or a refusal. -/
def placed {ε : Type} (a : Except ε Place) : Option Bool :=
  match a with
  | .ok _ => some true
  | .error _ => some false

theorem witness_RemoteRequestsAreServed :
    (let d := servedAt; asleep d = false ∧ routePort d 1 = some 0)
    ∧ (∀ t ∈ [tyRead, tyWrite, tyViewRead, tyViewWrite], reachesB servedAt 0 (request t 0 16 (if t = tyWrite ∨ t = tyViewWrite then List.replicate 16 7 else [])) = true)
    ∧ (∀ wr ∈ [false, true], placed (outsidePlace servedAt wr 0 0x100000 16) = some true ∧ placed (outsidePlace servedAt wr 1 (2 ^ 26) 16) = some false
        ∧ placed (viewPlace servedAt wr 0 0 16) = some true ∧ placed (viewPlace servedAt wr 1 0 16) = some false)
    ∧ requestShape 0 0x100000 16 = true ∧ requestShape 0 0x100000 17 = false ∧ requestShape 3 0 4 = true ∧ requestShape 1 0 16 = true
    ∧ sramRebinding servedAt 0 0x100000 = false ∧ sramRebinding { servedAt with str := { servedAt.str with rebinds := [(0, some ⟨1, 0⟩)] } } 1 0 = true
    ∧ (∀ e ∈ [0, 0x1900000], routePort (regRead {} (received servedAt (request tyRead 0 4 [])) (.remote 1) e).1 1 = some 0
        ∧ ((regRead {} (received servedAt (request tyRead 0 4 [])) (.remote 1) e).2.error = 0) = (e = 0)) := by decide

/-- A WRITE of device 1 lands in HBM and is answered OK. -/
theorem test_klzWrite : (after (.klzWrite 0 (request tyWrite 0x100000 0 (List.replicate 16 7))) { dev := servedAt }).map
    (fun d => (d.hbmRead 0x100000 2, (d.port 0).line.map (fun o => match o with | .packet q => (q.type, q.status) | _ => (0, 0)))) = some ([7, 7], [(tyResponse, 0)]) := by decide

/-- A served read of poisoned memory is answered with status 3 and no data. -/
theorem test_klzRead_poison : (after (.klzRead 0 (request tyRead 0x100000 16 [])) { dev := { servedAt with poison := poisonMark [] (hbmCell servedAt 0x100000) 16 } }).map
    (fun d => (d.port 0).line.map (fun o => match o with | .packet q => (q.status, q.payload) | _ => (0, []))) = some [(3, [])] := by decide

/-- A device with a mover command of core 0 whose one request has no response. -/
def waitingAt (live : Bool) (dst : Option Place) : Dev :=
  let d := klzAt port1
  { d with klz := { d.klz with requests := [{ tag := 5, device := 1, bytes := 16, va := 0, origin := .mover 0 0 0 9 (if live then 3 else 4) dst }] }
           cores := [(0, { core0 with tm := [{ finished true with waiting := 1 }] })] }

theorem witness_ResponsesEndTheirRequests :
    (∀ st ∈ [(0 : Byte), 3, 5], let p := { packet tyResponse (List.replicate 16 7) with tag := 5, status := st }
       p.type = tyResponse ∧ intact p = true ∧ p.dest.toNat = (klzAt port1).ownDevice ∧ p.flags.getLsbD 1 = false)
    ∧ (klzAt port1).klz.requests.find? (fun r => r.tag == 5) = none
    ∧ (∀ dst ∈ [none, some (.cells (sramCell 0 0x200))], let d := waitingAt true dst
       asleep d = false ∧ moverLive d 0 0 3 = true ∧ (d.core 0).tm.all (fun t => t.todo.isEmpty) = true ∧ d.flt.stopActive = false
         ∧ queuedCount (d.core 0).ctx = 0 ∧ (d.tslot 0).aborting = none
         ∧ (d.klz.requests.find? (fun r => r.tag == 5)).map (·.origin) = some (.mover 0 0 0 9 3 dst))
    ∧ sramBase ≤ sramCell 0 0x200 ∧ moverLive (waitingAt false none) 0 0 4 = false := by decide

theorem test_response : (after (.klzResponse { packet tyResponse (List.replicate 16 7) with tag := 5 }) { dev := waitingAt true (some (.cells (sramCell 0 0x200))) }).map
    (fun d => (memRead d.mem (sramCell 0 0x200) 2, (d.core 0).tm.map (·.waiting), d.klz.requests)) = some ([7, 7], [0], []) := by decide

theorem test_requestLost : (after (.klzRequestLost 5) { dev := waitingAt true none }).map (fun d => ((d.job 0).reason, (d.job 0).detail, d.flt.stopActive)) = some (0xA4, 0x10063, true) := by decide

/-! ## Codec -/

/-- A stream descriptor: H.264, 64 × 64, encode or decode, BATCH or LIVE. -/
def codDesc (dec live : Bool) : List Byte :=
  leBytes 1 0 ++ leBytes 1 (bit dec) ++ leBytes 1 0 ++ leBytes 1 8 ++ leBytes 1 (bit live) ++ leBytes 1 1 ++ leBytes 2 0 ++ leBytes 2 64 ++ leBytes 2 64
    ++ leBytes 1 2 ++ leBytes 1 (if dec then 0 else 1) ++ leBytes 1 0 ++ leBytes 1 20 ++ leBytes 8 0 ++ leBytes 4 0 ++ leBytes 4 (if dec then 0 else 0x1000)
    ++ leBytes 8 0x400000 ++ leBytes 8 (if dec then 0 else 0x500000) ++ leBytes 4 (if dec then 0 else 0x100000) ++ leBytes 1 4 ++ leBytes 3 0 ++ leBytes 8 0x40000
    ++ leBytes 4 0 ++ leBytes 4 0x100 ++ leBytes 4 0x8000 ++ leBytes 4 0 ++ leBytes 8 0x200000 ++ leBytes 8 0

/-- Codec core 0 in both pools. -/
def codecStr : Structure := { str0 with codec := [(0, { pool := 3 })] }

/-- Stream 0 in a state, with its pictures. -/
def codAt (st : StreamState) (dec live : Bool) (pics : List Pic) (x : CoreSt) (b : List Byte) : Dev :=
  let d := pagedAt x 1 b
  { d with str := { d.str with inForce := some codecStr }
           cod := { streams := [(0, { state := st, desc := codDesc dec live, areas := [(0x400000, 0x20000)] })], pics := pics } }

/-- A picture of stream 0. -/
def pic0 (enc : Bool) (started : Bool) (runs : List Nat) : Pic :=
  { stream := 0, enc := enc, core := 0, slot := 0, logical := 0, command := 0, word := 1, src := 0, dst := 0, signal := false, semCore := 0xFF, semIndex := 0, semAdd := 0, keyAsked := false, live := false, deadline := 0, started := started, runs := runs, entry := if started then some 1 else none }

/-- COD.ENC or COD.DEC of stream 0. -/
def codBytes (op : Nat) : List Byte := word ([BitVec.ofNat 8 op, 0, 0, 0, 1, 0, 0, 0])

/-- Stream 0 in CHECKING, as `codAt` has it for encoding. -/
def stream0 : Stream := { state := .checking, desc := codDesc false false, areas := [(0x400000, 0x20000)] }

theorem stream0_at (pics : List Pic) (x : CoreSt) (b : List Byte) : (codAt .checking false false pics x b).stream 0 = stream0 := rfl

theorem witness_streamCheck : streamCheck (codAt .checking false false [] core0 []) 0 = none ∧ streamCheck { codAt .checking false false [] core0 [] with str := {} } 0 = some 0x72 := by
  constructor
  · simp only [streamCheck, stream0_at]; decide
  · rfl

/-- A closed stream whose descriptor lies at `a`. -/
def closedAt (a : BitVec 48) : Dev := { klzAt port1 with cod := { streams := [(0, { descAddr := a })] } }

theorem witness_CodecStreamsOpenAndTakePictures :
    (let d := closedAt 0x3000; asleep d = false ∧ (d.stream 0).state = .closed ∧ hbmOk d 0x3000 = true ∧ 0x3000 % 2 ^ 40 + 96 ≤ hbmEnd d ∧ 0x3000 % 64 = 0 ∧ natBit 0x3000 47 = false
      ∧ (meetHbm d 0x3000 96).hbmPoisoned 0x3000 96 = false)
    ∧ (let d := { closedAt 0x3000 with poison := poisonMark [] (hbmCell (closedAt 0x3000) 0x3000) 96 }; (meetHbm d 0x3000 96).hbmPoisoned 0x3000 96 = true)
    ∧ ((closedAt 0x3004).stream 0).descAddr.toNat % 64 ≠ 0
    ∧ (∀ st ∈ [StreamState.refused, .opened, .checking], ((codAt st false false [] core0 []).stream 0).state = st)
    ∧ streamPics (codAt .opened false false [] core0 []) 0 = []
    ∧ (∀ n ∈ [0, 16], ((streamPics (codAt .opened false false (List.replicate n (pic0 true false [])) core0 []) 0).filter (fun p => p.done.isNone)).length = n) := by decide

/-- Core 0 with `n` codec commands that wait for room. -/
def codWaiting (n : Nat) : CoreSt := { core0 with ctx := { codQueue := List.replicate n waiting0 } }

theorem witness_codecHandOver :
    (∀ op ∈ [0x79, 0x7A], ∀ n ∈ [0, 16], ∀ w ∈ [0, 1, 4], onDevice (codAt .opened (op = 0x7A) false (List.replicate n (pic0 true false [])) (codWaiting w) (codBytes op)) (codBytes op) (fun d c =>
        let x := d.stream 0
        !coreBusy (d.core 0) && (d.core 0).ctx.codQueue.length == w
        && x.state == .opened && x.u 7 1 == 0 && (x.u 1 1 == 0) == (op == 0x79) && c.zero 0x19 3 && c.zero 0x10 8 && natBits (c.u 1 1) 7 1 == 0 && decide (1 ≤ c.u 4 4) && !natBit (c.u 1 1) 0) = true)
    ∧ (∀ op ∈ [0x79, 0x7A], standsWith busyCore 1 (codBytes op) (fun d _ => coreBusy (d.core 0)) = true) := by decide

/-- A codec command of a stream whose queue is full waits, and the core goes on (spec/14_video_codec.md R379). -/
theorem test_codecWaits : (after (.codEnc 0) { dev := codAt .opened false false (List.replicate 16 (pic0 true false [])) core0 (codBytes 0x79) }).map
    (fun d => ((d.core 0).ctx.pc, (d.core 0).ctx.codQueue.length, d.cod.pics.length)) = some (1, 1, 16) := by decide

/-- `codAt` with pictures of 2 × 2. -/
def smallAt (dec : Bool) (pics : List Pic) : Dev :=
  let d := codAt .opened dec false pics core0 []
  { d with cod := { d.cod with streams := [(0, { state := .opened, desc := ((codDesc dec false).set 8 2).set 10 2 })] } }

/-- Codec cores 0 and 1 in one group, and stream 0 of SPLIT 2. -/
def splitAt (dec : Bool) (pics : List Pic) : Dev :=
  let d := smallAt dec pics
  { d with str := { d.str with inForce := some { codecStr with codec := [(0, { pool := 3, group := 0 }), (1, { pool := 3, group := 0 })] } }
           cod := { d.cod with streams := [(0, { state := .opened, desc := (((codDesc dec false).set 8 2).set 10 2).set 5 2 })] } }

theorem test_codKeyReq : (after (.codKeyReq 0) { dev := codAt .opened false false [] core0 [] }).map (fun d => (d.stream 0).keyPending) = some true := by decide

/-- Stream 0 has a BATCH picture that runs on codec core 0, and LIVE stream 1 has one that waits. -/
def busyCodec : Dev :=
  let d := codAt .opened false false [pic0 true true [0], { pic0 true false [] with stream := 1, live := true }] core0 []
  { d with cod := { d.cod with streams := d.cod.streams ++ [(1, { state := .opened, desc := codDesc false true })] } }

theorem witness_CodecCoresRunPictures :
    (let d := codAt .opened true false [] core0 []; asleep d = false ∧ d.flt.stopActive = false ∧ choosePic d 0 = none ∧ d.cod.pics.find? (fun p => p.runs.contains 0) = none)
    ∧ (let p := { pic0 true true [] with suspended := true }; choosePic (codAt .opened false false [p] core0 []) 0 = some p)
    ∧ (∀ dec ∈ [false, true], let p := pic0 (!dec) false []; let d := smallAt dec [p]
       choosePic d 0 = some p ∧ okP (readInput d p) = true ∧ (d.stream 0).u 5 1 = 1)
    ∧ (∀ dec ∈ [false, true], let p := pic0 (!dec) false []; let d := splitAt dec [p]
       choosePic d 0 = some p ∧ runsOn d (d.stream 0) 0 = some [0, 1] ∧ okP (readInput d p) = true ∧ (d.stream 0).u 5 1 = 2)
    ∧ (let d := busyCodec; (headPic d 1).any (fun q => q.live) = true ∧ (∀ i, i < 16 → runsOn d (d.stream 1) i = none) ∧ (d.stream 1).u 5 1 = 1 ∧ (codecRec d 0).pool = 3
        ∧ d.cod.pics.find? (fun p => p.runs.contains 0) = some (pic0 true true [0]))
    ∧ (let d := codAt .opened false false [pic0 true true [0]] core0 []; let x := streamNow d 0; 4096 ≤ x.u 0x1C 4 ∧ x.u 0x1C 4 ≤ x.u 0x30 4
        ∧ (∀ l ∈ jobCores d 0, (d.core (d.phys l)).ctx.codQueue = []))
    ∧ (pic0 false true [0]).lead ≤ (pic0 false true [0]).word := by decide

/-- A decode that writes no picture ends, whatever its bits hold. -/
theorem witness_decodeDone (d : Dev) : ∃ r, decodeDone d (pic0 false true [0]) = .ok r := by
  unfold decodeDone writePicture
  exact ⟨_, rfl⟩

theorem test_coreError : (after (.codCoreError 0) { dev := busyCodec }).map (fun d => (d.cod.failed, d.cod.pics.map (·.runs))) = some (1, [[], []]) := by decide

/-! ## Registers, mailboxes, I3C -/

/-- A device with the latches of host 0 at CLP_SET_FRAME. -/
def latchAt : Dev := { sys := { state := .ready }, readLatch := [(accCode (.host 0), some { pair := 0x400018, half := 9 })], writeLatch := [(accCode (.host 0), some { pair := 0x400018, half := 9 })] }

theorem witness_RegisterAccessesLatchAndClear :
    asleep latchAt = false ∧ (∀ a ∈ [Accessor.host 0, .mgt], a.wf = true)
    ∧ regAddrOk 0x1900000 = false ∧ writeDenied (.host 0) 0x1900000 = false ∧ writeDenied .mgt 0x100000 = true ∧ regAddrOk 0x2 = false
    ∧ isPairLo 0x400018 = true ∧ writeDenied (.host 0) 0x400018 = false ∧ regAddrOk (0x400018 + 4) = true
    ∧ tabGet none latchAt.readLatch (accCode (.host 0)) = some { pair := 0x400018, half := 9 } ∧ tabGet none latchAt.writeLatch (accCode (.host 0)) = some { pair := 0x400018, half := 9 }
    ∧ tabGet none latchAt.readLatch (accCode (.host 1)) = none := by decide

theorem test_pairHiWrite : (after (.pairHiWrite (.host 0) 0x40001C 0x12) { dev := latchAt }).map (fun d => d.clp.setFrame) = some 0x1200000009 := by decide

theorem test_rcRead : (after (.rcRead (.host 0) 0xD00040) { dev := { latchAt with eth := [(0, { frames := 7 })] } }).map (fun d => (d.bus.value, (d.ethp 0).frames)) = some (7, 0) := by decide

theorem witness_RegisterWritesKeepTheirFields : asleep latchAt = false ∧ Accessor.wf .svp = true ∧ Accessor.svp ≠ .mgt
    ∧ (latchAt.job 63).state = .idle ∧ ((klzAt port1).job 0).state = .idle ∧ (servedAt.job 0).state ≠ .idle := by decide

theorem test_registerWrite : (after (.registerWrite (.host 0) 0x600000 0x1) { dev := { latchAt with flt := { stopSeen := true, fenceSeen := true } } }).map (fun d => (d.flt.stopSeen, d.flt.fenceSeen))
    = some (false, true) := by decide

/-- Channel 8 from the controller to host 0, EMPTY or FULL, with an answer that waits. -/
def mbxAt (full : Bool) (answers : List (List Word)) : Dev :=
  { sys := { state := .ready }, mbx := [(0, { sender := 0, receiver := 10, full := full }), (8, { sender := 10, receiver := 0, full := full })], sec := { chans := [(0, { answers := answers })] } }

theorem witness_MailboxChannelsPassMessages :
    asleep (mbxAt true []) = false ∧ mbxIsSender ((mbxAt true []).mbxc 0) (.host 1) = false ∧ mbxIsSender ((mbxAt true []).mbxc 0) (.host 0) = true
    ∧ ((mbxAt true []).mbxc 0).full = true ∧ ((mbxAt false []).mbxc 0).full = false ∧ mbxIsReceiver ((mbxAt true []).mbxc 0) (.host 0) = false
    ∧ mbxIsReceiver ((mbxAt true []).mbxc 8) (.host 0) = true ∧ requestChannel 8 = some 0 ∧ ((mbxAt true []).schan 0).answers = []
    ∧ ((mbxAt true [[1]]).schan 0).answers = [[1]] ∧ mbxIsSender ((mbxAt true [[1]]).mbxc 8) .sec = true := by decide

theorem test_mbxRelease : (after (.mbxRelease (.host 0) 8) { dev := mbxAt true [[1]] }).map (fun d => ((d.mbxc 8).full, tabGet 0 (d.mbxc 8).msg 0)) = some (true, 1) := by decide

theorem test_mbxGo_full : (after (.mbxGo (.host 0) 0) { dev := mbxAt true [] }).map (fun d => ((d.mbxc 0).refusal, d.bus.error)) = some (0x90, 0x90) := by decide

/-- A device whose management interface answers. -/
def i3cAt (x : I3c) : Dev := { sys := { state := .ready }, clp := { elapsed := 100000000 }, i3c := x }

theorem witness_ManagementInterfaceTransfers :
    i3cAnswers (i3cAt {}) = true ∧ asleep (i3cAt {}) = false ∧ (i3cAt {}).i3c.dynamic = none ∧ i3cAnswers latchAt = false ∧ (i3cAt { dynamic := some 8 }).i3c.dynamic.isSome = true
    ∧ (i3cAt { nackNext := true }).i3c.nackNext = true ∧ (i3cAt {}).i3c.nackNext = false
    ∧ leNat ((leBytes 4 0xD00014 ++ leBytes 4 1).take 4) = 0xD00014 ∧ writeDenied .mgt (leNat ((leBytes 4 0x100000 ++ leBytes 4 1).take 4)) = true
    ∧ regAddrOk (i3cAt { offset := 4 }).i3c.offset = true ∧ mbxGuarded 4 = none ∧ isPairLo 4 = false ∧ isPairHi 4 = false := by decide

theorem test_i3cWrite : (after (.i3cPrivateWrite (leBytes 4 0xD00014 ++ leBytes 4 0xC0A80001)) { dev := i3cAt {} }).map (fun d => ((d.ethp 0).conf.ipv4, d.i3c.offset)) = some (0xC0A80001, 0xD00018) := by decide

/-! ## Structure loads and rebinding -/

/-- A READY device whose load is in a state. -/
def loadAt (st : LoadState) (n : Word) : Dev := { sys := { state := .ready }, str := { state := st, image := 0x1000, imageBytes := n, range := (0x1000, n.toNat) } }

/-- The image that puts `str0` in force. -/
def applyAt (num : Nat) (fenced : BitVec 144) : Dev := let d := loadAt .applying 0x250
  { d with str := { d.str with candidate := some { str0 with num := num } }, flt := { fenced := fenced } }

theorem witness_StructureLoadsPassTheirChecks :
    (∀ st ∈ [LoadState.verifying, .checking, .applying], asleep (loadAt st 0x250) = false ∧ loading (loadAt st 0x250) = true ∧ (loadAt st 0x250).str.state = st)
    ∧ (∀ st ∈ [LoadState.empty, .loaded, .refused], loading (loadAt st 0x250) = false ∧ quiescent (loadAt st 0x250) = true ∧ st ≠ .verifying ∧ st ≠ .checking ∧ st ≠ .applying)
    ∧ quiescent { loadAt .loaded 0x250 with jobs := [(63, { state := .refused })] } = false := by decide

theorem witness_structureApply : (∀ n f, (applyAt n f).str.state = .applying ∧ (applyAt n f).str.candidate = some { str0 with num := n } ∧ (applyAt n f).klz.cascade = []
    ∧ ({ str0 with num := n } : Structure).preloads = [] ∧ asleep (applyAt n f) = false ∧ tabWf {} (applyAt n f).cores = true) ∧ (applyAt 60 0).flt.fenced = 0
    ∧ anyAsked { applyAt 60 0 with str := { (applyAt 60 0).str with rebinds := [(0, some { target := 1, asked := true })] } } = true := ⟨fun _ _ => ⟨rfl, rfl, rfl, rfl, rfl, rfl⟩, rfl, rfl⟩

theorem witness_structureSpan : spanOk (loadAt .verifying 0x24F) 0x1000 0x24F 0x1000000 = false ∧ spanOk (loadAt .verifying 0x250) 0x1000 0x250 0x1000000 = true := by
  decide

/-- The magic is checked before any signature: an image of zeros is not verified. -/
theorem test_verifyStruct_zero : verifyStruct [] [] (List.replicate 0x250 0) = false ∧ rollbackOk 3 2 = false ∧ rollbackOk 3 3 = true := by
  constructor
  · rfl
  · decide

/-- An image of zeros fails its first check. -/
theorem test_checkStruct_zero : (after .strCheckDone { dev := loadAt .checking 0x250 }).map (fun d => (d.str.state, d.str.reason)) = some (.refused, 0x09) := by decide

/-- Core 0 bound to physical core 0, which may be fenced; physical core 1 is a spare of basin 0. -/
def spareAt (fenced : BitVec 144) (spare : Nat) : Dev :=
  { sys := { state := .structured }, str := { inForce := some str0, bind := [(0, 0)], spare := [(1, spare)] }, flt := { fenced := fenced } }

/-- A rebind of logical core 0 to physical core 1. -/
def reboundAt (asked : Bool) : Dev :=
  { sys := { state := .structured }, str := { inForce := some str0, bind := [(0, 1)], rebinds := [(0, some { target := 1, asked := asked })] }, flt := { fenced := 1 } }

/-- No job of basin 0 and no running device. -/
def idleB (d : Dev) (b : Nat) : Bool :=
  (d.basin b).holder.isNone && (d.basin b).leaving.isNone && (d.basin b).entering.isNone
    && (List.range 64).all (fun j => (d.job j).state == .idle && (d.job j).turn.isNone && (d.job j).waiting.isNone && !(d.job j).askReplay && !(d.job j).restart)
    && !(d.sys.state == .running)

theorem witness_FencedCoresAreRebound :
    (∀ sp ∈ [0xFF, 0], let d := spareAt 1 sp
       asleep d = false ∧ (d.coreRec 0).basin = 0 ∧ d.phys 0 = 0 ∧ d.fenced 0 = true ∧ tabGet none d.str.rebinds 0 = none ∧ d.fenced 1 = false ∧ d.logical 1 = 0xFF ∧ tabGet 0xFF d.str.spare 1 = sp)
    ∧ (spareAt 0 0).fenced 0 = false ∧ tabGet none (spareAt 0 0).str.rebinds 143 = none
    ∧ (∀ a ∈ [false, true], let d := reboundAt a; tabGet none d.str.rebinds 0 = some { target := 1, asked := a } ∧ idleB d (d.coreRec 0).basin = true ∧ preloadsOf d 0 = [] ∧ d.phys 0 = 1)
    ∧ (let d := spareAt 0 0; (d.flt.logWritten - d.flt.logConsumed).toNat < 64 ∧ d.str.state ≠ .applying ∧ d.logical 5 = 0xFF ∧ d.logical 0 = 0 ∧ d.phys 0 = 0 ∧ idleB d (d.coreRec 0).basin = true
         ∧ chooseSpare { d with flt := { d.flt with fenced := d.flt.fenced ||| (1#144 <<< 0) } } 0 = some 1)
    ∧ (let d := { spareAt 0 0 with str := { (spareAt 0 0).str with state := .applying } }
       asleep d = false ∧ d.fenced 0 = false ∧ d.str.state = .applying ∧ d.logical 0 = 0 ∧ d.phys 0 = 0) := by decide

/-- A device whose job 0 of basin 0 has no spare core. -/
def bareAt (j : Job) (ts : TrnSlot) : Dev :=
  { sys := { state := .running }, str := { inForce := some str0, bind := [(0, 0)] }, jobs := [(0, { j with image := some (prog0 1) })],
    sch := { basins := [(0, { holder := some 0 })] }, trn := { slots := [(0, ts)] }, cores := [(0, core0)] }

/-- What the clauses of a fault with no spare ask. -/
def bareB (d : Dev) : Bool :=
  !asleep d && !d.fenced 0 && d.logical 0 == 0 && !d.flt.stopActive && (d.basin (d.coreRec 0).basin).holder == some 0 && !(d.str.state == .applying)
    && (chooseSpare { d with flt := { d.flt with fenced := d.flt.fenced ||| (1#144 <<< 0) } } 0).isNone

theorem witness_faultWithoutSpare :
    (let d := bareAt { state := .running } {}; bareB d = true ∧ (d.job 0).turn = none)
    ∧ (∀ ph ∈ [Phase.staged, .decided, .folding, .running, .ending], ∀ dm ∈ [false, true],
       let t : Turn := { card := { turn := 0, notBefore := 0, deadline := 0, seqList := 0, params := 0, seqCount := 0, paramBytes := 0, kind := 0, flags := 0, reserved := false, user := 0 }, admitClp := 0, admitElapsed := 0, wcet := 0 }
       let d := bareAt { state := .running, turn := some t } { phase := ph, domain := dm }
       bareB d = true ∧ (d.job 0).turn = some t ∧ (d.tslot 0).phase = ph ∧ (d.tslot 0).domain = dm ∧ (d.tslot 0).aborting = none) := by decide

theorem test_strRebind : (after (.strRebind 0 1) { dev := spareAt 1 0 }).map (fun d => (d.phys 0, d.str.rebindGo, d.str.rebindRefused)) = some (1, true, false)
    ∧ (after (.strRebind 0 1) { dev := spareAt 0 0 }).map (fun d => (d.phys 0, d.str.rebindRefused, d.str.rebindReason)) = some (0, true, 0x04) := by decide

theorem test_coreHwFault : (after (.coreHwFault 0 .sram 7) { dev := spareAt 0 0 }).map (fun d => (d.flt.fenced, d.flt.fenceSeen, d.phys 0)) = some (1, true, 1)
    ∧ (after (.coreHwFault 0 .sram 7) { dev := { spareAt 0 0 with str := { (spareAt 0 0).str with state := .applying } } }).map (fun d => (d.flt.fenced, d.phys 0, d.str.rebinds)) = some (1, 0, []) := by decide

theorem test_faultWithoutSpare : (after (.coreHwFault 0 .sram 7) { dev := bareAt { state := .running } {} }).map (fun d => ((d.job 0).state, (d.basin 0).holder)) = some (.waitBind, none) := by decide

/-! ## Turns, groups and jobs -/

/-- A card of turn `n`. -/
def card0 (n : Dword) : Card := { turn := n, notBefore := 0, deadline := 0, seqList := 0, params := 0, seqCount := 0, paramBytes := 0, kind := 0, flags := 0, reserved := false, user := 0 }

/-- The open turn of card 0. -/
def turn0 : Turn := { card := card0 0, admitClp := 0, admitElapsed := 0, wcet := 0 }

/-- A running device: job 0 in a state with a turn, and slot 0 of TRN. -/
def turnAt (j : Job) (ts : TrnSlot) : Dev :=
  { sys := { state := .running }, str := { inForce := some str0, bind := [(0, 0)] }, jobs := [(0, { j with image := some (prog0 1) })],
    sch := { basins := [(0, { holder := some 0 })] }, trn := { slots := [(0, ts)] }, cores := [(0, { core0 with ctx := { wait := .ended } })] }

/-- A COMMIT of page 0 whose leaf is at 0xC000. -/
def move0 : Move := { kind := .share, old := 16, new := 17, leaf := 0xC000 }

theorem witness_turnFlush : (turnAt { turn := some turn0 } {}).job 0 = { turn := some turn0, image := some (prog0 1) } ∧ ((turnAt {} {}).job 0).turn = none := ⟨rfl, rfl⟩

theorem witness_TurnsStageFlipAndFold :
    (∀ ms ∈ [[], [move0]], let d := turnAt { turn := some turn0 } { phase := .ending, moves := ms }
       asleep d = false ∧ (d.tslot 0).phase = .ending ∧ turnDrained d 0 = true ∧ turnHeld d 0 = false ∧ d.flt.stopActive = false ∧ (d.tslot 0).domain = false ∧ (d.tslot 0).moves = ms)
    ∧ turnDrained { turnAt {} { phase := .ending } with cores := [(0, core0)] } 0 = false
    ∧ turnHeld (turnAt { turn := some turn0, state := .waitBind } { phase := .ending }) 0 = true := by decide

theorem witness_turnFlips :
    (let d := turnAt { turn := some turn0 } { phase := .staged }; (d.tslot 0).phase = .staged ∧ (d.tslot 0).domain = false ∧ d.clp.now.toNat % 4096 = 0 ∧ d.flt.stopActive = false)
    ∧ (∀ now ∈ [0, 1], let d := { turnAt { turn := some turn0 } { phase := .decided, decided := some 1 } with clp := { now := BitVec.ofNat 64 now } }
       (d.tslot 0).phase = .decided ∧ (d.tslot 0).decided = some 1 ∧ (1 ≤ d.clp.now) = (now = 1))
    ∧ (let d := { turnAt { turn := some turn0 } { phase := .staged } with clp := { now := 1 } }; (d.tslot 0).phase = .staged ∧ d.clp.now.toNat % 4096 ≠ 0) := by decide

theorem witness_turnFolds : (let d := { turnAt { turn := some turn0 } { phase := .folding } with flt := { stopActive := true } }
    (d.job 0).turn = some turn0 ∧ (d.tslot 0).phase = .folding ∧ d.trn.foldPending = false ∧ d.flt.stopActive = true ∧ d.cod.pics = [] ∧ (d.tslot 0).moves = []
      ∧ (d.tslot 0).stock = [] ∧ (d.tslot 0).shadows = [] ∧ (∀ k, k < 32 → (d.stream k).state ≠ .closing))
    ∧ (let d := { turnAt { turn := some turn0 } { phase := .folding } with trn := { slots := [(0, { phase := .folding })], foldPending := true } }; asleep d = false ∧ d.trn.foldPending = true) := by decide

/-- A late flip of a decided turn commits at the Clepsydra of the flip. -/
theorem test_flip_late : (after (.commitFlip 0) { dev := { turnAt { turn := some turn0 } { phase := .decided, decided := some 4096 } with clp := { now := 5000 } } }).map
    (fun d => ((d.tslot 0).phase, (d.tslot 0).lastSlot)) = some (.folding, 5000) := by decide

/-- A mover command that waits for one answer. -/
def tmWaiting : TmCmd := { ident := 0, todo := [], command := 0, semCore := 0, semIndex := 0, semAdd := 0, signal := false, bulk := false, waiting := 1 }

/-- A flip ends the turn's epoch: the epoch rises and the turn is committed. -/
theorem test_flip : (after (.commitFlip 0) { dev := turnAt { turn := some turn0 } { phase := .staged, epoch := 4 } }).map
    (fun d => ((d.tslot 0).epoch, (d.tslot 0).phase, (d.tslot 0).lastCommitted)) = some (5, .folding, 0) := by decide

/-- A flip off a commit slot waits. -/
theorem test_flip_off_slot : (after (.commitFlip 0) { dev := { turnAt { turn := some turn0 } { phase := .staged } with clp := { now := 1 } } }).map (fun d => (d.tslot 0).phase) = some .staged := by decide

/-- Group 0 of slot 0 beside ports 0 and 1, at a time. -/
def groupAt (g : Grp) (j : Job) (ts : TrnSlot) (now : Dword) : Dev := let d := turnAt j ts
  { d with clp := { now := now, elapsed := 0x20000000 }, klz := { ports := [(0, port1), (1, { port1 with neighbour := 2 })], groups := [(0, { g with valid := true })] } }

/-- A FENCE packet of group 0. -/
def fence (k : FenceKind) (turn slot : Dword) : Packet := { packet tyFence (fencePayload k 0x60 3 turn slot) with slotGroup := 0 }

/-- The packet comes for group 0 with its KIND. -/
def comesB (d : Dev) (p : Packet) (k : Nat) : Bool := !asleep d && reachesB d 0 p && p.type == tyFence && p.slotGroup.toNat == 0 && serves d 0 && fieldLe p.payload 0 1 == k

/-- A root with a child at port 0, a member under port 0, and a member between ports 0 and 1. -/
def rootGrp : Grp := { root := true, children := 1 }
def leafGrp : Grp := { parentValid := true, parent := 0 }
def midGrp : Grp := { parentValid := true, parent := 1, children := 1 }

theorem witness_groupArrive :
    (∀ g ∈ [rootGrp, midGrp], let d := groupAt { g with barrier := .waiting } {} {} 0; let p := fence .arrive 0 0
       comesB d p 1 = true ∧ fromChild (d.grp 0) 0 = true ∧ (parseFence p.payload).turn = grpTurn d 0 ∧ (d.grp 0).turn = grpTurn d 0 ∧ (d.grp 0).barrier = .waiting ∧ (d.grp 0).own = false)
    ∧ (let d := groupAt { rootGrp with barrier := .waiting, own := true } { turn := some turn0 } { phase := .staged } 0; let p := fence .arrive 0 0
       comesB d p 1 = true ∧ fromChild (d.grp 0) 0 = true ∧ (parseFence p.payload).turn = grpTurn d 0 ∧ (d.grp 0).turn = grpTurn d 0 ∧ (d.grp 0).barrier = .waiting ∧ (d.grp 0).own = true
         ∧ (d.grp 0).root = true ∧ (((d.grp 0).arrived ||| (1#16 <<< 0)) &&& (d.grp 0).children) = (d.grp 0).children ∧ (d.tslot 0).phase = .staged ∧ (d.job 0).turn = some turn0
         ∧ turn0.card.turn = grpTurn d 0 ∧ d.clp.now ≤ chooseSlot d) := by decide

theorem witness_groupDecide : ∀ now ∈ [0, 4096, 4097],
    let d := groupAt leafGrp { turn := some turn0 } { phase := .staged } (BitVec.ofNat 64 now); let p := fence .decide 0 4096
    comesB d p 2 = true ∧ fromParent (d.grp 0) 0 = true ∧ (d.grp 0).children = 0 ∧ (d.tslot 0).phase = .staged ∧ (d.job 0).turn = some turn0
      ∧ turn0.card.turn = (parseFence p.payload).turn ∧ (parseFence p.payload).slot = 4096 := by decide

theorem witness_groupAbort :
    (∀ ph ∈ [Phase.running, .ending, .staged], let d := groupAt leafGrp { turn := some turn0 } { phase := ph } 0; let p := fence .abort 0 0
       comesB d p 3 = true ∧ fromParent (d.grp 0) 0 = true ∧ d.klz.cascade = [] ∧ turn0.card.turn = (parseFence p.payload).turn ∧ (d.tslot 0).phase = ph ∧ tmDrained d 0 = true)
    ∧ (∀ ph ∈ [Phase.running, .ending], let d := { groupAt leafGrp { turn := some turn0 } { phase := ph } 0 with cores := [(0, { core0 with tm := [tmWaiting] })] }
       comesB d (fence .abort 0 0) 3 = true ∧ (d.job 0).turn = some turn0 ∧ (d.tslot 0).phase = ph ∧ tmDrained d 0 = false)
    ∧ (let d := groupAt leafGrp {} {} 0; comesB d (fence .abort 0 0) 3 = true ∧ (d.job 0).turn = none)
    ∧ (let d := groupAt leafGrp {} {} 0; comesB d (fence .replay 0 0) 4 = true ∧ fromParent (d.grp 0) 0 = true ∧ (d.job 0).turn = none ∧ (d.grp 0).turn = (parseFence (fence .replay 0 0).payload).turn
         ∧ (d.grp 0).barrier ≠ .decided) := by decide

/-- A staged domain turn that arrived at 0, at a time. -/
def stagedAt (elapsed : Nat) : Dev := let d := groupAt leafGrp { turn := some { turn0 with arrived := some 0 } } { phase := .staged, domain := true } 0
  { d with clp := { elapsed := elapsed } }

/-- A root that waits since 0, at a time. -/
def rootAt (elapsed : Nat) (j : Job) (ts : TrnSlot) : Dev := let d := groupAt { rootGrp with barrier := .waiting, first := some 0 } j ts 0
  { d with clp := { elapsed := elapsed }, trn := { d.trn with kfenceTimeout := 7 } }

theorem witness_DomainGroupsDecideTogether :
    (∀ ab ∈ [0, 1], let d := groupAt { rootGrp with absent := BitVec.ofNat 16 ab } {} {} 0; let p := fence .stop 0 0
       comesB d p 5 = true ∧ fromChild (d.grp 0) 0 = true ∧ (d.grp 0).root = true ∧ (parseFence p.payload).turn = grpTurn d 0 ∧ grpDecided d 0 = false ∧ (d.job 0).turn = none)
    ∧ (∀ g ∈ [rootGrp, midGrp], let d := groupAt g {} {} 0
       comesB d (fence .absent 0 0) 6 = true ∧ fromChild (d.grp 0) 0 = true ∧ (d.grp 0).root = g.root ∧ (d.port (d.grp 0).parent).state = .active)
    ∧ ((groupAt rootGrp {} {} 0).grp 0).first = none := by decide

/-- Both timers take TRN_KFENCE_TIMEOUT with its floor (spec/03_turns_and_fences.md R82). -/
theorem witness_groupTimers :
    (∀ n ∈ [0xFFF, 0x1000], let d := rootAt n {} {}
       asleep d = false ∧ serves d 0 = true ∧ (d.grp 0).root = true ∧ (d.grp 0).barrier = .waiting ∧ (d.grp 0).first = some 0 ∧ (d.job 0).turn = none
         ∧ (0 + max 0x1000 d.trn.kfenceTimeout.toNat ≤ d.clp.elapsed) = (n = 0x1000))
    ∧ (let d := rootAt 0x1000 { turn := some turn0 } { phase := .staged }; (d.job 0).turn.isSome = true ∧ (d.tslot 0).phase = .staged)
    ∧ (∀ n ∈ [0x20000000, 0x1FFF], let d := { stagedAt n with trn := { (stagedAt n).trn with kfenceTimeout := 7 } }
       asleep d = false ∧ (d.job 0).turn = some { turn0 with arrived := some 0 } ∧ (d.tslot 0).phase = .staged ∧ (d.tslot 0).domain = true ∧ groupOf d 0 = some 0
         ∧ (d.clp.elapsed < 0 + 2 * max 0x1000 d.trn.kfenceTimeout.toNat) = (n = 0x1FFF))
    ∧ (let d := { stagedAt 0x20000000 with klz := {} }; groupOf d 0 = none ∧ 0 + 2 * max 0x1000 d.trn.kfenceTimeout.toNat ≤ d.clp.elapsed)
    ∧ ((groupAt leafGrp {} {} 0).tslot 0).phase ≠ .staged := by decide +kernel

theorem test_kfenceTimeout : (after (.kfenceTimeout 0) { dev := rootAt 0x1000 { turn := some turn0, state := .running } { phase := .staged } }).map
    (fun d => ((d.grp 0).barrier, (d.grp 0).abortReason, (d.job 0).turn, (d.tslot 0).abortReason)) = some (.aborted, 0x61, none, 0x61)
    ∧ (after (.kfenceTimeout 0) { dev := rootAt 0xFFF {} {} }).map (fun d => (d.grp 0).barrier) = some .waiting := by decide

theorem test_selfAbort : (after (.selfAbortTimeout 0) { dev := stagedAt 0x20000000 }).map (fun d => (d.trn.selfAbort, (d.grp 0).barrier, (d.job 0).turn, (d.tslot 0).abortReason))
    = some (true, .aborted, none, 0x61) := by decide

/-- ABSENT at a member between two ports goes on to its parent. -/
theorem test_absent : (after (.fenceAbsentReceive 0 (fence .absent 7 0)) { dev := groupAt midGrp {} {} 0 }).map
    (fun d => ((d.port 1).line.map (fun o => match o with | .packet q => (parseFence q.payload).turn | _ => 0))) = some [7] := by decide

/-- ABORT ends the member's turn with the message's reason. -/
theorem test_abort : (after (.fenceAbortReceive 0 (fence .abort 0 0)) { dev := groupAt leafGrp { turn := some turn0, state := .running } { phase := .running } 0 }).map
    (fun d => ((d.job 0).turn, (d.tslot 0).abortReason, (d.grp 0).barrier)) = some (none, 0x60, .aborted) := by decide

/-- A job in a state beside basin 0, no other job. -/
def jobAt (j : Job) (x : Basin) (ts : TrnSlot) : Dev := { turnAt j ts with sch := { basins := [(0, x)], checks := if j.state = .checking then [0] else [] } }

/-- A job with rings at 64 KiB and 128 KiB. -/
def ringJob (st : JobState) : Job := { state := st, cardRing := 0x10000, cplRing := 0x20000 }

theorem witness_jobEnable : (ringFault (jobAt (ringJob .idle) {} {}) 0 = none ∧ loading (jobAt (ringJob .idle) {} {}) = false ∧ asleep (jobAt (ringJob .idle) {} {}) = false)
    ∧ ringFault (jobAt { ringJob .idle with cardRing := 0x10040 } {} {}) 0 = some 0x28 ∧ ringFault (jobAt { ringJob .idle with cplLog2 := 17 } {} {}) 0 = some 0x30
    ∧ (let d := jobAt { ringJob .idle with cardRing := 0x10040 } {} {}; loading { d with str := { d.str with state := .verifying } } = true) := by decide

theorem witness_JobSlotsFollowTheirControl :
    (∀ st ∈ [JobState.idle, .checking, .refused, .admitted, .running, .preempting, .saved, .waitBind, .lost], ∀ h ∈ [none, some 0],
       let d := jobAt { ringJob st with abandon := true } { holder := h } {};
       (d.job 0).state = st ∧ (d.job 0).turn = none ∧ (d.job 0).waiting = none ∧ d.flt.stopActive = false ∧ (d.basin 0).holder = h ∧ (d.basin 0).leaving ≠ some 0
         ∧ (d.job 0).abandon = true ∧ (d.tslot 0).phase ≠ .decided ∧ (d.tslot 0).phase ≠ .folding ∧ tmDrained d 0 = true)
    ∧ (∀ st ∈ [JobState.admitted, .saved, .preempting], let d := jobAt { ringJob st with turn := some turn0 } {} {}; (d.job 0).state = st ∧ (d.job 0).turn = some turn0)
    ∧ tmDrained { jobAt { ringJob .running with abandon := true } {} {} with cores := [(0, { core0 with tm := [tmWaiting] })] } 0 = false
    ∧ (∀ v ∈ [16, 17], (16 < (BitVec.ofNat 32 v - (ringJob .admitted).cardsTaken).toNat) = (v = 17)) ∧ 2 ^ (ringJob .admitted).cardLog2.toNat = 16 := by decide

theorem test_jobDoorbell : (after (.jobDoorbell 0 17) { dev := jobAt (ringJob .admitted) {} {} }).map (fun d => ((d.job 0).doorbellIgnored, (d.job 0).doorbell)) = some (true, 0)
    ∧ (after (.jobDoorbell 0 16) { dev := jobAt { ringJob .admitted with parked := true } {} {} }).map (fun d => ((d.job 0).doorbellIgnored, (d.job 0).doorbell)) = some (false, 16) := by decide

/-- ENABLE of a slot whose rings overlap is REFUSED with JOB_RING. -/
theorem test_jobEnable : (after (.jobEnable 0) { dev := jobAt { ringJob .idle with cardRing := 0x10040 } {} {} }).map (fun d => ((d.job 0).state, (d.job 0).reason, (d.job 0).detail)) = some (.refused, 0x50, 0x28) := by decide

theorem witness_ProgramChecksEndInOrder :
    (∀ due ∈ [false, true], let d := jobAt { ringJob .checking with ringDue := due } {} {};
       (checkOrder d).head? = some 0 ∧ loading d = false ∧ d.flt.stopActive = false ∧ (d.job 0).ringDue = due ∧ ringFault d 0 = none ∧ asleep d = false)
    ∧ (let d := jobAt { ringJob .checking with ringDue := true, cardRing := 0x10040 } {} {}; (checkOrder d).head? = some 0 ∧ ringFault d 0 = some 0x28)
    ∧ (checkOrder (jobAt (ringJob .admitted) {} {})).head? ≠ some 0
    ∧ progSpan (meetProg (jobAt (ringJob .checking) {} {}) 0) 0 = none := by decide

/-- An image of 0x250 zero bytes apart from its length: a span that can be verified, and no signature. -/
def imageAt : Dev := let d := jobAt { ringJob .checking with prog := 0x40000 } {} {}
  { d with mem := cellsAt (hbmCell d 0x40008) [0x50, 0x02] }

theorem witness_progSpan : (progSpan (meetProg imageAt 0x40000) 0x40000).map (fun b => b.length) = some 0x250 := by decide

/-- `JobCalm` of job 0 as a test. -/
def calmB (d : Dev) : Bool := (jobCores d 0).all (fun l => queuedCount (d.core (d.phys l)).ctx == 0 && (d.core (d.phys l)).ctx.codQueue.isEmpty
  && (d.core (d.phys l)).tm.all (fun t => t.todo.isEmpty))

/-- A card of turn `n`, not before `nb`. -/
def cardBytes (n nb : Nat) (kind flags : Byte) : List Byte :=
  leBytes 8 n ++ leBytes 8 nb ++ leBytes 8 0 ++ leBytes 16 0 ++ leBytes 8 0 ++ [kind, flags, 0, 0] ++ leBytes 4 9 ++ leBytes 8 0

/-- A running job with a card outstanding, a turn kind 0 that may move one frame, and one free frame. -/
def cardAt (b : List Byte) (poisoned : Bool) : Dev :=
  let d := jobAt { ringJob .running with doorbell := 1 } { holder := some 0 } {}
  let d := { d with jobs := [(0, { ringJob .running with doorbell := 1, image := some { prog0 1 with turns := [{ kind := 0, domain := false, moves := 1, wcetNear := 5, wcetFar := 9, period := 0, nonPreempt := 0 }] } })], trn := { freeStack := [(0, [0x1000, 0x1001])] } }
  let d := { d with mem := cellsAt (hbmCell d 0x10000) b }
  if poisoned then { d with poison := poisonMark [] (hbmCell d 0x10000) 64 } else d

/-- A card can be taken. -/
def takes (d : Dev) : Bool := holds d 0 && mayTake (d.job 0) && !asleep d

theorem witness_CardsAreTakenCheckedAndAdmitted :
    holds (jobAt (ringJob .admitted) {} {}) 0 = false
    ∧ (let d := cardAt (cardBytes 0 0 0 0) true; takes d = true ∧ d.hbmPoisoned (cardOffset (d.job 0) 0) 64 = true)
    ∧ (∀ e ∈ [(0, 0, (2 : Byte)), (1, 0, 0)], let d := cardAt (cardBytes 0 0 (BitVec.ofNat 8 e.1) e.2.2) false
       takes d = true ∧ d.hbmPoisoned (cardOffset (d.job 0) 0) 64 = false ∧ ((nextCard d 0).reserved || (turnKind d 0 (nextCard d 0)).isNone) = true)
    ∧ (∀ e ∈ [(2 ^ 64 - 1, 0), (5, 0), (0, 7), (0, 0)], let d := cardAt (cardBytes e.1 e.2 0 0) false
       takes d = true ∧ d.hbmPoisoned (cardOffset (d.job 0) 0) 64 = false ∧ (nextCard d 0).reserved = false ∧ (turnKind d 0 (nextCard d 0)).isSome = true
         ∧ (nextCard d 0).turn.toNat = e.1 ∧ (nextCard d 0).notBefore.toNat = e.2 ∧ (d.tslot 0).lastCommitted + 1 = 0 ∧ d.clp.now = 0) := by decide

/-- What `admissible` asks of turn kind `k`. -/
def admissibleB (d : Dev) (c : Card) (k : TurnKind) : Bool :=
  decide (turnKind d 0 c = some k) && (!(c.flags.toNat % 2 == 1) || d.clp.locked) && decide (k.moves ≤ (d.tslot 0).held.length + (d.freeStack 0).length) && decide (k.moves ≤ 16384)
    && (match (d.job 0).image with | some p => p.kv.isNone | none => true) && c.seqCount == 0 && [1, 2, 3].all (fun t => !(d.job t).live)

/-- The turn kind of `cardAt`. -/
def kind0 : TurnKind := { kind := 0, domain := false, moves := 1, wcetNear := 5, wcetFar := 9, period := 0, nonPreempt := 0 }

theorem witness_cardAdmitted :
    (∀ f ∈ [0, 1], let d := { cardAt (cardBytes 0 0 0 (BitVec.ofNat 8 f)) false with clp := { locked := true } };
       (nextCard d 0).notBefore ≤ d.clp.now ∧ admissibleB d (nextCard d 0) kind0 = true)
    ∧ (let d := cardAt (cardBytes 0 0 0 1) false; (nextCard d 0).flags.toNat % 2 = 1 ∧ d.clp.locked = false)
    ∧ (let d0 := cardAt [] false; let d := { d0 with jobs := [(0, { d0.job 0 with waiting := some (card0 0) })] };
       (d.job 0).waiting = some (card0 0) ∧ holds d 0 = true ∧ (d.job 0).turn = none ∧ (d.job 0).cardsHeld = false ∧ (d.job 0).parked = false
         ∧ (card0 0).notBefore ≤ d.clp.now ∧ admissibleB d (card0 0) kind0 = true)
    ∧ (0 : Dword) < { card0 0 with notBefore := 7 }.notBefore := by decide

/-- An admitted card opens its turn with one reserved frame. -/
theorem test_cardTake : (after (.cardTake 0) { dev := cardAt (cardBytes 0 0 0 0) false }).map (fun d => ((d.tslot 0).phase, (d.tslot 0).stock, d.freeStack 0, (d.job 0).turn.map (·.wcet)))
    = some (.running, [0x1000], [0x1001], some 5) := by decide

theorem test_cardTake_turn : (after (.cardTake 0) { dev := cardAt (cardBytes 5 0 0 0) false }).map (fun d => ((d.job 0).reason, (d.job 0).cardsHeld, (d.job 0).cplWritten)) = some (0x51, true, 1) := by decide

theorem witness_BasinsChangeHands :
    (let d := jobAt { ringJob .admitted with turn := some turn0 } {} {};
       (d.basin 0).holder = none ∧ (d.basin 0).leaving = none ∧ (d.basin 0).entering = none ∧ d.flt.stopActive = false ∧ rebinding d 0 = false ∧ nextHolder d 0 = some 0 ∧ unbound d 0 = false
         ∧ unbound { d with str := { d.str with bind := [] } } 0 = true ∧ nextHolder { d with str := { d.str with bind := [] } } 0 = some 0)
    ∧ (∀ n ∈ [99, 100], let d := { jobAt (ringJob .running) { holder := some 0 } {} with clp := { elapsed := n } };
       (d.basin 0).holder = some 0 ∧ d.flt.stopActive = false ∧ (d.clp.elapsed - (d.basin 0).sliceStart < (d.basinRec 0).slice) = (n = 99) ∧ otherReady d 0 0 = false)
    ∧ (let d0 := jobAt (ringJob .running) { holder := some 0 } {}
       let d := { d0 with jobs := d0.jobs ++ [(3, { state := .saved, turn := some turn0 })] }
       otherReady d 0 0 = true ∧ jobCores d 0 = [0])
    ∧ (∀ e ∈ [(true, false), (false, true)], let d := { jobAt (ringJob .preempting) { leaving := some 0, grace := e.1, saving := e.2 } {} with clp := { elapsed := 11 } };
       (d.basin 0).leaving = some 0 ∧ (d.basin 0).grace = e.1 ∧ (d.basin 0).saving = e.2 ∧ (d.basin 0).overran = false ∧ graceOver d 0 = true ∧ tmDrained d 0 = true
         ∧ (d.basinRec 0).grace < d.clp.elapsed - (d.basin 0).stepStart)
    ∧ (let d := { jobAt (ringJob .preempting) { leaving := some 0, grace := true } {} with sems := [(0, { owner := 0 })] }; graceOver d 0 = false) := by decide

/-- A save whose program lists no core ends at once; the bytes a listed core leaves in its save block are free. -/
theorem witness_saveDone : let d := { jobAt (ringJob .preempting) { leaving := some 0, saving := true } {} with jobs := [(0, ringJob .preempting)] };
    unbound d 0 = false ∧ (d.basin 0).leaving = some 0 ∧ (d.basin 0).saving = true ∧ moveJob d 0 true = .ok d := ⟨rfl, rfl, rfl, rfl⟩

theorem witness_restoreDone : ∀ pk, let d := jobAt { ringJob .saved with parked := pk } { entering := some 0, restoring := true } {}
    (d.basin 0).entering = some 0 ∧ (∀ l, tabGet none d.saved l = none) ∧ (d.job 0).restart = false ∧ (d.job 0).blank = false ∧ (d.job 0).waiting = none ∧ (d.job 0).parked = pk
      ∧ d.flt.stopActive = false ∧ calmB d = true ∧ (∀ t, t ∈ [0, 1, 2, 3] → t ≠ 0 → (d.job t).state = .idle) :=
  fun pk => ⟨rfl, fun _ => rfl, rfl, rfl, rfl, rfl, rfl, rfl, by cases pk <;> decide⟩

theorem test_restoreDone : ([false, true].map (fun pk => (after (.restoreDone 0) { dev := jobAt { ringJob .saved with parked := pk } { entering := some 0, restoring := true } {} }).map (fun d => ((d.job 0).state, (d.basin 0).holder))))
    = [some (.running, some 0), some (.preempting, none)] := by decide

theorem test_sliceEnd : (after (.sliceEnd 0) { dev := jobAt { ringJob .admitted with turn := some turn0 } {} {} }).map (fun d => ((d.basin 0).entering, (d.basin 0).restoring, (d.core 0).restoring))
    = some (some 0, true, true) := by decide

/-- A job of every state while a stop is on its way. -/
def stopAt (thermal : Bool) (ph : Phase) : Dev :=
  let d := turnAt { ringJob .running with turn := some turn0 } { phase := ph }
  { d with flt := { stopActive := true, thermal := thermal, faulted := [4] }, jobs := d.jobs ++ [(4, { state := .saved, reason := 0x90 }), (5, { state := .checking }), (6, { state := .refused })] }

theorem witness_StopsEndAndClear :
    (let d := stopAt false .running; asleep d = false ∧ d.flt.stopActive = true ∧ d.flt.thermal = false ∧ decidedLeft d = false ∧ foldsLeft d = false ∧ d.flt.faulted.contains 4 = true ∧ (d.job 5).state = .checking)
    ∧ (∀ ph ∈ [Phase.running, .folding], let d := stopAt true ph; d.flt.thermal = true ∧ decidedLeft d = false ∧ foldsLeft d = (ph == .folding))
    ∧ decidedLeft (stopAt false .decided) = true
    ∧ clearStopOk (stopAt false .running) = false
    ∧ (∀ st ∈ [DevState.stopped, .thermal], clearStopOk { turnAt {} {} with sys := { state := st } } = true)
    ∧ clearStopOk { turnAt {} {} with sys := { state := .thermal }, hbm := [(11, { temp := 85 })] } = false := by decide

theorem test_deviceStop : (after .deviceStopComplete { dev := stopAt false .running }).map (fun d => ((d.job 0).state, (d.job 0).reason, (d.job 4).reason, (d.job 5).state, d.sys.state)) = some (.lost, 0xA5, 0x90, .refused, .stopped) := by decide

theorem test_clearStop : (after .clearStop { dev := { turnAt {} {} with sys := { state := .stopped } } }).map (fun d => d.sys.state) = some .structured
    ∧ (after .clearStop { dev := turnAt {} {} }).map (fun d => (d.sys.state, d.flt.clearRefused)) = some (.running, true) := by decide

/-! ## HBM, temperatures and supply -/

/-- A READY device with stack 3 in a state. -/
def stackAt (x : Stack) : Dev := { sys := { state := .ready }, hbm := [(3, x)] }

theorem witness_StacksScrubRepairAndTrain :
    (let d := stackAt { state := .ready }; asleep d = false ∧ (d.stack 3).state = .ready ∧ (d.stack 3).scrub = true ∧ (d.stack 3).level < 2 ∧ 5 < slotsPerPc d ∧ d.str.pinsafe = false
        ∧ (d.stack 3).rows = [] ∧ 1 < rowThreshold (d.stack 3) ∧ d.poison = [] ∧ d.upsets = [] ∧ (d.stack 3).deadPins = [] ∧ (d.stack 3).hold = [] ∧ tabWf none d.upsets = true
        ∧ (∀ c, c < 144 → (d.core c).tm.all (fun t => t.todo.isEmpty) = true) ∧ tabGet [] d.repairsDue 3 = [])
    ∧ ((stackAt { state := .ready, scrub := false }).stack 3).scrub = false
    ∧ (let d := { stackAt { state := .ready } with poison := [(((64 * 3 + 1) * 294912 + 5) * 64 + 9, true)] }
       ∀ i, i < 64 → (tabGet false d.poison (((64 * 3 + 1) * 294912 + 5) * 64 + i) = true ↔ i = 9))
    ∧ (let d := stackAt { state := .ready, remapQueue := [{ pc := 1, row := 4 }] }; (d.stack 3).remapQueue.find? (fun r => r.pc == 1) = some { pc := 1, row := 4 } ∧ remapAllowed d (d.stack 3) 1 = true)
    ∧ (let d := stackAt { state := .ready, lastRetrain := [(1, 1)] }; remapAllowed d (d.stack 3) 1 = false ∧ (d.stack 3).retrainPc = none
        ∧ (!(tabGet 0 (d.stack 3).lastRetrain 1 == 0) && decide (d.clp.elapsed + 1 - tabGet 0 (d.stack 3).lastRetrain 1 < tenMs d)) = true)
    ∧ ((stackAt { state := .ready, retrainPc := some 1 }).stack 3).retrainPc.isSome = true
    ∧ (∀ h ∈ [[], [({ cell := 64 } : Held)]], ((stackAt { state := .ready, retrainPc := some 1, hold := h }).stack 3).hold.all (fun x => x.piece.isNone) = true)
    ∧ (∀ n ∈ [0, 2], ((stackAt { state := .training, attempts := n }).stack 3).state = .training) ∧ ((stackAt {}).stack 3).state ≠ .training
    ∧ asleep { stackAt {} with sys := { state := .train } } = false := by decide

/-- Lists of repairs that do not hold a row, short and full. -/
theorem witness_repairs : ∀ slot, ([] : List Row).contains { pc := 1, row := Config.rowOf slot } = false
    ∧ (List.replicate 256 ({ pc := 2, row := 0 } : Row)).contains { pc := 1, row := Config.rowOf slot } = false ∧ 256 ≤ (List.replicate 256 ({ pc := 2, row := 0 } : Row)).length :=
  fun _ => ⟨rfl, by simp, by simp⟩

theorem test_scrub : (after (.hbmScrub 3 1 5 [(9, .uncorrectable 2)]) { dev := stackAt { state := .ready } }).map
    (fun d => (tabGet false d.poison (((64 * 3 + 1) * 294912 + 5) * 64 + 9), (d.stack 3).ueCount, (d.stack 3).lastErr.kind)) = some (true, 1, 2) := by decide

theorem test_train_fails : (after (.hbmTrainDone 3 false) { dev := stackAt { state := .training, attempts := 2 } }).map (fun d => (d.stack 3).state) = some .failed := by decide

theorem witness_TemperaturesThrottleStopAndTrip :
    (let d := stackAt { state := .ready }; asleep d = false ∧ d.sys.tripped = false ∧ d.flt.thermal = false ∧ d.flt.stopActive = false ∧ d.sys.state ≠ .thermal
       ∧ (d.stack 0).level < weirTarget d (clampInt (-128) 127 90) ∧ weirTarget d (clampInt (-128) 127 20) ≤ (d.stack 0).level)
    ∧ ([109, 110] : List Int).any (fun t => decide (110 ≤ t)) = true ∧ ([109] : List Int).any (fun t => decide (110 ≤ t)) = false
    ∧ (([105] : List Int).take 12).any (fun t => decide (105 ≤ t)) = true ∧ (([104] : List Int).take 12).any (fun t => decide (105 ≤ t)) = false
    ∧ ([115] : List Int).any (fun t => decide (115 ≤ t)) = true ∧ ([114] : List Int).any (fun t => decide (115 ≤ t)) = false := by decide

theorem test_weir : (after (.weirSample [105]) { dev := stackAt { state := .ready } }).map (fun d => (d.flt.thermal, d.flt.stopInfo.reason, d.weir.events)) = some (true, 0xC0, 1)
    ∧ (after (.weirSample [110]) { dev := stackAt { state := .ready } }).map (fun d => (d.sys.tripped, d.sys.thermtripN, d.sys.state)) = some (true, false, .reset) := by decide

/-- A device in reset with its rails in a state. -/
def railsAt (r : Rails) : Dev := { sys := { rails := r } }

theorem witness_SupplyAndResetRuleTheDevice :
    (railsAt .off).sys.rails = .off ∧ (railsAt .starting).sys.rails = .starting ∧ (railsAt .good).sys.rails = .good ∧ (railsAt .good).sys.state = .reset ∧ (railsAt .good).sys.tripped = false
    ∧ ({ railsAt .good with sys := { state := .train } } : Dev).sys.state = .train := by decide

theorem test_vinExcursion : (after (.vinExcursion 57599) { dev := railsAt .good }).map (fun d => (d.sys.vinLow, d.sys.vinHigh)) = some (true, false)
    ∧ (after (.vinExcursion 70401) { dev := railsAt .good }).map (fun d => (d.sys.vinLow, d.sys.vinHigh)) = some (false, true) := by decide

theorem test_resetAssert : (after .resetAssert { dev := stackAt { state := .ready } }).map (fun d => (d.sys.state, (d.stack 3).state)) = some (.reset, .off) := by decide

/-! ## Host attachment -/

/-- A Plaldaul message. -/
def message (op seq session low addr arg : Nat) (body : List Byte) : List Byte :=
  leBytes 1 1 ++ leBytes 1 op ++ leBytes 2 0 ++ leBytes 3 seq ++ [0] ++ leBytes 3 low ++ [0] ++ leBytes 2 session ++ leBytes 2 body.length ++ leBytes 8 addr ++ leBytes 4 arg ++ leBytes 4 0 ++ body

/-- The frame that carries it to port 0. -/
def frame (enc : Encap) (data : List Byte) : EthFrame := { dest := .unicast 0xA, src := 0xB, vlan := none, length := 128, fcsOk := true, macsec := none, encap := enc, data := data }

/-- The peer of connection 0, and port 0 up. -/
def conf0 : ConnConf := { valid := true, domain := true, peer := 0xB }
def port0 : Eth := { conf := { mac := 0xA, ipv4 := 0x0A000001, ipv6 := 1, medium := 1 }, linkUp := true }

/-- A device that serves connection 0 in a state. -/
def hostAt (st : DevState) (x : Conn) : Dev := { sys := { state := st }, eth := [(0, port0)], pld := { boardLoaded := true, conns := [(0, x)] } }

/-- The request a message asks for. -/
def asked (op seq : Nat) (addr arg : Nat) (body : List Byte) : PldReq :=
  { seq := seq, op := op, back := { port := 0, mac := 0xB, vlan := none, encap := .raw }, bytes := message op seq 7 0 addr arg body }

/-- An open session 7 with requests. -/
def open7 (reqs : List PldReq) : Conn := { conf := conf0, state := .opened, session := 7, reqs := reqs }

/-- A frame the port passes. -/
def wholeB (d : Dev) (f : EthFrame) : Bool :=
  !asleep d && (d.ethp 0).linkUp && d.pld.boardLoaded && f.fcsOk && decide (f.length ≤ 9216) && vlanOk (d.ethp 0).conf f && frameDestOk (d.ethp 0).conf f && encapOk (d.ethp 0).conf f

theorem witness_FramesAreFilteredAndAnswered :
    ((hostAt .ready {}).ethp 1).linkUp = false
    ∧ wholeB (hostAt .ready {}) { frame .raw [] with fcsOk := false } = false ∧ wholeB (hostAt .ready {}) { frame .raw [] with length := 9217 } = false
    ∧ wholeB (hostAt .ready {}) (frame (.arp 0x0A000001) []) = true ∧ wholeB (hostAt .ready {}) (frame (.ns 1) []) = true ∧ wholeB (hostAt .ready {}) (frame .raw []) = true
    ∧ (∀ h, h < 8 → peerOk ((hostAt .ready {}).conn h).conf 0 (frame .raw []) = false)
    ∧ peerOk ((hostAt .ready (open7 [])).conn 0).conf 0 (frame .raw []) = true ∧ ((hostAt .ready (open7 [])).conn 0).conf.macsec = false
    ∧ ((hostAt .ready {}).ethp 0).conf.medium = 1 ∧ ((hostAt .ready {}).ethp 1).conf.medium = 0
    ∧ (∀ n, n < 2 → (if n = 0 then (hostAt .ready {}).sys.refclkAAbsent else (hostAt .ready {}).sys.refclkBAbsent) = false)
    ∧ (let d := { hostAt .ready {} with sys := { state := .ready, refclkAAbsent := true } }; asleep d = false ∧ (d.ethp 0).conf.medium = 1 ∧ d.sys.refclkAAbsent = true) := by decide

theorem witness_framesOfASession :
    (let m := message 1 5 7 0 0 1 []; 32 + fieldLe m 0x0E 2 ≤ m.length ∧ fieldLe m 0 1 = 1 ∧ natBit (fieldLe m 2 1) 0 = false ∧ fieldLe m 1 1 = 1 ∧ fieldLe m 0x0C 2 = 7 ∧ fieldLe m 8 3 = 0 ∧ fieldLe m 4 3 = 5)
    ∧ (let d := hostAt .ready (open7 []); beforeReady d = false ∧ (d.conn 0).state = .opened ∧ (d.conn 0).session.toNat = 7 ∧ (d.conn 0).low = 0 ∧ (d.conn 0).reqs = [])
    ∧ seqDiff 511 0 < 512 ∧ 512 ≤ seqDiff 512 0 ∧ seqDiff 0xFFFFFF 0 < 0
    ∧ (let d := hostAt .ready { conf := conf0 }; (d.conn 0).state = .closed ∧ (d.conn 0).opening = none)
    ∧ (let d := hostAt .train { conf := conf0 }; beforeReady d = true ∧ (d.conn 0).lastNotReady = 0) := by decide

theorem test_frame_taken : (after (.ethFrameReceive 0 (frame .raw (message 1 5 7 0 0 1 []))) { dev := hostAt .ready (open7 []) }).map (fun d => (d.conn 0).reqs.map (fun r => (r.seq, r.op))) = some [(5, 1)] := by decide

theorem test_arp : (after (.arpRequest 0 (frame (.arp 0x0A000001) [])) { dev := hostAt .ready {} }).map (fun d => d.pld.out.map (fun o => (o.port, o.dest.toNat))) = some [(0, 0xB)] := by decide

/-- `Waits` and `Admitted` of connection 0 as tests. -/
def waitsB (d : Dev) (op : Nat) (r : PldReq) : Bool :=
  !asleep d && decide ((d.conn 0).find r.seq = some r) && r.op == op && r.phase == .received && !pnExhausted d (d.conn 0).conf && r.bytes.length == 32 + r.len
def admittedB (d : Dev) (op : Nat) (r : PldReq) : Bool :=
  waitsB d op r && formOk d 0 r && !readOnlyDenies (d.conn 0).conf r && (!namesRemote d r || (d.conn 0).conf.domain)

/-- Connection 0 with the one request. -/
def askAt (r : PldReq) : Dev := { hostAt .ready (open7 [r]) with str := { inForce := some str0, bind := [(0, 0)] }, klz := { ports := [(0, port1)] } }

/-- The place is there. -/
def reachable (d : Dev) (wr : Bool) (space off n : Nat) : Option Bool := placed (outsidePlace d wr space off n)

theorem witness_HostReadsAndWritesAreSettled :
    (∀ op ∈ [1, 2, 3, 4, 5, 6, 7, 8, 9], let r := asked op 5 (2 ^ 63) 77 []; waitsB (askAt r) op r = true ∧ formOk (askAt r) 0 r = (op == 7))
    ∧ (let r := asked 7 5 0 0 []; let d := { askAt r with pld := { (askAt r).pld with conns := [(0, { open7 [r] with conf := { conf0 with readOnly := true } })] } }
       waitsB d 7 r = true ∧ formOk d 0 r = true ∧ readOnlyDenies (d.conn 0).conf r = true)
    ∧ (let r := asked 1 5 0x1000 2 []; admittedB (askAt r) 1 r = true) ∧ (let r := asked 2 5 0x1000 1 [1, 0, 0, 0]; admittedB (askAt r) 2 r = true) := by decide

theorem witness_hostMemory :
    (∀ op ∈ [3, 4], ∀ a ∈ [(3 * 2 ^ 48, 4), (0x1008, 16), (2 ^ 26 * 16 + 2 ^ 48, 16), (0x1000, 16), (2 ^ 52 + 0x1000, 16), (2 ^ 53 + 0x1000, 16), (2 ^ 52 + 2 ^ 50, 16), (2 ^ 52 + 3 * 2 ^ 48, 4)],
       let r := asked op 5 a.1 a.2 (if op = 4 then List.replicate a.2 1 else []); admittedB (askAt r) op r = true ∧ namesRemote (askAt r) r = (decide (2 ^ 52 ≤ a.1)))
    ∧ (∀ wr ∈ [false, true], reachable (askAt (asked 3 5 0 16 [])) wr 0 0x1000 16 = some true ∧ reachable (askAt (asked 3 5 0 16 [])) wr 1 (2 ^ 26 * 16) 16 = some false)
    ∧ routePort (askAt (asked 3 5 0 16 [])) 1 = some 0 ∧ routePort (askAt (asked 3 5 0 16 [])) 2 = none := by decide

/-- A read that meets poison names the first poisoned burst. -/
theorem witness_poisonedRead : let r := asked 3 5 0x1000 16 []; let d := { askAt r with poison := poisonMark [] (hbmCell (askAt r) 0x1000) 64 }
    admittedB d 3 r = true ∧ (placeRead d (.cells (hbmCell d 0x1000)) 16).2 = true ∧ firstPoison d (.cells (hbmCell d 0x1000)) 16 = some 0
      ∧ (placeRead (askAt r) (.cells (hbmCell d 0x1000)) 16).2 = false := by decide

theorem test_memWr : (let r := asked 4 5 0x1000 16 (List.replicate 16 9); (after (.pldMemWr 0 5) { dev := askAt r }).map (fun d => (d.hbmRead 0x1000 3, (d.conn 0).reqs.map answeredReq, d.pld.out.length)))
    = some ([9, 9, 9], [true], 1) := by decide

theorem test_memRd_remote : (let r := asked 3 5 (2 ^ 52 + 0x1000) 16 []; (after (.pldMemRd 0 5) { dev := askAt r }).map (fun d => ((d.conn 0).reqs.map (·.phase), (d.port 0).line.length, d.klz.requests.length)))
    = some ([.remote], 1, 1) := by decide

/-- A POLL of two addresses. -/
def poll (a b : Nat) : PldReq := asked 5 5 0 2 (leBytes 8 a ++ leBytes 8 b)

theorem witness_PollsFencesAndBellsAreSettled :
    (admittedB (askAt (poll 0 0)) 5 (poll 0 0) = true ∧ coldSpaces (askAt (poll 0 0)) = false ∧ pollShape 0 = true ∧ pollShape 2 = false ∧ pollShape (2 ^ 48) = false ∧ natBits (2 ^ 49) 51 48 = 2
      ∧ (let r := asked 5 5 0 1 (leBytes 8 (3 * 2 ^ 48)); admittedB (askAt r) 5 r = true) ∧ natBits (3 * 2 ^ 48) 51 48 = 3)
    ∧ (let r := poll 0x1000 0x1008; admittedB (askAt r) 5 r = true ∧ leNat (r.body.take 8) / 32 = leNat (r.body.drop 8) / 32 ∧ leNat (r.body.take 8) < leNat (r.body.drop 8))
    ∧ (let d := { askAt (poll 0 0) with sys := { state := .thermal } }; admittedB d 5 (poll 0 0) = true ∧ coldSpaces d = true)
    ∧ (let d := { askAt (poll 0 0) with flt := { stopActive := true, thermal := true } }; admittedB d 5 (poll 0 0) = true ∧ coldSpaces d = true)
    ∧ (let r := asked 6 0 0 0 []; admittedB (askAt r) 6 r = true)
    ∧ (∀ a ∈ [0, 64], let r := asked 7 0 a 1 []; admittedB (askAt r) 7 r = true ∧ bellFree ((askAt r).conn 0) r.seq = true) ∧ (let r := asked 7 5 0 1 []; bellFree ((askAt r).conn 0) 5 = false)
    ∧ nextFence (open7 []) = none
    ∧ (∀ s ∈ [0, 5], let f := { asked 6 s 0 0 [] with phase := .waiting }; let c := open7 [f]; nextFence c = some f ∧ (noGap c s && earlierDone c s (fun q => q.op == 2 || q.op == 4 || q.op == 6)) = (s == 0))
    ∧ (let f := { asked 6 0 0 0 [] with phase := .waiting }; let q := { asked 7 1 3 2 [] with phase := .waiting }; let c := open7 [f, q]
       nextFence c = some f ∧ noGap c 0 = true ∧ c.reqs.filter (fun q => q.op == 7 && q.phase == .waiting) = [q] ∧ noGap c 1 = true) := by decide

theorem test_fence_releases_bell : (let f := { asked 6 0 0 0 [] with phase := .waiting }; let q := { asked 7 1 3 2 [] with phase := .waiting }
    (after (.hostfenceComplete 0) { dev := hostAt .ready (open7 [f, q]) }).map (fun d => (tabGet 0 d.trn.hostfenceDone 0, (d.job 3).doorbell, (d.conn 0).reqs.map answeredReq))) = some (1, 2, [true, true]) := by decide

/-- An OPEN of session 7 on a connection in a state. -/
def openAt (st : Session) (reqs : List PldReq) (arg : Nat) : Dev := hostAt .ready { open7 reqs with state := st, opening := some (asked 15 9 0 arg []) }

theorem witness_SessionsOpenDrainAndClose :
    (∀ st ∈ [Session.closed, .opened, .draining], let d := openAt st [] 7
       asleep d = false ∧ (d.conn 0).opening = some (asked 15 9 0 7 []) ∧ pnExhausted d (d.conn 0).conf = false ∧ formOk d 0 (asked 15 9 0 7 []) = true ∧ (d.conn 0).state = st)
    ∧ formOk (openAt .closed [] 0x10000) 0 (asked 15 9 0 0x10000 []) = false
    ∧ (let d := openAt .draining [{ asked 1 0 0 1 [] with phase := .answered true }] 7; (d.conn 0).state = .draining ∧ (∀ q ∈ (d.conn 0).reqs, answeredReq q = true))
    ∧ (let d := hostAt .ready { open7 [] with state := .draining }; (d.conn 0).opening = none)
    ∧ (let d := hostAt .ready { open7 [asked 1 0 0 1 []] with state := .draining }; (∀ q ∈ (d.conn 0).reqs, q.phase ≠ .waiting) ∧ (∃ q ∈ (d.conn 0).reqs, answeredReq q = false))
    ∧ (let d := { hostAt .train {} with pld := {}, sec := { state := .running } }; d.sec.state = .running ∧ d.pld.boardLoaded = false)
    ∧ ({ conf := { conf0 with macsec := true } } : Conn).conf.macsec = true := by decide

theorem test_pldOpen : (after (.pldOpen 0 9) { dev := openAt .closed [] 7 }).map (fun d => ((d.conn 0).state, (d.conn 0).low, d.pld.out.length)) = some (.opened, 10, 1) := by decide

/-! ## Security -/

/-- A running device whose channel `c` carries a message of the given first words for the controller. -/
def secAt (c : Nat) (st : SecState) (ws : List Word) : Dev :=
  { sys := { state := if st = .running then .ready else .boot }, sec := { state := st }, mbx := [(c, { sender := if c < 8 then c else 8, receiver := 10, full := true, msg := tabOfList 0 (ws ++ List.replicate (16 - ws.length) 0) })] }

/-- `Carries` as a test. -/
def carriesB (d : Dev) (c type : Nat) (w : List Word) : Bool :=
  !asleep d && decide (c < 32) && (requestChannel c).isNone && decide (secMessage d c = some w) && natBits (msgWord w 0) 31 24 == type

/-- The message. -/
def msgOf (ws : List Word) : List Word := ws ++ List.replicate (16 - ws.length) 0

theorem witness_BootTakesVerifiedFirmware :
    (∀ b ∈ [0, 1, 2, 3], let d : Dev := { sys := { state := .boot, bootMode := BitVec.ofNat 2 b } }; asleep d = false ∧ d.sys.state = .boot ∧ d.sec.state = .boot ∧ d.sys.bootMode.toNat = b)
    ∧ ({} : Nv).consistent = true ∧ ({ consistent := false } : Nv).consistent = false
    ∧ (∀ e ∈ [(16, SecState.recovery), (0, .running)], carriesB (secAt e.1 e.2 [0x03040100]) e.1 3 (msgOf [0x03040100]) = true)
    ∧ addFragment {} (msgOf [0x03040001]) = none ∧ (addFragment {} (msgOf [0x03040100])).isSome = true ∧ natBit (msgWord (msgOf [0x03040100]) 0) 9 = false
    ∧ (addFragment {} (msgOf [0x03040300])).isSome = true ∧ natBit (msgWord (msgOf [0x03040300]) 0) 9 = true := by decide

theorem witness_checkFirmware : checkFirmware {} [] = .error 0x82 ∧ checkFirmware {} (List.replicate 400 0) = .error 0x82 := ⟨rfl, rfl⟩

theorem test_boot_recovers : (after .secBootComplete { dev := { sys := { state := .boot } } }).map (fun d => (d.sec.state, d.sec.refusals, (d.mbxc 16).sender)) = some (.recovery, 2, 8) := by decide

/-- ENROLL_OWNER on channel 0, and a later COMMIT_FW on channel 1. -/
def twoCommands : Dev := { secAt 0 .running [0x02000001] with mbx := [(0, { sender := 0, receiver := 10, full := true, arrived := 1, msg := tabOfList 0 (msgOf [0x02000001]) }),
  (1, { sender := 1, receiver := 10, full := true, arrived := 2, msg := tabOfList 0 (msgOf [0x02000004]) })] }

theorem witness_SecurityCommandsCheckWhatTheyTake :
    (∀ k ∈ [1, 2, 4], carriesB (secAt 0 .running [BitVec.ofNat 32 (0x02000000 + k)]) 0 2 (msgOf [BitVec.ofNat 32 (0x02000000 + k)]) = true)
    ∧ carriesB (secAt 16 .running [0x02000001]) 16 2 (msgOf [0x02000001]) = true
    ∧ ownerEnrolled {} = false ∧ ownerEnrolled { ownerHash := [1] } = true
    ∧ commandBlock (secAt 0 .running [0x02000001]) (msgOf [0x02000001]) = none
    ∧ (commandBlock (secAt 0 .running []) (msgOf [0x02000001, 0x7E00000, 16])).isSome = true
    ∧ firstWaiting (secAt 0 .running [0x02000001]) ((secAt 0 .running [0x02000001]).mbxc 0).arrived = true
    ∧ carriesB twoCommands 0 2 (msgOf [0x02000001]) = true ∧ carriesB twoCommands 1 2 (msgOf [0x02000004]) = true
    ∧ firstWaiting twoCommands (twoCommands.mbxc 0).arrived = true ∧ firstWaiting twoCommands (twoCommands.mbxc 1).arrived = false := by decide

/-- Of two commands the one that came first is taken first (spec/16_security.md R444). -/
theorem test_commands_in_order : [0, 1].map (fun c => (match exec (.commitFw c) { dev := { twoCommands with sec := { state := .running, fwVersion := 7 } } } with | .next t => some ((t.dev.mbxc c).full, t.nv.fwCounter) | _ => none))
    = [some (true, 0), some (true, 0)] := by decide

theorem test_enroll_twice : (match exec (.enrollOwner 0) { dev := secAt 0 .running [0x02000001], nv := { ownerHash := [1] } } with | .next t => some (t.dev.sec.lastReason, t.nv.ownerHash, (t.dev.mbxc 0).full) | _ => none)
    = some (0x83, [1], false) := by decide

theorem test_commit_fw : (match exec (.commitFw 0) { dev := { secAt 0 .running [0x02000004] with sec := { state := .running, fwVersion := 7 } } } with | .next t => some t.nv.fwCounter | _ => none) = some 7 := by decide

theorem witness_DebugOpensByTokenAlone :
    (∀ c ∈ [0, 16, 18], carriesB (secAt c .running [0x02000003]) c 2 (msgOf [0x02000003]) = true ∧ firstWaiting (secAt c .running [0x02000003]) ((secAt c .running [0x02000003]).mbxc c).arrived = true) ∧ commandBlock (secAt 0 .running []) (msgOf [0x02000003]) = none
    ∧ (∀ k, JtagOp.idcode ≠ .private_ k) ∧ (secAt 0 .running []).sec.debugUnlocked = false :=
  ⟨by decide, by decide, (by intro k h; cases h), by decide⟩

theorem test_jtag : (after (.jtagInstruction .idcode) {}).map (fun d => d.sec.jtag) = some .idcode ∧ (after (.jtagInstruction (.private_ 3)) {}).map (fun d => d.sec.jtag) = some .bypass := by decide

/-- A request channel with a complete SPDM request. -/
def spdmAt (stage : Nat) (m : List Byte) : Dev := let d := secAt 0 .running []
  { d with sec := { d.sec with chans := [(0, { msg := some m, stage := stage })] } }

theorem witness_SpdmRequestsAreAssembledAndAnswered :
    carriesB (secAt 0 .running [0x01040100]) 0 1 (msgOf [0x01040100]) = true ∧ ((secAt 0 .running []).schan 0).msg = none ∧ answerChannel 0 = some 8
    ∧ (∀ k ∈ [0x84, 0xE1, 0xE3, 0x81, 0x82, 0x83, 0xE0, 0x90], ∀ st ∈ [0, 3], let d := spdmAt st [0x12, BitVec.ofNat 8 k, 0, 0xFF]
       asleep d = false ∧ firstWaiting d (d.schan 0).arrived = true ∧ (d.schan 0).msg = some [0x12, BitVec.ofNat 8 k, 0, 0xFF] ∧ fieldLe [0x12, BitVec.ofNat 8 k, 0, 0xFF] 1 1 = k ∧ (d.schan 0).stage = st ∧ spdmKnown k = (k != 0x90))
    ∧ (let d := { spdmAt 0 [0x12, 0x84, 0, 0] with sec := { state := .running, chans := [(0, { msg := some [0x12, 0x84, 0, 0], arrived := 2 }), (1, { msg := some [0x12, 0x84, 0, 0], arrived := 1 })] } }
       firstWaiting d (d.schan 0).arrived = false ∧ firstWaiting d (d.schan 1).arrived = true)
    ∧ fieldLe [0x12, 0x83, 1, 0] 2 1 % 16 ≠ 0 ∧ fieldLe [0x11, 0x83] 0 1 ≠ 0x12 ∧ measurementIndices.length = 69 := by decide

theorem test_getVersion : (after (.getVersion 0) { dev := spdmAt 0 [0x10, 0x84, 0, 0] }).map (fun d => ((d.schan 0).stage, (d.schan 0).answers.length)) = some (1, 1) := by decide

theorem test_spdm_unsupported : (after (.spdmUnsupportedRequest 0) { dev := spdmAt 2 [0x12, 0x90, 0, 0] }).map (fun d => ((d.schan 0).msg, (d.schan 0).answers.length)) = some (none, 1) := by decide

/-! ## Number formats, messages and mailboxes -/

theorem witness_NansAreWrittenCanonical :
    (∀ k ∈ [0, 1, 2, 3, 8, 10], (fmtOf k).isSome = true) ∧ (∃ f, fmtOf 8 = some f ∧ decodeF f 0xFFC00001 = .nan) := ⟨by decide, ⟨_, rfl, rfl⟩⟩

/-- 1 + 2^-8 rounds to even in BF16, the largest FP16 is 0x7BFF, and rounding to nearest reaches infinity from 65520 on
(spec/05_number_formats.md R132). -/
theorem test_encode : (fmtOf 0).map (fun f => [encodeF 0 f .rne (.fin false 0x101 (-8)), encodeF 0 f .rne (.fin false 0x103 (-8))]) = some [0x3F80, 0x3F82]
    ∧ (fmtOf 1).map (fun f => [encodeF 1 f .rne (.fin true 65504 0), encodeF 1 f .rne (.fin false 65520 0), encodeF 1 f .rtz (.fin false 65535 0)]) = some [0xFBFF, 0x7C00, 0x7BFF] := by decide

theorem witness_ConversionsFollowIeee754 : (∀ k ∈ [0, 1, 8], (fmtOf k).isSome = true) ∧ (((1 : Nat) : ℚ) * 2 ^ (0 : Int) = 1) := ⟨by decide, by norm_num⟩

theorem test_fragments : (spdmFragments 3 0 (List.replicate 61 7)).map (fun w => (natBits (msgWord w 0) 21 16, natBit (msgWord w 0) 8, natBit (msgWord w 0) 9)) = [(60, true, false), (1, false, true)] := by decide

/-- A mailbox request of host 0, beside channels 0 and 8. -/
def mbxAsk (r : PldReq) (full : Bool) (answers : List (List Word)) : Dev := { hostAt .ready (open7 [r]) with mbx := (mbxAt full answers).mbx, sec := (mbxAt full answers).sec }

theorem witness_MailboxOperationsAreIndivisible :
    (∀ full ∈ [false, true], ∀ ch ∈ [0, 8, 9, 32], let r := asked 8 5 ch 0 (List.replicate 64 1); let q := asked 9 5 ch 1 []; let n := asked 9 5 ch 0 []
       admittedB (mbxAsk r full []) 8 r = true ∧ admittedB (mbxAsk q full [[1]]) 9 q = true ∧ admittedB (mbxAsk n full []) 9 n = true
         ∧ (ch < 9 → ((mbxAsk r full []).mbxc ch).full = full)
         ∧ mbxIsSender ((mbxAsk r full []).mbxc ch) (.host 0) = (ch == 0) ∧ mbxIsReceiver ((mbxAsk r full []).mbxc ch) (.host 0) = (ch == 8))
    ∧ (let d := mbxAsk (asked 9 5 8 1 []) true [[1]]; mbxIsSender (d.mbxc 8) .sec = true ∧ requestChannel 8 = some 0 ∧ (d.schan 0).answers = [[1]] ∧ requestChannel 0 = none) := by decide

theorem test_mbxWr : (let r := asked 8 5 0 0 (List.replicate 64 1); (after (.pldMbxWr 0 5) { dev := mbxAsk r false [] }).map (fun d => (tabGet 0 (d.mbxc 0).msg 15, (d.mbxc 0).full, (d.mbxc 0).count))) = some (0x01010101, true, 1) := by decide

/-! ## Signed objects

A key pair of these tests' own, and objects signed with it: what the accepting clauses of the security statements take. -/

/-- The public key, and the fuses of a device that takes it as the vendor's. -/
def testKey : List Byte := beBytes 97 0x0461F3CFC2E51C9E7BE9AD67EE8FB990B276FC66604BB6901EB6EED44FFFBA0B4489950984A6918018BB5FB41CEA85179B36A6784BF9470D7DB7DD23622B688DAF6536CE2FCED4F4927210564839BB6D02DC35B7842496B9BA0BEFFD8542171392
def testNv : Nv := { vendorHash := beBytes 48 0xC6B83AC568854AEC2E3E36DDC7FBD745C8947061EA385466532FA676B94175C93F5B45794AF40994F05A28C0C346CD31, serial := 5 }

/-- An object of a body and a signature (spec/02_structure_image.md R21). -/
def signedObj (body : List Byte) (sig : Nat) : List Byte := body ++ testKey ++ List.replicate 15 0 ++ beBytes 96 sig

/-- An image of 0x250 bytes whose sections are zeros, VERSION 0. -/
def image0 : List Byte :=
  signedObj (List.replicate 8 0 ++ leBytes 4 0x250 ++ List.replicate 20 0 ++ beBytes 48 0x983980373213482DD5C9A5A424DB89418E3344C459FA31A356E42EAA28544CA01B9839F6593C9E5D79FD439B5DA6EBEF ++ List.replicate 304 0)
    0x06180F148652965BABED8337828621D587ADD4ED651074BF4472BE001767662506D95FBFD7BD9E20F540AC65CEC0446671CA1D74200BA3C0BF4F8DDB1B040220D4993A3E488BD23FC9BE041002985764AA6DB0E33A2AAEBC83D8929BF4058D0F

theorem image0_verifies : verifyStruct testNv.vendorHash testNv.ownerHash image0 = true := by decide +kernel

/-- A device whose load verifies, or whose slot 0 checks, the image at HBM 0x1000. -/
def imageIn (st : LoadState) : Dev := let d := jobAt { ringJob .checking with prog := 0x1000 } {} {}
  { d with str := { d.str with state := st, range := (0x1000, 0x250) }, mem := cellsAt (hbmCell d 0x1000) image0 }

theorem witness_imageVerifies :
    strImage (imageIn .verifying) = image0 ∧ (imageIn .verifying).str.state = .verifying ∧ spanOk (imageIn .verifying) 0x1000 0x250 0x1000000 = true
    ∧ progSpan (imageIn .loaded) 0x1000 = some image0 ∧ (checkOrder (imageIn .loaded)).head? = some 0 ∧ loading (imageIn .loaded) = false
    ∧ rollbackOk 0 (fieldLe image0 0x10 4) = true ∧ rollbackOk 1 (fieldLe image0 0x10 4) = false := by decide +kernel

theorem witness_imageFails : checkProg { d := imageIn .loaded, slot := 0, img := image0 } = .error (0x2E, 0) ∧ checkStruct (imageIn .checking) image0 0x1000 = .error (0x09, 0) := ⟨rfl, rfl⟩

/-- A firmware image with no payload, VERSION 0. -/
def firmware0 : List Byte :=
  signedObj (leBytes 4 0x56534C47 ++ leBytes 2 1 ++ leBytes 2 9 ++ leBytes 4 0x150 ++ List.replicate 20 0 ++ beBytes 48 0x38B060A751AC96384CD9327EB1B1E36A21FDB71114BE07434C0CC7BF63F6E1DA274EDEBFE76F65FBD51AD2F14898B95B ++ List.replicate 48 0)
    0x2AE57D1AE6D1ACCE39D4E14B5E8795D2899D728B9A334AC32C93CBEC69C91B09FFE8D66C0E2C6CAED2F49EAB17A186395F9D8021495FAD1DC5D010F2AC8931B5D36DB56B63B85566689240BCF98C5B47345543B3D590FE737EFEDA37B307411F

theorem witness_firmware : (checkFirmware testNv firmware0).toOption = some firmware0 ∧ firmware0.length = 0x150 := by decide +kernel

/-- An owner's enrolment for SERIAL 5, and a debug token for the challenge of zeros. -/
def enrolment0 : List Byte := signedObj (leBytes 4 0x454F4C47 ++ leBytes 4 0 ++ leBytes 8 5 ++ [1] ++ List.replicate 47 0)
  0x86F46EE1ED49343A6691EE4AD13E1569E3276A16F96D148EC865AC26B49639393460ED336E718580107B0E9F153A3C468C58237583460E77D9933FBC7F943B9826FC752B7D950FB77FE83A9AF9719F22D1099B0DB994D7F828EF3A98F4E388FF
def token0 : List Byte := signedObj (leBytes 4 0x55444C47 ++ leBytes 4 0 ++ leBytes 8 5 ++ List.replicate 48 0)
  0x2D074D9FAE019EB8EC0C643739BCABAD0A8FB3B88539BA4196069E389B5AE5F9EB47AF871E5FA9792611E4FE0EE715532CD8A5F659BBBEE0BF4BF43648F54C3B6EA1C4838050F8200FA4602EBDF4B391FC75B530A5A379709D9B16F4DAF2874B

theorem enrolment0_signed : signedBy testNv 0 enrolment0 = true := by decide +kernel
theorem token0_signed : signedBy testNv (if ownerEnrolled testNv then 1 else 0) token0 = true := by decide +kernel

/-- A MACsec key block of slot 0 and EPOCH 3 whose ephemeral key is no point. -/
def keyBlock0 : List Byte := signedObj (leBytes 4 0x4B534C47 ++ leBytes 4 0 ++ leBytes 4 3 ++ List.replicate 244 0)
  0x35F21EE4C582756D88E855C592D8CBF00CEEBD80069EB696B7F3F3ADF83638C01D927C5C610601C15C4B9AC230D2FBC9414AC9CD271F262DC9EACF4E0657E086C0D38302D12A324C1AA86D1F96CE795C9E2DAF62EE6E9356FFD9100959410DA5

theorem keyBlock0_signed : signedBy testNv (if ownerEnrolled testNv then 1 else 0) keyBlock0 = true := by decide +kernel

/-- A command message of channel 0 whose block stands in staging SRAM. -/
def blockAt (code : Nat) (b : List Byte) : Dev :=
  { secAt 0 .running [BitVec.ofNat 32 (0x02000000 + code), 0x7E00000, BitVec.ofNat 32 b.length] with mem := cellsAt (stagingCell 0x7E00000) b }

/-- The message. -/
def blockWord (code : Nat) (b : List Byte) : List Word := msgOf [BitVec.ofNat 32 (0x02000000 + code), 0x7E00000, BitVec.ofNat 32 b.length]

theorem witness_blocks :
    (∀ e ∈ [(1, enrolment0), (2, keyBlock0), (3, token0)], carriesB (blockAt e.1 e.2) 0 2 (blockWord e.1 e.2) = true ∧ commandBlock (blockAt e.1 e.2) (blockWord e.1 e.2) = some e.2)
    ∧ tokenOk enrolment0 0x454F4C47 = true ∧ ((enrolment0.drop 0x10).take 48).all (· == 0) = false ∧ fieldLe enrolment0 8 8 = testNv.serial.toNat ∧ ownerEnrolled testNv = false
    ∧ tokenOk token0 0x55444C47 = true ∧ fieldLe token0 0x30 16 = 0 ∧ fieldLe token0 8 8 = testNv.serial.toNat ∧ (token0.drop 0x10).take 32 = ({} : Sec).challenge
    ∧ keyBlockOk keyBlock0 = true ∧ wrappingKey testNv keyBlock0 = none ∧ fieldLe keyBlock0 4 1 = 0 ∧ fieldLe keyBlock0 8 4 = 3 := by decide +kernel

end Sys2Proof.Tests
end

section
/-! PROOFS. Register accesses (spec/00_scope.md R5 to R10): what a read or a write of each sort of register answers, and the
statements about them. -/

namespace Sys2Proof.Machine

/-! ## The rows of register accesses, outside RESET -/

section Rows

variable {s : State} {a : Accessor} {addr : Nat} {v : Word} (hs : asleep s.dev = false) (hw : a.wf = true)
include hs hw

theorem registerWrite_next : exec (.registerWrite a addr v) s = .next { s with dev := noteBus (regWrite s.dev a addr v) } := by
  change execRegisterWrite a addr v s = _
  rw [execRegisterWrite, onDev_next hw hs]

theorem rcRead_next : exec (.rcRead a addr) s = .next { s with dev := noteBus (regRead s.nv s.dev a addr) } := by
  change execRcRead a addr s = _
  rw [execRcRead, onDev_next hw hs]

theorem pairLoRead_next (h : isPairLo addr = true) :
    exec (.pairLoRead a addr) s = .next { s with dev := noteBus (regRead s.nv s.dev a addr) } := by
  change execPairLoRead a addr s = _
  rw [execPairLoRead, onDev_next hw hs, if_pos h]

theorem pairLoWrite_next (h : isPairLo addr = true) :
    exec (.pairLoWrite a addr v) s = .next { s with dev := noteBus (regWrite s.dev a addr v) } := by
  change execPairLoWrite a addr v s = _
  rw [execPairLoWrite, onDev_next hw hs, halfWrite, if_pos h]

theorem pairHiWrite_next (h : isPairHi addr = true) :
    exec (.pairHiWrite a addr v) s = .next { s with dev := noteBus (regWrite s.dev a addr v) } := by
  change execPairHiWrite a addr v s = _
  rw [execPairHiWrite, onDev_next hw hs, halfWrite, if_pos h]

end Rows

/-! ## Where the 64-bit pairs stand (R8) -/

/-- Every pair is aligned to 8 bytes, but HBM_PIN_FAILED of a stack, the only pair of its block. Mailboxes, Koliz ports, Cascade
groups and connections have none; a job slot has four and a core its pips. -/
theorem isPairLo_places {a : Nat} (h : isPairLo a = true) :
    a < 0x1900000
      ∧ (0x800000 ≤ a ∧ a < 0x8C0000 → a % 0x10000 = 0x34) ∧ (¬(0x800000 ≤ a ∧ a < 0x8C0000) → a % 8 = 0)
      ∧ ¬(0xA00000 ≤ a ∧ a < 0xC00000) ∧ ¬(0xD02000 ≤ a ∧ a < 0xF00000)
      ∧ (0x200000 ≤ a ∧ a < 0x300000 → a % 0x1000 = 0x20 ∨ a % 0x1000 = 0x28 ∨ a % 0x1000 = 0x30 ∨ a % 0x1000 = 0x40)
      ∧ (0x1000000 ≤ a → 0x100 ≤ a % 0x10000 ∧ a % 0x10000 < 0x180) := by
  simp only [isPairLo, pairRun, List.contains_eq_mem, List.mem_cons, List.not_mem_nil, or_false, Bool.or_eq_true, Bool.and_eq_true,
    beq_iff_eq, decide_eq_true_eq] at h
  omega

theorem regAddrOk_iff {a : Nat} : regAddrOk a = true ↔ a % 4 = 0 ∧ a < 0x1900000 := by simp [regAddrOk]

theorem mbxGuarded_outside {a : Nat} (h : ¬(0xE00000 ≤ a ∧ a < 0xF00000)) : mbxGuarded a = none := by
  rw [mbxGuarded, if_neg]
  simp only [Bool.and_eq_true, decide_eq_true_eq]
  omega

theorem regAddrOk_of_isPairLo {a : Nat} (h : isPairLo a = true) : regAddrOk a = true := by
  have := isPairLo_places h
  rw [regAddrOk_iff]
  omega

theorem mbxGuarded_of_isPairLo {a : Nat} (h : isPairLo a = true) : mbxGuarded a = none := by
  have := isPairLo_places h
  exact mbxGuarded_outside (by omega)

theorem isPairHi_add_four (a : Nat) : isPairHi (a + 4) = isPairLo a := by simp [isPairHi]

/-- No half is both the HI half of one pair and the LO half of the next. -/
theorem isPairLo_hi {a : Nat} (h : isPairLo a = true) : isPairLo (a + 4) = false := by
  have hlo := isPairLo_places h
  rw [Bool.eq_false_iff]
  intro hhi
  have := isPairLo_places hhi
  omega

theorem mbxGuarded_hi {a : Nat} (h : isPairLo a = true) : mbxGuarded (a + 4) = none := by
  have := isPairLo_places h
  exact mbxGuarded_outside (by omega)

/-! ## Refusals -/

theorem noteBus_busRefuse (d : Dev) (a : Accessor) (r : Byte) :
    (a ≠ .mgt → noteBus (busRefuse d a r) = { d with bus := { value := 0, error := r } })
      ∧ (a = .mgt → noteBus (busRefuse d a r)
          = { d with bus := { value := 0, error := r }, pld := { d.pld with mgtRefused := true, mgtReason := r } }) := by
  cases a <;> simp [noteBus, busRefuse]

theorem regWrite_denied {d : Dev} {a : Accessor} {addr : Nat} {v : Word} (h : writeDenied a addr = true) :
    regWrite d a addr v = busRefuse d a 0x94 := if_pos h

theorem regWrite_badAddr {d : Dev} {a : Accessor} {addr : Nat} {v : Word} (hd : writeDenied a addr = false) (h : regAddrOk addr = false) :
    regWrite d a addr v = busRefuse d a 0x93 := by simp [regWrite, hd, h]

theorem regRead_badAddr {nv : Nv} {d : Dev} {a : Accessor} {addr : Nat} (h : regAddrOk addr = false) :
    regRead nv d a addr = busRefuse d a 0x93 := by simp [regRead, h]

/-- To an accessor other than MGT no register but a board register is denied (R401). -/
theorem writeDenied_eq_false {a : Accessor} {addr : Nat} (ha : a ≠ .mgt) (hb : boardReg addr = false) : writeDenied a addr = false := by
  cases a <;> simp_all [writeDenied]

/-! ## Halves of pairs (R8) -/

theorem regRead_pairLo {nv : Nv} {d : Dev} {a : Accessor} {addr : Nat} (h : isPairLo addr = true) :
    regRead nv d a addr = busOk
      { d with readLatch := tabSet none d.readLatch (accCode a) (some { pair := addr, half := BitVec.ofNat 32 (regValue nv d (addr + 4)) }) }
      (BitVec.ofNat 32 (regValue nv d addr)) := by
  simp [regRead, regAddrOk_of_isPairLo h, mbxGuarded_of_isPairLo h, h]

theorem regWrite_pairLo {d : Dev} {a : Accessor} {addr : Nat} {v : Word} (hd : writeDenied a addr = false) (h : isPairLo addr = true) :
    regWrite d a addr v = busOk { d with writeLatch := tabSet none d.writeLatch (accCode a) (some { pair := addr, half := v }) } 0 := by
  simp [regWrite, hd, regAddrOk_of_isPairLo h, mbxGuarded_of_isPairLo h, h]

section ReadHi

variable {nv : Nv} {d : Dev} {a : Accessor} {addr : Nat} (h : isPairLo addr = true) (hok : regAddrOk (addr + 4) = true)
include h hok

theorem regRead_pairHi_latched {l : Latch} (hl : tabGet none d.readLatch (accCode a) = some l) (hp : l.pair = addr) :
    regRead nv d a (addr + 4) = busOk d l.half := by
  simp [regRead, hok, mbxGuarded_hi h, isPairLo_hi h, isPairHi_add_four, h, hl, hp]

theorem regRead_pairHi_live (hl : ∀ l, tabGet none d.readLatch (accCode a) = some l → l.pair ≠ addr) :
    regRead nv d a (addr + 4) = busOk d (BitVec.ofNat 32 (regValue nv d (addr + 4))) := by
  cases hg : tabGet none d.readLatch (accCode a) with
  | none => simp [regRead, hok, mbxGuarded_hi h, isPairLo_hi h, isPairHi_add_four, h, hg]
  | some l => simp [regRead, hok, mbxGuarded_hi h, isPairLo_hi h, isPairHi_add_four, h, hg, hl l hg]

end ReadHi

section WriteHi

variable {d : Dev} {a : Accessor} {addr : Nat} {v : Word} (hd : writeDenied a (addr + 4) = false)
  (h : isPairLo addr = true) (hok : regAddrOk (addr + 4) = true)
include hd h hok

theorem regWrite_pairHi_latched {l : Latch} (hl : tabGet none d.writeLatch (accCode a) = some l) (hp : l.pair = addr) :
    regWrite d a (addr + 4) v
      = busOk (pairWrite { d with writeLatch := tabSet none d.writeLatch (accCode a) none } addr (some l.half) v) 0 := by
  simp [regWrite, hd, hok, mbxGuarded_hi h, isPairLo_hi h, isPairHi_add_four, h, hl, hp]

theorem regWrite_pairHi_unlatched (hl : ∀ l, tabGet none d.writeLatch (accCode a) = some l → l.pair ≠ addr) :
    regWrite d a (addr + 4) v = busOk (pairWrite d addr none v) 0 := by
  cases hg : tabGet none d.writeLatch (accCode a) with
  | none => simp [regWrite, hd, hok, mbxGuarded_hi h, isPairLo_hi h, isPairHi_add_four, h, hg]
  | some l => simp [regWrite, hd, hok, mbxGuarded_hi h, isPairLo_hi h, isPairHi_add_four, h, hg, hl l hg]

end WriteHi

/-! CLP_SET_FRAME, a pair that every accessor but MGT may write (spec/04_clepsydra_and_scheduling.md R91). Its new clock stands
as a variable in the rule for the answer: the kernel then compares records without computing the value. -/

theorem pairValue_some (cur : Nat) (lo hi : Word) : pairValue cur (some lo) hi = hi.toNat * 2 ^ 32 + lo.toNat := rfl

theorem pairValue_none (cur : Nat) (hi : Word) : pairValue cur none hi = hi.toNat * 2 ^ 32 + cur % 2 ^ 32 := rfl

theorem pairWrite_setFrame (d : Dev) (lo : Option Word) (hi : Word) : pairWrite d 0x400018 lo hi
    = { d with clp := { d.clp with setFrame := BitVec.ofNat 40 (pairValue d.clp.setFrame.toNat lo hi) } } := rfl

theorem noteBus_busOk_clp (d : Dev) (c : Clp) : noteBus (busOk { d with clp := c } 0) = { d with bus := {}, clp := c } := rfl

section SetFrame

variable {d : Dev} {a : Accessor} {v : Word} (ha : a ≠ .mgt)
include ha

theorem regWrite_setFrame_latched {l : Latch} (hl : tabGet none d.writeLatch (accCode a) = some l) (hp : l.pair = 0x400018) :
    noteBus (regWrite d a 0x40001C v) = { d with
      bus := {}
      writeLatch := tabSet none d.writeLatch (accCode a) none
      clp := { d.clp with setFrame := BitVec.ofNat 40 (v.toNat * 2 ^ 32 + l.half.toNat) } } := by
  have hd : writeDenied a (0x400018 + 4) = false := writeDenied_eq_false ha rfl
  rw [show (0x40001C : Nat) = 0x400018 + 4 from rfl, regWrite_pairHi_latched hd rfl rfl hl hp, pairWrite_setFrame, noteBus_busOk_clp,
    pairValue_some]

theorem regWrite_setFrame_unlatched (hl : ∀ l, tabGet none d.writeLatch (accCode a) = some l → l.pair ≠ 0x400018) :
    noteBus (regWrite d a 0x40001C v) = { d with
      bus := {}
      clp := { d.clp with setFrame := BitVec.ofNat 40 (v.toNat * 2 ^ 32 + d.clp.setFrame.toNat % 2 ^ 32) } } := by
  have hd : writeDenied a (0x400018 + 4) = false := writeDenied_eq_false ha rfl
  rw [show (0x40001C : Nat) = 0x400018 + 4 from rfl, regWrite_pairHi_unlatched hd rfl rfl hl, pairWrite_setFrame, noteBus_busOk_clp,
    pairValue_none]

end SetFrame

/-! ## Whole words -/

/-- `addr` names a register of its own: no half of a pair, and no register that R421 guards. -/
def plainWord (addr : Nat) : Bool := regAddrOk addr && (mbxGuarded addr).isNone && !isPairLo addr && !isPairHi addr

theorem plainWord_iff {addr : Nat} :
    plainWord addr = true ↔ regAddrOk addr = true ∧ mbxGuarded addr = none ∧ isPairLo addr = false ∧ isPairHi addr = false := by
  simp [plainWord, and_assoc]

theorem regWrite_plain {d : Dev} {a : Accessor} {addr : Nat} {v : Word} (hp : plainWord addr = true) (hd : writeDenied a addr = false) :
    regWrite d a addr v = busOk (wordWrite d addr v) 0 := by
  obtain ⟨hok, hm, hlo, hhi⟩ := plainWord_iff.mp hp
  simp [regWrite, hd, hok, hm, hlo, hhi]

theorem regRead_plain {nv : Nv} {d : Dev} {a : Accessor} {addr : Nat} (hp : plainWord addr = true) :
    regRead nv d a addr = busOk (clearRc d addr) (BitVec.ofNat 32 (regValue nv d addr)) := by
  obtain ⟨hok, hm, hlo, hhi⟩ := plainWord_iff.mp hp
  simp [regRead, hok, hm, hlo, hhi]

/-- An accessor's write of a word of its own does what the word's block says. -/
theorem registerWrite_plain {s : State} {a : Accessor} {addr : Nat} {v : Word} {e : Dev} (hs : asleep s.dev = false) (hw : a.wf = true)
    (hd : writeDenied a addr = false) (hp : plainWord addr = true) (he : wordWrite s.dev addr v = e) :
    Yields (exec (.registerWrite a addr v) s) s { e with bus := {} } := by
  subst he
  rw [Yields, registerWrite_next hs hw, regWrite_plain hp hd]
  rfl

/-! ## The low bits of a written word -/

theorem ofNat_wBits_low (v : Word) (n : Nat) : BitVec.ofNat (n + 1) (wBits v n 0) = v.truncate (n + 1) := by
  apply BitVec.eq_of_toNat_eq
  simp [wBits, natBits]

/-! ## Writes of the blocks that repeat

The address of each is given with the number of its unit and its offset in the unit. -/

theorem plainWord_of_not_pair {addr : Nat} (h : addr % 4 = 0 ∧ addr < 0x1900000 ∧ ¬(0xE00000 ≤ addr ∧ addr < 0xF00000))
    (hp : ∀ p, isPairLo p = true → p ≠ addr ∧ p ≠ addr - 4) : plainWord addr = true := by
  have hlo : isPairLo addr = false := by
    rw [Bool.eq_false_iff]
    exact fun hc => (hp _ hc).1 rfl
  have hhi : isPairLo (addr - 4) = false := by
    rw [Bool.eq_false_iff]
    exact fun hc => (hp _ hc).2 rfl
  exact plainWord_iff.mpr ⟨regAddrOk_iff.mpr ⟨h.1, h.2.1⟩, mbxGuarded_outside h.2.2, hlo, by simp [isPairHi, hhi]⟩

theorem boardReg_outside {a : Nat} (h : ¬(0xD00000 ≤ a ∧ a < 0xE00000)) : boardReg a = false := by
  rw [boardReg, Bool.and_eq_false_imp]
  simp only [Bool.and_eq_true, decide_eq_true_eq]
  exact fun hin => absurd hin h

section Blocks

variable {s : State} {a : Accessor} {v : Word} {addr : Nat} (hs : asleep s.dev = false) (hw : a.wf = true)
include hs hw

section NotMgt

variable (ha : a ≠ .mgt)
include ha

theorem registerWrite_unpaired {e : Dev} (hin : addr % 4 = 0 ∧ addr < 0x1900000 ∧ ¬(0xD00000 ≤ addr ∧ addr < 0xF00000))
    (hp : ∀ p, isPairLo p = true → p ≠ addr ∧ p ≠ addr - 4) (he : wordWrite s.dev addr v = e) :
    Yields (exec (.registerWrite a addr v) s) s { e with bus := {} } := by
  have hd : writeDenied a addr = false := writeDenied_eq_false ha (boardReg_outside (by omega))
  exact registerWrite_plain hs hw hd (plainWord_of_not_pair (by omega) hp) he

theorem registerWrite_job {slot o : Nat} (hk : slot < 64) (ho : o = 0x04 ∨ o = 0x0C ∨ o = 0x38) (he : addr = 0x200000 + 0x1000 * slot + o) :
    Yields (exec (.registerWrite a addr v) s) s { writeJob s.dev slot o v with bus := {} } := by
  have hu : (addr - 0x200000) / 0x1000 = slot := by omega
  have hm : addr % 0x1000 = o := by omega
  refine registerWrite_unpaired hs hw ha (by omega) (fun p h => by have := isPairLo_places h; omega) ?_
  rw [wordWrite]
  simp (disch := omega) only [if_neg, if_pos, hu, hm]

theorem registerWrite_stack {k o : Nat} (hk : k < 12) (ho : o = 0x04 ∨ o = 0x08) (he : addr = 0x800000 + 0x10000 * k + o) :
    Yields (exec (.registerWrite a addr v) s) s { writeHbm s.dev k o v with bus := {} } := by
  have hu : (addr - 0x800000) / 0x10000 = k := by omega
  have hm : addr % 0x10000 = o := by omega
  refine registerWrite_unpaired hs hw ha (by omega) (fun p h => by have := isPairLo_places h; omega) ?_
  rw [wordWrite]
  simp (disch := omega) only [if_neg, if_pos, hu, hm]

theorem registerWrite_port {n : Nat} (hk : n < 16) (he : addr = 0xA00000 + 0x10000 * n) :
    Yields (exec (.registerWrite a addr v) s) s { writePort s.dev n 0 v with bus := {} } := by
  have hu : (addr - 0xA00000) / 0x10000 = n := by omega
  have hm : addr % 0x10000 = 0 := by omega
  refine registerWrite_unpaired hs hw ha (by omega) (fun p h => by have := isPairLo_places h; omega) ?_
  rw [wordWrite]
  simp (disch := omega) only [if_neg, if_pos, hu, hm]

theorem registerWrite_core {c : Nat} (hk : c < 144) (he : addr = 0x1000000 + 0x10000 * c) :
    Yields (exec (.registerWrite a addr v) s) s { writeCore s.dev c 0 v with bus := {} } := by
  have hu : (addr - 0x1000000) / 0x10000 = c := by omega
  have hm : addr % 0x10000 = 0 := by omega
  refine registerWrite_unpaired hs hw ha (by omega) (fun p h => by have := isPairLo_places h; omega) ?_
  rw [wordWrite]
  simp (disch := omega) only [if_neg, if_pos, hu, hm]

end NotMgt

/-- PEER of a connection, which of all accessors but MGT the service processor alone may write (R401). -/
theorem registerWrite_peer (ha : a = .svp) {h : Nat} (hk : h < 8) (he : addr = 0xD03004 + 0x100 * h) :
    Yields (exec (.registerWrite a addr v) s) s { connWrite s.dev h 0x04 v with bus := {} } := by
  have hp : plainWord addr = true := plainWord_of_not_pair (by omega) fun p h => by have := isPairLo_places h; omega
  have hu : (addr - 0xD00000 - 0x3000) / 0x100 = h := by omega
  have hm : (addr - 0xD00000) % 0x100 = 0x04 := by omega
  refine registerWrite_plain hs hw (by rw [ha]; rfl) hp ?_
  rw [wordWrite]
  simp (disch := omega) only [if_neg, if_pos]
  rw [writePld]
  simp (disch := omega) only [if_neg, if_pos, beq_iff_eq, Bool.and_eq_true, decide_eq_true_eq, hu, hm]

end Blocks

theorem whileIdle_idle {d : Dev} {slot : Nat} (f : Job → Job) (h : (d.job slot).state = .idle) : whileIdle d slot f = d.modJob slot f :=
  if_pos (by simp [h])

theorem whileIdle_taken {d : Dev} {slot : Nat} (f : Job → Job) (h : (d.job slot).state ≠ .idle) : whileIdle d slot f = d :=
  if_neg (by simp [h])

theorem writeJob_ringSizes (d : Dev) (slot : Nat) (v : Word) : writeJob d slot 0x38 v
    = whileIdle d slot (fun j => { j with cplLog2 := BitVec.ofNat 5 (v.toNat / 256 % 32), cardLog2 := v.truncate 5 }) := by
  rw [← ofNat_wBits_low]
  rfl

theorem writeHbm_threshold (d : Dev) (k : Nat) (v : Word) :
    writeHbm d k 0x04 v = d.modStack k (fun x => { x with threshold := v.truncate 16 }) := by
  rw [← ofNat_wBits_low]
  rfl

theorem connWrite_peerPort (d : Dev) (h : Nat) (v : Word) : connWrite d h 0x04 v = d.modConn h (fun x => { x with
    conf := { x.conf with peerPort := v.truncate 16 }, state := if x.state = .opened then .draining else x.state }) := by
  rw [← ofNat_wBits_low]
  simp [connWrite, connWord]

/-! ## Counters that a read clears (R10) -/

/-- RC_READ of the frame count of an Ethernet port. -/
theorem regRead_ethFrames (nv : Nv) (d : Dev) (a : Accessor) {n : Nat} (hn : n < 2) :
    regRead nv d a (0xD00040 + 0x1000 * n) = busOk (d.setEthp n { d.ethp n with frames := 0 }) (d.ethp n).frames := by
  have hp : plainWord (0xD00040 + 0x1000 * n) = true := by interval_cases n <;> rfl
  have hv : regValue nv d (0xD00040 + 0x1000 * n) = (d.ethp n).frames.toNat := by interval_cases n <;> rfl
  have hc : clearRc d (0xD00040 + 0x1000 * n) = d.setEthp n { d.ethp n with frames := 0 } := by interval_cases n <;> rfl
  rw [regRead_plain hp, hv, hc, BitVec.ofNat_toNat, BitVec.setWidth_eq]

/-- RC_READ of the request count of a connection. -/
theorem regRead_connRequests (nv : Nv) (d : Dev) (a : Accessor) {h : Nat} (hh : h < 8) :
    regRead nv d a (0xD03040 + 0x100 * h) = busOk (d.setConn h { d.conn h with requests := 0 }) (d.conn h).requests := by
  have hp : plainWord (0xD03040 + 0x100 * h) = true := by interval_cases h <;> rfl
  have hv : regValue nv d (0xD03040 + 0x100 * h) = (d.conn h).requests.toNat := by interval_cases h <;> rfl
  have hc : clearRc d (0xD03040 + 0x100 * h) = d.setConn h { d.conn h with requests := 0 } := by interval_cases h <;> rfl
  rw [regRead_plain hp, hv, hc, BitVec.ofNat_toNat, BitVec.setWidth_eq]

/-- Settles O33: each access is the one form of `regRead` or `regWrite` that its address and the accessor's latch select. -/
theorem registerAccessesLatchAndClear : Obligations.RegisterAccessesLatchAndClear := by
  unfold Obligations.RegisterAccessesLatchAndClear
  intro s a addr v hs hw
  refine ⟨?badWrite, ?denied, ?badRead, ?pairLoWrite, ?pairLoRead, ?pairHiRead, ?setLatched, ?setUnlatched, ?frames, ?requests⟩
  case badWrite =>
    intro hok hd
    exact ⟨_, registerWrite_next hs hw, by rw [regWrite_badAddr hd hok]; exact noteBus_busRefuse _ _ _⟩
  case denied =>
    intro hd
    exact ⟨_, registerWrite_next hs hw, by rw [regWrite_denied hd]; exact noteBus_busRefuse _ _ _⟩
  case badRead =>
    intro hok
    exact ⟨_, rcRead_next hs hw, by rw [regRead_badAddr hok]; exact noteBus_busRefuse _ _ _⟩
  case pairLoWrite =>
    intro hlo hd
    have latched := congrArg noteBus (regWrite_pairLo (d := s.dev) (v := v) hd hlo)
    exact ⟨⟨_, pairLoWrite_next hs hw hlo, latched⟩, ⟨_, registerWrite_next hs hw, latched⟩⟩
  case pairLoRead =>
    intro hlo
    exact ⟨_, pairLoRead_next hs hw hlo, congrArg noteBus (regRead_pairLo hlo)⟩
  case pairHiRead =>
    intro hlo hok
    constructor
    · intro l hl hp
      exact ⟨_, rcRead_next hs hw, congrArg noteBus (regRead_pairHi_latched hlo hok hl hp)⟩
    · intro hl
      exact ⟨_, rcRead_next hs hw, congrArg noteBus (regRead_pairHi_live hlo hok hl)⟩
  case setLatched =>
    intro l ha hl hp
    exact ⟨_, pairHiWrite_next hs hw rfl, regWrite_setFrame_latched ha hl hp⟩
  case setUnlatched =>
    intro ha hl
    exact ⟨_, pairHiWrite_next hs hw rfl, regWrite_setFrame_unlatched ha hl⟩
  case frames =>
    intro n hn
    refine ⟨_, rcRead_next hs hw, ?_⟩
    rw [regRead_ethFrames _ _ _ hn]
    exact ⟨rfl, Dev.ethp_setEthp_self _ _ _, fun k hk => (Dev.ethp_setEthp _ _ _ _).trans (if_neg hk), rfl⟩
  case requests =>
    intro h hh
    refine ⟨_, rcRead_next hs hw, ?_⟩
    rw [regRead_connRequests _ _ _ hh]
    exact ⟨rfl, Dev.conn_setConn_self _ _ _, fun k hk => (Dev.conn_setConn _ _ _ _).trans (if_neg hk), rfl⟩

/-- Settles O34: no address named is half of a pair or guarded, so each write is its block's, which stores the fields of the word. -/
theorem registerWritesKeepTheirFields : Obligations.RegisterWritesKeepTheirFields := by
  unfold Obligations.RegisterWritesKeepTheirFields
  intro s a v hs hw ha
  have word {addr : Nat} {e : Dev} (hp : plainWord addr = true) (hb : boardReg addr = false) (he : wordWrite s.dev addr v = e) :
      Yields (exec (.registerWrite a addr v) s) s { e with bus := {} } :=
    registerWrite_plain hs hw (writeDenied_eq_false ha hb) hp he
  refine ⟨word rfl rfl rfl, word rfl rfl rfl, word rfl rfl rfl, word rfl rfl rfl, ?pulseFrames, word rfl rfl rfl, word rfl rfl rfl,
    word rfl rfl rfl, word rfl rfl rfl, ?requested, word rfl rfl rfl, ?stackWords, ?slotWords, ?cores, ?ports, ?readOnly, ?conns⟩
  case pulseFrames => exact word rfl rfl (by rw [← ofNat_wBits_low]; rfl)
  case requested => exact word rfl rfl (by rw [← ofNat_wBits_low]; rfl)
  case stackWords =>
    intro k hk
    rw [← writeHbm_threshold]
    exact ⟨registerWrite_stack hs hw ha hk (.inl rfl) (by omega), registerWrite_stack hs hw ha hk (.inr rfl) (by omega)⟩
  case slotWords =>
    intro slot hk
    have live := registerWrite_job (v := v) hs hw ha hk (.inr (.inl rfl)) (show 0x20000C + 0x1000 * slot = _ by omega)
    have sizes := registerWrite_job (v := v) hs hw ha hk (.inr (.inr rfl)) (show 0x200038 + 0x1000 * slot = _ by omega)
    rw [writeJob_ringSizes] at sizes
    refine ⟨fun hidle => ?_, fun hbusy => ?_, registerWrite_job hs hw ha hk (.inl rfl) (by omega)⟩
    · rw [← whileIdle_idle _ hidle, ← whileIdle_idle _ hidle]
      exact ⟨live, sizes⟩
    · rw [writeJob, whileIdle_taken _ hbusy] at live
      rw [whileIdle_taken _ hbusy] at sizes
      exact ⟨live, sizes⟩
  case cores => exact fun c hk => registerWrite_core hs hw ha hk (by omega)
  case ports => exact fun n hk => registerWrite_port hs hw ha hk (by omega)
  case readOnly =>
    intro addr h
    simp only [List.mem_cons, List.not_mem_nil, or_false] at h
    rcases h with rfl | rfl | rfl | rfl | rfl | rfl | rfl | rfl | rfl <;> exact word rfl rfl rfl
  case conns =>
    intro hsvp h hk
    rw [← connWrite_peerPort]
    exact registerWrite_peer hs hw hsvp hk (by omega)

end Sys2Proof.Machine
end

section
/-! PROOFS. The form of every command's answer (spec/01_anatomy.md R11, R12; spec/16_security.md R449): each meaning is one of the three
shared forms over the test of the units it names, and the one stop beside them is a JTAG instruction that the manual leaves without a
meaning after the debug unlock. -/

namespace Sys2Proof.Machine

/-- The forms the answer to `c` can have: a meaning over the volatile part and one that may also change fuses and flash, each under the
test `c.wf` of the units it names, one of the pins, which name no unit, and the refusal of what R449 leaves without a meaning. -/
inductive AnswerForm (c : Instr) (s : State) : Out → Prop
  | volatile {ok : Bool} (hok : ok = c.wf) (f : Nv → Dev → Dev) : AnswerForm c s (onDev ok f s)
  | lasting {ok : Bool} (hok : ok = c.wf) (f : Nv → Dev → Nv × Dev) : AnswerForm c s (onBoth ok f s)
  | pins (hpin : ofPins c = true) (f : Nv → Dev → Dev) : AnswerForm c s (onPins f s)
  | unspecified {k : Nat} (hc : c = .jtagInstruction (.private_ k)) (hdebug : s.dev.sec.debugUnlocked = true) :
      AnswerForm c s (.refused (.privateJtag k))

/-- A JTAG instruction acts as a pin does, but for one other than the four named once debug is unlocked (R449). -/
theorem execJtagInstruction_form (op : JtagOp) (s : State) : AnswerForm (.jtagInstruction op) s (execJtagInstruction op s) := by
  cases op with
  | private_ k =>
    rw [execJtagInstruction]
    split
    case isTrue hdebug => exact .unspecified rfl hdebug
    case isFalse => exact .pins rfl _
  | bypass | idcode | samplePreload | extest =>
    unfold execJtagInstruction
    exact .pins rfl _

theorem fenceArrives_form {c : Instr} {kind port : Nat} {p : Packet} {s : State} (hw : is16 port = c.wf) :
    AnswerForm c s (fenceArrives kind port p s) := .volatile hw _

/-- The answer to every command has one of the forms. -/
theorem exec_form (c : Instr) (s : State) : AnswerForm c s (exec c s) := by
  unfold exec
  cases c with
  | strCheckDone | jobCheckDone | hbmTrainDone | boardRecordLoad | enrollOwner | loadMacsec | debugUnlock | commitFw | fwFragment =>
    exact .lasting rfl _
  | vinApply | powerGood | vinExcursion | vinUndervoltage | vinOvervoltage | resetAssert | resetRelease | refclkAbsent | timeClkLoss
  | timeClkPresent => exact .pins rfl _
  | jtagInstruction op => exact execJtagInstruction_form op s
  | fenceArriveReceive | fenceDecideReceive | fenceAbortReceive | fenceReplayReceive | fenceStopReceive | fenceAbsentReceive =>
    exact fenceArrives_form rfl
  | _ => exact .volatile rfl _

/-- The commands of the pins name no unit. -/
theorem wf_of_ofPins {c : Instr} (h : ofPins c = true) : c.wf = true := by
  cases c with
  | vinApply | powerGood | vinExcursion | vinUndervoltage | vinOvervoltage | resetAssert | resetRelease | refclkAbsent | timeClkLoss
  | timeClkPresent | jtagInstruction => rfl
  | _ => cases h

/-! ## What each form answers -/

theorem onDev_completes (f : Nv → Dev → Dev) (s : State) : Completes (onDev true f s) := ⟨_, rfl⟩

theorem onBoth_completes (f : Nv → Dev → Nv × Dev) (s : State) : Completes (onBoth true f s) := by
  cases h : asleep s.dev with
  | true => exact ⟨_, onBoth_asleep rfl h⟩
  | false => exact ⟨_, onBoth_next rfl h⟩

namespace AnswerForm

variable {c : Instr} {s : State} {o : Out}

/-- On units that exist only the refusal is no next state, and a locked debug port rules it out. -/
theorem completes (h : AnswerForm c s o) (hw : c.wf = true)
    (hlocked : ∀ k, c = .jtagInstruction (.private_ k) → s.dev.sec.debugUnlocked = false) : Completes o := by
  cases h with
  | volatile hok f => rw [hok, hw]; exact onDev_completes f s
  | lasting hok f => rw [hok, hw]; exact onBoth_completes f s
  | pins _ f => exact ⟨_, rfl⟩
  | unspecified hc hdebug => rw [hlocked _ hc] at hdebug; cases hdebug

/-- On a unit that does not exist the tested forms fault; no command of the others names one. -/
theorem noSuchUnit (h : AnswerForm c s o) (hw : c.wf = false) : o = .fault .noSuchUnit := by
  cases h with
  | volatile hok f => rw [hok, hw]; rfl
  | lasting hok f => rw [hok, hw]; rfl
  | pins hpin => rw [wf_of_ofPins hpin] at hw; cases hw
  | unspecified hc => subst hc; cases hw

end AnswerForm

/-- Settles O4: every answer has one of the forms, and each form is settled by the test of the units. -/
theorem commandsOnExistingUnitsComplete : Obligations.CommandsOnExistingUnitsComplete := by
  unfold Obligations.CommandsOnExistingUnitsComplete
  intro c s
  exact ⟨(exec_form c s).completes, (exec_form c s).noSuchUnit⟩

end Sys2Proof.Machine
end

section
/-! PROOFS. The end of a rebind of a logical core that lies in no basin (spec/02_structure_image.md R22, R32;
spec/04_clepsydra_and_scheduling.md R114). REBIND_COMPLETE goes on to the four job slots from four times the core's basin. A logical core
that is not defined reads basin 0xFF, so these are slots 1020 to 1023: no slots of the GL9, and none of the 64 whose idleness the
statement asks for. -/

namespace Sys2Proof.Machine

/-- An open turn whose card is all zeros. -/
def openTurn : Turn := { card := parseCard [], admitClp := 0, admitElapsed := 0, wcet := 0 }

/-- A rebind of logical core 0 onto physical core 12, which is not in its home cluster, with no structure in force; the job table lists
an open turn at slot 1020. -/
def rebindOutsideBasins : Dev :=
  { sys := { state := .ready }
    str := { bind := [(0, 12)], rebinds := [(0, some { target := 12, asked := false })] }
    jobs := [(1020, { turn := some openTurn })] }

theorem rebindComplete_next {s : State} {l : Nat} (hl : l < 144) (h : asleep s.dev = false) :
    exec (.rebindComplete l) s = .next { s with dev := rebindComplete s.dev l } :=
  onDev_next (f := fun _ d => rebindComplete d l) (show isCore l = true from decide_eq_true hl) h

/-- Neither the basin of the core nor any of the 64 slots has anything to do. -/
theorem rebindOutsideBasins_idle :
    rebindOutsideBasins.basin (rebindOutsideBasins.coreRec 0).basin = {} ∧ ∀ j, j < 64 → rebindOutsideBasins.job j = {} := by decide

/-- The basin is FAR, and its end marks the turn at slot 1020 so (R114). -/
theorem rebindOutsideBasins_marksTurn :
    ((rebindComplete rebindOutsideBasins 0).job 1020).turn = some { openTurn with far := true } := by decide

/-- Refutes O38: the rebind of an undefined logical core, whose basin is 0xFF, marks a turn that the job table lists at slot 1020, where the
statement has the end of a rebind in an idle basin leave every job alone. -/
theorem not_fencedCoresAreRebound : ¬ Obligations.FencedCoresAreRebound := by
  unfold Obligations.FencedCoresAreRebound
  intro h
  obtain ⟨-, -, completes, -⟩ := h { dev := rebindOutsideBasins } rfl
  obtain ⟨basin, jobs⟩ := rebindOutsideBasins_idle
  have idle := completes 0 { target := 12, asked := false } (by decide) rfl
    ⟨by rw [basin], by rw [basin], by rw [basin], fun j hj => by rw [jobs j hj]; decide, by decide⟩ rfl (by decide) rfl
  obtain ⟨e, hnext, -, -, -, -, -, hkept⟩ := idle
  have kept : (e.job 1020).turn = some openTurn := by rw [hkept]; rfl
  rw [rebindComplete_next (by decide) rfl] at hnext
  cases hnext
  exact absurd (rebindOutsideBasins_marksTurn.symm.trans kept) (by decide)

end Sys2Proof.Machine
end

section
/-! PROOFS. What reads of HBM, copies into core SRAM and packets on the ports leave alone (spec/12_hbm.md R303 to R307;
spec/02_structure_image.md R36; spec/13_koliz_fabric.md R326, R333, R351). Each is a relation between the device before and after, which
holds of a sequence of steps when it holds of each. -/

namespace Sys2Proof.Machine

/-- A sequence of steps keeps what each of them keeps. -/
theorem foldl_keeps {α β : Type} {R : α → α → Prop} {f : α → β → α} (refl : ∀ a, R a a) (trans : ∀ {a b c}, R a b → R b c → R a c)
    (step : ∀ a b, R a (f a b)) (l : List β) (a : α) : R a (l.foldl f a) :=
  List.foldlRecOn l f (refl a) fun _ h b _ => trans h (step _ b)

/-! ## Reads of HBM (R303, R304, R307) -/

theorem hbmRead_refl (d : Dev) : HbmRead d d := ⟨rfl, fun _ => rfl, fun _ h => h⟩

theorem hbmRead_trans {d e f : Dev} (h : HbmRead d e) (k : HbmRead e f) : HbmRead d f := by
  obtain ⟨honly, hstack, hmarks⟩ := h
  obtain ⟨konly, kstack, kmarks⟩ := k
  refine ⟨?_, fun i => ?_, fun u hu => kmarks u (hmarks u hu)⟩
  · rw [konly, honly]
  · rw [kstack i, hstack i]
    rfl

/-- A stack that differs in what a read may change. -/
theorem hbmRead_setStack {d : Dev} {s : Nat} {x : Stack} (h : x = (d.stack s).read x) : HbmRead d (d.setStack s x) := by
  refine ⟨rfl, fun k => ?_, fun _ h => h⟩
  rw [Dev.stack_setStack]
  split
  case isTrue hk => rw [hk]; exact h
  case isFalse => rfl

theorem recordRepair_hbmRead (d : Dev) (s : Nat) (r : Row) : HbmRead d (recordRepair d s r) := by
  unfold recordRepair
  dsimp only
  split
  · exact hbmRead_refl d
  · exact ⟨rfl, fun _ => rfl, fun _ h => h⟩

@[simp] theorem recordRepair_stack (d : Dev) (s : Nat) (r : Row) (k : Nat) : (recordRepair d s r).stack k = d.stack k := by
  unfold recordRepair
  dsimp only
  split <;> rfl

theorem countRow_hbmRead (d : Dev) (s : Nat) (r : Row) (whole : Bool) : HbmRead d (countRow d s r whole) := by
  have recorded {x : Stack} (h : x = (d.stack s).read x) : HbmRead d ((recordRepair d s r).setStack s x) :=
    hbmRead_trans (recordRepair_hbmRead d s r) (hbmRead_setStack (by rw [recordRepair_stack]; exact h))
  unfold countRow
  split
  · exact hbmRead_refl d
  extract_lets x old n y d' full
  split
  · exact hbmRead_setStack (x := y) rfl
  split
  · exact recorded (x := y) rfl
  split
  · exact recorded (x := startRemap d' y r) rfl
  · exact recorded (x := { y with remapQueue := y.remapQueue ++ [r] }) rfl

theorem capture_read (x : Stack) (pc slot burst position kind : Nat) :
    capture x pc slot burst position kind = x.read (capture x pc slot burst position kind) := by
  unfold capture
  split <;> rfl

theorem countSymbol_read (d : Dev) (x : Stack) (pc position : Nat) : countSymbol d x pc position = x.read (countSymbol d x pc position) := by
  unfold countSymbol
  dsimp only
  split
  · rfl
  split <;> rfl

theorem read_trans {x y z : Stack} (h : y = x.read y) (k : z = y.read z) : z = x.read z := by
  rw [k, h]
  rfl

/-- The read that is the first to find an uncorrectable error marks the burst. -/
theorem markPoisoned_hbmRead (d : Dev) (u : Nat) :
    HbmRead d { d with poison := tabSet false d.poison u true, upsets := tabSet none d.upsets u none } := by
  refine ⟨rfl, fun _ => rfl, fun v hv => ?_⟩
  rw [tabGet_tabSet]
  split
  · rfl
  · exact hv

theorem meetUnit_hbmRead (d : Dev) (u : Nat) : HbmRead d (meetUnit d u) := by
  unfold meetUnit
  dsimp only
  split
  · exact hbmRead_refl d
  · exact hbmRead_setStack (capture_read _ _ _ _ _ _)
  · refine hbmRead_trans (hbmRead_setStack ?_) (countRow_hbmRead _ _ _ _)
    exact read_trans (read_trans rfl (capture_read _ _ _ _ _ _)) (countSymbol_read _ _ _ _)
  · refine hbmRead_trans (hbmRead_trans (hbmRead_setStack ?_) (markPoisoned_hbmRead _ u)) (countRow_hbmRead _ _ _ _)
    exact capture_read _ _ _ _ _ _

theorem meetCells_hbmRead (d : Dev) (cell n : Nat) : HbmRead d (meetCells d cell n) := by
  unfold meetCells
  split
  · exact hbmRead_refl d
  split
  · exact hbmRead_refl d
  · exact foldl_keeps hbmRead_refl hbmRead_trans meetUnit_hbmRead _ d

theorem meetHbm_hbmRead (d : Dev) (off n : Nat) : HbmRead d (meetHbm d off n) :=
  foldl_keeps (R := HbmRead) hbmRead_refl hbmRead_trans (fun d _ => meetCells_hbmRead d _ _) (pieces off n) d

theorem meetSpan_hbmRead (d : Dev) (addr n lim : Nat) : HbmRead d (meetSpan d addr n lim) := by
  unfold meetSpan
  split
  · exact meetHbm_hbmRead d addr n
  · exact hbmRead_refl d

/-! ## Copies of preloads (spec/02_structure_image.md R36) -/

/-- From `d` to `e` data has gone from HBM to core SRAM: HBM keeps its bytes, its stacks their thresholds, and nothing but memory and
what reads of HBM find has changed. -/
def Preloaded (d e : Dev) : Prop :=
  e = { d with hbm := e.hbm, mem := e.mem, poison := e.poison, upsets := e.upsets, repairsDue := e.repairsDue, cnt := e.cnt }
  ∧ (∀ k, (e.stack k).threshold = (d.stack k).threshold) ∧ ∀ a, a < sramBase → memGet e.mem a = memGet d.mem a

theorem preloaded_refl (d : Dev) : Preloaded d d := ⟨rfl, fun _ => rfl, fun _ _ => rfl⟩

theorem preloaded_trans {d e f : Dev} (h : Preloaded d e) (k : Preloaded e f) : Preloaded d f := by
  obtain ⟨honly, hstack, hmem⟩ := h
  obtain ⟨konly, kstack, kmem⟩ := k
  refine ⟨?_, fun i => (kstack i).trans (hstack i), fun a ha => (kmem a ha).trans (hmem a ha)⟩
  rw [konly, honly]

theorem preloaded_of_hbmRead {d e : Dev} (h : HbmRead d e) : Preloaded d e := by
  obtain ⟨only, stack, -⟩ := h
  have mem : e.mem = d.mem := by rw [only]
  refine ⟨?_, fun k => ?_, fun a _ => by rw [mem]⟩
  · exact only.trans (by rw [mem])
  · rw [stack k]
    rfl

theorem carryPoison_only (bad : List Nat) (d : Dev) (src dst n : Nat) :
    carryPoison bad d src dst n = { d with poison := (carryPoison bad d src dst n).poison } :=
  foldl_keeps (R := fun d e : Dev => e = { d with poison := e.poison }) (fun _ => rfl) (fun h k => by rw [k, h]) (fun _ _ => rfl) bad d

theorem moveCells_preloaded (d : Dev) (src dst n : Nat) (h : sramBase ≤ dst) : Preloaded d (moveCells d src dst n) := by
  refine ⟨?_, fun k => ?_, fun a ha => moveCells_frame d src dst n a (.inl (by omega))⟩ <;> unfold moveCells <;> split
  · rfl
  · rw [carryPoison_only]; rfl
  · rfl
  · rw [carryPoison_only]; rfl

theorem copyPreload_preloaded (d : Dev) (p : Preload) : Preloaded d (copyPreload d p) :=
  foldl_keeps preloaded_refl preloaded_trans (fun d q => preloaded_trans (preloaded_of_hbmRead (meetCells_hbmRead d _ _))
    (moveCells_preloaded _ _ _ _ (by unfold sramCell; omega))) _ d

theorem copyPreloads_preloaded (d : Dev) (l : List Preload) : Preloaded d (l.foldl copyPreload d) :=
  foldl_keeps preloaded_refl preloaded_trans copyPreload_preloaded l d

/-! ## Packets that leave (spec/13_koliz_fabric.md R326, R348, R351) -/

/-- From `d` to `e` nothing but the fabric and the counters has changed, and the Cascade commands are the same. -/
def Talked (d e : Dev) : Prop := e = { d with klz := e.klz, cnt := e.cnt } ∧ e.klz.cascade = d.klz.cascade

theorem talked_refl (d : Dev) : Talked d d := ⟨rfl, rfl⟩

theorem talked_trans {d e f : Dev} (h : Talked d e) (k : Talked e f) : Talked d f := by
  refine ⟨?_, k.2.trans h.2⟩
  rw [k.1, h.1]

theorem talked_setPort (d : Dev) (n : Nat) (x : Port) : Talked d (d.setPort n x) := ⟨rfl, rfl⟩

theorem talked_setGrp (d : Dev) (g : Nat) (x : Grp) : Talked d (d.setGrp g x) := ⟨rfl, rfl⟩

theorem putLine_talked (d : Dev) (n : Nat) (ps : List Packet) : Talked d (putLine d n ps) := by
  unfold putLine
  dsimp only
  refine List.foldlRecOn (motive := Talked d) _ _ ?_ fun _ h _ _ => talked_trans h ⟨rfl, rfl⟩
  split <;> exact ⟨rfl, rfl⟩

theorem drainWaiting_talked (d : Dev) (n : Nat) : Talked d (drainWaiting d n) := by
  unfold drainWaiting
  dsimp only
  split
  · exact talked_refl d
  · exact talked_trans (talked_setPort d n _) (putLine_talked _ _ _)

theorem emit_talked (d : Dev) (n : Nat) (p : Packet) : Talked d (emit d n p) :=
  talked_trans (talked_setPort d n _) (drainWaiting_talked _ n)

theorem sendFence_talked (d : Dev) (g port : Nat) (k : FenceKind) (reason : Byte) (origin : Nat) (turn slot : Dword) :
    Talked d (sendFence d g port k reason origin turn slot) := by
  unfold sendFence
  split
  · exact talked_refl d
  · exact emit_talked _ _ _

theorem portAbsent_talked (d : Dev) (port : Nat) : Talked d (portAbsent d port) := by
  refine foldl_keeps talked_refl talked_trans (fun d g => ?_) _ d
  dsimp only
  split
  · exact talked_refl d
  split
  · exact talked_setGrp d g _
  · exact talked_trans (talked_setGrp d g _) (sendFence_talked _ _ _ _ _ _ _ _)

/-- With no Cascade command running, a port that leaves ACTIVE ends none. -/
theorem cascadeLost_none {d : Dev} (n dev : Nat) (h : d.klz.cascade = []) : cascadeLost d n dev = d := by
  simp [cascadeLost, h]

theorem changePort_talked {d : Dev} (n : Nat) (s : PortState) (reason : Byte) (h : d.klz.cascade = []) : Talked d (changePort d n s reason) := by
  unfold changePort
  dsimp only
  split
  · rw [Dev.modPort_eq]
    have gone (x : Port) := talked_trans (talked_setPort d n x) (portAbsent_talked _ n)
    rw [cascadeLost_none _ _ ((gone _).2.trans h)]
    exact gone _
  · exact talked_setPort d n _

/-! ## Identity exchanged anew (R328, R333) -/

theorem sendIdent_talked (d : Dev) (n : Nat) : Talked d (sendIdent d n) := by
  unfold sendIdent
  split
  · exact talked_refl d
  · exact emit_talked _ _ _

theorem identEval_talked {d : Dev} (n : Nat) (h : d.klz.cascade = []) : Talked d (identEval d n) := by
  have judged (x : Port) (s : PortState) (reason : Byte) : Talked d (changePort (d.setPort n x) n s reason) :=
    talked_trans (talked_setPort d n x) (changePort_talked n s reason h)
  unfold identEval
  dsimp only
  split
  · split
    · exact talked_refl d
    split
    · exact judged _ _ _
    split
    · exact judged _ _ _
    · exact judged _ _ _
  · exact talked_refl d

theorem reident_talked {d : Dev} (h : d.klz.cascade = []) : Talked d (reident d) := by
  refine List.foldlRecOn (motive := Talked d) _ _ (talked_refl d) fun e he n _ => ?_
  have sent := talked_trans he (sendIdent_talked e n)
  exact talked_trans sent (identEval_talked n (sent.2.trans h))

end Sys2Proof.Machine
end

section
/-! PROOFS. Structure loads (spec/02_structure_image.md R44 to R47, R58; spec/16_security.md R437): STR_LOAD and the ends of its three
steps. STR_APPLY_DONE is cut into its stages; each has a lemma that names the one part of the device it writes and what it leaves
there. -/

namespace Sys2Proof.Machine

/-! ## STR_LOAD, STR_VERIFY_DONE and STR_CHECK_DONE -/

section Rows

variable {s : State} (h : asleep s.dev = false)
include h

theorem strLoad_next : exec .strLoad s = .next { s with dev := strLoad s.dev } :=
  onDev_true_next (f := fun _ d => strLoad d) h

theorem strVerifyDone_next : exec .strVerifyDone s = .next { s with dev := strVerifyDone s.nv s.dev } := onDev_true_next h

theorem strCheckDone_next : exec .strCheckDone s
    = .next { s with nv := (strCheckDone s.nv s.dev).1, dev := (strCheckDone s.nv s.dev).2 } := onBoth_next rfl h

theorem strApplyDone_next : exec .strApplyDone s = .next { s with dev := strApplyDone s.dev } :=
  onDev_true_next (f := fun _ d => strApplyDone d) h

end Rows

theorem strLoad_loading {d : Dev} (h : loading d = true) : strLoad d = d := if_pos h

theorem strLoad_quiescent {d : Dev} (h : loading d = false) (hq : quiescent d = true) : strLoad d = { d with str :=
    { d.str with state := .verifying, loadBit := true, range := (d.str.image.toNat, d.str.imageBytes.toNat) } } := by
  simp [strLoad, h, hq]

theorem strLoad_busy {d : Dev} (h : loading d = false) (hq : quiescent d = false) : strLoad d = strRefuse d 0x07 0 := by
  simp [strLoad, h, hq]

/-- The read of the image leaves STR and every byte of HBM. -/
theorem meetSpan_str_mem (d : Dev) (addr n lim : Nat) : (meetSpan d addr n lim).str = d.str ∧ (meetSpan d addr n lim).mem = d.mem := by
  obtain ⟨only, -⟩ := meetSpan_hbmRead d addr n lim
  rw [only]
  exact ⟨rfl, rfl⟩

theorem meetSpan_sec (d : Dev) (addr n lim : Nat) : (meetSpan d addr n lim).sec = d.sec := by
  rw [(meetSpan_hbmRead d addr n lim).1]

/-- The bytes of an HBM range are those of the cells that the structure in force and the mode give. -/
theorem hbmRead_congr {d e : Dev} (hstr : e.str = d.str) (hmem : e.mem = d.mem) (off n : Nat) : e.hbmRead off n = d.hbmRead off n := by
  simp only [Dev.hbmRead, hbmCell, spreadKey, hbmCap, slotsPerPc, hstr, hmem]

theorem strVerifyDone_idle {nv : Nv} {d : Dev} (h : d.str.state ≠ .verifying) : strVerifyDone nv d = d := by
  simp [strVerifyDone, h]

section Verify

variable {nv : Nv} {d m : Dev} (h : d.str.state = .verifying) (hm : m = meetSpan d d.str.range.1 d.str.range.2 0x1000000)
include h hm

/-- STR_VERIFY_DONE in VERIFYING: the span, then the signature, then the rollback rule, on the image as `d` has it. -/
theorem strVerifyDone_eq : strVerifyDone nv d =
    if spanOk m d.str.range.1 d.str.range.2 0x1000000 && verifyStruct nv.vendorHash nv.ownerHash (strImage d) then
      if rollbackOk nv.strCounter (fieldLe (strImage d) 0x10 4) then { m with str := { d.str with state := .checking, loadBit := false } }
      else secRefuse (strRefuse m 0x0A 0) 0x0A
    else secRefuse (strRefuse m 0x01 0) 0x01 := by
  obtain ⟨hstr, hmem⟩ := meetSpan_str_mem d d.str.range.1 d.str.range.2 0x1000000
  rw [← hm] at hstr hmem
  have himg : strImage m = strImage d := by rw [strImage, hstr, hbmRead_congr hstr hmem, strImage]
  simp only [strVerifyDone, h, ← hm, hstr, himg]
  cases spanOk m d.str.range.1 d.str.range.2 0x1000000 with
  | false => rfl
  | true =>
    cases verifyStruct nv.vendorHash nv.ownerHash (strImage d) with
    | false => rfl
    | true => cases rollbackOk nv.strCounter (fieldLe (strImage d) 0x10 4) <;> rfl

end Verify

theorem strCheckDone_idle {nv : Nv} {d : Dev} (h : d.str.state ≠ .checking) : strCheckDone nv d = (nv, d) := by
  simp [strCheckDone, h]

theorem strCheckDone_error {nv : Nv} {d : Dev} {e : Nat × Nat} (h : d.str.state = .checking)
    (he : checkStruct d (strImage d) d.str.range.1 = .error e) : strCheckDone nv d = (nv, strRefuse d e.1 e.2) := by
  simp [strCheckDone, h, he]

theorem strCheckDone_ok {nv : Nv} {d : Dev} (h : d.str.state = .checking) (hok : checkStruct d (strImage d) d.str.range.1 = .ok ()) :
    strCheckDone nv d = ({ nv with strCounter := raiseCounter nv.strCounter (fieldLe (strImage d) 0x10 4) },
      { d with str := { d.str with state := .applying, candidate := some (parseStruct (strImage d)) }, sys := { d.sys with state := .ready } }) := by
  simp [strCheckDone, h, hok]

/-! ## Tables built from lists -/

/-- The table of a list's values at keys `n`, `n` + 1, …. -/
def tabFrom {α : Type} [DecidableEq α] (d : α) (n : Nat) (l : List α) : Tab α :=
  ((l.zipIdx n).filter (fun e => !(decide (e.1 = d)))).map (fun e => (e.2, e.1))

theorem tabFrom_cons {α : Type} [DecidableEq α] (d : α) (n : Nat) (v : α) (l : List α) :
    tabFrom d n (v :: l) = if v = d then tabFrom d (n + 1) l else (n, v) :: tabFrom d (n + 1) l := by
  by_cases h : v = d <;> simp [tabFrom, h]

theorem tabGet_tabFrom {α : Type} [DecidableEq α] (d : α) : ∀ (l : List α) (n i : Nat),
    tabGet d (tabFrom d n l) i = if n ≤ i then (l[i - n]?).getD d else d
  | [], n, i => by simp [tabFrom, tabGet]
  | v :: l, n, i => by
    have tail := tabGet_tabFrom d l (n + 1) i
    have head : tabGet d (tabFrom d n (v :: l)) i = if n = i then v else tabGet d (tabFrom d (n + 1) l) i := by
      rw [tabFrom_cons]
      split
      case isTrue hv => split <;> [rw [tail, if_neg (by omega), hv]; rfl]
      case isFalse => rfl
    rw [head, tail]
    rcases Nat.lt_trichotomy i n with hi | hi | hi
    · rw [if_neg (by omega), if_neg (by omega), if_neg (by omega)]
    · simp [hi]
    · rw [if_neg (by omega), if_pos (by omega), if_pos (by omega), show i - n = i - (n + 1) + 1 by omega, List.getElem?_cons_succ]

theorem tabGet_tabOfList {α : Type} [DecidableEq α] (d : α) (l : List α) (i : Nat) : tabGet d (tabOfList d l) i = (l[i]?).getD d :=
  (tabGet_tabFrom d l 0 i).trans (if_pos (Nat.zero_le i))

/-- A table whose keys lie above `i` does not list it. -/
theorem tabGet_of_rising {α : Type} (d : α) {i : Nat} : ∀ {t : Tab α}, tabRising (some i) t = true → tabGet d t i = d
  | [], _ => rfl
  | (k, v) :: t, h => by
    simp only [tabRising, Bool.and_eq_true, decide_eq_true_eq] at h
    obtain ⟨hk, ht⟩ := h
    rw [tabGet, if_neg (by omega)]
    exact tabGet_of_rising d (tabRising_lower (fun j hj => by simp at hj ⊢; omega) ht)

/-! ## Cores without a job's state (spec/08_vector_engine.md R219) -/

theorem emptyCores_cons (k : Nat) (c : CoreSt) (t : Tab CoreSt) :
    emptyCores ((k, c) :: t) = if keptCore c = {} then emptyCores t else (k, keptCore c) :: emptyCores t := by
  unfold emptyCores
  rw [List.filterMap_cons]
  by_cases h : keptCore c = {} <;> simp only [h, ↓reduceIte]

theorem tabGet_emptyCores_rising (p : Nat) : ∀ {lo : Option Nat} {t : Tab CoreSt}, tabRising lo t = true →
    tabGet {} (emptyCores t) p = keptCore (tabGet {} t p)
  | _, [], _ => rfl
  | lo, (k, c) :: t, h => by
    rw [tabRising_cons, Bool.and_eq_true] at h
    have ih := tabGet_emptyCores_rising p h.2
    rw [emptyCores_cons, tabGet]
    split
    case isTrue hc =>
      rw [ih]
      split
      case isTrue hk => rw [hc, ← hk, tabGet_of_rising {} h.2]; rfl
      case isFalse => rfl
    case isFalse =>
      rw [tabGet, ih]
      split <;> rfl

theorem tabGet_emptyCores {t : Tab CoreSt} (h : tabWf {} t = true) (p : Nat) : tabGet {} (emptyCores t) p = keptCore (tabGet {} t p) :=
  tabGet_emptyCores_rising p (Bool.and_eq_true_iff.mp h).1

end Sys2Proof.Machine
end

section
/-! PROOFS. STR_APPLY_DONE (spec/02_structure_image.md R44 step 6, R46, R47, R58). -/

namespace Sys2Proof.Machine

/-! ## The stages -/

/-- The structure is in force, and no core has a job's state. -/
def enterForce (d : Dev) (st : Structure) : Dev :=
  { d with
    str := { d.str with
      state := .loaded, inForce := some st, candidate := none, reason := 0, detail := 0, protectFixed := true, pinsafe := st.pinsafe
      bind := tabOfList 0xFF ((List.range 144).map (fun l => ((st.bound.find? (fun e => e.2 == l)).map (·.1)).getD 0xFF))
      spare := st.spares, rebinds := [], rebindDone := d.str.rebindDone || anyAsked d, rebindGo := d.str.rebindGo && !anyAsked d
      loadCount := sat16 d.str.loadCount }
    mem := tabDrop d.mem sramBase cmdBase, poison := tabDrop d.poison (sramBase / 64) (cmdBase / 64)
    cores := emptyCores d.cores, sems := [], saved := [] }

/-- The cadence is the structure's; one other than the `old` clears LOCKED (R41, R84). -/
def takeCadence (d : Dev) (old : Clp) (st : Structure) : Dev :=
  if st.num == old.num && st.den == old.den then d
  else { strApplyDone.unlock' d with clp := { (strApplyDone.unlock' d).clp with num := st.num, den := st.den } }

/-- Every stack's row threshold is the structure's (R42). -/
def setThresholds (d : Dev) (threshold : Nat) : Dev :=
  (List.range 12).foldl (fun d k => d.modStack k (fun x => { x with threshold := BitVec.ofNat 16 threshold })) d

/-- READY becomes STRUCTURED. -/
def readied (d : Dev) : Dev := { d with sys := { d.sys with state := if d.sys.state == .ready then .structured else d.sys.state } }

/-- A defined logical core that the structure binds to a fenced core goes to a spare, if there is one (R32). -/
def rebindFenced (d : Dev) (l : Nat) : Dev :=
  if !((d.coreRec l).basin == 0xFF) && d.fenced (d.phys l) then
    match chooseSpare d l with
    | some p => startRebind d l p false
    | none => d
  else d

/-! ## The frame table (R58) -/

/-- From `d` to `e` nothing but the turn-commit unit has changed. -/
def TrnOnly (d e : Dev) : Prop := e = { d with trn := e.trn }

theorem trnOnly_refl (d : Dev) : TrnOnly d d := rfl

theorem trnOnly_trans {d e f : Dev} (h : TrnOnly d e) (k : TrnOnly e f) : TrnOnly d f := by
  unfold TrnOnly at *
  rw [k, h]

/-- From `d` to `e` nothing but the frame table has changed. -/
def FramesOnly (d e : Dev) : Prop := e = { d with trn := { d.trn with frames := e.trn.frames } }

theorem freeFrames_framesOnly (d : Dev) (fs : List Nat) :
    FramesOnly d (fs.foldl (fun d f => d.modFrame f (fun x => { x with state := .free })) d) :=
  foldl_keeps (R := FramesOnly) (fun _ => rfl) (fun h k => by unfold FramesOnly at *; rw [k, h]) (fun _ _ => by rfl) fs d

theorem pushFrames_trnOnly (d : Dev) (b : Nat) (fs : List Nat) : TrnOnly d (pushFrames d b fs) := by
  unfold pushFrames
  dsimp only
  rw [freeFrames_framesOnly d fs]
  rfl

theorem pushFrames_tslot (d : Dev) (b : Nat) (fs : List Nat) (j : Nat) : (pushFrames d b fs).tslot j = d.tslot j := by
  unfold pushFrames
  dsimp only
  rw [freeFrames_framesOnly d fs]
  rfl

theorem pushFrames_freeStack (d : Dev) (b : Nat) (fs : List Nat) (k : Nat) :
    (pushFrames d b fs).freeStack k = if k = b then sortNat fs ++ d.freeStack b else d.freeStack k := by
  unfold pushFrames
  dsimp only
  rw [freeFrames_framesOnly d fs, Dev.freeStack_setFreeStack]
  rfl

/-- Every basin's frames go onto its own empty stack. -/
theorem pushPools_freeStack {d : Dev} (frames : BasinRec → List Nat) (h : ∀ k, d.freeStack k = []) (k : Nat) : ∀ n,
    ((List.range n).foldl (fun d b => pushFrames d b (frames (d.basinRec b))) d).freeStack k
      = if k < n then sortNat (frames (d.basinRec k)) else []
  | 0 => h k
  | n + 1 => by
    have ih := pushPools_freeStack frames h k n
    have ihn := pushPools_freeStack frames h n n
    have kept : TrnOnly d ((List.range n).foldl (fun d b => pushFrames d b (frames (d.basinRec b))) d) :=
      foldl_keeps trnOnly_refl trnOnly_trans (fun d b => pushFrames_trnOnly d b _) _ d
    rw [List.range_succ, List.foldl_append, List.foldl_cons, List.foldl_nil, pushFrames_freeStack, ihn, ih, if_neg (lt_irrefl n),
      List.append_nil]
    split
    case isTrue hk => rw [if_pos (by omega), hk, kept]; rfl
    case isFalse => congr 1; exact propext (by omega)

theorem insertNat_least {x : Nat} : ∀ {l : List Nat}, (∀ y ∈ l, x ≤ y) → insertNat x l = x :: l
  | [], _ => rfl
  | y :: _, h => if_pos (h y List.mem_cons_self)

theorem sortNat_of_rising : ∀ {l : List Nat}, l.Pairwise (· ≤ ·) → sortNat l = l
  | [], _ => rfl
  | x :: l, h => by
    rw [List.pairwise_cons] at h
    rw [sortNat, List.foldr_cons, ← sortNat, sortNat_of_rising h.2, insertNat_least h.1]

theorem poolFrames_rising (r : BasinRec) : (poolFrames r).Pairwise (· ≤ ·) := by
  unfold poolFrames
  split
  · exact List.pairwise_map.mpr (List.pairwise_lt_range.imp fun h => by omega)
  · exact List.Pairwise.nil

/-- Once a step for `j` has settled what every other step keeps, it stands at the end. -/
theorem foldl_settles {α β : Type} {P : α → β → Prop} {f : β → α → β} (sets : ∀ e j, P j (f e j)) (keeps : ∀ e i j, P j e → P j (f e i))
    {j : α} : ∀ {l : List α}, j ∈ l → ∀ e, P j (l.foldl f e)
  | i :: l, h, e => by
    rcases List.mem_cons.mp h with rfl | h
    · exact List.foldlRecOn l f (sets e j) fun _ hb i _ => keeps _ i j hb
    · exact foldl_settles sets keeps h _

theorem setupFrames_trnOnly (d : Dev) : TrnOnly d (setupFrames d) := by
  unfold setupFrames
  refine trnOnly_trans ?_ (foldl_keeps trnOnly_refl trnOnly_trans (fun d b => pushFrames_trnOnly d b _) _ _)
  exact trnOnly_trans (by rfl) (foldl_keeps (R := TrnOnly) trnOnly_refl trnOnly_trans (fun _ _ => by rfl) _ _)

theorem setupFrames_held (d : Dev) {j : Nat} (h : j < 64) : ((setupFrames d).tslot j).held = [] := by
  unfold setupFrames
  refine List.foldlRecOn (motive := fun e : Dev => (e.tslot j).held = []) _ _ ?_ fun e he b _ => by rw [pushFrames_tslot]; exact he
  refine foldl_settles (P := fun j (e : Dev) => (e.tslot j).held = []) (fun e j => by simp) (fun e i j he => ?_) (List.mem_range.mpr h) _
  rw [Dev.modTslot_eq, Dev.tslot_setTslot]
  split
  · rfl
  · exact he

/-- Each pool's frames but the PINNED and MAPPED ones are on its basin's stack, lowest on top. -/
theorem setupFrames_freeStack (d : Dev) {b : Nat} (h : b < 16) : (setupFrames d).freeStack b = (poolFrames (d.basinRec b)).filter
    (fun f => !(d.trn.frames.any (fun q => q.1 == f && (q.2.pinned || q.2.state == .mapped)))) := by
  unfold setupFrames
  extract_lets keep kept trn d1 d2
  have only : d2 = { d1 with trn := { d1.trn with slots := d2.trn.slots } } :=
    foldl_keeps (R := fun d e : Dev => e = { d with trn := { d.trn with slots := e.trn.slots } }) (fun _ => rfl)
      (fun h k => by rw [k, h]) (fun _ _ => by rfl) _ d1
  have empty (k : Nat) : d2.freeStack k = [] := by rw [only]; rfl
  have basins : d2.basinRec b = d.basinRec b := by rw [only]; rfl
  have same : kept = fun f => d.trn.frames.any (fun q => q.1 == f && (q.2.pinned || q.2.state == .mapped)) := by
    funext f
    rw [show kept f = keep.any (fun e => e.1 == f) from rfl, List.any_filter]
    simp only [Bool.and_comm]
  rw [pushPools_freeStack (fun r => (poolFrames r).filter (fun f => !kept f)) empty, if_pos h, basins, same]
  exact sortNat_of_rising ((poolFrames_rising _).filter _)

/-! ## The cadence and the thresholds (R41, R42, R84) -/

theorem unlock_clp (d : Dev) : unlock d = { d with clp := (unlock d).clp } ∧ (unlock d).clp.locked = false
    ∧ (unlock d).clp.num = d.clp.num ∧ (unlock d).clp.den = d.clp.den := by
  unfold unlock
  split
  case isTrue => exact ⟨rfl, rfl, rfl, rfl⟩
  case isFalse h => exact ⟨rfl, Bool.eq_false_iff.mpr h, rfl, rfl⟩

theorem unlock'_eq (d : Dev) : strApplyDone.unlock' d = unlock d := rfl

theorem takeCadence_only (d : Dev) (old : Clp) (st : Structure) : takeCadence d old st = { d with clp := (takeCadence d old st).clp } := by
  unfold takeCadence
  split
  · rfl
  · rw [unlock'_eq, (unlock_clp d).1]

theorem takeCadence_clp {d : Dev} {old : Clp} (st : Structure) (h : d.clp = old) :
    (takeCadence d old st).clp.num = st.num ∧ (takeCadence d old st).clp.den = st.den
      ∧ (¬(st.num = old.num ∧ st.den = old.den) → (takeCadence d old st).clp.locked = false) := by
  unfold takeCadence
  split
  case isTrue hsame =>
    rw [Bool.and_eq_true, beq_iff_eq, beq_iff_eq] at hsame
    rw [h]
    exact ⟨hsame.1.symm, hsame.2.symm, fun hn => absurd hsame hn⟩
  case isFalse => exact ⟨rfl, rfl, fun _ => (unlock_clp d).2.1⟩

theorem setThresholds_only (d : Dev) (n : Nat) : setThresholds d n = { d with hbm := (setThresholds d n).hbm } :=
  foldl_keeps (R := fun d e : Dev => e = { d with hbm := e.hbm }) (fun _ => rfl) (fun h k => by rw [k, h]) (fun _ _ => rfl) _ d

theorem setThresholds_threshold (d : Dev) (n : Nat) {k : Nat} (h : k < 12) : ((setThresholds d n).stack k).threshold = BitVec.ofNat 16 n := by
  refine foldl_settles (P := fun k (e : Dev) => (e.stack k).threshold = BitVec.ofNat 16 n) (fun e k => by simp) (fun e i k he => ?_)
    (List.mem_range.mpr h) d
  rw [Dev.modStack_eq, Dev.stack_setStack]
  split
  · rfl
  · exact he

/-! ## The other blocks (R86; spec/13_koliz_fabric.md R328; spec/16_security.md R445) -/

theorem masterRoute_only (d : Dev) : masterRoute d = { d with clp := (masterRoute d).clp, klz := (masterRoute d).klz } := by
  unfold masterRoute
  dsimp only
  split
  · rw [(unlock_clp _).1]
  · rfl

/-- A lookup of the master's route sets neither cadence nor LOCKED. -/
theorem masterRoute_clp (d : Dev) : (masterRoute d).clp.num = d.clp.num ∧ (masterRoute d).clp.den = d.clp.den
    ∧ (d.clp.locked = false → (masterRoute d).clp.locked = false) := by
  unfold masterRoute
  dsimp only
  split
  · obtain ⟨-, hlocked, hnum, hden⟩ := unlock_clp { d with klz := { d.klz with linkPort := BitVec.ofNat 4 ((upstream d).getD 0) } }
    exact ⟨hnum, hden, fun _ => hlocked⟩
  · exact ⟨rfl, rfl, id⟩

/-- The structure's hash joins the history that measurement 5 shows. -/
def measured (d : Dev) (hash : List Byte) : Dev := { d with sec := { d.sec with history := sha384 (d.sec.history ++ hash) } }

section Others

variable {d : Dev} {st : Structure} (hst : d.str.inForce = some st) (h : d.klz.cascade = [])
include hst h

theorem applyOthers_only : applyOthers d
    = { measured d st.hash with clp := (applyOthers d).clp, klz := (applyOthers d).klz, cnt := (applyOthers d).cnt } := by
  obtain ⟨only, -⟩ := reident_talked (d := measured d st.hash) h
  have heq : applyOthers d = masterRoute (reident (measured d st.hash)) := by rw [applyOthers, hst]; rfl
  rw [heq, masterRoute_only, only]

theorem applyOthers_clp : (applyOthers d).clp.num = d.clp.num ∧ (applyOthers d).clp.den = d.clp.den
    ∧ (d.clp.locked = false → (applyOthers d).clp.locked = false) := by
  obtain ⟨only, -⟩ := reident_talked (d := measured d st.hash) h
  have heq : applyOthers d = masterRoute (reident (measured d st.hash)) := by rw [applyOthers, hst]; rfl
  have hclp : (reident (measured d st.hash)).clp = d.clp := by rw [only]; rfl
  rw [heq, ← hclp]
  exact masterRoute_clp _

end Others

/-! ## Rebinds of what is fenced (R32) -/

/-- From `d` to `e` cores have been bound anew: every physical core keeps its bound counts. -/
def Rebound (d e : Dev) : Prop :=
  e = { d with cores := e.cores, str := { d.str with bind := e.str.bind, spare := e.str.spare, rebinds := e.str.rebinds } }
  ∧ ∀ p, (e.core p).boundHit = (d.core p).boundHit ∧ (e.core p).boundHits = (d.core p).boundHits

theorem rebound_refl (d : Dev) : Rebound d d := ⟨rfl, fun _ => ⟨rfl, rfl⟩⟩

theorem rebound_trans {d e f : Dev} (h : Rebound d e) (k : Rebound e f) : Rebound d f := by
  obtain ⟨honly, hcounts⟩ := h
  obtain ⟨konly, kcounts⟩ := k
  refine ⟨?_, fun p => ⟨(kcounts p).1.trans (hcounts p).1, (kcounts p).2.trans (hcounts p).2⟩⟩
  rw [konly, honly]

theorem moveCoreTo_counts (d : Dev) (old new p : Nat) : ((moveCoreTo d old new).core p).boundHit = (d.core p).boundHit
    ∧ ((moveCoreTo d old new).core p).boundHits = (d.core p).boundHits := by
  unfold moveCoreTo
  dsimp only
  rw [Dev.core_setCore]
  split
  case isTrue hp => rw [hp]; exact ⟨rfl, rfl⟩
  case isFalse =>
    rw [Dev.core_setCore]
    split
    case isTrue hp => rw [hp]; exact ⟨rfl, rfl⟩
    case isFalse => exact ⟨rfl, rfl⟩

theorem startRebind_rebound (d : Dev) (l target : Nat) (asked : Bool) : Rebound d (startRebind d l target asked) :=
  ⟨rfl, moveCoreTo_counts d (d.phys l) target⟩

theorem rebindFenced_rebound (d : Dev) (l : Nat) : Rebound d (rebindFenced d l) := by
  unfold rebindFenced
  split
  · split
    · exact startRebind_rebound d l _ _
    · exact rebound_refl d
  · exact rebound_refl d

theorem rebindFenced_none {d : Dev} (h : d.flt.fenced = 0) (l : Nat) : rebindFenced d l = d := by
  simp [rebindFenced, Dev.fenced, h]

end Sys2Proof.Machine
end

section
/-! PROOFS. The statement about structure loads (spec/02_structure_image.md R44 to R46). -/

namespace Sys2Proof.Machine

/-! ## STR_APPLY_DONE as its stages -/

/-- The structure is in force: frames, cadence and thresholds are set and the preloads copied. -/
def preloadedDev (d : Dev) (st : Structure) : Dev :=
  st.preloads.foldl copyPreload (setThresholds (takeCadence (setupFrames (enterForce d st)) d.clp st) st.threshold)

/-- The device after STR_APPLY_DONE but for the rebinds of fenced cores. -/
def appliedDev (d : Dev) (st : Structure) : Dev := applyOthers (readied (preloadedDev d st))

theorem strApplyDone_idle {d : Dev} (h : d.str.state ≠ .applying) : strApplyDone d = d := by
  unfold strApplyDone
  split
  case h_1 hs _ => exact absurd hs h
  case h_2 => rfl

theorem strApplyDone_eq {d : Dev} {st : Structure} (h : d.str.state = .applying) (hc : d.str.candidate = some st) :
    strApplyDone d = (List.range 144).foldl rebindFenced (appliedDev d st) := by
  unfold strApplyDone
  rw [h, hc]
  dsimp only
  rw [← enterForce, ← takeCadence, ← setThresholds, ← preloadedDev, ← readied]
  rfl

theorem cadenced_only (d : Dev) (st : Structure) : takeCadence (setupFrames (enterForce d st)) d.clp st
    = { enterForce d st with trn := (setupFrames (enterForce d st)).trn
                             clp := (takeCadence (setupFrames (enterForce d st)) d.clp st).clp } := by
  have frames := setupFrames_trnOnly (enterForce d st)
  have cadence := takeCadence_only (setupFrames (enterForce d st)) d.clp st
  generalize takeCadence (setupFrames (enterForce d st)) d.clp st = c at cadence ⊢
  generalize setupFrames (enterForce d st) = b at frames cadence ⊢
  rw [cadence, frames]

/-- The stages before the other blocks' write each its own part. -/
theorem preloadedDev_only (d : Dev) (st : Structure) : preloadedDev d st =
    { enterForce d st with
      trn := (setupFrames (enterForce d st)).trn, clp := (takeCadence (setupFrames (enterForce d st)) d.clp st).clp
      hbm := (preloadedDev d st).hbm, mem := (preloadedDev d st).mem, poison := (preloadedDev d st).poison
      upsets := (preloadedDev d st).upsets, repairsDue := (preloadedDev d st).repairsDue, cnt := (preloadedDev d st).cnt } := by
  have cadence := cadenced_only d st
  have thresholds := setThresholds_only (takeCadence (setupFrames (enterForce d st)) d.clp st) st.threshold
  have copies := (copyPreloads_preloaded (setThresholds (takeCadence (setupFrames (enterForce d st)) d.clp st) st.threshold) st.preloads).1
  rw [← preloadedDev] at copies
  generalize preloadedDev d st = p at copies ⊢
  generalize setThresholds _ _ = t at thresholds copies
  generalize takeCadence _ _ _ = c at cadence thresholds ⊢
  rw [copies, thresholds, cadence]

theorem appliedDev_only {d : Dev} (st : Structure) (h : d.klz.cascade = []) : appliedDev d st =
    { preloadedDev d st with
      sys := (readied d).sys, sec := (measured d st.hash).sec
      clp := (appliedDev d st).clp, klz := (appliedDev d st).klz, cnt := (appliedDev d st).cnt } := by
  have readied_only := preloadedDev_only d st
  generalize hp : preloadedDev d st = p at readied_only ⊢
  have hst : (readied p).str.inForce = some st := by rw [readied_only]; rfl
  have hk : (readied p).klz.cascade = [] := by rw [readied_only]; exact h
  have only := applyOthers_only hst hk
  have hsys : (readied p).sys = (readied d).sys := by rw [readied_only]; rfl
  have hsec : (measured (readied p) st.hash).sec = (measured d st.hash).sec := by rw [readied_only]; rfl
  have hdev : applyOthers (readied p) = appliedDev d st := by rw [appliedDev, hp]
  rw [hdev] at only
  rw [← hsys, ← hsec]
  exact only

/-! ## What the stages leave -/

theorem cadenced_mem (d : Dev) (st : Structure) :
    (setThresholds (takeCadence (setupFrames (enterForce d st)) d.clp st) st.threshold).mem = tabDrop d.mem sramBase cmdBase := by
  rw [setThresholds_only, cadenced_only]
  rfl

theorem preloadedDev_mem_below (d : Dev) (st : Structure) {a : Nat} (h : a < sramBase) :
    memGet (preloadedDev d st).mem a = memGet d.mem a := by
  obtain ⟨-, -, kept⟩ := copyPreloads_preloaded (setThresholds (takeCadence (setupFrames (enterForce d st)) d.clp st) st.threshold) st.preloads
  rw [preloadedDev, kept a h, cadenced_mem]
  exact tabGet_tabDrop_out 0 d.mem (by omega)

/-- With nothing to copy, core SRAM is 0. -/
theorem preloadedDev_mem_nil (d : Dev) {st : Structure} (h : st.preloads = []) :
    (preloadedDev d st).mem = tabDrop d.mem sramBase cmdBase := by
  rw [preloadedDev, h, List.foldl_nil, cadenced_mem]

theorem preloadedDev_threshold (d : Dev) (st : Structure) {k : Nat} (h : k < 12) :
    ((preloadedDev d st).stack k).threshold = BitVec.ofNat 16 st.threshold := by
  obtain ⟨-, kept, -⟩ := copyPreloads_preloaded (setThresholds (takeCadence (setupFrames (enterForce d st)) d.clp st) st.threshold) st.preloads
  rw [preloadedDev, kept k, setThresholds_threshold _ _ h]

theorem setupFrames_clp (d : Dev) (st : Structure) : (setupFrames (enterForce d st)).clp = d.clp := by
  rw [setupFrames_trnOnly (enterForce d st)]
  rfl

section Applied

variable {d : Dev} (st : Structure) (h : d.klz.cascade = [])
include h

theorem appliedDev_str : (appliedDev d st).str = (enterForce d st).str := by rw [appliedDev_only st h, preloadedDev_only]

theorem appliedDev_sys : (appliedDev d st).sys = (readied d).sys := by rw [appliedDev_only st h]

theorem appliedDev_sec : (appliedDev d st).sec = (measured d st.hash).sec := by rw [appliedDev_only st h]

theorem appliedDev_sch : (appliedDev d st).sch = d.sch := by rw [appliedDev_only st h, preloadedDev_only]; rfl

theorem appliedDev_flt : (appliedDev d st).flt = d.flt := by rw [appliedDev_only st h, preloadedDev_only]; rfl

theorem appliedDev_cores : (appliedDev d st).cores = emptyCores d.cores := by rw [appliedDev_only st h, preloadedDev_only]; rfl

theorem appliedDev_trn : (appliedDev d st).trn = (setupFrames (enterForce d st)).trn := by rw [appliedDev_only st h, preloadedDev_only]

theorem appliedDev_hbm : (appliedDev d st).hbm = (preloadedDev d st).hbm := by rw [appliedDev_only st h]

theorem appliedDev_mem : (appliedDev d st).mem = (preloadedDev d st).mem := by rw [appliedDev_only st h]

/-- The cadence is the structure's; one other than `d`'s leaves LOCKED clear. -/
theorem appliedDev_clp : (appliedDev d st).clp.num = st.num ∧ (appliedDev d st).clp.den = st.den
    ∧ (¬(st.num = d.clp.num ∧ st.den = d.clp.den) → (appliedDev d st).clp.locked = false) := by
  obtain ⟨hnum, hden, hlocked⟩ := takeCadence_clp st (setupFrames_clp d st)
  have only := preloadedDev_only d st
  have hclp : (readied (preloadedDev d st)).clp = (takeCadence (setupFrames (enterForce d st)) d.clp st).clp := by rw [only]; rfl
  have hst : (readied (preloadedDev d st)).str.inForce = some st := by rw [only]; rfl
  have hk : (readied (preloadedDev d st)).klz.cascade = [] := by rw [only]; exact h
  obtain ⟨anum, aden, alocked⟩ := applyOthers_clp hst hk
  rw [hclp] at anum aden alocked
  exact ⟨anum.trans hnum, aden.trans hden, fun hn => alocked (hlocked hn)⟩

end Applied

/-- The logical core that a structure binds to a physical core, at its place in the table of bindings. -/
theorem enterForce_phys (d : Dev) (st : Structure) {l : Nat} (h : l < 144) :
    (enterForce d st).phys l = ((st.bound.find? (fun q => q.2 == l)).map (·.1)).getD 0xFF := by
  refine (tabGet_tabOfList _ _ _).trans ?_
  rw [List.getElem?_map, List.getElem?_range h]
  rfl

theorem readied_sys (d : Dev) : (readied d).sys = { d.sys with state := if d.sys.state = .ready then .structured else d.sys.state } := by
  simp [readied]

/-! ## The device after STR_APPLY_DONE -/

section Done

variable {d : Dev} {st : Structure} (hs : d.str.state = .applying) (hc : d.str.candidate = some st)
include hs hc

theorem strApplyDone_rebound : Rebound (appliedDev d st) (strApplyDone d) := by
  rw [strApplyDone_eq hs hc]
  exact foldl_keeps rebound_refl rebound_trans rebindFenced_rebound _ _

variable (h : d.klz.cascade = [])
include h

/-- With no core fenced, nothing is bound anew. -/
theorem strApplyDone_unfenced (hf : d.flt.fenced = 0) : strApplyDone d = appliedDev d st := by
  rw [strApplyDone_eq hs hc]
  exact List.foldl_fixed' (rebindFenced_none (by rw [appliedDev_flt st h]; exact hf)) _

theorem strApplyDone_str_unfenced (hf : d.flt.fenced = 0) : (strApplyDone d).str = (enterForce d st).str := by
  rw [strApplyDone_unfenced hs hc h hf, appliedDev_str st h]

theorem strApplyDone_str : (strApplyDone d).str = { (enterForce d st).str with
    bind := (strApplyDone d).str.bind, spare := (strApplyDone d).str.spare, rebinds := (strApplyDone d).str.rebinds } := by
  rw [(strApplyDone_rebound hs hc).1, appliedDev_str st h]

theorem strApplyDone_sys : (strApplyDone d).sys = { d.sys with state := if d.sys.state = .ready then .structured else d.sys.state } := by
  rw [(strApplyDone_rebound hs hc).1, ← readied_sys, ← appliedDev_sys st h]

theorem strApplyDone_sch : (strApplyDone d).sch = d.sch := by
  rw [(strApplyDone_rebound hs hc).1, ← appliedDev_sch st h]

theorem strApplyDone_sec : (strApplyDone d).sec = { d.sec with history := sha384 (d.sec.history ++ st.hash) } := by
  rw [(strApplyDone_rebound hs hc).1]
  exact appliedDev_sec st h

theorem strApplyDone_mem : (strApplyDone d).mem = (preloadedDev d st).mem := by
  rw [(strApplyDone_rebound hs hc).1, ← appliedDev_mem st h]

theorem strApplyDone_tslot (j : Nat) : (strApplyDone d).tslot j = (setupFrames (enterForce d st)).tslot j := by
  have trn : (strApplyDone d).trn = (setupFrames (enterForce d st)).trn := by
    rw [(strApplyDone_rebound hs hc).1, ← appliedDev_trn st h]
  rw [Dev.tslot, Dev.tslot, trn]

theorem strApplyDone_freeStack (b : Nat) : (strApplyDone d).freeStack b = (setupFrames (enterForce d st)).freeStack b := by
  have trn : (strApplyDone d).trn = (setupFrames (enterForce d st)).trn := by
    rw [(strApplyDone_rebound hs hc).1, ← appliedDev_trn st h]
  rw [Dev.freeStack, Dev.freeStack, trn]

theorem strApplyDone_stack (k : Nat) : (strApplyDone d).stack k = (preloadedDev d st).stack k := by
  have hbm : (strApplyDone d).hbm = (preloadedDev d st).hbm := by
    rw [(strApplyDone_rebound hs hc).1, ← appliedDev_hbm st h]
  rw [Dev.stack, Dev.stack, hbm]

theorem strApplyDone_clp : (strApplyDone d).clp.num = st.num ∧ (strApplyDone d).clp.den = st.den
    ∧ (¬(st.num = d.clp.num ∧ st.den = d.clp.den) → (strApplyDone d).clp.locked = false) := by
  have clp : (strApplyDone d).clp = (appliedDev d st).clp := by rw [(strApplyDone_rebound hs hc).1]
  rw [clp]
  exact appliedDev_clp st h

/-- Each physical core keeps its bound counts (R219). -/
theorem strApplyDone_counts (hwf : tabWf {} d.cores = true) (p : Nat) : ((strApplyDone d).core p).boundHit = (d.core p).boundHit
    ∧ ((strApplyDone d).core p).boundHits = (d.core p).boundHits := by
  have emptied : (appliedDev d st).core p = keptCore (d.core p) := by
    rw [Dev.core, appliedDev_cores st h, tabGet_emptyCores hwf, Dev.core]
  obtain ⟨hhit, hhits⟩ := (strApplyDone_rebound hs hc).2 p
  rw [emptied] at hhit hhits
  exact ⟨hhit, hhits⟩

theorem strApplyDone_rebinds (hf : d.flt.fenced = 0) : (strApplyDone d).str.rebinds = []
    ∧ (anyAsked d = true → (strApplyDone d).str.rebindDone = true ∧ (strApplyDone d).str.rebindGo = false) := by
  rw [strApplyDone_str_unfenced hs hc h hf]
  exact ⟨rfl, fun ha => by simp [enterForce, ha]⟩

theorem strApplyDone_phys (hf : d.flt.fenced = 0) {l : Nat} (hl : l < 144) :
    (strApplyDone d).phys l = ((st.bound.find? (fun q => q.2 == l)).map (·.1)).getD 0xFF := by
  rw [Dev.phys, strApplyDone_str_unfenced hs hc h hf, ← Dev.phys, enterForce_phys d st hl]

/-- With nothing to copy, the load zeroes core SRAM and reaches no other cell. -/
theorem strApplyDone_sram (hnone : st.preloads = []) : CellsKept d (strApplyDone d) [(sramBase, cmdBase - sramBase)]
    ∧ ∀ a, sramBase ≤ a → a < cmdBase → memGet (strApplyDone d).mem a = 0 := by
  have mem : (strApplyDone d).mem = tabDrop d.mem sramBase cmdBase := by
    rw [strApplyDone_mem hs hc h, preloadedDev_mem_nil d hnone]
  rw [CellsKept, mem]
  refine ⟨fun a ha => tabGet_tabDrop_out 0 d.mem ?_, fun a hlo hhi => tabGet_tabDrop_in 0 d.mem ⟨hlo, hhi⟩⟩
  have hout : a < sramBase ∨ sramBase + (cmdBase - sramBase) ≤ a := ha _ (List.mem_singleton_self _)
  simp only [sramBase, cmdBase] at hout ⊢
  omega

theorem strApplyDone_pool {b : Nat} (hb : b < 16) : (strApplyDone d).freeStack b = (poolFrames (tabGet {} st.basins b)).filter
    (fun f => !(d.trn.frames.any (fun q => q.1 == f && (q.2.pinned || q.2.state == .mapped)))) := by
  rw [strApplyDone_freeStack hs hc h b]
  exact setupFrames_freeStack (enterForce d st) hb

end Done

/-! ## The statement -/

/-- A refused STR_VERIFY_DONE gives its reason both in STR and in SEC. -/
theorem strVerifyDone_refused {s : State} (h : asleep s.dev = false) {m : Dev} {r : Byte}
    (hm : m = meetSpan s.dev s.dev.str.range.1 s.dev.str.range.2 0x1000000)
    (hr : strVerifyDone s.nv s.dev = secRefuse (strRefuse m r.toNat 0) r) : Yields (exec .strVerifyDone s) s { m with
      str := { s.dev.str with state := .refused, loadBit := false, reason := r, detail := 0, candidate := none }
      sec := { s.dev.sec with lastReason := r, refusals := sat16 s.dev.sec.refusals } } := by
  obtain ⟨hstr, -⟩ := meetSpan_str_mem s.dev s.dev.str.range.1 s.dev.str.range.2 0x1000000
  have hsec := meetSpan_sec s.dev s.dev.str.range.1 s.dev.str.range.2 0x1000000
  rw [← hm] at hstr hsec
  rw [Yields, strVerifyDone_next h, hr, secRefuse, strRefuse, hstr, hsec, BitVec.ofNat_toNat, BitVec.setWidth_eq]
  rfl

/-- Settles O37: each load instruction is its function on the device; STR_APPLY_DONE is the sequence of its stages, of which each
writes a part of the device of its own. -/
theorem structureLoadsPassTheirChecks : Obligations.StructureLoadsPassTheirChecks := by
  unfold Obligations.StructureLoadsPassTheirChecks
  intro s h d x img refusedStr secSays m span
  refine ⟨meetSpan_hbmRead d x.range.1 x.range.2 0x1000000, ?loading, ?quiescent, ?busy, ?unverified, ?verified, ?notVerifying,
    ?notChecking, ?failed, ?passed, ?notApplying, ?applied⟩
  case loading => intro hl; rw [Yields, strLoad_next h, strLoad_loading hl]
  case quiescent => intro hl hq; rw [Yields, strLoad_next h, strLoad_quiescent hl hq]
  case busy => intro hl hq; rw [Yields, strLoad_next h, strLoad_busy hl hq]; rfl
  case unverified =>
    intro hx hbad
    refine strVerifyDone_refused h rfl ?_
    rw [strVerifyDone_eq (m := m) hx rfl, if_neg]
    · rfl
    · rw [Bool.and_eq_true]
      rintro ⟨hspan, hverify⟩
      rcases hbad with hbad | hbad
      · exact Bool.noConfusion (hspan.symm.trans hbad)
      · exact Bool.noConfusion (hverify.symm.trans hbad)
  case verified =>
    intro hx hspan hverify
    have hgood : (span && verifyStruct s.nv.vendorHash s.nv.ownerHash img) = true := by rw [hspan, hverify]; rfl
    have heq := (strVerifyDone_eq (nv := s.nv) (m := m) hx rfl).trans (if_pos hgood)
    refine ⟨fun hback => ?_, fun hback => ?_⟩
    · exact strVerifyDone_refused h rfl (heq.trans (if_neg (by rw [hback]; exact Bool.false_ne_true)))
    · rw [Yields, strVerifyDone_next h, heq.trans (if_pos hback)]
  case notVerifying => intro hx; rw [Yields, strVerifyDone_next h, strVerifyDone_idle hx]
  case notChecking => intro hx; rw [Yields, strCheckDone_next h, strCheckDone_idle hx]
  case failed => intro r hx hr; rw [Yields, strCheckDone_next h, strCheckDone_error hx hr]; rfl
  case passed => intro hx hok; rw [strCheckDone_next h, strCheckDone_ok hx hok]; rfl
  case notApplying => intro hx; rw [Yields, strApplyDone_next h, strApplyDone_idle hx]
  case applied =>
    intro st hs hc hk
    obtain ⟨hnum, hden, hlocked⟩ := strApplyDone_clp hs hc hk
    have str := strApplyDone_str hs hc hk
    refine ⟨strApplyDone d, strApplyDone_next h, ?state, ?inForce, ?candidate, ?reason, ?loadCount, ?protectFixed, ?pinsafe,
      strApplyDone_sys hs hc hk, strApplyDone_sch hs hc hk, fun hwf p _ => strApplyDone_counts hs hc hk hwf p,
      strApplyDone_rebinds hs hc hk, hnum, hden, hlocked, fun hf => ⟨?spares, fun _ => strApplyDone_phys hs hc hk hf⟩,
      ?thresholds, ?held, ?hbmBytes, strApplyDone_sram hs hc hk, fun _ => strApplyDone_pool hs hc hk, strApplyDone_sec hs hc hk⟩
    case state | inForce | candidate | reason | loadCount | protectFixed | pinsafe => rw [str]; rfl
    case spares => rw [strApplyDone_str_unfenced hs hc hk hf]; rfl
    case thresholds => intro k hlt; rw [strApplyDone_stack hs hc hk, preloadedDev_threshold d st hlt]
    case held => intro j hlt; rw [strApplyDone_tslot hs hc hk, setupFrames_held _ hlt]
    case hbmBytes => intro a ha; rw [strApplyDone_mem hs hc hk, preloadedDev_mem_below d st ha]

end Sys2Proof.Machine
end

section
/-! PROOFS. The fence commands (spec/03_turns_and_fences.md R62; spec/08_vector_engine.md R217). -/

namespace Sys2Proof.Machine

/-! ## The core's wait at a command -/

/-- A core that waits at a command changes nothing else. -/
theorem fence_stalls {s : State} {core op engine : Nat} {ops : Nat → Bool} {f : Dev → Cmd → Acc Issued} {c : Cmd} {x : Ctx}
    (ha : asleep s.dev = false) (h : Stands s.dev core op c) (hl : listedOp op = true) (ho : ops op = true)
    (hf : f (unwait s.dev core) c = .ok (.stall ((unwait s.dev core).setCore core { s.dev.core core with ctx := x }))) :
    YieldsSome (onDev (isCore core) (fun _ d => issue core engine ops f d) s) s (CoreStep s.dev core { s.dev.core core with ctx := x }) :=
  issue_stall ha h hl ho _ hf (coreStep_set (coreStep_one _ _ _) _)

theorem fenceComplete_next {s : State} {core : Nat} (hc : core < 144) (h : asleep s.dev = false) :
    exec (.fenceComplete core) s = .next { s with dev := fenceComplete s.dev core } :=
  onDev_next (f := fun _ d => fenceComplete d core) (show isCore core = true from decide_eq_true hc) h

/-! ## FENCE_COMPLETE -/

section Complete

variable {d : Dev} {core slot : Nat} (hslot : (d.core core).slot = some slot)
include hslot

theorem fenceComplete_fenceC (hw : (d.core core).ctx.wait = .fenceC) (ha : (d.core core).active = true) (hd : coreDrained d core = true) :
    fenceComplete d core = if fieldLe (memRead d.mem (cmdCell core (32 * (d.core core).ctx.pc)) 1) 0 1 = 0x20 then passFence d core
      else waitAt d core .none := by
  simp [fenceComplete, hslot, hw, ha, hd]

theorem fenceComplete_fenceB {k : Nat} (hw : (d.core core).ctx.wait = .fenceB k) :
    fenceComplete d core = if allAt d slot (.fenceB k) = true then passAll d slot else d := by
  simp only [fenceComplete, hslot, hw]

theorem fenceComplete_fenceD {k : Nat} (hw : (d.core core).ctx.wait = .fenceD k) :
    fenceComplete d core = if (allAt d slot (.fenceD k) && enginesDrained d slot) = true then passAll d slot else d := by
  simp only [fenceComplete, hslot, hw]

end Complete

/-! ## Cores that leave their waits together -/

/-- From `d` to `e` only cores have changed. -/
def CoresOnly (d e : Dev) : Prop := e = { d with cores := e.cores }

/-- A core that has left its wait. -/
def CoreSt.passed (x : CoreSt) : CoreSt := { x with ctx := leaveWait x.ctx }

theorem core_passFence (d : Dev) (core p : Nat) : (passFence d core).core p = if p = core then (d.core core).passed else d.core p :=
  Dev.core_setCore _ _ _ _

/-- Cores at different places leave their waits one by one, and no other core changes. -/
theorem passFences (d : Dev) : ∀ (ls : List Nat), (ls.map d.phys).Nodup →
    let e := ls.foldl (fun e l => passFence e (e.phys l)) d
    (∀ l ∈ ls, e.core (d.phys l) = (d.core (d.phys l)).passed) ∧ (∀ p, p ∉ ls.map d.phys → e.core p = d.core p) ∧ CoresOnly d e
  | [], _ => ⟨by simp, fun _ _ => rfl, rfl⟩
  | l :: ls, h => by
    obtain ⟨hl, hls⟩ := List.nodup_cons.mp h
    obtain ⟨left, kept, only⟩ := passFences (passFence d (d.phys l)) ls hls
    refine ⟨fun k hk => ?_, fun p hp => ?_, only⟩
    · rcases List.mem_cons.mp hk with rfl | hk
      · exact (kept _ hl).trans ((core_passFence _ _ _).trans (if_pos rfl))
      · have hne : d.phys k ≠ d.phys l := fun he => hl (he ▸ List.mem_map_of_mem hk)
        exact (left k hk).trans (congrArg CoreSt.passed ((core_passFence _ _ _).trans (if_neg hne)))
    · rw [List.map_cons, List.mem_cons, not_or] at hp
      exact (kept p hp.2).trans ((core_passFence _ _ _).trans (if_neg hp.1))

/-- Settles O12: each fence command is its core's wait, and FENCE_COMPLETE lets the core, or all cores of the job, leave theirs. -/
theorem fencesWaitAndComplete : Obligations.FencesWaitAndComplete := by
  unfold Obligations.FencesWaitAndComplete
  intro s core h hc d x waits left
  refine ⟨fun c hz => ⟨fun hs => ?fenceC, fun hs => ?fenceB, fun hs => ?fenceD⟩, fun slot hslot => ⟨fun hw ha hd => ⟨fun hop => ?passed, fun hop => ?signal⟩,
    fun k hn => ⟨fun hw hall => ?allB, fun hw hall hdr => ?allD⟩, fun k hwait => ?kept⟩⟩
  case fenceC => exact fence_stalls h hs rfl rfl (by simp [fenceCCmd, legal_ok hz, waitAt, hs.own, x, d])
  case fenceB => exact fence_stalls h hs rfl rfl (by simp [fenceBCmd, legal_ok hz, hs.own, x, d])
  case fenceD => exact fence_stalls h hs rfl rfl (by simp [fenceDCmd, legal_ok hz, hs.own, x, d])
  case passed =>
    refine ⟨_, fenceComplete_next hc h, ?_⟩
    rw [fenceComplete_fenceC hslot hw ha hd, if_pos hop]
    exact coreStep_one _ _ _
  case signal =>
    refine ⟨_, fenceComplete_next hc h, ?_⟩
    rw [fenceComplete_fenceC hslot hw ha hd, if_neg hop]
    exact coreStep_one _ _ _
  case allB =>
    refine ⟨_, fenceComplete_next hc h, ?_⟩
    rw [fenceComplete_fenceB hslot hw, if_pos hall]
    exact passFences d _ hn
  case allD =>
    refine ⟨_, fenceComplete_next hc h, ?_⟩
    rw [fenceComplete_fenceD hslot hw, if_pos (by rw [hall, hdr]; rfl)]
    exact passFences d _ hn
  case kept =>
    rw [Yields, fenceComplete_next hc h]
    rcases hwait with ⟨hw, hall⟩ | ⟨hw, hall⟩
    · rw [fenceComplete_fenceB hslot hw, if_neg (by rw [hall]; exact Bool.false_ne_true)]
    · rw [fenceComplete_fenceD hslot hw, if_neg (by rcases hall with h | h <;> simp [h])]

end Sys2Proof.Machine
end

section
/-! PROOFS. The turn commands (spec/03_turns_and_fences.md R62, R66, R67; spec/08_vector_engine.md R217). -/

namespace Sys2Proof.Machine

/-- From `d` to `e` turn slot `slot` becomes `t`, and nothing else changes. -/
def TslotStep (d : Dev) (slot : Nat) (t : TrnSlot) (e : Dev) : Prop :=
  e.tslot slot = t ∧ (∀ j, j ≠ slot → e.tslot j = d.tslot j) ∧ e = { d with trn := { d.trn with slots := e.trn.slots } }

theorem tslotStep_set (d : Dev) (slot : Nat) (t : TrnSlot) : TslotStep d slot t (d.setTslot slot t) :=
  ⟨by simp, fun j hj => (Dev.tslot_setTslot _ _ _ _).trans (if_neg hj), rfl⟩

theorem tslotStep_refl (d : Dev) (slot : Nat) : TslotStep d slot (d.tslot slot) d := ⟨rfl, fun _ _ => rfl, rfl⟩

theorem tslotStep_phase (d : Dev) (slot : Nat) (c : Bool) (p : Phase) :
    TslotStep d slot { d.tslot slot with phase := if c = true then p else (d.tslot slot).phase }
      (if c = true then d.setTslot slot { d.tslot slot with phase := p } else d) := by
  split
  · exact tslotStep_set _ _ _
  · exact tslotStep_refl _ _

theorem TslotStep.trans {d e f : Dev} {slot : Nat} {t u : TrnSlot} (h : TslotStep d slot t e) (k : TslotStep e slot u f) : TslotStep d slot u f := by
  obtain ⟨-, hothers, honly⟩ := h
  obtain ⟨kslot, kothers, konly⟩ := k
  refine ⟨kslot, fun j hj => (kothers j hj).trans (hothers j hj), ?_⟩
  rw [konly, honly]

/-- A core's step and a turn slot's step, one after the other. -/
theorem CoreStep.andSlot {d e : Dev} {core slot : Nat} {x : CoreSt} {t : TrnSlot} (h : CoreStep d core x e) {f : Dev} (k : TslotStep e slot t f) :
    f.tslot slot = t ∧ (∀ j, j ≠ slot → f.tslot j = d.tslot j) ∧ CoreStep { d with trn := f.trn } core x f
      ∧ f.trn = { d.trn with slots := f.trn.slots } := by
  obtain ⟨hcore, hcores, honly⟩ := h
  obtain ⟨kslot, kothers, konly⟩ := k
  have cores : f.cores = e.cores := by rw [konly]
  have at_ (p : Nat) : f.core p = e.core p := by rw [Dev.core, cores]; rfl
  refine ⟨kslot, fun j hj => (kothers j hj).trans ?_, ⟨(at_ _).trans hcore, fun p hp => (at_ p).trans (hcores p hp), ?_⟩, ?_⟩
  · rw [honly]; rfl
  · rw [konly, honly]
  · rw [konly, honly]

/-! ## TRN.END -/

theorem coreStep_waitAt (d : Dev) (core : Nat) (w : Wait) :
    CoreStep d core { d.core core with ctx := { (d.core core).ctx with wait := w } } (waitAt (unwait d core) core w) := by
  have step := coreStep_set (coreStep_one d core { d.core core with ctx := { (d.core core).ctx with wait := .none } })
    { d.core core with ctx := { (d.core core).ctx with wait := w } }
  simpa [waitAt] using step

/-- Every core has ended its turn once the one that ends now is counted among those that idle. -/
theorem allEnded_waitAt (d : Dev) (core slot : Nat) : allEnded (waitAt (unwait d core) core .ended) slot
    = (jobCores d slot).all (fun l => d.phys l == core || (d.core (d.phys l)).ctx.wait == .ended) := by
  obtain ⟨hcore, hothers, -⟩ := coreStep_waitAt d core .ended
  refine congrArg (fun p => (jobCores d slot).all p) (funext fun l => ?_)
  change (((waitAt (unwait d core) core .ended).core (d.phys l)).ctx.wait == .ended) = _
  by_cases hp : d.phys l = core
  · rw [hp, hcore]; simp
  · rw [hothers _ hp]; simp [hp]

theorem trnEndCmd_stalls {d : Dev} {c : Cmd} (hz : c.zero 1 31 = true) (hg : (d.tslot c.slot).domain = false ∨ (groupOf d c.slot).isSome = true) :
    trnEndCmd d c = .ok (.stall (if (allEnded (waitAt d c.core .ended) c.slot && (d.tslot c.slot).phase == .running) = true
      then (waitAt d c.core .ended).setTslot c.slot { d.tslot c.slot with phase := .ending } else waitAt d c.core .ended)) := by
  have grouped : ((d.tslot c.slot).domain && (groupOf d c.slot).isNone) = false := by
    rcases hg with hg | hg
    · rw [hg, Bool.false_and]
    · simp [Option.isNone_eq_false_iff.mpr hg]
  simp only [trnEndCmd, legal_ok hz, acc_bind_ok, grouped, Bool.false_eq_true, ↓reduceIte]
  rfl

/-! ## Pages of the move list (R67) -/

/-- A walk reads neither cores nor the turn-commit unit. -/
theorem walkFrom_kept (d : Dev) (cores : Tab CoreSt) (trn : Trn) (va : Nat) :
    ∀ (fuel level table : Nat), walkFrom { d with cores := cores, trn := trn } va fuel level table = walkFrom d va fuel level table
  | 0, _, _ => rfl
  | fuel + 1, level, table => by
    unfold walkFrom
    simp only [walkFrom_kept d cores trn va fuel]
    rfl

/-- Moves that join the list change no page's entry. -/
theorem committedPage_kept {d e : Dev} {slot : Nat} (hcores : e = { d with cores := e.cores, trn := { d.trn with slots := e.trn.slots } })
    (hroot : (e.tslot slot).root = (d.tslot slot).root) (hepoch : (e.tslot slot).epoch = (d.tslot slot).epoch) (va : Nat) (write : Bool) :
    committedPage e slot va write = committedPage d slot va write := by
  have walked : walk e slot va = walk d slot va := by
    unfold walk walkRoot
    rw [hroot, hcores, walkFrom_kept]
    rfl
  have mapped (cur : Nat) : curMapped e cur = curMapped d cur := by rw [hcores]; rfl
  unfold committedPage
  simp only [walked, mapped, hepoch]

/-- A page's move joins a list that has room. -/
theorem appendMove_ok {d : Dev} {slot : Nat} (va : Nat) (m : Move) (h : (d.tslot slot).moves.length < 16384) :
    appendMove d slot va m = .ok (d.setTslot slot { d.tslot slot with moves := (d.tslot slot).moves ++ [m] }) :=
  if_neg (by omega)

/-- Pages that each add one move to a list with room for all of them add their moves in order. -/
theorem foldlM_appendMoves {d0 : Dev} {slot : Nat} {f : Dev → Nat → Acc Dev} {va : Nat → Nat} {move : Nat → Move} : ∀ (l : List Nat) (d : Dev) (ms : List Move),
    (∀ i ∈ l, ∀ e ms, TslotStep d0 slot { d0.tslot slot with moves := ms } e → f e i = appendMove e slot (va i) (move i)) →
    TslotStep d0 slot { d0.tslot slot with moves := ms } d → ms.length + l.length ≤ 16384 →
    ∃ e, l.foldlM f d = .ok e ∧ TslotStep d0 slot { d0.tslot slot with moves := ms ++ l.map move } e
  | [], d, ms, _, hd, _ => ⟨d, rfl, by simpa using hd⟩
  | i :: l, d, ms, hf, hd, hroom => by
    rw [List.length_cons] at hroom
    have moves : (d.tslot slot).moves = ms := by rw [hd.1]
    have added : TslotStep d0 slot { d0.tslot slot with moves := ms ++ [move i] } (d.setTslot slot { d.tslot slot with moves := (d.tslot slot).moves ++ [move i] }) := by
      refine hd.trans ?_
      rw [hd.1]
      exact tslotStep_set _ _ _
    obtain ⟨e, hrun, hstep⟩ := foldlM_appendMoves l _ _ (fun j hj => hf j (List.mem_cons_of_mem i hj)) added (by simp; omega)
    refine ⟨e, ?_, by simpa using hstep⟩
    rw [List.foldlM_cons, hf i List.mem_cons_self d ms hd, appendMove_ok _ _ (by rw [moves]; omega), acc_bind_ok, hrun]

/-- A turn command that its core issues and goes on from, with its slot changed. -/
theorem turnCommand_next {s : State} {core op slot : Nat} {c : Cmd} {t : TrnSlot} {d2 : Dev} {ops : Nat → Bool} {f : Dev → Cmd → Acc Issued}
    (ha : asleep s.dev = false) (h : Stands s.dev core op c) (hl : listedOp op = true)
    (ho : ops op = true) (hop : 0x20 ≤ op) (hf : f (unwait s.dev core) c = .ok (.next d2)) (h2 : TslotStep (unwait s.dev core) slot t d2) :
    YieldsSome (onDev (isCore core) (fun _ d => issue core 0 ops f d) s) s (fun e =>
      e.tslot slot = t ∧ (∀ j, j ≠ slot → e.tslot j = s.dev.tslot j)
      ∧ CoreStep { s.dev with trn := e.trn } core { s.dev.core core with ctx := { (s.dev.core core).ctx with wait := .none, pc := c.pc + 1, addf := [] } } e
      ∧ e.trn = { s.dev.trn with slots := e.trn.slots }) := by
  refine issue_yields ha h hl ho _ hf ?_
  obtain ⟨hslot, hothers, hcore, htrn⟩ := (coreStep_one s.dev core _).andSlot h2
  refine ⟨hslot, hothers, ?_, htrn⟩
  have went := coreStep_set hcore { s.dev.core core with ctx := { (s.dev.core core).ctx with wait := .none, pc := c.pc + 1, addf := [] } }
  have heq : issued d2 core op (c.pc + 1) = d2.setCore core { d2.core core with ctx := { (d2.core core).ctx with pc := c.pc + 1, addf := [] } } := by
    simp [issued, advance, hop]
  rw [heq, hcore.1]
  exact went

/-- While moves join the list, the pages of the slot are those of the device before. -/
theorem committedPage_ofStep {d e : Dev} {core slot : Nat} {ms : List Move}
    (h : TslotStep (unwait d core) slot { (unwait d core).tslot slot with moves := ms } e) (va : Nat) (write : Bool) :
    committedPage e slot va write = committedPage d slot va write := by
  obtain ⟨hslot, -, honly⟩ := h
  refine committedPage_kept ?_ ?_ ?_ va write
  · rw [honly]; rfl
  · rw [hslot]; rfl
  · rw [hslot]; rfl

/-- One page of TRN.SHARE. -/
def sharePage (c : Cmd) (e : Dev) (i : Nat) : Acc Dev := do
  let s ← committedPage e c.slot (c.u 8 8 + i * 0x10000) false
  let t ← committedPage e c.slot (c.u 0x10 8 + i * 0x10000) true
  appendMove e c.slot (c.u 0x10 8 + i * 0x10000) { kind := .share, old := t.2, new := s.2, leaf := t.1, src := s.1 }

/-- One page of TRN.RELEASE. -/
def releasePage (c : Cmd) (e : Dev) (i : Nat) : Acc Dev := do
  let t ← committedPage e c.slot (c.u 8 8 + i * 0x10000) true
  appendMove e c.slot (c.u 8 8 + i * 0x10000) { kind := .release, old := t.2, new := noFrame, leaf := t.1 }

theorem trnShareCmd_eq {c : Cmd} (hz : c.zero 1 7 = true) (hsrc : c.u 8 8 % 0x10000 = 0) (hdst : c.u 0x10 8 % 0x10000 = 0)
    (hn : c.u 0x18 8 % 0x10000 = 0) (d : Dev) : trnShareCmd d c = (pagesOf (c.u 0x18 8)).foldlM (sharePage c) d >>= fun d => .ok (.next d) := by
  rw [trnShareCmd, legal_ok (by simp [hz, hsrc, hdst, hn]), acc_bind_ok]
  rfl

theorem trnReleaseCmd_eq {c : Cmd} (hz : c.zero 1 7 = true) (hz2 : c.zero 0x18 8 = true) (hva : c.u 8 8 % 0x10000 = 0)
    (hn : c.u 0x10 8 % 0x10000 = 0) (d : Dev) : trnReleaseCmd d c = (pagesOf (c.u 0x10 8)).foldlM (releasePage c) d >>= fun d => .ok (.next d) := by
  rw [trnReleaseCmd, legal_ok (by simp [hz, hz2, hva, hn]), acc_bind_ok]
  rfl

/-- While moves join the list, each page of a SHARE adds the move of the entries the device had before. -/
theorem sharePage_step {d : Dev} {core : Nat} {c : Cmd} {src dst : Nat → Nat × Nat}
    (h : ∀ i, i < c.u 0x18 8 / 0x10000 → committedPage d c.slot (c.u 8 8 + i * 0x10000) false = .ok (src i)
      ∧ committedPage d c.slot (c.u 0x10 8 + i * 0x10000) true = .ok (dst i)) (i : Nat) (hi : i ∈ pagesOf (c.u 0x18 8)) (e : Dev) (ms : List Move)
    (he : TslotStep (unwait d core) c.slot { (unwait d core).tslot c.slot with moves := ms } e) :
    sharePage c e i = appendMove e c.slot (c.u 0x10 8 + i * 0x10000)
      { kind := .share, old := (dst i).2, new := (src i).2, leaf := (dst i).1, src := (src i).1 } := by
  obtain ⟨hsrc, hdst⟩ := h i (List.mem_range.mp hi)
  rw [sharePage, committedPage_ofStep he, committedPage_ofStep he, hsrc, hdst, acc_bind_ok, acc_bind_ok]

/-- The same of a RELEASE. -/
theorem releasePage_step {d : Dev} {core : Nat} {c : Cmd} {page : Nat → Nat × Nat}
    (h : ∀ i, i < c.u 0x10 8 / 0x10000 → committedPage d c.slot (c.u 8 8 + i * 0x10000) true = .ok (page i)) (i : Nat)
    (hi : i ∈ pagesOf (c.u 0x10 8)) (e : Dev) (ms : List Move)
    (he : TslotStep (unwait d core) c.slot { (unwait d core).tslot c.slot with moves := ms } e) :
    releasePage c e i = appendMove e c.slot (c.u 8 8 + i * 0x10000) { kind := .release, old := (page i).2, new := noFrame, leaf := (page i).1 } := by
  rw [releasePage, committedPage_ofStep he, h i (List.mem_range.mp hi), acc_bind_ok]

/-- Settles O14: a core that ends changes the phase with the last of them; pages that TRN.SHARE and TRN.RELEASE name join the move list
in order, since moves that join it leave every page's entry alone. -/
theorem turnCommandsBuildTheMoveList : Obligations.TurnCommandsBuildTheMoveList := by
  unfold Obligations.TurnCommandsBuildTheMoveList
  intro s core c h d x t pages onward
  refine ⟨fun hs hz hg => ?ended, fun src dst hs hz hsrc hdst hn hpages hroom => ?shared, fun page hs hz hz2 hva hn hpages hroom => ?released⟩
  case ended =>
    intro ended all
    have hcmd := trnEndCmd_stalls (d := unwait s.dev core) hz hg
    rw [hs.own, allEnded_waitAt] at hcmd
    exact issue_stall h hs rfl rfl _ hcmd ((coreStep_waitAt d core .ended).andSlot (tslotStep_phase _ _ _ _))
  case shared =>
    obtain ⟨d2, hrun, hstep⟩ := foldlM_appendMoves (pagesOf (c.u 0x18 8)) _ t.moves (sharePage_step hpages)
      (tslotStep_refl (unwait d core) c.slot) (by rw [pagesOf, List.length_range]; exact hroom)
    refine turnCommand_next h hs rfl rfl (by decide) ?_ hstep
    rw [trnShareCmd_eq hz hsrc hdst hn, hrun, acc_bind_ok]
  case released =>
    obtain ⟨d2, hrun, hstep⟩ := foldlM_appendMoves (pagesOf (c.u 0x10 8)) _ t.moves (releasePage_step hpages)
      (tslotStep_refl (unwait d core) c.slot) (by rw [pagesOf, List.length_range]; exact hroom)
    refine turnCommand_next h hs rfl rfl (by decide) ?_ hstep
    rw [trnReleaseCmd_eq hz hz2 hva hn, hrun, acc_bind_ok]

end Sys2Proof.Machine
end

section
/-! PROOFS. How a Plaldaul request settles (spec/15_host_attachment.md R395, R398, R399, R410, R413, R414) and when its row executes it
(R399, R402, R404, R409). -/

namespace Sys2Proof.Machine

/-! ## A frame that goes back -/

theorem Dev.assoc_congr {d e : Dev} (h : e.sec.assocs = d.sec.assocs) (k : Nat) : e.assoc k = d.assoc k := by rw [Dev.assoc, Dev.assoc, h]

/-- An answer changes the transmit association it is sent under and the frames that wait to leave. -/
theorem sendBack_only (d : Dev) (h : Nat) (b : Back) (bytes : List Byte) : sendBack d h b bytes
    = { d with pld := { d.pld with out := (sendBack d h b bytes).pld.out }, sec := { d.sec with assocs := (sendBack d h b bytes).sec.assocs } } := by
  unfold sendBack
  dsimp only
  split
  · rfl
  split <;> rfl

theorem sendBack_sent (d : Dev) (h : Nat) (b : Back) (bytes : List Byte) : Sent d h b bytes (sendBack d h b bytes) := by
  unfold Sent sendBack
  dsimp only
  rcases hgoes : (d.ethp b.port).linkUp && !pnExhausted d (d.conn h).conf with _ | _
  · have stays : (!(d.ethp b.port).linkUp || pnExhausted d (d.conn h).conf) = true := by
      simpa [← Bool.not_eq_true, imp_iff_not_or] using hgoes
    simp [stays]
  · have sends : (!(d.ethp b.port).linkUp || pnExhausted d (d.conn h).conf) = false := by simpa using hgoes
    simp only [sends, Bool.false_eq_true, ↓reduceIte, Bool.true_and]
    cases (d.conn h).conf.macsec with
    | false => exact ⟨rfl, rfl, fun _ _ => rfl, rfl⟩
    | true => exact ⟨rfl, Dev.assoc_setAssoc_self _ _ _, fun k hk => (Dev.assoc_setAssoc _ _ _ _).trans (if_neg hk), rfl⟩

/-- What a frame goes out by: links, associations, the connection's configuration and the frames before it. -/
theorem Sent.congr {d d1 e : Dev} {h : Nat} {b : Back} {bytes : List Byte} (hs : Sent d1 h b bytes e) (hconf : (d1.conn h).conf = (d.conn h).conf)
    (hsec : d1.sec = d.sec) (heth : d1.eth = d.eth) (hout : d1.pld.out = d.pld.out) : Sent d h b bytes e := by
  have assoc (k : Nat) : d1.assoc k = d.assoc k := Dev.assoc_congr (by rw [hsec]) k
  have link (n : Nat) : d1.ethp n = d.ethp n := by rw [Dev.ethp, Dev.ethp, heth]
  have left (c : ConnConf) : pnExhausted d1 c = pnExhausted d c := by rw [pnExhausted, assoc, pnExhausted]
  simpa only [Sent, hconf, hsec, hout, assoc, link, left] using hs

/-! ## A request that settles -/

/-- The connection once a request of it is answered. -/
def Conn.settled (c : Conn) (r : PldReq) : Conn :=
  { c.put { r with phase := .answered (c.state == .opened && !longRead r), left := 0, parts := [] } with requests := sat32 c.requests }

/-- Connection `h` becomes `y`, and an answer that is kept goes into the cache. -/
def noteAnswer (d : Dev) (h : Nat) (y : Conn) (keep : Bool) (cell : Nat) (bytes : List Byte) : Dev :=
  if keep then (d.setConn h y).cellPut cell bytes else d.setConn h y

section Noted

variable (d : Dev) (h : Nat) (y : Conn) (keep : Bool) (cell : Nat) (bytes : List Byte)

theorem noteAnswer_only : noteAnswer d h y keep cell bytes
    = { (if keep then d.cellPut cell bytes else d) with pld := { d.pld with conns := (noteAnswer d h y keep cell bytes).pld.conns } } := by
  cases keep <;> rfl

theorem noteAnswer_conn (k : Nat) : (noteAnswer d h y keep cell bytes).conn k = if k = h then y else d.conn k := by
  cases keep <;> exact Dev.conn_setConn _ _ _ _

theorem noteAnswer_mem : (noteAnswer d h y keep cell bytes).mem = if keep then memWrite d.mem cell bytes else d.mem := by
  cases keep <;> rfl

/-- Noting an answer changes nothing that a frame goes out by. -/
theorem noteAnswer_sends : (noteAnswer d h y keep cell bytes).sec = d.sec ∧ (noteAnswer d h y keep cell bytes).eth = d.eth
    ∧ (noteAnswer d h y keep cell bytes).pld.out = d.pld.out := by
  cases keep <;> exact ⟨rfl, rfl, rfl⟩

end Noted

theorem settle_settled (d : Dev) (h : Nat) (r : PldReq) (a : Answer) : Settled d h r a (settle d h r a) := by
  unfold Settled
  extract_lets c live keep bytes
  have heq : settle d h r a = if live then sendBack (noteAnswer d h (c.settled r) keep (replyCell h r.seq) bytes) h r.back bytes
    else noteAnswer d h (c.settled r) keep (replyCell h r.seq) bytes := rfl
  rw [heq]
  have only := noteAnswer_only d h (c.settled r) keep (replyCell h r.seq) bytes
  have conn := noteAnswer_conn d h (c.settled r) keep (replyCell h r.seq) bytes
  have mem := noteAnswer_mem d h (c.settled r) keep (replyCell h r.seq) bytes
  obtain ⟨sec, eth, out⟩ := noteAnswer_sends d h (c.settled r) keep (replyCell h r.seq) bytes
  generalize noteAnswer d h (c.settled r) keep (replyCell h r.seq) bytes = x at only conn mem sec eth out ⊢
  split
  case isTrue hlive =>
    have sent := sendBack_sent x h r.back bytes
    have back := sendBack_only x h r.back bytes
    generalize sendBack x h r.back bytes = e at sent back
    have same (k : Nat) : e.conn k = x.conn k := by rw [back]; rfl
    refine ⟨(same h).trans ((conn h).trans (if_pos rfl)), fun k hk => (same k).trans ((conn k).trans (if_neg hk)), ?_,
      fun _ => sent.congr ?_ sec eth out, fun hdead => ?_, ?_⟩
    · rw [back]; exact mem
    · rw [conn, if_pos rfl]; rfl
    · exact absurd (hlive.symm.trans hdead) Bool.noConfusion
    · rw [back, only]
  case isFalse hdead =>
    refine ⟨(conn h).trans (if_pos rfl), fun k hk => (conn k).trans (if_neg hk), mem, fun hlive => absurd hlive hdead, fun _ => ⟨sec, out⟩, ?_⟩
    rw [only]

/-! ## A request's row -/

/-- The row of an admitted request's operation executes it. -/
theorem pldExec_admitted {d : Dev} {h seq op : Nat} {r : PldReq} (ha : Admitted d h seq op r) (f : Dev → PldReq → Dev) :
    pldExec h seq op f d = f d r := by
  have through : turnedAway d h r = none := by
    have domain : (namesRemote d r && !(d.conn h).conf.domain) = false := by
      cases hn : namesRemote d r with
      | false => rfl
      | true => simp [ha.domain hn]
    simp [turnedAway, ha.form, ha.allowed, domain]
  simp [pldExec, ha.found, ha.op_eq, ha.phase, ha.sends, through]

theorem Admitted.units {d : Dev} {h seq op : Nat} {r : PldReq} (ha : Admitted d h seq op r) : (is8 h && isSeq seq) = true := by
  simp [is8, isSeq, ha.h_lt, ha.seq_lt]

/-- A row of the attachment on an admitted request. -/
theorem pldRow_next {s : State} {h seq op : Nat} {r : PldReq} (hs : asleep s.dev = false) (ha : Admitted s.dev h seq op r)
    (f : Nv → Dev → PldReq → Dev) : onDev (is8 h && isSeq seq) (fun nv d => pldExec h seq op (f nv) d) s = .next { s with dev := f s.nv s.dev r } := by
  rw [onDev_next ha.units hs, pldExec_admitted ha]

end Sys2Proof.Machine
end

section
/-! PROOFS. POLL, HOSTFENCE and DOORBELL (spec/03_turns_and_fences.md R63; spec/04_clepsydra_and_scheduling.md R97;
spec/15_host_attachment.md R407, R412). -/

namespace Sys2Proof.Machine

/-! ## Reads of HBM that are counted (R468) -/

theorem noteHold_hbmRead (d : Dev) (cell : Nat) : HbmRead d (noteHold d cell) := by
  unfold noteHold
  split
  · exact hbmRead_setStack rfl
  · exact hbmRead_refl d

theorem count_hbmRead (d : Dev) (n k : Nat) : HbmRead d (d.count n k) := ⟨rfl, fun _ => rfl, fun _ h => h⟩

theorem countHbm_hbmRead (d : Dev) (write : Bool) (p : Place) (n : Nat) : HbmRead d (countHbm d write p n) := by
  unfold countHbm
  split
  case h_1 c =>
    split
    · have noted := hbmRead_trans (count_hbmRead d (if write then 5 else 4) ((n + 63) / 64)) (noteHold_hbmRead _ c)
      cases write with
      | true => exact noted
      | false => exact hbmRead_trans noted (meetCells_hbmRead _ _ _)
    · exact hbmRead_refl d
  case h_2 => exact hbmRead_refl d

/-! ## A word of bits -/

/-- The number whose bit `i`, below `n`, is `b i`. -/
def bitWord (b : Nat → Bool) (n : Nat) : Nat := ((List.range n).map (fun i => bit (b i) * 2 ^ i)).sum

theorem bitWord_succ (b : Nat → Bool) (n : Nat) : bitWord b (n + 1) = 2 ^ n * bit (b n) + bitWord b n := by
  simp only [bitWord, List.range_succ, List.map_append, List.sum_append, List.map_cons, List.map_nil, List.sum_singleton]
  ring

theorem bitWord_lt (b : Nat → Bool) : ∀ n, bitWord b n < 2 ^ n
  | 0 => Nat.one_pos
  | n + 1 => by
    have ih := bitWord_lt b n
    have hbit : bit (b n) ≤ 1 := by unfold bit; split <;> omega
    rw [bitWord_succ, pow_succ]
    nlinarith

theorem natBit_bitWord (b : Nat → Bool) {i : Nat} : ∀ {n : Nat}, i < n → natBit (bitWord b n) i = b i
  | n + 1, h => by
    rw [bitWord_succ, natBit, Nat.testBit_two_pow_mul_add _ (bitWord_lt b n)]
    split
    case isTrue hi => exact natBit_bitWord b hi
    case isFalse hi =>
      rw [show i = n by omega, Nat.sub_self]
      cases b n <;> rfl

/-! ## POLL (R407) -/

/-- The word a POLL entry reads, or the reason it failed, at an address of spaces 0 to 2. -/
def pollGot (x : Dev) (g : Nat) : Word × Nat :=
  match outsidePlace x false (natBits g 51 48) (g % 2 ^ 48) 4 with
  | .error _ => (0, 0x93)
  | .ok pl => if (placeRead x pl 4).2 then (0, 0xA3) else (BitVec.ofNat 32 (leNat (placeRead x pl 4).1), 0)

/-- What a POLL entry that makes an access of its own leaves. -/
def pollAfter (x : Dev) (g : Nat) : Dev :=
  match outsidePlace x false (natBits g 51 48) (g % 2 ^ 48) 4 with
  | .error _ => x
  | .ok pl => countHbm x false pl 4

theorem pollAfter_hbmRead (x : Dev) (g : Nat) : HbmRead x (pollAfter x g) := by
  unfold pollAfter
  split
  · exact hbmRead_refl x
  · exact countHbm_hbmRead _ _ _ _

theorem pollEntry_eq (h : Nat) (nv : Nv) (x : Dev) (joined : Bool) {g : Nat} (hg : natBits g 51 48 ≠ 3) :
    pollEntry h nv x joined g = (if joined then x else pollAfter x g, pollGot x g) := by
  rw [pollEntry, if_neg (by simpa using hg), pollAfter, pollGot]
  cases outsidePlace x false (natBits g 51 48) (g % 2 ^ 48) 4 with
  | error e => cases joined <;> rfl
  | ok pl =>
    cases joined <;> cases hp : (placeRead x pl 4).2 <;> simp [hp]

/-- Entry `i` is read by the access of the entry before it. -/
def pollJoined (entry : Nat → Nat) (i : Nat) : Bool := (if i = 0 then none else some (entry (i - 1))).any (fun b => sameAccess b (entry i))

theorem pollJoined_iff (entry : Nat → Nat) (i : Nat) : pollJoined entry i = true
    ↔ 0 < i ∧ entry (i - 1) % 2 ^ 52 / 32 = entry i % 2 ^ 52 / 32 ∧ entry (i - 1) % 2 ^ 52 < entry i % 2 ^ 52 := by
  cases i <;> simp [pollJoined, sameAccess]

/-- The first `n` entries, read in order: the device after them, and their words. -/
def pollRun (h : Nat) (nv : Nv) (d : Dev) (entry : Nat → Nat) (n : Nat) : Dev × List (Word × Nat) :=
  (List.range n).foldl (fun acc i =>
    let e := pollEntry h nv acc.1 (pollJoined entry i) (entry i)
    (e.1, acc.2 ++ [e.2])) (d, [])

section Run

variable (h : Nat) (nv : Nv) (d : Dev) (entry : Nat → Nat)

theorem pollRun_succ (n : Nat) : pollRun h nv d entry (n + 1) =
    ((pollEntry h nv (pollRun h nv d entry n).1 (pollJoined entry n) (entry n)).1,
      (pollRun h nv d entry n).2 ++ [(pollEntry h nv (pollRun h nv d entry n).1 (pollJoined entry n) (entry n)).2]) := by
  rw [pollRun, List.range_succ, List.foldl_append]
  rfl

theorem pollRun_words (n : Nat) : (pollRun h nv d entry n).2
    = (List.range n).map (fun i => (pollEntry h nv (pollRun h nv d entry i).1 (pollJoined entry i) (entry i)).2) := by
  induction n with
  | zero => rfl
  | succ n ih => rw [pollRun_succ, ih, List.range_succ, List.map_append]; rfl

/-- Each entry of a list beside the entry before it. -/
theorem zip_before (n : Nat) : ((List.range n).map entry).zip (none :: ((List.range n).map entry).map some)
    = (List.range n).map (fun i => (entry i, if i = 0 then none else some (entry (i - 1)))) := by
  refine List.ext_getElem (by simp) fun i _ _ => ?_
  cases i <;> simp

theorem zipIdx_range {α : Type} (g : Nat → α) (n : Nat) : ((List.range n).map g).zipIdx = (List.range n).map (fun i => (g i, i)) :=
  List.ext_getElem (by simp) fun i _ _ => by simp

/-! Entries of spaces 0 and 2 -/

variable {entry} {n : Nat} (hplain : ∀ i, i < n → natBits (entry i) 51 48 ≠ 3)
include hplain

theorem pollRun_step {i : Nat} (hi : i < n) : (pollRun h nv d entry (i + 1)).1
    = if pollJoined entry i then (pollRun h nv d entry i).1 else pollAfter (pollRun h nv d entry i).1 (entry i) := by
  rw [pollRun_succ, pollEntry_eq _ _ _ _ (hplain i hi)]

theorem pollRun_gots : (pollRun h nv d entry n).2 = (List.range n).map (fun i => pollGot (pollRun h nv d entry i).1 (entry i)) := by
  rw [pollRun_words]
  exact List.map_congr_left fun i hi => by rw [pollEntry_eq _ _ _ _ (hplain i (List.mem_range.mp hi))]

theorem pollRun_hbmRead : ∀ {i : Nat}, i ≤ n → HbmRead d (pollRun h nv d entry i).1
  | 0, _ => hbmRead_refl d
  | i + 1, hi => by
    rw [pollRun_step h nv d hplain hi]
    split
    · exact pollRun_hbmRead (by omega)
    · exact hbmRead_trans (pollRun_hbmRead (by omega)) (pollAfter_hbmRead _ _)

end Run

/-- Entry `i` of a POLL. -/
def PldReq.entry (r : PldReq) (i : Nat) : Nat := fieldLe r.body (8 * i) 8

/-- The answer to the words read. -/
def pollAnswer (words : List (Word × Nat)) : Answer :=
  { detail := ((words.find? (fun e => !(e.2 == 0))).map (·.2)).getD 0
    arg := (words.zipIdx.map (fun e => bit (!(e.1.2 == 0)) * 2 ^ e.2)).sum
    payload := words.flatMap (fun e => leBytes 4 e.1.toNat) }

theorem pollAnswer_arg (g : Nat → Word × Nat) (n : Nat) :
    (pollAnswer ((List.range n).map g)).arg = bitWord (fun i => !((g i).2 == 0)) n := by
  rw [pollAnswer, zipIdx_range, List.map_map]
  rfl

/-- The answer to the one word of a register. -/
theorem pollAnswer_register (v : Word) (e : Byte) : pollAnswer [(if e == 0 then v else 0, e.toNat)]
    = if e = 0 then { payload := leBytes 4 v.toNat } else { detail := e.toNat, arg := 1, payload := [0, 0, 0, 0] } := by
  by_cases he : e = 0
  · subst he; simp [pollAnswer, bit]
  · have hn : e.toNat ≠ 0 := fun h => he (BitVec.eq_of_toNat_eq h)
    have hb : (e == 0) = false := beq_eq_false_iff_ne.mpr he
    rw [hb, if_neg he]
    simp [pollAnswer, bit, hn]
    rfl

theorem pollRun_one_register (h : Nat) (nv : Nv) (d : Dev) {entry : Nat → Nat} (hspace : natBits (entry 0) 51 48 = 3) :
    pollRun h nv d entry 1 = ((regRead nv d (.host h) (entry 0 % 2 ^ 48)).1,
      [(if (regRead nv d (.host h) (entry 0 % 2 ^ 48)).2.error == 0 then (regRead nv d (.host h) (entry 0 % 2 ^ 48)).2.value else 0,
        (regRead nv d (.host h) (entry 0 % 2 ^ 48)).2.error.toNat)]) := by
  rw [pollRun_succ]
  simp [pollRun, pollEntry, hspace]

section Poll

variable (h : Nat) (nv : Nv) {d : Dev} {r : PldReq}

theorem pldPoll_badShape {i : Nat} (hi : i < r.arg) (hbad : pollShape (r.entry i) = false) : pldPoll h nv d r = settle d h r (busError 0x93) := by
  have formed : ((List.range r.arg).map r.entry).all pollShape = false := by
    rw [List.all_eq_false]
    exact ⟨_, List.mem_map_of_mem (List.mem_range.mpr hi), by simp [hbad]⟩
  exact if_pos (by rw [Bool.not_eq_true']; exact formed)

variable (hshape : ∀ i, i < r.arg → pollShape (r.entry i) = true)
include hshape

theorem poll_formed : ((List.range r.arg).map r.entry).all pollShape = true := by
  simpa using hshape

theorem pldPoll_cold (hcold : coldSpaces d = true) {i : Nat} (hi : i < r.arg) (hspace : natBits (r.entry i) 51 48 = 0) :
    pldPoll h nv d r = settle d h r { status := 3 } := by
  have asks : ((List.range r.arg).map r.entry).any (fun g => natBits g 51 48 == 0) = true := by
    rw [List.any_eq_true]
    exact ⟨_, List.mem_map_of_mem (List.mem_range.mpr hi), by simp [hspace]⟩
  refine (if_neg ?_).trans (if_pos ?_)
  · rw [Bool.not_eq_true', Bool.not_eq_false]
    exact poll_formed hshape
  · rw [hcold, Bool.true_and]
    exact asks

/-- POLL of entries whose form is right, none of them of a space that is not served, answers the words of its run. -/
theorem pldPoll_run (hwarm : coldSpaces d = false ∨ ∀ i, i < r.arg → natBits (r.entry i) 51 48 ≠ 0) :
    pldPoll h nv d r = settle (pollRun h nv d r.entry r.arg).1 h r (pollAnswer (pollRun h nv d r.entry r.arg).2) := by
  have served : (coldSpaces d && ((List.range r.arg).map r.entry).any (fun g => natBits g 51 48 == 0)) = false := by
    rcases hwarm with hwarm | hnone
    · rw [hwarm, Bool.false_and]
    · have : ((List.range r.arg).map r.entry).any (fun g => natBits g 51 48 == 0) = false := by simpa using hnone
      rw [this, Bool.and_false]
  unfold pldPoll
  rw [show (List.range r.arg).map (fun i => fieldLe r.body (8 * i) 8) = (List.range r.arg).map r.entry from rfl]
  simp only [poll_formed hshape, served, Bool.not_true, Bool.false_eq_true, ↓reduceIte, zip_before, List.foldl_map]
  rfl

end Poll

/-! ## HOSTFENCE and DOORBELL (R63, R97) -/

theorem Conn.settled_reqs (c : Conn) (r : PldReq) : (c.settled r).reqs = c.reqs.map (fun q => if q.seq == r.seq
    then { r with phase := .answered (c.state == .opened && !longRead r), left := 0, parts := [] } else q) := rfl

/-- The doorbells that wait. -/
def waitingBells (c : Conn) : List PldReq := c.reqs.filter (fun q => q.op == 7 && q.phase == .waiting)

/-- Once a request is answered, the doorbells that wait are the others that waited. -/
theorem waitingBells_settled (c : Conn) (r : PldReq) : waitingBells (c.settled r) = (waitingBells c).filter (fun q => !(q.seq == r.seq)) := by
  rw [waitingBells, waitingBells, Conn.settled_reqs]
  induction c.reqs with
  | nil => rfl
  | cons q l ih =>
    rw [List.map_cons, List.filter_cons, List.filter_cons, ih]
    cases hq : q.seq == r.seq <;> cases hb : q.op == 7 && q.phase == .waiting <;> simp [hq, hb]

theorem seqReceived_settled (c : Conn) (r : PldReq) (n : Nat) : seqReceived (c.settled r) n = seqReceived c n := by
  rw [seqReceived, seqReceived, Conn.settled_reqs, List.any_map]
  refine congrArg (fun p => c.reqs.any p) (funext fun q => ?_)
  by_cases hq : q.seq = r.seq <;> simp [hq]

/-- An answer closes no gap in the numbers received. -/
theorem noGap_settled (c : Conn) (r : PldReq) (n : Nat) : noGap (c.settled r) n = noGap c n := by
  simp only [noGap, seqReceived_settled]
  rfl

/-- Once the fence `r` is answered a doorbell is free when every earlier fence but `r` had been. -/
theorem bellFree_settled {c : Conn} {r : PldReq} {n : Nat} (hgap : noGap c n = true)
    (hfences : ∀ y ∈ c.reqs, y.op = 6 → seqDiff y.seq n < 0 → y.seq = r.seq ∨ answeredReq y = true) : bellFree (c.settled r) n = true := by
  rw [bellFree, noGap_settled, hgap, Bool.true_and, earlierDone, Conn.settled_reqs, List.all_map, List.all_eq_true]
  intro y hy
  by_cases hseq : y.seq = r.seq
  · simp [hseq, answeredReq]
  · by_cases hop : seqDiff y.seq n < 0 ∧ y.op = 6
    · simp [hseq, (hfences y hy hop.2 hop.1).resolve_left hseq]
    · have late := (not_and_or.mp hop).imp_left Int.not_lt.mp
      simp [hseq, late]

theorem hostfenceComplete_next {s : State} {h : Nat} (hs : asleep s.dev = false) (hh : h < 8) :
    exec (.hostfenceComplete h) s = .next { s with dev := hostfenceComplete s.dev h } :=
  onDev_next (f := fun _ d => hostfenceComplete d h) (show is8 h = true from decide_eq_true hh) hs

/-- The count of a connection's completed fences goes up by one. -/
def countFence (d : Dev) (h : Nat) : Dev :=
  { d with trn := { d.trn with hostfenceDone := tabSet 0 d.trn.hostfenceDone h (tabGet 0 d.trn.hostfenceDone h + 1) } }

section Fence

variable {d : Dev} {h : Nat}

theorem hostfenceComplete_none (hn : nextFence (d.conn h) = none) : hostfenceComplete d h = d := by
  rw [hostfenceComplete, hn]

variable {r : PldReq} (hn : nextFence (d.conn h) = some r)
include hn

theorem hostfenceComplete_waits
    (hw : ¬(noGap (d.conn h) r.seq = true ∧ earlierDone (d.conn h) r.seq (fun q => q.op == 2 || q.op == 4 || q.op == 6) = true)) :
    hostfenceComplete d h = d := by
  rw [hostfenceComplete, hn]
  exact if_pos (by simpa [imp_iff_not_or] using hw)

theorem hostfenceComplete_ready
    (hr : noGap (d.conn h) r.seq = true ∧ earlierDone (d.conn h) r.seq (fun q => q.op == 2 || q.op == 4 || q.op == 6) = true) :
    hostfenceComplete d h = releaseBells (settle (countFence d h) h r { arg := (tabGet 0 d.trn.hostfenceDone h + 1).toNat }) h := by
  rw [hostfenceComplete, hn]
  exact if_neg (by simp [hr.1, hr.2])

end Fence

theorem settle_conn (d : Dev) (h : Nat) (r : PldReq) (a : Answer) : (settle d h r a).conn h = (d.conn h).settled r := by
  obtain ⟨conn, -⟩ := settle_settled d h r a
  exact conn

/-- With no doorbell waiting none acts. -/
theorem releaseBells_none {d : Dev} {h : Nat} (hb : waitingBells (d.conn h) = []) : releaseBells d h = d := by
  change (waitingBells (d.conn h)).foldl _ d = d
  rw [hb]
  rfl

/-- The one doorbell that waits acts when no fence is before it. -/
theorem releaseBells_one {d : Dev} {h : Nat} {q : PldReq} (hb : waitingBells (d.conn h) = [q]) (hf : bellFree (d.conn h) q.seq = true) :
    releaseBells d h = ringBell h d q := by
  change (waitingBells (d.conn h)).foldl _ d = _
  rw [hb]
  exact if_pos hf

theorem shelved_put (d : Dev) (h : Nat) (r : PldReq) : Shelved d h r (d.modConn h (fun c => c.put { r with phase := .waiting })) :=
  ⟨Dev.conn_setConn_self _ _ _, fun _ hk => (Dev.conn_setConn _ _ _ _).trans (if_neg hk), rfl⟩

/-- Settles O51: a POLL answers the words of its run, each entry read after the one before it; a completed fence frees the doorbells that
no other fence is before. -/
theorem pollsFencesAndBellsAreSettled : Obligations.PollsFencesAndBellsAreSettled := by
  unfold Obligations.PollsFencesAndBellsAreSettled
  intro s h seq r hs d c entry got joined after
  refine ⟨fun ha => ⟨?badShape, ?cold, ?words, ?register⟩, fun ha => ?fence, fun hh => ?complete, fun ha => ⟨?noSlot, ?rings, ?shelved⟩⟩
  case badShape =>
    rintro ⟨i, hi, hbad⟩
    refine ⟨_, pldRow_next hs ha (pldPoll h), ?_⟩
    rw [pldPoll_badShape h s.nv hi hbad]
    exact settle_settled _ _ _ _
  case cold =>
    rintro hshape hcold ⟨i, hi, hspace⟩
    refine ⟨_, pldRow_next hs ha (pldPoll h), ?_⟩
    rw [pldPoll_cold h s.nv hshape hcold hi hspace]
    exact settle_settled _ _ _ _
  case words =>
    intro hforms hwarm
    have hplain (i : Nat) (hi : i < r.arg) := (hforms i hi).2
    have same : got = pollGot := by funext x g; rfl
    have sameAfter : after = pollAfter := by funext x g; rfl
    have words := pollRun_gots h s.nv d hplain
    refine ⟨_, pldRow_next hs ha (pldPoll h), fun i => (pollRun h s.nv d entry i).1, pollAnswer (pollRun h s.nv d entry r.arg).2, rfl,
      fun i hi => ⟨fun hj => ?_, fun hj => ?_,
      pollRun_hbmRead h s.nv d hplain hi⟩, ?_⟩
    · exact (pollRun_step h s.nv d hplain hi).trans (if_pos ((pollJoined_iff entry i).mpr hj))
    · rw [sameAfter]
      exact (pollRun_step h s.nv d hplain hi).trans (if_neg fun hb => hj ((pollJoined_iff entry i).mp hb))
    · rw [words, same]
      refine ⟨?_, rfl, rfl, rfl, fun i hi => ?_, ?_⟩
      · rw [← words, pldPoll_run h s.nv (fun i hi => (hforms i hi).1) (.inl hwarm)]
        exact settle_settled _ _ _ _
      · rw [pollAnswer_arg, natBit_bitWord _ hi]
        simp
      · rw [pollAnswer_arg]
        exact bitWord_lt _ _
  case register =>
    intro hone hspace halign t
    have hshape (i : Nat) (hi : i < r.arg) : pollShape (r.entry i) = true := by
      obtain rfl : i = 0 := by omega
      have hspace : natBits (r.entry 0) 51 48 = 3 := hspace
      simp [pollShape, hspace, show r.entry 0 % 4 = 0 from halign]
    have hnone (i : Nat) (hi : i < r.arg) : natBits (r.entry i) 51 48 ≠ 0 := by
      obtain rfl : i = 0 := by omega
      exact fun h0 => absurd (h0.symm.trans hspace) (by decide)
    refine ⟨_, pldRow_next hs ha (pldPoll h), ?_⟩
    rw [pldPoll_run h s.nv hshape (.inr hnone), hone, pollRun_one_register _ _ _ (entry := r.entry) hspace, pollAnswer_register]
    exact settle_settled _ _ _ _
  case fence => exact ⟨_, pldRow_next hs ha (fun _ d r => d.modConn h (fun c => c.put { r with phase := .waiting })), shelved_put _ _ _⟩
  case complete =>
    intro n d1 ready bells
    refine ⟨fun hn => ?none, fun hn hw => ?waits, fun hn hr hb => ?alone, fun q hn hr hb hne hgap hfences => ?bell⟩
    case none => exact ⟨_, hostfenceComplete_next hs hh, hostfenceComplete_none hn⟩
    case waits => exact ⟨_, hostfenceComplete_next hs hh, hostfenceComplete_waits hn hw⟩
    case alone =>
      refine ⟨_, hostfenceComplete_next hs hh, ?_⟩
      rw [hostfenceComplete_ready hn hr, releaseBells_none]
      · exact settle_settled _ _ _ _
      · rw [settle_conn, waitingBells_settled, show waitingBells ((countFence s.dev h).conn h) = [] from hb, List.filter_nil]
    case bell =>
      refine ⟨_, hostfenceComplete_next hs hh, _, settle_settled d1 h r { arg := n.toNat }, ?_⟩
      rw [hostfenceComplete_ready hn hr, releaseBells_one (q := q)]
      · exact settle_settled _ _ _ _
      · rw [settle_conn, waitingBells_settled, show waitingBells ((countFence s.dev h).conn h) = [q] from hb]
        simp [hne]
      · rw [settle_conn]
        exact bellFree_settled hgap hfences
  case noSlot =>
    intro h64
    refine ⟨_, pldRow_next hs ha (fun _ => pldDoorbell h), ?_⟩
    rw [pldDoorbell, if_pos h64]
    exact settle_settled _ _ _ _
  case rings =>
    intro h64 hfree
    refine ⟨_, pldRow_next hs ha (fun _ => pldDoorbell h), ?_⟩
    rw [pldDoorbell, if_neg (by omega), if_pos hfree]
    exact settle_settled _ _ _ _
  case shelved =>
    intro h64 hheld
    refine ⟨_, pldRow_next hs ha (fun _ => pldDoorbell h), ?_⟩
    rw [pldDoorbell, if_neg (by omega), if_neg (ne_true_of_eq_false hheld)]
    exact shelved_put _ _ _

end Sys2Proof.Machine
end

section
/-! PROOFS. Requests of remote devices (spec/03_turns_and_fences.md R53; spec/13_koliz_fabric.md R328, R337 to R340). -/

namespace Sys2Proof.Machine

/-! ## Packets that end here -/

/-- A packet that reaches its own end at this device is counted, and acts. -/
theorem arrive_reaches {d : Dev} {port : Nat} {p : Packet} (h : Reaches d port p) (own : Dev → Dev) : arrive d port p own = own (received d p) := by
  obtain ⟨-, ⟨hcarries, hup⟩, hintact, hhome, hready⟩ := h
  have hready : (d.str.inForce.isNone && isRequest p) = false := by
    rcases hready with hr | hr <;> simp [hr, Option.isNone_eq_false_iff.mpr]
  have hforce : (!hopType p.type && d.str.inForce.isNone) = false := by
    rcases hhome with hh | ⟨hh, -⟩ <;> simp [hh, Option.isNone_eq_false_iff.mpr]
  have hdest : (!hopType p.type && !(p.dest.toNat == (d.count 8 ((p.payload.length + 63) / 64)).ownDevice)) = false := by
    change (!hopType p.type && !(p.dest.toNat == d.ownDevice)) = false
    rcases hhome with hh | ⟨-, hh⟩ <;> simp [hh]
  unfold arrive
  simp only [hup, hcarries, hintact, Dev.count_str, hready, hforce, hdest, Bool.not_true, Bool.false_eq_true, ↓reduceIte]
  rfl

theorem routePort_congr {d e : Dev} (hstr : e.str = d.str) (hklz : e.klz = d.klz) (dev : Nat) : routePort e dev = routePort d dev := by
  have route : e.route dev = d.route dev := by rw [Dev.route, Dev.route, hstr]
  have port (n : Nat) : e.port n = d.port n := by rw [Dev.port, Dev.port, hklz]
  simp only [routePort, route, port]

theorem sendResponse_routed {d : Dev} {p : Packet} {n : Nat} (h : routePort d p.src.toNat = some n) (st : Byte) (data : List Byte) :
    sendResponse d p st data = emit d n (responseTo d p st data) := by
  rw [sendResponse, h]

theorem request_next {s : State} {port : Nat} {p : Packet} {type : Byte} (hs : asleep s.dev = false) (h : Reaches s.dev port p) (ht : p.type = type) :
    onDev (is16 port) (requestArrives type port p) s = .next { s with dev := serve s.nv (received s.dev p) p } := by
  rw [onDev_next (show is16 port = true from decide_eq_true h.port_lt) hs, requestArrives, if_pos (by simpa using ht), arrive_reaches h]

/-! ## Where a request lands -/

theorem walkFrom_received (d : Dev) (p : Packet) (va : Nat) : ∀ (fuel level table : Nat),
    walkFrom (received d p) va fuel level table = walkFrom d va fuel level table
  | 0, _, _ => rfl
  | fuel + 1, level, table => by
    unfold walkFrom
    simp only [walkFrom_received d p va fuel]
    rfl

theorem walk_received (d : Dev) (p : Packet) (slot va : Nat) : walk (received d p) slot va = walk d slot va := by
  unfold walk walkRoot
  rw [walkFrom_received]
  rfl

theorem viewPlace_received (d : Dev) (p : Packet) (write : Bool) (slot va n : Nat) :
    viewPlace (received d p) write slot va n = viewPlace d write slot va n := by
  have job : (received d p).job slot = d.job slot := rfl
  have mapped (cur : Nat) : curMapped (received d p) cur = curMapped d cur := rfl
  have cell (off : Nat) : hbmCell (received d p) off = hbmCell d off := rfl
  have sys : (received d p).sys = d.sys := rfl
  have tslot : (received d p).tslot slot = d.tslot slot := rfl
  have plain (g : Nat) : viewPlain (received d p) write g n = viewPlain d write g n := rfl
  unfold viewPlace
  simp only [walk_received, job, mapped, cell, sys, tslot, plain]

theorem tablesByte_received (d : Dev) (p : Packet) (off : Nat) : tablesByte (received d p) off = tablesByte d off := by
  have frame (f : Nat) : (received d p).frame f = d.frame f := rfl
  have tslot (j : Nat) : (received d p).tslot j = d.tslot j := rfl
  have free : (received d p).free = d.free := rfl
  have stack (k : Nat) : freeStackWord (received d p) k = freeStackWord d k := rfl
  simp only [tablesByte, frame, tslot, free, stack]

theorem placeRead_received (d : Dev) (p : Packet) (pl : Place) (n : Nat) : placeRead (received d p) pl n = placeRead d pl n := by
  cases pl with
  | tables off => simp only [placeRead, tablesByte_received]
  | _ => rfl

/-! ## Bytes from outside (R304, R338) -/

/-- From `d` to `e` an access has been counted and may stand in a hold queue, and nothing else has changed. -/
def Counted (d e : Dev) : Prop :=
  e = { d with cnt := e.cnt, hbm := e.hbm } ∧ ∀ k, e.stack k = { d.stack k with hold := (e.stack k).hold, holdPeak := (e.stack k).holdPeak }

theorem noteHold_counted (d : Dev) (cell : Nat) : Counted d (noteHold d cell) := by
  unfold noteHold
  split
  · refine ⟨rfl, fun k => ?_⟩
    unfold pushHold
    dsimp only
    rw [Dev.stack_setStack]
    split
    case isTrue hk => rw [hk]
    case isFalse => rfl
  · exact ⟨rfl, fun _ => rfl⟩

theorem countHbm_write_counted (d : Dev) (pl : Place) (n : Nat) : Counted d (countHbm d true pl n) := by
  cases pl with
  | cells c =>
    have heq : countHbm d true (.cells c) n = if c < sramBase then noteHold (d.count 5 ((n + 63) / 64)) c else d := rfl
    rw [heq]
    split
    · obtain ⟨only, stack⟩ := noteHold_counted (d.count 5 ((n + 63) / 64)) c
      exact ⟨by rw [only]; rfl, stack⟩
    · exact ⟨rfl, fun _ => rfl⟩
  | _ => exact ⟨rfl, fun _ => rfl⟩

/-- The cells a write to a place may change. -/
theorem placeWrite_only (d : Dev) (pl : Place) (bs : List Byte) : placeWrite d pl bs
    = { d with mem := (placeWrite d pl bs).mem, poison := (placeWrite d pl bs).poison, upsets := (placeWrite d pl bs).upsets } := by
  unfold placeWrite
  split
  · split <;> rfl
  · rfl

/-- From `d` to `e` bytes from outside have been written and the access counted. -/
def Written (d e : Dev) : Prop :=
  e = { d with mem := e.mem, poison := e.poison, upsets := e.upsets, cnt := e.cnt, hbm := e.hbm }
  ∧ ∀ k, e.stack k = { d.stack k with hold := (e.stack k).hold, holdPeak := (e.stack k).holdPeak }

/-- A place written and the access counted. -/
def putCounted (d : Dev) (pl : Place) (bs : List Byte) : Dev := countHbm (placeWrite d pl bs) true pl bs.length

theorem putCounted_written (d : Dev) (pl : Place) (bs : List Byte) : Written d (putCounted d pl bs)
    ∧ (putCounted d pl bs).mem = (placeWrite d pl bs).mem ∧ (putCounted d pl bs).poison = (placeWrite d pl bs).poison := by
  obtain ⟨only, stack⟩ := countHbm_write_counted (placeWrite d pl bs) pl bs.length
  have wrote := placeWrite_only d pl bs
  unfold putCounted
  generalize countHbm (placeWrite d pl bs) true pl bs.length = e at only stack ⊢
  generalize placeWrite d pl bs = f at only stack wrote ⊢
  refine ⟨⟨by rw [only, wrote], fun k => ?_⟩, by rw [only], by rw [only]⟩
  rw [stack k, wrote]
  rfl

theorem outsidePut_poisoned (d : Dev) (c : Nat) (bs : List Byte) : outsidePut d (.cells c) bs true
    = if (decide (c < sramBase) && stackDead (putCounted d (.cells c) bs) c) = true then putCounted d (.cells c) bs
      else { putCounted d (.cells c) bs with poison := poisonMark (putCounted d (.cells c) bs).poison c bs.length } := rfl

/-- Poison that comes with the bytes marks what a FAILED stack does not drop. -/
theorem outsidePut_marks (d : Dev) (pl : Place) (bs : List Byte) (poison : Bool) :
    outsidePut d pl bs poison = { putCounted d pl bs with poison := (outsidePut d pl bs poison).poison } := by
  cases poison with
  | false => rfl
  | true =>
    cases pl with
    | cells c =>
      rw [outsidePut_poisoned]
      split <;> rfl
    | _ => rfl

theorem outsidePut_written (d : Dev) (pl : Place) (bs : List Byte) (poison : Bool) : Written d (outsidePut d pl bs poison) := by
  obtain ⟨⟨only, stack⟩, -⟩ := putCounted_written d pl bs
  have marks := outsidePut_marks d pl bs poison
  generalize putCounted d pl bs = f at only stack marks
  refine ⟨by rw [marks, only], fun k => ?_⟩
  have same : (outsidePut d pl bs poison).stack k = f.stack k := by rw [marks]; rfl
  rw [same, stack k]

/-- Bytes from outside reach the cells of their place and no others, unless a FAILED stack drops them. -/
theorem outsidePut_cells (d : Dev) (c : Nat) (bs : List Byte) (poison : Bool) : CellsKept d (outsidePut d (.cells c) bs poison) [(c, bs.length)]
    ∧ ((sramBase ≤ c ∨ stackDead d c = false) → (outsidePut d (.cells c) bs poison).mem = memWrite d.mem c bs
      ∧ (poison = true → (outsidePut d (.cells c) bs poison).poison = poisonMark (poisonAfterWrite d.poison c bs.length) c bs.length)) := by
  obtain ⟨⟨-, stack⟩, mem, marked⟩ := putCounted_written d (.cells c) bs
  have hmem : (outsidePut d (.cells c) bs poison).mem = (placeWrite d (.cells c) bs).mem := by
    rw [outsidePut_marks]; exact mem
  have hwrite : placeWrite d (.cells c) bs = if (decide (c < sramBase) && stackDead d c) = true then d else d.cellPut c bs := rfl
  refine ⟨fun a ha => ?_, fun halive => ?_⟩
  · rw [hmem, hwrite]
    split
    · rfl
    · exact cellPut_frame d c bs a (ha _ (List.mem_singleton_self _))
  · have alive : (decide (c < sramBase) && stackDead d c) = false := by
      rcases halive with hs | hs
      · simp [hs]
      · rw [hs, Bool.and_false]
    rw [alive, if_neg Bool.false_ne_true] at hwrite
    refine ⟨by rw [hmem, hwrite]; rfl, fun hpoison => ?_⟩
    have dead : stackDead (putCounted d (.cells c) bs) c = stackDead d c := by rw [stackDead, stack, stackDead]
    rw [hpoison, outsidePut_poisoned, dead, alive, if_neg Bool.false_ne_true, marked, hwrite]
    rfl

/-! ## What each request does -/

section Serve

variable {nv : Nv} {d : Dev} {p : Packet}

theorem serveRead_badShape (h : requestShape (natBits p.address.toNat 51 48) (p.address.toNat % 2 ^ 48) p.bytes.toNat = false) :
    serveRead nv d p = sendResponse d p 2 [] := by
  simp only [serveRead, h, Bool.not_false, ↓reduceIte]

theorem serveRead_register (hspace : natBits p.address.toNat 51 48 = 3)
    (h : requestShape (natBits p.address.toNat 51 48) (p.address.toNat % 2 ^ 48) p.bytes.toNat = true) :
    let x := regRead nv d (.remote p.src.toNat) (p.address.toNat % 2 ^ 48)
    serveRead nv d p = if x.2.error = 0 then sendResponse x.1 p 0 (leBytes 4 x.2.value.toNat) else sendResponse x.1 p 2 [] := by
  rw [hspace] at h
  simp only [serveRead, h, hspace, Bool.not_true, Bool.false_eq_true, ↓reduceIte, beq_self_eq_true, beq_iff_eq]

/-- A read of a place answers its bytes, or that they are poisoned. -/
def answerRead (d : Dev) (p : Packet) (pl : Place) : Dev :=
  sendResponse (countHbm d false pl p.bytes.toNat) p (if (placeRead d pl p.bytes.toNat).2 then 3 else 0)
    (if (placeRead d pl p.bytes.toNat).2 then [] else (placeRead d pl p.bytes.toNat).1)

theorem answerRead_eq (d : Dev) (p : Packet) (pl : Place) : answerRead d p pl = if (placeRead d pl p.bytes.toNat).2
    then sendResponse (countHbm d false pl p.bytes.toNat) p 3 []
    else sendResponse (countHbm d false pl p.bytes.toNat) p 0 (placeRead d pl p.bytes.toNat).1 := by
  unfold answerRead
  cases (placeRead d pl p.bytes.toNat).2 <;> rfl

theorem serveRead_place (hspace : natBits p.address.toNat 51 48 ≠ 3)
    (h : requestShape (natBits p.address.toNat 51 48) (p.address.toNat % 2 ^ 48) p.bytes.toNat = true) {pl : Place}
    (hpl : outsidePlace d false (natBits p.address.toNat 51 48) (p.address.toNat % 2 ^ 48) p.bytes.toNat = .ok pl) :
    serveRead nv d p = answerRead d p pl := by
  simp only [serveRead, h, hpl, answerRead_eq, Bool.not_true, Bool.false_eq_true, ↓reduceIte, beq_iff_eq, hspace]

theorem serveRead_denied (hspace : natBits p.address.toNat 51 48 ≠ 3)
    (h : requestShape (natBits p.address.toNat 51 48) (p.address.toNat % 2 ^ 48) p.bytes.toNat = true) {e : Denial}
    (he : outsidePlace d false (natBits p.address.toNat 51 48) (p.address.toNat % 2 ^ 48) p.bytes.toNat = .error e) :
    serveRead nv d p = sendResponse d p (denialStatus e) [] := by
  simp only [serveRead, h, he, Bool.not_true, Bool.false_eq_true, ↓reduceIte, beq_iff_eq, hspace]

/-- A write of a place is answered OK. -/
def answerWrite (d : Dev) (p : Packet) (pl : Place) : Dev := sendResponse (outsidePut d pl p.payload (carriesPoison p)) p 0 []

theorem serveWrite_register (hspace : natBits p.address.toNat 51 48 = 3) (hoff : p.address.toNat % 2 ^ 48 % 4 = 0) :
    let x := regWrite d (.remote p.src.toNat) (p.address.toNat % 2 ^ 48) (BitVec.ofNat 32 (fieldLe p.payload 0 4))
    serveWrite d p = sendResponse x.1 p (if x.2.error = 0 then 0 else 2) [] := by
  have shape : requestShape 3 (p.address.toNat % 2 ^ 48) 4 = true := by
    simp only [requestShape, hoff, beq_self_eq_true, Bool.and_self, ↓reduceIte]
  simp only [serveWrite, hspace, shape, Bool.not_true, Bool.false_eq_true, ↓reduceIte, beq_self_eq_true, beq_iff_eq]

section Plain

variable (hspace : natBits p.address.toNat 51 48 ≠ 3)
  (h : requestShape (natBits p.address.toNat 51 48) (p.address.toNat % 2 ^ 48) p.payload.length = true)
include hspace h

theorem serveWrite_rebinding (hr : sramRebinding d (natBits p.address.toNat 51 48) (p.address.toNat % 2 ^ 48) = true) :
    serveWrite d p = sendResponse d p 2 [] := by
  simp only [serveWrite, beq_iff_eq, hspace, h, hr, Bool.not_true, Bool.false_eq_true, ↓reduceIte]

variable (hr : sramRebinding d (natBits p.address.toNat 51 48) (p.address.toNat % 2 ^ 48) = false)
include hr

theorem serveWrite_place {pl : Place}
    (hpl : outsidePlace d true (natBits p.address.toNat 51 48) (p.address.toNat % 2 ^ 48) p.payload.length = .ok pl) :
    serveWrite d p = answerWrite d p pl := by
  simp only [serveWrite, beq_iff_eq, hspace, h, hr, hpl, Bool.not_true, Bool.false_eq_true, ↓reduceIte, answerWrite]

theorem serveWrite_denied {e : Denial}
    (he : outsidePlace d true (natBits p.address.toNat 51 48) (p.address.toNat % 2 ^ 48) p.payload.length = .error e) :
    serveWrite d p = sendResponse d p (denialStatus e) [] := by
  simp only [serveWrite, beq_iff_eq, hspace, h, hr, he, Bool.not_true, Bool.false_eq_true, ↓reduceIte]

end Plain

theorem serveViewRead_place {pl : Place} (hpl : viewPlace d false p.slotGroup.toNat p.address.toNat p.bytes.toNat = .ok pl) :
    serveViewRead d p = answerRead d p pl := by
  simp only [serveViewRead, hpl, answerRead_eq]

theorem serveViewRead_refused {st : Byte} (h : viewPlace d false p.slotGroup.toNat p.address.toNat p.bytes.toNat = .error st) :
    serveViewRead d p = sendResponse d p st [] := by
  simp only [serveViewRead, h]

theorem serveViewWrite_place {pl : Place} (hpl : viewPlace d true p.slotGroup.toNat p.address.toNat p.payload.length = .ok pl) :
    serveViewWrite d p = answerWrite d p pl := by
  simp only [serveViewWrite, hpl, answerWrite]

theorem serveViewWrite_refused {st : Byte} (h : viewPlace d true p.slotGroup.toNat p.address.toNat p.payload.length = .error st) :
    serveViewWrite d p = sendResponse d p st [] := by
  simp only [serveViewWrite, h]

end Serve

/-! ## The statement -/

theorem serve_read {nv : Nv} {d : Dev} {p : Packet} (h : p.type = tyRead) : serve nv d p = serveRead nv d p := by rw [serve, h]; rfl
theorem serve_write {nv : Nv} {d : Dev} {p : Packet} (h : p.type = tyWrite) : serve nv d p = serveWrite d p := by rw [serve, h]; rfl
theorem serve_viewRead {nv : Nv} {d : Dev} {p : Packet} (h : p.type = tyViewRead) : serve nv d p = serveViewRead d p := by rw [serve, h]; rfl
theorem serve_viewWrite {nv : Nv} {d : Dev} {p : Packet} (h : p.type = tyViewWrite) : serve nv d p = serveViewWrite d p := by rw [serve, h]; rfl

section Answers

variable {d : Dev} {p : Packet} {n : Nat} (hn : routePort d p.src.toNat = some n)
include hn

theorem answerRead_received (pl : Place) : answerRead (received d p) p pl
    = emit (countHbm (received d p) false pl p.bytes.toNat) n (responseTo (countHbm (received d p) false pl p.bytes.toNat) p
        (if (placeRead d pl p.bytes.toNat).2 then 3 else 0) (if (placeRead d pl p.bytes.toNat).2 then [] else (placeRead d pl p.bytes.toNat).1)) := by
  obtain ⟨only, -⟩ := countHbm_hbmRead (received d p) false pl p.bytes.toNat
  have route : routePort (countHbm (received d p) false pl p.bytes.toNat) p.src.toNat = some n :=
    (routePort_congr (by rw [only]; rfl) (by rw [only]; rfl) _).trans hn
  rw [answerRead, sendResponse_routed route, placeRead_received]

theorem answerWrite_received (pl : Place) : answerWrite (received d p) p pl
    = emit (outsidePut (received d p) pl p.payload (carriesPoison p)) n
        (responseTo (outsidePut (received d p) pl p.payload (carriesPoison p)) p 0 []) := by
  obtain ⟨only, -⟩ := outsidePut_written (received d p) pl p.payload (carriesPoison p)
  have route : routePort (outsidePut (received d p) pl p.payload (carriesPoison p)) p.src.toNat = some n :=
    (routePort_congr (by rw [only]; rfl) (by rw [only]; rfl) _).trans hn
  rw [answerWrite, sendResponse_routed route]

end Answers

/-- Settles O29: a request that reaches its end is served as its type says, and its answer goes by the requester's route, which what it
serves leaves as it was. -/
theorem remoteRequestsAreServed : Obligations.RemoteRequestsAreServed := by
  unfold Obligations.RemoteRequestsAreServed
  intro s port p n hs hreach hn d r g space off answer written readOut
  have routed : routePort r p.src.toNat = some n := hn
  have refused (st : Byte) : sendResponse r p st [] = emit r n (responseTo r p st []) := sendResponse_routed routed st []
  have wrote (pl : Place) : written pl (answerWrite r p pl) := by
    rw [answerWrite_received hn]
    obtain ⟨only, stack⟩ := outsidePut_written r pl p.payload (carriesPoison p)
    refine ⟨_, rfl, by rw [only]; rfl, fun c hc => ?_, only, stack⟩
    subst hc
    exact outsidePut_cells r c p.payload (carriesPoison p)
  refine ⟨?read, ?badRead, ?readRegister, ?rebinding, ?write, ?writeRegister, ?viewRead, ?viewWrite⟩
  case read =>
    intro ht hspace hshape
    have row := (request_next (s := s) hs hreach ht).trans (by rw [serve_read ht])
    refine ⟨fun pl hpl => ⟨_, row, ?_⟩, fun x hx => ⟨_, row, ?_⟩⟩
    · rw [serveRead_place (d := received s.dev p) hspace hshape hpl]
      exact answerRead_received hn pl
    · rw [serveRead_denied (d := received s.dev p) hspace hshape hx]
      exact refused _
  case badRead =>
    intro ht hshape
    refine ⟨_, (request_next hs hreach ht).trans (by rw [serve_read ht]), ?_⟩
    rw [serveRead_badShape hshape]
    exact refused 2
  case readRegister =>
    intro ht hspace hshape x hroute
    refine ⟨_, (request_next hs hreach ht).trans (by rw [serve_read ht]), ?_⟩
    rw [serveRead_register hspace hshape]
    split
    · exact sendResponse_routed hroute _ _
    · exact sendResponse_routed hroute _ _
  case rebinding =>
    intro ht hshape hr
    have hspace : space ≠ 3 := by
      intro h3
      rw [h3] at hr
      exact absurd hr (by simp [sramRebinding])
    refine ⟨_, (request_next hs hreach ht).trans (by rw [serve_write ht]), ?_⟩
    rw [serveWrite_rebinding (d := received s.dev p) hspace hshape hr]
    exact refused 2
  case write =>
    intro ht hspace hshape hr
    have row := (request_next (s := s) hs hreach ht).trans (by rw [serve_write ht])
    refine ⟨fun pl hpl => ⟨_, row, ?_⟩, fun x hx => ⟨_, row, ?_⟩⟩
    · rw [serveWrite_place (d := received s.dev p) hspace hshape hr hpl]
      exact wrote pl
    · rw [serveWrite_denied (d := received s.dev p) hspace hshape hr hx]
      exact refused _
  case writeRegister =>
    intro ht hspace hoff x hroute
    refine ⟨_, (request_next hs hreach ht).trans (by rw [serve_write ht]), ?_⟩
    rw [serveWrite_register hspace hoff]
    exact sendResponse_routed hroute _ _
  case viewRead =>
    intro ht
    have row := (request_next (s := s) hs hreach ht).trans (by rw [serve_viewRead ht])
    refine ⟨fun pl hpl => ⟨_, row, ?_⟩, fun st hst => ⟨_, row, ?_⟩⟩
    · rw [serveViewRead_place ((viewPlace_received _ _ _ _ _ _).trans hpl)]
      exact answerRead_received hn pl
    · rw [serveViewRead_refused ((viewPlace_received _ _ _ _ _ _).trans hst)]
      exact refused st
  case viewWrite =>
    intro ht
    have row := (request_next (s := s) hs hreach ht).trans (by rw [serve_viewWrite ht])
    refine ⟨fun pl hpl => ⟨_, row, ?_⟩, fun st hst => ⟨_, row, ?_⟩⟩
    · rw [serveViewWrite_place ((viewPlace_received _ _ _ _ _ _).trans hpl)]
      exact wrote pl
    · rw [serveViewWrite_refused ((viewPlace_received _ _ _ _ _ _).trans hst)]
      exact refused st

end Sys2Proof.Machine
end

section
/-! PROOFS. What a write of HBM reaches (spec/12_hbm.md R293 to R296). -/

namespace Sys2Proof.Machine

/-! ## The cells of a granule -/

/-- The placement moves whole 4 KiB granules. -/
theorem hbmPlace_granule (key c : Nat) (home : Bool) {o o' : Nat} (h : o / 4096 = o' / 4096) :
    hbmPlace key (4096 * c) home o = hbmPlace key (4096 * c) home o' := by
  have stack (o : Nat) : o / (4096 * c) = o / 4096 / c := (Nat.div_div_eq_div_mul _ _ _).symm
  have window (o : Nat) : o % (4096 * c) / 0x4000000 = o / 4096 % c / 16384 := by
    rw [← Nat.mod_mul_right_div_self, Nat.div_div_eq_div_mul]
  have place (o : Nat) : o % (4096 * c) % 0x4000000 / 4096 = o / 4096 % c % 16384 := by
    rw [show (0x4000000 : Nat) = 4096 * 16384 from rfl, Nat.mod_mul_right_div_self, Nat.mod_mul_right_div_self]
  simp only [hbmPlace, stack, window, place, h]

/-- The cells of one granule follow each other. -/
theorem hbmCell_add (d : Dev) {off i : Nat} (h : off % 4096 + i < 4096) : hbmCell d (off + i) = hbmCell d off + i := by
  have view : natBit (off + i) 47 = natBit off 47 := by
    simp only [natBit, Nat.testBit_eq_decide_div_mod_eq]
    rw [show (off + i) / 2 ^ 47 = off / 2 ^ 47 by omega]
  have cap : hbmCap d = 4096 * (slotsPerPc d * 64) := by simp only [hbmCap]; omega
  have granule : (off + i) % 2 ^ 40 / 4096 = off % 2 ^ 40 / 4096 := by omega
  simp only [hbmCell, view, cap, hbmPlace_granule _ _ _ granule]
  omega

theorem mem_granules : ∀ {fuel off n : Nat} {p : Nat × Nat}, p ∈ granules fuel off n →
    off ≤ p.1 ∧ p.1 + p.2 ≤ off + n ∧ p.1 % 4096 + p.2 ≤ 4096
  | 0, _, _, _, h => nomatch h
  | fuel + 1, off, n, p, h => by
    rw [granules] at h
    split at h
    · cases h
    · rcases List.mem_cons.mp h with rfl | h
      · dsimp only
        omega
      · have := mem_granules h
        omega

/-! ## Writes -/

/-- From `d` to `e` nothing but cells has changed, and of those only the ones of HBM offsets that satisfy `P`. -/
structure Reached (d : Dev) (P : Nat → Prop) (e : Dev) : Prop where
  only : e = { d with mem := e.mem, poison := e.poison, upsets := e.upsets }
  cells : ∀ a, memGet e.mem a = memGet d.mem a ∨ ∃ o, a = hbmCell d o ∧ P o

theorem reached_refl (d : Dev) (P : Nat → Prop) : Reached d P d := ⟨rfl, fun _ => .inl rfl⟩

theorem Reached.hbmCell {d e : Dev} {P : Nat → Prop} (h : Reached d P e) (o : Nat) : hbmCell e o = hbmCell d o := by
  rw [h.only]
  rfl

theorem Reached.trans {d e f : Dev} {P : Nat → Prop} (h : Reached d P e) (k : Reached e P f) : Reached d P f := by
  refine ⟨by rw [k.only, h.only], fun a => ?_⟩
  rcases k.cells a with same | ⟨o, ho, hp⟩
  · rw [same]
    exact h.cells a
  · exact .inr ⟨o, ho.trans (h.hbmCell o), hp⟩

theorem Reached.mono {d e : Dev} {P Q : Nat → Prop} (h : Reached d P e) (hpq : ∀ o, P o → Q o) : Reached d Q e :=
  ⟨h.only, fun a => (h.cells a).imp_right fun ⟨o, ho, hp⟩ => ⟨o, ho, hpq o hp⟩⟩

theorem cellPut_reached (d : Dev) {o n : Nat} {bs : List Byte} (hn : bs.length ≤ n) (h : o % 4096 + n ≤ 4096) :
    Reached d (fun x => o ≤ x ∧ x < o + n) (d.cellPut (hbmCell d o) bs) := by
  refine ⟨rfl, fun a => ?_⟩
  by_cases out : a < hbmCell d o ∨ hbmCell d o + bs.length ≤ a
  · exact .inl (cellPut_frame d _ bs a out)
  · obtain ⟨i, rfl⟩ := Nat.exists_eq_add_of_le (Nat.not_lt.mp fun h => out (.inl h))
    have hi : i < n := by omega
    exact .inr ⟨o + i, (hbmCell_add d (by omega)).symm, by omega⟩

/-- One granule of a write: it drops on a FAILED stack. -/
def writePiece (acc : Dev × List Byte) (p : Nat × Nat) : Dev × List Byte :=
  (if stackDead acc.1 (hbmCell acc.1 p.1) then acc.1 else acc.1.cellPut (hbmCell acc.1 p.1) (acc.2.take p.2), acc.2.drop p.2)

theorem hbmWrite_eq (d : Dev) (off : Nat) (bs : List Byte) : d.hbmWrite off bs = ((pieces off bs.length).foldl writePiece (d, bs)).1 := rfl

/-- A write reaches the cells of its range and nothing else. -/
theorem hbmWrite_reached (d : Dev) (off : Nat) (bs : List Byte) : Reached d (fun o => off ≤ o ∧ o < off + bs.length) (d.hbmWrite off bs) := by
  rw [hbmWrite_eq]
  refine List.foldlRecOn (motive := fun acc : Dev × List Byte => Reached d (fun o => off ≤ o ∧ o < off + bs.length) acc.1) _ _
    (reached_refl d _) fun acc h p hp => ?_
  obtain ⟨low, high, inside⟩ := mem_granules hp
  refine h.trans ?_
  unfold writePiece
  dsimp only
  split
  · exact reached_refl _ _
  · exact (cellPut_reached acc.1 (List.length_take_le _ _) inside).mono fun o ho => by omega

/-- What a write leaves depends on the cells, the structure in force and the stacks. -/
theorem hbmWrite_mem_congr {d e : Dev} (hstr : e.str = d.str) (hhbm : e.hbm = d.hbm) (hmem : e.mem = d.mem) (off : Nat) (bs : List Byte) :
    (e.hbmWrite off bs).mem = (d.hbmWrite off bs).mem := by
  have cell {x y : Dev} (h : y.str = x.str) (o : Nat) : hbmCell y o = hbmCell x o := by
    simp only [hbmCell, spreadKey, hbmCap, slotsPerPc, h]
  have dead {x y : Dev} (h : y.hbm = x.hbm) (c : Nat) : stackDead y c = stackDead x c := by simp only [stackDead, Dev.stack, h]
  suffices H : ∀ (l : List (Nat × Nat)) (x y : Dev) (bs : List Byte), y.str = x.str → y.hbm = x.hbm → y.mem = x.mem →
      (l.foldl writePiece (y, bs)).1.mem = (l.foldl writePiece (x, bs)).1.mem from H _ d e bs hstr hhbm hmem
  intro l
  induction l with
  | nil => exact fun _ _ _ _ _ hm => hm
  | cons p l ih =>
    intro x y bs hs hh hm
    simp only [List.foldl_cons, writePiece, cell hs, dead hh]
    split
    · exact ih x y _ hs hh hm
    · exact ih _ _ _ hs hh (by simp only [Dev.cellPut, hm])

end Sys2Proof.Machine
end

section
/-! PROOFS. What leaves the turns aside, what a record writes, and what the change of a basin's holder keeps
(spec/04_clepsydra_and_scheduling.md R100, R103, R104). -/

namespace Sys2Proof.Machine

/-! ## What leaves the turns aside -/

/-- From `d` to `e` the jobs, the slots' turns, the fault block and the groups are as they were. -/
structure Aside (d e : Dev) : Prop where
  jobs : e.jobs = d.jobs
  slots : e.trn.slots = d.trn.slots
  flt : e.flt = d.flt
  groups : e.klz.groups = d.klz.groups

theorem aside_refl (d : Dev) : Aside d d := ⟨rfl, rfl, rfl, rfl⟩

theorem Aside.trans {d e f : Dev} (h : Aside d e) (k : Aside e f) : Aside d f :=
  ⟨k.jobs.trans h.jobs, k.slots.trans h.slots, k.flt.trans h.flt, k.groups.trans h.groups⟩

theorem foldl_aside {β : Type} {f : Dev → β → Dev} (h : ∀ d b, Aside d (f d b)) (l : List β) (d : Dev) : Aside d (l.foldl f d) :=
  foldl_keeps aside_refl Aside.trans h l d

theorem Aside.job {d e : Dev} (h : Aside d e) (k : Nat) : e.job k = d.job k := by rw [Dev.job, h.jobs, Dev.job]

theorem Aside.tslot {d e : Dev} (h : Aside d e) (k : Nat) : e.tslot k = d.tslot k := by rw [Dev.tslot, h.slots, Dev.tslot]

theorem Aside.grp {d e : Dev} (h : Aside d e) (g : Nat) : e.grp g = d.grp g := by rw [Dev.grp, h.groups, Dev.grp]

theorem hbmWrite_aside (d : Dev) (off : Nat) (bs : List Byte) : Aside d (d.hbmWrite off bs) := by
  rw [(hbmWrite_reached d off bs).only]
  exact ⟨rfl, rfl, rfl, rfl⟩

theorem pushFrames_aside (d : Dev) (b : Nat) (fs : List Nat) : Aside d (pushFrames d b fs) := by
  unfold pushFrames
  dsimp only
  rw [freeFrames_framesOnly d fs]
  exact ⟨rfl, rfl, rfl, rfl⟩

theorem setStream_aside (d : Dev) (k : Nat) (x : Stream) : Aside d (d.setStream k x) := ⟨rfl, rfl, rfl, rfl⟩

theorem setPics_aside (d : Dev) (l : List Pic) : Aside d { d with cod := { d.cod with pics := l } } := ⟨rfl, rfl, rfl, rfl⟩

theorem settleClosing_aside (d : Dev) : Aside d (settleClosing d) :=
  foldl_aside (fun d k => by
    split
    · exact setStream_aside d k _
    · exact aside_refl d) _ d

theorem publishPic_aside (d : Dev) (p : Pic) : Aside d (publishPic d p) := by
  unfold publishPic
  split
  · exact aside_refl d
  · dsimp only
    exact (hbmWrite_aside d _ _).trans ((setStream_aside _ _ _).trans (hbmWrite_aside _ _ _))

theorem codecPublish_aside (d : Dev) (slot : Nat) : Aside d (codecPublish d slot) := by
  unfold codecPublish
  exact (foldl_aside publishPic_aside _ d).trans ((setPics_aside _ _).trans (settleClosing_aside _))

/-! ## Records (R100) -/

/-- A record changes the cells of its ring and the count of records. -/
theorem writeRecord_eq (d : Dev) (slot : Nat) (turn commitSlot : Dword) (duration user : Word) (status : RecStatus) (reason : Byte) (flags weir : Nat) :
    ∃ e, writeRecord d slot turn commitSlot duration user status reason flags weir
        = e.setJob slot { d.job slot with cplWritten := (d.job slot).cplWritten + 1 }
      ∧ e = d.hbmWrite ((d.job slot).cplRing.toNat + 32 * ((d.job slot).cplWritten.toNat % 2 ^ (d.job slot).cplLog2.toNat))
        (recordBytes turn commitSlot duration user status reason flags weir ((d.job slot).cplWritten + 1))
      ∧ Aside d e := by
  refine ⟨_, ?_, rfl, hbmWrite_aside _ _ _⟩
  unfold writeRecord
  dsimp only
  rw [Dev.modJob_eq, (hbmWrite_aside d _ _).job]

/-! ## The holder of a basin (R103, R104) -/

/-- From `d` to `e` a basin may have changed hands: no turn has opened and no record has been written. -/
structure Handed (d e : Dev) : Prop where
  trn : e.trn = d.trn
  klz : e.klz = d.klz
  flt : e.flt = d.flt
  turn : ∀ k, (d.job k).turn = none → (e.job k).turn = none
  records : ∀ k, (e.job k).cplWritten = (d.job k).cplWritten

theorem handed_refl (d : Dev) : Handed d d := ⟨rfl, rfl, rfl, fun _ h => h, fun _ => rfl⟩

theorem Handed.trans {d e f : Dev} (h : Handed d e) (k : Handed e f) : Handed d f :=
  ⟨k.trn.trans h.trn, k.klz.trans h.klz, k.flt.trans h.flt, fun j hj => k.turn j (h.turn j hj), fun j => (k.records j).trans (h.records j)⟩

theorem Handed.tslot {d e : Dev} (h : Handed d e) (k : Nat) : e.tslot k = d.tslot k := by rw [Dev.tslot, h.trn, Dev.tslot]

theorem foldl_handed {β : Type} {f : Dev → β → Dev} (h : ∀ d b, Handed d (f d b)) (l : List β) (d : Dev) : Handed d (l.foldl f d) :=
  foldl_keeps handed_refl Handed.trans h l d

theorem setJob_handed {d : Dev} {s : Nat} {x : Job} (ht : (d.job s).turn = none → x.turn = none) (hc : x.cplWritten = (d.job s).cplWritten) :
    Handed d (d.setJob s x) := by
  refine ⟨rfl, rfl, rfl, fun k hk => ?_, fun k => ?_⟩ <;> rw [Dev.job_setJob] <;> split
  · exact ht (by simpa [*] using hk)
  · exact hk
  · simp [*]
  · rfl

theorem setCore_handed (d : Dev) (p : Nat) (x : CoreSt) : Handed d (d.setCore p x) := ⟨rfl, rfl, rfl, fun _ h => h, fun _ => rfl⟩

theorem noteRunning_handed (d : Dev) : Handed d (noteRunning d) := by
  unfold noteRunning
  dsimp only
  split
  · split
    · exact ⟨rfl, rfl, rfl, fun _ h => h, fun _ => rfl⟩
    · exact handed_refl d
  · split
    · exact handed_refl d
    · exact ⟨rfl, rfl, rfl, fun _ h => h, fun _ => rfl⟩
  · exact handed_refl d

theorem setBasin_handed (d : Dev) (b : Nat) (x : Basin) : Handed d (d.setBasin b x) := ⟨rfl, rfl, rfl, fun _ h => h, fun _ => rfl⟩

theorem enterBasin_handed (d : Dev) (b s : Nat) : Handed d (enterBasin d b s) := by
  unfold enterBasin
  exact (setBasin_handed d b _).trans (foldl_handed (fun d l => setCore_handed d _ _) _ _)

theorem giveBasin_handed (d : Dev) (b : Nat) : Handed d (giveBasin d b) := by
  unfold giveBasin
  dsimp only
  split
  · exact handed_refl d
  split
  · exact handed_refl d
  split
  · exact setJob_handed (fun h => h) rfl
  · exact enterBasin_handed d b _

theorem preempt_handed (d : Dev) (b : Nat) : Handed d (preempt d b) := by
  unfold preempt
  dsimp only
  split
  · exact handed_refl d
  refine Handed.trans ?_ (noteRunning_handed _)
  refine Handed.trans ?_ (foldl_handed (fun d l => ?_) _ _)
  · refine Handed.trans ?_ (foldl_handed (fun d l => setCore_handed d _ _) _ _)
    refine (setBasin_handed d b _).trans (setJob_handed (fun h => ?_) rfl)
    dsimp only
    rw [h]
    rfl
  · split
    · exact setCore_handed d _ _
    · exact handed_refl d

theorem reschedule_handed (d : Dev) (b : Nat) : Handed d (reschedule d b) := by
  unfold reschedule
  split
  · exact handed_refl d
  split
  · exact giveBasin_handed d b
  dsimp only
  split
  · exact preempt_handed d b
  split
  · exact preempt_handed d b
  · exact handed_refl d

theorem reschedule_stopped {d : Dev} (h : d.flt.stopActive = true) (b : Nat) : reschedule d b = d := by
  rw [reschedule, if_pos h]

end Sys2Proof.Machine
end

section
/-! PROOFS. Turns: flush, staging, flip and fold (spec/03_turns_and_fences.md R54, R67 to R70, R73;
spec/04_clepsydra_and_scheduling.md R100). -/

namespace Sys2Proof.Machine

/-! ## The commit commands -/

section Next

variable {s : State} {slot : Nat} (hs : asleep s.dev = false) (hslot : slot < 64)
include hs hslot

theorem trnFlush_next : exec (.trnFlush slot) s = .next { s with dev := trnFlush s.dev slot } :=
  onDev_next (f := fun _ d => trnFlush d slot) (show isSlot slot = true from decide_eq_true hslot) hs

theorem trnFlushDone_next : exec (.trnFlushDone slot) s = .next { s with dev := s.dev.modTslot slot (fun t => { t with flush := false }) } :=
  onDev_next (f := fun _ d => d.modTslot slot (fun t => { t with flush := false })) (show isSlot slot = true from decide_eq_true hslot) hs

theorem commitStageDone_next : exec (.commitStageDone slot) s = .next { s with dev := commitStageDone s.dev slot } :=
  onDev_next (f := fun _ d => commitStageDone d slot) (show isSlot slot = true from decide_eq_true hslot) hs

theorem commitFlip_next : exec (.commitFlip slot) s = .next { s with dev := commitFlip s.dev slot } :=
  onDev_next (f := fun _ d => commitFlip d slot) (show isSlot slot = true from decide_eq_true hslot) hs

theorem commitFoldDone_next : exec (.commitFoldDone slot) s = .next { s with dev := commitFoldDone s.dev slot } :=
  onDev_next (f := fun _ d => commitFoldDone d slot) (show isSlot slot = true from decide_eq_true hslot) hs

end Next

/-! ## TRN_FLUSH (R54) -/

theorem trnFlush_open {d : Dev} {slot : Nat} (h : (d.job slot).turn.isSome = true) :
    trnFlush d slot = { d with trn := { d.trn with flushIgnored := true } } := if_pos h

theorem trnFlush_none {d : Dev} {slot : Nat} (h : (d.job slot).turn = none) : trnFlush d slot = d.setTslot slot { d.tslot slot with flush := true } :=
  if_neg (by simp [h])

/-! ## Staging (R68) -/

theorem stageEntry_length (e : List Byte) (epoch : Word) (new : Nat) : (stageEntry e epoch new).length = 16 := rfl

/-- Each move staged into its leaf. -/
def stageLeaves (d : Dev) (epoch : Word) (ms : List Move) : Dev :=
  ms.foldl (fun d m => d.hbmWrite m.leaf (stageEntry (d.hbmRead m.leaf 16) epoch m.new)) d

/-- Staging reaches the 16 bytes of the leaves. -/
theorem stageLeaves_reached (d : Dev) (epoch : Word) (ms : List Move) :
    Reached d (fun o => ∃ m ∈ ms, m.leaf ≤ o ∧ o < m.leaf + 16) (stageLeaves d epoch ms) :=
  List.foldlRecOn (motive := Reached d _) ms _ (reached_refl d _) fun e h m hm =>
    h.trans ((hbmWrite_reached e m.leaf _).mono fun _ ho => ⟨m, hm, by rwa [stageEntry_length] at ho⟩)

theorem stageMoves_eq (d : Dev) (slot : Nat) : stageMoves d slot
    = (stageLeaves d ((d.tslot slot).epoch + 1) (d.tslot slot).moves).setTslot slot { d.tslot slot with phase := .staged } := by
  have staged := stageLeaves_reached d ((d.tslot slot).epoch + 1) (d.tslot slot).moves
  change (stageLeaves d ((d.tslot slot).epoch + 1) (d.tslot slot).moves).setTslot slot
    { (stageLeaves d ((d.tslot slot).epoch + 1) (d.tslot slot).moves).tslot slot with phase := .staged } = _
  generalize stageLeaves d ((d.tslot slot).epoch + 1) (d.tslot slot).moves = e at staged ⊢
  rw [staged.only]
  rfl

/-- Staging changes the slot's phase and the cells of its leaves. -/
theorem stageMoves_stages {d e : Dev} {slot : Nat} (he : e = stageMoves d slot) :
    e.tslot slot = { d.tslot slot with phase := .staged }
    ∧ ((∀ k, k ≠ slot → e.tslot k = d.tslot k) ∧ ∀ k, k ≠ slot → e.job k = d.job k)
    ∧ (∀ a, memGet e.mem a = memGet d.mem a ∨ ∃ m ∈ (d.tslot slot).moves, ∃ o, a = hbmCell d o ∧ m.leaf ≤ o ∧ o < m.leaf + 16)
    ∧ (∀ m, (d.tslot slot).moves = [m] → e.mem = (d.hbmWrite m.leaf (stageEntry (d.hbmRead m.leaf 16) ((d.tslot slot).epoch + 1) m.new)).mem)
    ∧ e = { d with trn := { d.trn with slots := e.trn.slots }, mem := e.mem, poison := e.poison, upsets := e.upsets } := by
  obtain ⟨only, cells⟩ := stageLeaves_reached d ((d.tslot slot).epoch + 1) (d.tslot slot).moves
  have one (m : Move) (hm : (d.tslot slot).moves = [m]) : (stageLeaves d ((d.tslot slot).epoch + 1) (d.tslot slot).moves).mem
      = (d.hbmWrite m.leaf (stageEntry (d.hbmRead m.leaf 16) ((d.tslot slot).epoch + 1) m.new)).mem := by
    rw [hm]
    rfl
  rw [stageMoves_eq] at he
  generalize stageLeaves d ((d.tslot slot).epoch + 1) (d.tslot slot).moves = x at he only cells one
  generalize { d.tslot slot with phase := .staged } = y at he ⊢
  subst he
  refine ⟨Dev.tslot_setTslot_self x slot y, ⟨fun k hk => ?_, fun k _ => ?_⟩, fun a => ?_, one, ?_⟩
  · rw [Dev.tslot_setTslot, if_neg hk, only]
    rfl
  · rw [Dev.setTslot_job, only]
    rfl
  · rcases cells a with same | ⟨o, ho, m, hm, range⟩
    · exact .inl same
    · exact .inr ⟨m, hm, o, ho, range⟩
  · rw [only]
    rfl

theorem commitStageDone_device {d : Dev} {slot : Nat} (hp : (d.tslot slot).phase = .ending) (hd : turnDrained d slot = true)
    (hh : turnHeld d slot = false) (hs : d.flt.stopActive = false) (hg : (d.tslot slot).domain = false) :
    commitStageDone d slot = stageMoves d slot := by
  have same : (stageMoves d slot).tslot slot = { d.tslot slot with phase := .staged } := by rw [stageMoves_eq, Dev.tslot_setTslot_self]
  simp [commitStageDone, hp, hd, hh, hs, same, hg]

theorem commitStageDone_waits {d : Dev} {slot : Nat}
    (h : (d.tslot slot).phase ≠ .ending ∨ turnDrained d slot = false ∨ turnHeld d slot = true ∨ d.flt.stopActive = true) :
    commitStageDone d slot = d := by
  refine if_pos ?_
  rcases h with h | h | h | h <;> simp [h]

/-! ## The flip (R68, R100) -/

/-- The slot's side of a turn that flips. -/
def flippedSlot (d : Dev) (slot : Nat) (t : Turn) (late : Bool) : TrnSlot :=
  let dur := BitVec.ofNat 32 (min (d.clp.elapsed - t.admitElapsed) 0xFFFFFFFF)
  { d.tslot slot with epoch := (d.tslot slot).epoch + 1, phase := .folding, lastSlot := d.clp.now, lastCommitted := t.card.turn, lastDuration := dur, lastClass := t.far, late := late }

/-- The job of a turn that flips. -/
def flippedJob (d : Dev) (slot : Nat) (t : Turn) (late : Bool) : Job :=
  { d.job slot with turn := some { t with slotLate := late }, turnLate := (d.job slot).turnLate || (!(t.card.deadline == 0) && decide (t.card.deadline < d.clp.now)) }

theorem flipTurn_inTime {d : Dev} {slot : Nat} {t : Turn} (h : (d.job slot).turn = some t) :
    flipTurn d slot false = ((d.setTslot slot (flippedSlot d slot t false)).setJob slot (flippedJob d slot t false)).count 9 1 := by
  unfold flipTurn
  rw [h]
  rfl

theorem flipTurn_flips {d : Dev} {slot : Nat} {t : Turn} (h : (d.job slot).turn = some t) {e : Dev} (he : e = flipTurn d slot false) :
    e.tslot slot = flippedSlot d slot t false ∧ e.job slot = flippedJob d slot t false
      ∧ ((∀ k, k ≠ slot → e.tslot k = d.tslot k) ∧ ∀ k, k ≠ slot → e.job k = d.job k)
      ∧ e = { d with trn := { d.trn with slots := e.trn.slots }, jobs := e.jobs, cnt := e.cnt } := by
  rw [flipTurn_inTime h] at he
  generalize flippedSlot d slot t false = x at he ⊢
  generalize flippedJob d slot t false = y at he ⊢
  subst he
  refine ⟨Dev.tslot_setTslot_self d slot x, Dev.job_setJob_self (d.setTslot slot x) slot y, ⟨fun k hk => ?_, fun k hk => ?_⟩, rfl⟩
  · exact (Dev.tslot_setTslot d slot k x).trans (if_neg hk)
  · exact (Dev.job_setJob (d.setTslot slot x) slot k y).trans (if_neg hk)

theorem commitFlip_device {d : Dev} {slot : Nat} (hp : (d.tslot slot).phase = .staged) (hg : (d.tslot slot).domain = false)
    (hs : d.flt.stopActive = false) (hn : d.clp.now.toNat % 4096 = 0) : commitFlip d slot = flipTurn d slot false := by
  simp [commitFlip, hp, hg, hs, hn]

theorem commitFlip_waits {d : Dev} {slot : Nat} (hp : (d.tslot slot).phase = .staged) (h : (d.tslot slot).domain = true ∨ d.clp.now.toNat % 4096 ≠ 0) :
    commitFlip d slot = d := by
  rcases h with h | h <;> simp [commitFlip, hp, h]

theorem commitFlip_decided {d : Dev} {slot : Nat} {sl : Dword} (hp : (d.tslot slot).phase = .decided) (hd : (d.tslot slot).decided = some sl) :
    commitFlip d slot = if d.clp.now < sl then d else flipTurn d slot false := by
  simp only [commitFlip, hp, hd]

/-! ## The fold (R68, R70) -/

/-- From `d` to `e` nothing of the jobs and the turns has changed but the held lists. -/
structure HeldAside (d e : Dev) : Prop where
  jobs : e.jobs = d.jobs
  slots : ∀ k, e.tslot k = { d.tslot k with held := (e.tslot k).held }

theorem Aside.heldAside {d e : Dev} (h : Aside d e) : HeldAside d e := ⟨h.jobs, fun k => by rw [h.tslot k]⟩

theorem heldAside_refl (d : Dev) : HeldAside d d := (aside_refl d).heldAside

theorem HeldAside.trans {d e f : Dev} (h : HeldAside d e) (k : HeldAside e f) : HeldAside d f :=
  ⟨k.jobs.trans h.jobs, fun j => by rw [k.slots j, h.slots j]⟩

theorem foldl_heldAside {β : Type} {f : Dev → β → Dev} (h : ∀ d b, HeldAside d (f d b)) (l : List β) (d : Dev) : HeldAside d (l.foldl f d) :=
  foldl_keeps heldAside_refl HeldAside.trans h l d

theorem setFrame_aside (d : Dev) (f : Nat) (x : Frame) : Aside d (d.setFrame f x) := ⟨rfl, rfl, rfl, rfl⟩

theorem uncache_aside (d : Dev) (f : Nat) : Aside d (uncache d f) := ⟨rfl, rfl, rfl, rfl⟩

theorem frameUp_aside (d : Dev) (f : Nat) : Aside d (frameUp d f) := by
  unfold frameUp
  dsimp only
  split
  · split
    · exact aside_refl d
    · exact ⟨rfl, rfl, rfl, rfl⟩
  · exact setFrame_aside d f _

theorem cowEntry_aside (d : Dev) (leaf : Nat) : Aside d (cowEntry d leaf) := by
  unfold cowEntry
  dsimp only
  split
  · exact hbmWrite_aside d _ _
  · exact aside_refl d

theorem setHeld_heldAside (d : Dev) (slot : Nat) (l : List Nat) : HeldAside d (d.setTslot slot { d.tslot slot with held := l }) := by
  refine ⟨rfl, fun k => ?_⟩
  rw [Dev.tslot_setTslot]
  split
  · next h => rw [h]
  · rfl

theorem frameDown_heldAside (d : Dev) (slot f : Nat) : HeldAside d (frameDown d slot f) := by
  unfold frameDown
  dsimp only
  split
  · exact heldAside_refl d
  split
  · exact (setFrame_aside d f _).heldAside
  split
  · exact ((uncache_aside d f).trans (setFrame_aside _ f _)).heldAside.trans (setHeld_heldAside _ slot _)
  · exact ((uncache_aside d f).trans (setFrame_aside _ f _)).heldAside

/-- The slot's side of a turn that is over. -/
def foldedSlot (t : TrnSlot) : TrnSlot :=
  { t with phase := .none, moves := [], stock := [], shadows := [], reserved := 0, replaying := false, domain := false, decided := none, late := false }

/-- A fold changes, of the jobs and the turns, its slot's side and the held lists. -/
theorem foldMoves_slot (d : Dev) (slot : Nat) : ∃ e, HeldAside d e ∧ foldMoves d slot = e.setTslot slot (foldedSlot (e.tslot slot)) := by
  refine ⟨_, ?_, rfl⟩
  refine HeldAside.trans ?_ (pushFrames_aside _ _ _).heldAside
  refine HeldAside.trans ?_ (foldl_heldAside (fun d m => frameDown_heldAside d slot _) _ _)
  refine HeldAside.trans ?_ (foldl_aside (fun d m => ?_) _ _).heldAside
  · exact (foldl_aside (fun d m => hbmWrite_aside d _ _) _ _).heldAside
  · split
    · exact setFrame_aside d _ _
    · split
      · exact cowEntry_aside d _
      · exact (cowEntry_aside d _).trans (frameUp_aside _ _)
    · exact aside_refl d

/-- With no move and no frame to return, a fold ends its slot's turn and gives the basin no frame. -/
theorem foldMoves_none {d : Dev} {slot : Nat} (hm : (d.tslot slot).moves = []) (hk : (d.tslot slot).stock = []) (hw : (d.tslot slot).shadows = []) :
    foldMoves d slot = (pushFrames d (basinOf slot) []).setTslot slot (foldedSlot (d.tslot slot)) := by
  unfold foldMoves
  dsimp only
  rw [hm, hk, hw, Dev.modTslot_eq]
  change (pushFrames d (basinOf slot) []).setTslot slot (foldedSlot ((pushFrames d (basinOf slot) []).tslot slot)) = _
  rw [pushFrames_tslot]

/-- With no picture and no stream to close, the fold publishes nothing. -/
theorem codecPublish_none {d : Dev} {slot : Nat} (hp : d.cod.pics = []) (hc : ∀ k, k < 32 → (d.stream k).state ≠ .closing) : codecPublish d slot = d := by
  have same : { d with cod := { d.cod with pics := [] } } = d := by rw [← hp]
  unfold codecPublish settleClosing
  simp only [hp, List.filter_nil, List.foldl_nil, same]
  refine List.foldlRecOn (motive := (· = d)) _ _ rfl fun e he k hk => ?_
  rw [he, if_neg]
  simp [hc k (List.mem_range.mp hk)]

/-- The job of a turn that is over. -/
def Job.turnOver (j : Job) : Job := { j with turn := none, restart := false, askReplay := false }

section Fold

variable {d : Dev} {slot : Nat} {t : Turn} (ht : (d.job slot).turn = some t)
include ht

/-- A fold ends in the record of the turn, and the turn is over. -/
theorem foldTurn_eq : foldTurn d slot =
    (writeRecord (codecPublish (foldMoves d slot) slot) slot t.card.turn (d.tslot slot).lastSlot (d.tslot slot).lastDuration t.card.user .committed 0
      (turnFlags t (!(t.card.deadline == 0) && decide (t.card.deadline < (d.tslot slot).lastSlot))) t.weirMax).modJob slot Job.turnOver := by
  unfold foldTurn
  rw [ht]
  rfl

/-- After its fold a slot's turn is over, one record has been written, and the slot's side keeps what a fold does not reset. -/
theorem foldTurn_over : (∃ held, (foldTurn d slot).tslot slot = foldedSlot { d.tslot slot with held := held })
    ∧ (foldTurn d slot).job slot = Job.turnOver { d.job slot with cplWritten := (d.job slot).cplWritten + 1 } := by
  obtain ⟨x, held, folds⟩ := foldMoves_slot d slot
  have publishes := codecPublish_aside (foldMoves d slot) slot
  have job : (codecPublish (foldMoves d slot) slot).job slot = d.job slot := by
    rw [publishes.job, folds, Dev.setTslot_job, Dev.job, held.jobs, Dev.job]
  have slots : (codecPublish (foldMoves d slot) slot).tslot slot = foldedSlot { d.tslot slot with held := (x.tslot slot).held } := by
    rw [publishes.tslot, folds, Dev.tslot_setTslot_self, ← held.slots]
  obtain ⟨y, writes, -, keeps⟩ := writeRecord_eq (codecPublish (foldMoves d slot) slot) slot t.card.turn (d.tslot slot).lastSlot (d.tslot slot).lastDuration
    t.card.user .committed 0 (turnFlags t (!(t.card.deadline == 0) && decide (t.card.deadline < (d.tslot slot).lastSlot))) t.weirMax
  rw [foldTurn_eq ht, writes, Dev.modJob_eq, Dev.job_setJob_self, Dev.job_setJob_self, Dev.setJob_tslot, Dev.setJob_tslot, keeps.tslot, slots, job]
  exact ⟨⟨_, rfl⟩, rfl⟩

/-- A fold of no move and no picture changes the slot, its job and the cells of the record. -/
theorem foldTurn_none (hp : d.cod.pics = []) (hm : (d.tslot slot).moves = []) (hk : (d.tslot slot).stock = []) (hw : (d.tslot slot).shadows = [])
    (hc : ∀ k, k < 32 → (d.stream k).state ≠ .closing) :
    (foldTurn d slot).tslot slot = foldedSlot (d.tslot slot)
    ∧ (foldTurn d slot).job slot = Job.turnOver { d.job slot with cplWritten := (d.job slot).cplWritten + 1 }
    ∧ ((∀ k, k ≠ slot → (foldTurn d slot).tslot k = d.tslot k) ∧ ∀ k, k ≠ slot → (foldTurn d slot).job k = d.job k)
    ∧ (foldTurn d slot).flt = d.flt
    ∧ (foldTurn d slot).mem = (d.hbmWrite ((d.job slot).cplRing.toNat + 32 * ((d.job slot).cplWritten.toNat % 2 ^ (d.job slot).cplLog2.toNat))
      (recordBytes t.card.turn (d.tslot slot).lastSlot (d.tslot slot).lastDuration t.card.user .committed 0
        (turnFlags t (!(t.card.deadline == 0) && decide (t.card.deadline < (d.tslot slot).lastSlot))) t.weirMax ((d.job slot).cplWritten + 1))).mem := by
  have pushed := pushFrames_trnOnly d (basinOf slot) []
  have sides := pushFrames_tslot d (basinOf slot) []
  have folds := foldMoves_none hm hk hw
  have publishes : codecPublish (foldMoves d slot) slot = foldMoves d slot := by
    rw [folds]
    generalize pushFrames d (basinOf slot) [] = x at pushed ⊢
    rw [pushed]
    exact codecPublish_none hp hc
  rw [foldTurn_eq ht, publishes, folds]
  generalize pushFrames d (basinOf slot) [] = x at pushed sides ⊢
  have jobs : x.jobs = d.jobs := by rw [pushed]
  have job (k : Nat) : (x.setTslot slot (foldedSlot (d.tslot slot))).job k = d.job k := by rw [Dev.setTslot_job, Dev.job, jobs, Dev.job]
  obtain ⟨y, writes, cells, keeps⟩ := writeRecord_eq (x.setTslot slot (foldedSlot (d.tslot slot))) slot t.card.turn (d.tslot slot).lastSlot
    (d.tslot slot).lastDuration t.card.user .committed 0 (turnFlags t (!(t.card.deadline == 0) && decide (t.card.deadline < (d.tslot slot).lastSlot))) t.weirMax
  rw [writes, Dev.modJob_eq, Dev.job_setJob_self]
  rw [job] at cells ⊢
  refine ⟨?_, Dev.job_setJob_self _ _ _, ⟨fun k hk => ?_, fun k hk => ?_⟩, ?_, ?_⟩
  · rw [Dev.setJob_tslot, Dev.setJob_tslot, keeps.tslot, Dev.tslot_setTslot_self]
  · rw [Dev.setJob_tslot, Dev.setJob_tslot, keeps.tslot, Dev.tslot_setTslot, if_neg hk, sides]
  · rw [Dev.job_setJob, if_neg hk, Dev.job_setJob, if_neg hk, keeps.job, job]
  · rw [Dev.setJob_flt, Dev.setJob_flt, keeps.flt, Dev.setTslot_flt, pushed]
  · rw [Dev.setJob_mem, Dev.setJob_mem, cells]
    exact hbmWrite_mem_congr (by rw [Dev.setTslot_str, pushed]) (by rw [Dev.setTslot_hbm, pushed]) (by rw [Dev.setTslot_mem, pushed]) _ _

end Fold

theorem commitFoldDone_folds {d : Dev} {slot : Nat} (hp : (d.tslot slot).phase = .folding) (hf : d.trn.foldPending = false) :
    commitFoldDone d slot = reschedule (foldTurn d slot) (basinOf slot) := by
  simp [commitFoldDone, hp, hf]

theorem commitFoldDone_waits {d : Dev} {slot : Nat} (h : (d.tslot slot).phase ≠ .folding ∨ d.trn.foldPending = true) : commitFoldDone d slot = d := by
  refine if_pos ?_
  rcases h with h | h <;> simp [h]

/-- Settles O39: staging reaches the leaves of the move list (`stageLeaves_reached`), the flip is one update of the slot and its job
(`flipTurn_flips`), and a fold ends the turn with one record, whatever its moves are (`foldTurn_over`). -/
theorem turnsStageFlipAndFold : Obligations.TurnsStageFlipAndFold := by
  unfold Obligations.TurnsStageFlipAndFold
  intro s slot hs hslot d ts entries others
  refine ⟨fun hopen => ?flushIgnored, fun hnone => ?flush, ?flushDone, fun hp hd hh hst hg => ?stage, fun h => ?stageWaits,
    fun t ht => ?flip, fun hp h => ?flipWaits, fun t ht hp hf hst hpics hm hk hw hc => ?foldNone, fun t ht hp hf => ?fold, fun h => ?foldWaits⟩
  case flushIgnored => exact (trnFlush_next hs hslot).trans (by rw [trnFlush_open hopen])
  case flush => exact (trnFlush_next hs hslot).trans (by rw [trnFlush_none hnone])
  case flushDone => exact trnFlushDone_next hs hslot
  case stage =>
    refine ⟨_, commitStageDone_next hs hslot, ?_⟩
    rw [commitStageDone_device hp hd hh hst hg]
    exact stageMoves_stages rfl
  case stageWaits => exact (commitStageDone_next hs hslot).trans (by rw [commitStageDone_waits h])
  case flip =>
    refine ⟨fun hp hg hst hn => ⟨_, commitFlip_next hs hslot, ?_⟩, fun sl hp hdec hle => ⟨_, commitFlip_next hs hslot, ?_⟩,
      fun sl hp hdec hlt => (commitFlip_next hs hslot).trans ?_⟩
    · rw [commitFlip_device hp hg hst hn]
      exact flipTurn_flips ht rfl
    · rw [commitFlip_decided hp hdec, if_neg (BitVec.not_lt.mpr hle)]
      exact flipTurn_flips ht rfl
    · rw [commitFlip_decided hp hdec, if_pos hlt]
  case flipWaits => exact (commitFlip_next hs hslot).trans (by rw [commitFlip_waits hp h])
  case foldNone =>
    obtain ⟨slots, job, others, flt, mem⟩ := foldTurn_none ht hpics hm hk hw hc
    refine ⟨_, commitFoldDone_next hs hslot, ?_⟩
    rw [commitFoldDone_folds hp hf, reschedule_stopped (by rw [flt, hst])]
    exact ⟨slots, job, others, mem⟩
  case fold =>
    obtain ⟨⟨held, slots⟩, job⟩ := foldTurn_over ht
    refine ⟨_, commitFoldDone_next hs hslot, ?_⟩
    rw [commitFoldDone_folds hp hf]
    have handed := reschedule_handed (foldTurn d slot) (basinOf slot)
    dsimp only
    rw [(handed.tslot slot).trans slots]
    exact ⟨rfl, rfl, rfl, rfl, rfl, handed.turn slot (congrArg Job.turn job), (handed.records slot).trans (congrArg Job.cplWritten job)⟩
  case foldWaits => exact (commitFoldDone_next hs hslot).trans (by rw [commitFoldDone_waits h])

end Sys2Proof.Machine
end

section
/-! PROOFS. A turn that ends without a commit (spec/03_turns_and_fences.md R76, R77; spec/13_koliz_fabric.md R350). -/

namespace Sys2Proof.Machine

/-! ## What is dropped leaves the turns aside -/

theorem setCore_aside (d : Dev) (p : Nat) (x : CoreSt) : Aside d (d.setCore p x) := ⟨rfl, rfl, rfl, rfl⟩

theorem setSpout_aside (d : Dev) (k : Nat) (x : Spout) : Aside d (d.setSpout k x) := ⟨rfl, rfl, rfl, rfl⟩

theorem cellHavoc_aside (d : Dev) (a n : Nat) : Aside d (d.cellHavoc a n) := ⟨rfl, rfl, rfl, rfl⟩

theorem codecDrop_aside (d : Dev) (slot : Nat) : Aside d (codecDrop d slot) := by
  unfold codecDrop
  exact (setPics_aside d _).trans (settleClosing_aside _)

theorem spoutFilter_aside (d : Dev) (p : SpoutCmd → Bool) : Aside d (spoutFilter d p) :=
  foldl_aside (fun d k => setSpout_aside d k _) _ d

theorem cascadeEnd_aside (d : Dev) (p : CscCmd → Bool) : Aside d (cascadeEnd d p) := by
  unfold cascadeEnd
  refine Aside.trans (e := { d with klz := { d.klz with cascade := d.klz.cascade.filter (fun c => !p c) } }) ⟨rfl, rfl, rfl, rfl⟩ ?_
  refine foldl_aside (fun d c => foldl_aside (fun d runs => foldl_aside (fun d r => ?_) _ d) _ d) _ _
  split
  · exact cellHavoc_aside d _ _
  · exact aside_refl d

theorem cascadeRestart_aside (d : Dev) (slot : Nat) : Aside d (cascadeRestart d slot) := ⟨rfl, rfl, rfl, rfl⟩

theorem enginesDrop_aside (d : Dev) (slot : Nat) : Aside d (enginesDrop d slot) := by
  unfold enginesDrop
  exact (codecDrop_aside d slot).trans ((spoutFilter_aside _ _).trans ((cascadeEnd_aside _ _).trans (cascadeRestart_aside _ slot)))

theorem unstage_aside (d : Dev) (slot : Nat) : Aside d (unstage d slot) := foldl_aside (fun d _ => hbmWrite_aside d _ _) _ d

theorem unstageIfStaged_aside (d : Dev) (slot : Nat) : Aside d (unstageIfStaged d slot) := by
  unfold unstageIfStaged
  split
  · exact unstage_aside d slot
  · exact unstage_aside d slot
  · exact aside_refl d

theorem havocPlain_aside (d : Dev) (slot : Nat) : Aside d (havocPlain d slot) := by
  unfold havocPlain
  split
  · exact foldl_aside (fun d p => cellHavoc_aside d _ _) _ d
  · exact aside_refl d

theorem stopCores_aside (d : Dev) (slot : Nat) : Aside d (stopCores d slot) := foldl_aside (fun d _ => setCore_aside d _ _) _ d

theorem setSaved_aside (d : Dev) (l : Tab (Option Ctx)) : Aside d { d with saved := l } := ⟨rfl, rfl, rfl, rfl⟩

theorem haltCores_aside (d : Dev) (slot : Nat) : Aside d (haltCores d slot) := by
  unfold haltCores
  exact (setSaved_aside d _).trans (foldl_aside (fun d _ => setCore_aside d _ _) _ _)

theorem dropOwners_aside (d : Dev) (slot : Nat) : Aside d (dropOwners d slot) := by
  unfold dropOwners
  refine foldl_aside (fun d i => ?_) _ d
  dsimp only
  split
  · exact ⟨rfl, rfl, rfl, rfl⟩
  · exact aside_refl d

/-! ## The end of a turn without a commit (R76, R79, R80) -/

/-- The slot's side of a turn that ends without a commit. -/
def endedSlot (t : TrnSlot) (reason : Byte) : TrnSlot :=
  { t with phase := .none, replaying := false, domain := false, abortReason := reason, moves := [], stock := [], shadows := [], reserved := 0, decided := none, late := false, aborting := none }

/-- The job of a turn that is over has one more record. -/
def Job.recorded (j : Job) : Job := Job.turnOver { j with cplWritten := j.cplWritten + 1 }

/-- What ends an open turn: its engines, its staged fields, its reservation and its plain pages go, then the turn, with a record. -/
theorem endTurn_eq {d : Dev} {slot : Nat} {t : Turn} (ht : (d.job slot).turn = some t) (status : RecStatus) (reason : Byte) :
    ∃ z, Aside d z ∧ endTurn d slot status reason = (writeRecord (z.setTslot slot (endedSlot (d.tslot slot) reason)) slot t.card.turn 0 0 t.card.user
      status reason (turnFlags t false) t.weirMax).modJob slot Job.turnOver := by
  have drops := (enginesDrop_aside d slot).trans (unstageIfStaged_aside _ slot)
  unfold endTurn
  rw [ht]
  dsimp only
  rw [drops.tslot]
  exact ⟨_, drops.trans ((pushFrames_aside _ _ _).trans (havocPlain_aside _ slot)), rfl⟩

theorem endTurn_ends {d : Dev} {slot : Nat} {t : Turn} (ht : (d.job slot).turn = some t) (status : RecStatus) (reason : Byte) :
    (endTurn d slot status reason).tslot slot = endedSlot (d.tslot slot) reason
    ∧ (endTurn d slot status reason).job slot = Job.recorded (d.job slot)
    ∧ (endTurn d slot status reason).flt = d.flt ∧ (endTurn d slot status reason).klz.groups = d.klz.groups := by
  obtain ⟨z, aside, ends⟩ := endTurn_eq ht status reason
  obtain ⟨y, writes, -, keeps⟩ := writeRecord_eq (z.setTslot slot (endedSlot (d.tslot slot) reason)) slot t.card.turn 0 0 t.card.user
    status reason (turnFlags t false) t.weirMax
  rw [ends, writes, Dev.modJob_eq, Dev.job_setJob_self, Dev.setTslot_job, aside.job]
  refine ⟨?_, Dev.job_setJob_self _ _ _, ?_, ?_⟩
  · rw [Dev.setJob_tslot, Dev.setJob_tslot, keeps.tslot, Dev.tslot_setTslot_self]
  · rw [Dev.setJob_flt, Dev.setJob_flt, keeps.flt, Dev.setTslot_flt, aside.flt]
  · rw [Dev.setJob_klz, Dev.setJob_klz, keeps.groups, Dev.setTslot_klz, aside.groups]

/-! ## Rolling a participant back (R77, R350) -/

theorem logAppend_kept (d : Dev) (info : FltInfo) (detail : Word) : (logAppend d info detail).jobs = d.jobs ∧ (logAppend d info detail).trn = d.trn
    ∧ (logAppend d info detail).klz = d.klz ∧ (logAppend d info detail).flt.domainAborts = d.flt.domainAborts := by
  unfold logAppend
  dsimp only
  split <;> exact ⟨rfl, rfl, rfl, rfl⟩

/-- From `d` to `e` the slot's turn has rolled back with a reason. -/
structure RolledBack (d : Dev) (slot : Nat) (reason : Byte) (e : Dev) : Prop where
  turn : (e.job slot).turn = none
  phase : (e.tslot slot).phase = .none
  moves : (e.tslot slot).moves = []
  reason : (e.tslot slot).abortReason = reason
  aborts : (e.tslot slot).aborts = sat16 (d.tslot slot).aborts
  record : (e.job slot).cplWritten = (d.job slot).cplWritten + 1
  seen : e.flt.abortSeen = true
  counted : e.flt.domainAborts = sat16 d.flt.domainAborts
  groups : e.klz.groups = d.klz.groups

/-- The phases in which a participant can still roll back. -/
def undecided (p : Phase) : Bool := p == .running || p == .ending || p == .staged

/-- The abort logged and counted, and the cores stopped (R350). -/
def abortNoted (d : Dev) (slot : Nat) (reason : Byte) : Dev :=
  let d := logAppend d { valid := true, cls := 3, reason := reason, slot := BitVec.ofNat 8 slot } 0
  haltCores (dropOwners { d with flt := { d.flt with domainAborts := sat16 d.flt.domainAborts, abortSeen := true } } slot) slot

theorem abortNoted_kept (d : Dev) (slot : Nat) (reason : Byte) : (abortNoted d slot reason).jobs = d.jobs
    ∧ (abortNoted d slot reason).trn.slots = d.trn.slots ∧ (abortNoted d slot reason).klz.groups = d.klz.groups
    ∧ (abortNoted d slot reason).flt.domainAborts = sat16 d.flt.domainAborts ∧ (abortNoted d slot reason).flt.abortSeen = true := by
  obtain ⟨jobs, trn, klz, count⟩ := logAppend_kept d { valid := true, cls := 3, reason := reason, slot := BitVec.ofNat 8 slot } 0
  unfold abortNoted
  generalize logAppend d { valid := true, cls := 3, reason := reason, slot := BitVec.ofNat 8 slot } 0 = x at jobs trn klz count ⊢
  dsimp only
  have halts := (dropOwners_aside { x with flt := { x.flt with domainAborts := sat16 x.flt.domainAborts, abortSeen := true } } slot).trans
    (haltCores_aside _ slot)
  rw [halts.jobs, halts.slots, halts.groups, halts.flt]
  dsimp only
  rw [jobs, trn, klz, count]
  exact ⟨rfl, rfl, rfl, rfl, rfl⟩

theorem domainRollback_none {d : Dev} {slot : Nat} (h : (d.job slot).turn = none) (reason : Byte) : domainRollback d slot reason = d :=
  if_pos (by simp [h])

theorem domainRollback_eq {d : Dev} {slot : Nat} (hturn : (d.job slot).turn.isSome = true) (hphase : undecided (d.tslot slot).phase = true) (reason : Byte) :
    domainRollback d slot reason = reschedule ((endTurn (abortNoted d slot reason) slot .aborted reason).modTslot slot (fun t => { t with aborts := sat16 t.aborts }))
      (basinOf slot) :=
  if_neg (by
    obtain ⟨t, ht⟩ := Option.isSome_iff_exists.mp hturn
    change ¬ ((d.job slot).turn.isNone || !undecided (d.tslot slot).phase) = true
    simp [ht, hphase])

theorem domainRollback_rolls {d : Dev} {slot : Nat} (hturn : (d.job slot).turn.isSome = true) (hphase : undecided (d.tslot slot).phase = true) (reason : Byte) :
    RolledBack d slot reason (domainRollback d slot reason) := by
  obtain ⟨t, ht⟩ := Option.isSome_iff_exists.mp hturn
  obtain ⟨jobs, slots, groups, count, seen⟩ := abortNoted_kept d slot reason
  rw [domainRollback_eq hturn hphase]
  generalize abortNoted d slot reason = x at jobs slots groups count seen ⊢
  have job : x.job slot = d.job slot := by rw [Dev.job, jobs, Dev.job]
  have tslot : x.tslot slot = d.tslot slot := by rw [Dev.tslot, slots, Dev.tslot]
  obtain ⟨endSlot, endJob, endFlt, endGroups⟩ := endTurn_ends (d := x) (by rw [job, ht]) .aborted reason
  rw [tslot] at endSlot
  rw [job] at endJob
  generalize endTurn x slot .aborted reason = y at endSlot endJob endFlt endGroups ⊢
  rw [Dev.modTslot_eq, endSlot]
  generalize hz : y.setTslot slot { endedSlot (d.tslot slot) reason with aborts := sat16 (endedSlot (d.tslot slot) reason).aborts } = z
  have zslot : z.tslot slot = { endedSlot (d.tslot slot) reason with aborts := sat16 (d.tslot slot).aborts } := by rw [← hz, Dev.tslot_setTslot_self]; rfl
  have zjob : z.job slot = Job.recorded (d.job slot) := by rw [← hz, Dev.setTslot_job, endJob]
  have zflt : z.flt = x.flt := by rw [← hz, Dev.setTslot_flt, endFlt]
  have zgroups : z.klz.groups = d.klz.groups := by rw [← hz, Dev.setTslot_klz, endGroups, groups]
  have handed := reschedule_handed z (basinOf slot)
  generalize reschedule z (basinOf slot) = e at handed ⊢
  have eslot := (handed.tslot slot).trans zslot
  refine ⟨handed.turn slot (congrArg Job.turn zjob), ?_, ?_, ?_, ?_, (handed.records slot).trans (congrArg Job.cplWritten zjob), ?_, ?_, ?_⟩
  · rw [eslot]; rfl
  · rw [eslot]; rfl
  · rw [eslot]; rfl
  · rw [eslot]
  · rw [handed.flt, zflt, seen]
  · rw [handed.flt, zflt, count]
  · rw [handed.klz, zgroups]

/-! ## A participant that drains first (R350) -/

/-- Stopping a job's cores changes nothing but whether they issue. -/
theorem stopCores_stops (d : Dev) (slot : Nat) : stopCores d slot = { d with cores := (stopCores d slot).cores }
    ∧ (∀ p, ∃ a, (stopCores d slot).core p = { d.core p with active := a })
    ∧ ∀ l ∈ heldCores d slot, ((stopCores d slot).core (d.phys l)).active = false := by
  suffices H : ∀ (ls : List Nat) (d : Dev), let e := ls.foldl (fun d l => d.modCore (d.phys l) (fun x => { x with active := false })) d
      e = { d with cores := e.cores } ∧ (∀ p, ∃ a, e.core p = { d.core p with active := a } ∧ ((d.core p).active = false → a = false))
        ∧ ∀ l ∈ ls, (e.core (d.phys l)).active = false by
    obtain ⟨only, same, idle⟩ := H (heldCores d slot) d
    exact ⟨only, fun p => (same p).imp fun _ h => h.1, idle⟩
  intro ls
  induction ls with
  | nil => exact fun d => ⟨rfl, fun p => ⟨_, rfl, fun h => h⟩, fun _ h => nomatch h⟩
  | cons l ls ih =>
    intro d
    obtain ⟨only, same, idle⟩ := ih (d.setCore (d.phys l) { d.core (d.phys l) with active := false })
    rw [List.foldl_cons]
    refine ⟨only, fun p => ?_, fun k hk => ?_⟩
    · obtain ⟨a, ha, hidle⟩ := same p
      rw [Dev.core_setCore] at ha hidle
      split at ha
      · next hp =>
        subst hp
        exact ⟨a, ha, fun _ => hidle (by rw [if_pos rfl])⟩
      · next hp => exact ⟨a, ha, fun h => hidle (by rwa [if_neg hp])⟩
    · rcases List.mem_cons.mp hk with rfl | hk
      · obtain ⟨a, ha, hidle⟩ := same (d.phys k)
        rw [Dev.core_setCore, if_pos rfl] at ha hidle
        exact (congrArg CoreSt.active ha).trans (hidle rfl)
      · exact idle k hk

/-- What a job's cores still ask for does not depend on whether they issue. -/
theorem tmDrained_stopCores (d : Dev) (slot : Nat) : tmDrained (stopCores d slot) slot = tmDrained d slot := by
  obtain ⟨only, same, -⟩ := stopCores_stops d slot
  have held (p : Nat) : ((stopCores d slot).core p).slot = (d.core p).slot := by
    obtain ⟨a, ha⟩ := same p
    rw [ha]
  have asked (p : Nat) : ((stopCores d slot).core p).tm = (d.core p).tm := by
    obtain ⟨a, ha⟩ := same p
    rw [ha]
  have phys : (stopCores d slot).phys = d.phys := by
    rw [only]
    rfl
  have cores : jobCores (stopCores d slot) slot = jobCores d slot := by
    rw [only]
    rfl
  simp only [tmDrained, heldCores, held, asked, phys, cores]

/-- With no Cascade command outstanding, ending some ends none. -/
theorem cascadeEnd_none {d : Dev} (h : d.klz.cascade = []) (p : CscCmd → Bool) : cascadeEnd d p = d := by
  have same : { d with klz := { d.klz with cascade := [] } } = d := by rw [← h]
  simp only [cascadeEnd, h, List.filter_nil, List.foldl_nil, same]

theorem domainAbort_none {d : Dev} {slot : Nat} (h : (d.job slot).turn = none) (reason : Byte) : domainAbort d slot reason = d :=
  (if_pos (by simp [h])).trans (domainRollback_none h reason)

theorem domainAbort_staged {d : Dev} {slot : Nat} (h : (d.tslot slot).phase = .staged) (reason : Byte) : domainAbort d slot reason = domainRollback d slot reason :=
  if_pos (by simp [h])

section Running

variable {d : Dev} {slot : Nat} (hturn : (d.job slot).turn.isSome = true) (hphase : (d.tslot slot).phase = .running ∨ (d.tslot slot).phase = .ending)
  (hcascade : d.klz.cascade = [])
include hturn hphase hcascade

theorem domainAbort_running (reason : Byte) : domainAbort d slot reason = if tmDrained d slot = true then domainRollback (stopCores d slot) slot reason
    else (stopCores d slot).setTslot slot { d.tslot slot with aborting := some reason } := by
  obtain ⟨t, ht⟩ := Option.isSome_iff_exists.mp hturn
  have runs : ((d.job slot).turn.isNone || !((d.tslot slot).phase == .running || (d.tslot slot).phase == .ending)) = false := by
    rcases hphase with h | h <;> simp [ht, h]
  unfold domainAbort
  simp only [runs, Bool.false_eq_true, ↓reduceIte, cascadeEnd_none hcascade, tmDrained_stopCores, Dev.modTslot_eq, (stopCores_aside d slot).tslot]

theorem domainAbort_drained (hd : tmDrained d slot = true) (reason : Byte) : RolledBack d slot reason (domainAbort d slot reason) := by
  have aside := stopCores_aside d slot
  rw [domainAbort_running hturn hphase hcascade, if_pos hd]
  have rolls := domainRollback_rolls (d := stopCores d slot) (slot := slot) (by rw [aside.job, hturn])
    (by rw [aside.tslot]; rcases hphase with h | h <;> rw [h] <;> rfl) reason
  generalize domainRollback (stopCores d slot) slot reason = e at rolls ⊢
  obtain ⟨turn, phase, moves, why, aborts, record, seen, counted, groups⟩ := rolls
  rw [aside.tslot] at aborts
  rw [aside.job] at record
  rw [aside.flt] at counted
  exact ⟨turn, phase, moves, why, aborts, record, seen, counted, groups.trans aside.groups⟩

end Running

end Sys2Proof.Machine
end

section
/-! PROOFS. Domain groups: messages, decisions, aborts and timers (spec/03_turns_and_fences.md R71 to R77, R82;
spec/13_koliz_fabric.md R348 to R351). -/

namespace Sys2Proof.Machine

/-! ## Messages that leave -/

theorem putLine_groups (d : Dev) (n : Nat) (ps : List Packet) : (putLine d n ps).klz.groups = d.klz.groups := by
  unfold putLine
  dsimp only
  refine List.foldlRecOn (motive := fun e : Dev => e.klz.groups = d.klz.groups) _ _ ?_ fun _ h _ _ => h
  split <;> rfl

theorem drainWaiting_groups (d : Dev) (n : Nat) : (drainWaiting d n).klz.groups = d.klz.groups := by
  unfold drainWaiting
  dsimp only
  split
  · rfl
  · exact putLine_groups _ _ _

theorem emit_groups (d : Dev) (n : Nat) (p : Packet) : (emit d n p).klz.groups = d.klz.groups := drainWaiting_groups _ _

/-- From `d` to `e` messages have left: the groups are as they were, and nothing but the ports and the counters has changed. -/
structure Spoken (d e : Dev) : Prop where
  talked : Talked d e
  groups : e.klz.groups = d.klz.groups

theorem spoken_refl (d : Dev) : Spoken d d := ⟨talked_refl d, rfl⟩

theorem Spoken.trans {d e f : Dev} (h : Spoken d e) (k : Spoken e f) : Spoken d f := ⟨talked_trans h.talked k.talked, k.groups.trans h.groups⟩

theorem sendFence_spoken (d : Dev) (g port : Nat) (k : FenceKind) (reason : Byte) (origin : Nat) (turn slot : Dword) :
    Spoken d (sendFence d g port k reason origin turn slot) := by
  refine ⟨sendFence_talked d g port k reason origin turn slot, ?_⟩
  unfold sendFence
  split
  · rfl
  · exact emit_groups d _ _

theorem sendDown_spoken (d : Dev) (g : Nat) (k : FenceKind) (reason : Byte) (origin : Nat) (turn slot : Dword) :
    Spoken d (sendDown d g k reason origin turn slot) :=
  foldl_keeps spoken_refl Spoken.trans (fun d p => sendFence_spoken d g p k reason origin turn slot) _ d

/-- A group without children sends nothing down. -/
theorem sendDown_childless {d : Dev} {g : Nat} (h : (d.grp g).children = 0) (k : FenceKind) (reason : Byte) (origin : Nat) (turn slot : Dword) :
    sendDown d g k reason origin turn slot = d := by
  simp [sendDown, childPorts, h]

theorem Spoken.grp {d e : Dev} (h : Spoken d e) (g : Nat) : e.grp g = d.grp g := by rw [Dev.grp, h.groups, Dev.grp]

theorem Spoken.tslot {d e : Dev} (h : Spoken d e) (k : Nat) : e.tslot k = d.tslot k := by
  rw [h.talked.1]
  rfl

theorem Spoken.job {d e : Dev} (h : Spoken d e) (k : Nat) : e.job k = d.job k := by
  rw [h.talked.1]
  rfl

theorem Spoken.grpTurn {d e : Dev} (h : Spoken d e) (g : Nat) : grpTurn e g = grpTurn d g := by
  simp only [Machine.grpTurn, h.grp, h.tslot]

/-! ## One group's barrier -/

/-- From `d` to `e` group `g` becomes `x`, and nothing else changes. -/
def Regrouped (d : Dev) (g : Nat) (x : Grp) (e : Dev) : Prop :=
  e.grp g = x ∧ (∀ k, k ≠ g → e.grp k = d.grp k) ∧ e = { d with klz := { d.klz with groups := e.klz.groups } }

theorem regrouped_refl (d : Dev) (g : Nat) : Regrouped d g (d.grp g) d := ⟨rfl, fun _ _ => rfl, rfl⟩

theorem Regrouped.set {d e : Dev} {g : Nat} {x : Grp} (h : Regrouped d g x e) (y : Grp) : Regrouped d g y (e.setGrp g y) := by
  obtain ⟨-, others, only⟩ := h
  refine ⟨Dev.grp_setGrp_self e g y, fun k hk => ?_, ?_⟩
  · rw [Dev.grp_setGrp, if_neg hk, others k hk]
  · rw [only]
    rfl

theorem regrouped_set (d : Dev) (g : Nat) (y : Grp) : Regrouped d g y (d.setGrp g y) := (regrouped_refl d g).set y

/-- The root's timer runs from the first arrival. -/
theorem noteFirst_regrouped (d : Dev) (g : Nat) :
    Regrouped d g { d.grp g with first := some ((d.grp g).first.getD d.clp.elapsed) } (noteFirst d g) := by
  unfold noteFirst
  dsimp only
  split
  · next h =>
    obtain ⟨t, ht⟩ := Option.isSome_iff_exists.mp h
    have same : { d.grp g with first := some ((d.grp g).first.getD d.clp.elapsed) } = d.grp g := by
      generalize d.grp g = x at ht ⊢
      rw [ht, Option.getD_some, ← ht]
    rw [same]
    exact regrouped_refl d g
  · next h =>
    rw [Option.not_isSome_iff_eq_none.mp h, Option.getD_none]
    exact regrouped_set d g _

/-- A group whose turn is aborted. -/
def Grp.stopped (x : Grp) (reason : Byte) (turn : Dword) : Grp :=
  { x with barrier := .aborted, abortReason := reason, turn := turn, arrived := 0, own := false, first := none }

/-- A group that has heard a child's arrival. -/
def Grp.heard (x : Grp) (port elapsed : Nat) : Grp :=
  { x with arrived := x.arrived ||| (1#16 <<< port), absent := x.absent &&& ~~~(1#16 <<< port), first := some (x.first.getD elapsed) }

/-! ## Decisions (R71, R73) -/

section Decision

variable {d : Dev} {g : Nat} {t : Dword} (hphase : (d.tslot (d.grp g).slot).phase = .staged)
  (hown : ∀ u, (d.job (d.grp g).slot).turn = some u → u.card.turn = t) (hturn : (d.job (d.grp g).slot).turn.isSome = true)
include hphase hown hturn

theorem takeDecision_eq (sl : Dword) : takeDecision d g t sl =
    let e := (d.setGrp g { d.grp g with barrier := .decided, turn := t }).setTslot (d.grp g).slot
      { d.tslot (d.grp g).slot with phase := .decided, decided := some sl }
    if sl < d.clp.now then flipTurn e (d.grp g).slot true else e := by
  obtain ⟨u, hu⟩ := Option.isSome_iff_exists.mp hturn
  unfold takeDecision
  simp only [hu, hown u hu, hphase, beq_self_eq_true, Bool.not_true, Bool.or_self, Bool.false_eq_true, ↓reduceIte]
  rfl

end Decision

/-- A flip after S marks the slot and counts (R73). -/
theorem flipTurn_late {d : Dev} {slot : Nat} {t : Turn} (h : (d.job slot).turn = some t) :
    (flipTurn d slot true).tslot slot = flippedSlot d slot t true ∧ (flipTurn d slot true).trn.slotLate = true
    ∧ (flipTurn d slot true).trn.slotLateCount = sat16 d.trn.slotLateCount
    ∧ (flipTurn d slot true).mem = d.mem ∧ (flipTurn d slot true).cores = d.cores ∧ (flipTurn d slot true).str = d.str ∧ (flipTurn d slot true).sch = d.sch := by
  have flips : flipTurn d slot true = let e := (d.setTslot slot (flippedSlot d slot t true)).setJob slot (flippedJob d slot t true)
      { e with trn := { e.trn with slotLate := true, slotLateCount := sat16 e.trn.slotLateCount } }.count 9 1 := by
    unfold flipTurn
    rw [h]
    rfl
  rw [flips]
  generalize flippedSlot d slot t true = x
  generalize flippedJob d slot t true = y
  exact ⟨Dev.tslot_setTslot_self d slot x, rfl, rfl, rfl, rfl, rfl, rfl⟩

/-! ## Aborts (R77, R350) -/

theorem abortDown_stops (d : Dev) (g : Nat) :
    ∃ e, Spoken d e ∧ abortDown d g = e.setGrp g ((d.grp g).stopped (abortReason (d.grp g)) (grpTurn d g)) := by
  have speaks := sendDown_spoken d g .abort (abortReason (d.grp g)) 0 (grpTurn d g) 0
  refine ⟨_, speaks, ?_⟩
  unfold abortDown
  dsimp only
  rw [speaks.grpTurn]
  rfl

theorem rootAbort_stops (d : Dev) (g : Nat) : ∃ e, Spoken d e
    ∧ rootAbort d g = domainAbort (e.setGrp g ((d.grp g).stopped (abortReason (d.grp g)) (grpTurn d g))) (d.grp g).slot (abortReason (d.grp g)) := by
  obtain ⟨e, speaks, stops⟩ := abortDown_stops d g
  refine ⟨e, speaks, ?_⟩
  unfold rootAbort
  rw [stops]

/-- Talk on the ports leaves memory, cores, jobs and turns as they were. -/
theorem Talked.kept {d e : Dev} (h : Talked d e) : (e.mem = d.mem ∧ e.cores = d.cores ∧ e.str = d.str ∧ e.sch = d.sch) ∧ e.jobs = d.jobs ∧ e.trn = d.trn := by
  rw [h.1]
  exact ⟨⟨rfl, rfl, rfl, rfl⟩, rfl, rfl⟩

theorem Spoken.setGrp {d e : Dev} (h : Spoken d e) (g : Nat) (x : Grp) : Talked d (e.setGrp g x) := talked_trans h.talked (talked_setGrp e g x)

theorem Regrouped.talked {d e : Dev} {g : Nat} {x : Grp} (h : Regrouped d g x e) : Talked d e := by
  rw [h.2.2]
  exact ⟨rfl, rfl⟩

/-- A member that rolls back after its group's barrier was stopped. -/
theorem RolledBack.afterSetGrp {d e f : Dev} {g slot : Nat} {x : Grp} {r : Byte} (h : Spoken d e) (k : RolledBack (e.setGrp g x) slot r f) :
    f.grp g = x ∧ (f.job slot).turn = none ∧ (f.tslot slot).phase = .none ∧ (f.tslot slot).moves = [] ∧ (f.tslot slot).abortReason = r
      ∧ (f.tslot slot).aborts = sat16 (d.tslot slot).aborts ∧ (f.job slot).cplWritten = (d.job slot).cplWritten + 1
      ∧ f.flt.abortSeen = true ∧ f.flt.domainAborts = sat16 d.flt.domainAborts := by
  obtain ⟨turn, phase, moves, why, aborts, record, seen, counted, groups⟩ := k
  rw [Dev.setGrp_tslot, h.tslot] at aborts
  rw [Dev.setGrp_job, h.job] at record
  rw [Dev.setGrp_flt, h.talked.1] at counted
  have grp : f.grp g = (e.setGrp g x).grp g := by rw [Dev.grp, groups, Dev.grp]
  exact ⟨grp.trans (Dev.grp_setGrp_self e g x), turn, phase, moves, why, aborts, record, seen, counted⟩

/-! ## Messages that come (R349 to R351) -/

section Message

variable {d : Dev} {g port : Nat} {m : FenceMsg}

/-- What an arrival leaves the barrier before the member looks whether all have come. -/
def heardDev (d : Dev) (g port : Nat) : Dev :=
  let d := noteFirst d g
  d.setGrp g { d.grp g with arrived := (d.grp g).arrived ||| (1 <<< port), absent := (d.grp g).absent &&& ~~~(1#16 <<< port) }

theorem heardDev_regrouped (d : Dev) (g port : Nat) : Regrouped d g ((d.grp g).heard port d.clp.elapsed) (heardDev d g port) := by
  have noted := noteFirst_regrouped d g
  unfold heardDev
  dsimp only
  rw [noted.1]
  exact noted.set _

theorem fenceMessage_arrive (hk : m.kind = 1) (hc : fromChild (d.grp g) port = true) (ht : m.turn = grpTurn d g) (hg : (d.grp g).turn = grpTurn d g)
    (hb : (d.grp g).barrier = .waiting) : fenceMessage d g port m = tryArrive (heardDev d g port) g := by
  have opened : openBarrier d g (grpTurn d g) = d := if_pos (by simp [hg, hb])
  simp only [fenceMessage, hk, hc, ht, beq_self_eq_true, Bool.true_or, Bool.not_true, Bool.or_self, Bool.false_eq_true, ↓reduceIte, opened]
  rfl

theorem tryArrive_waits (h : (d.grp g).own = false) : tryArrive d g = d := if_pos (by simp [h])

/-- The root decides once every child has arrived. -/
theorem tryArrive_root (ho : (d.grp g).own = true) (ha : (d.grp g).arrived &&& (d.grp g).children = (d.grp g).children) (hb : (d.grp g).barrier = .waiting)
    (hr : (d.grp g).root = true) : tryArrive d g = takeDecision (sendDown (d.setGrp g { d.grp g with barrier := .arrived }) g .decide 0 0 (d.grp g).turn (chooseSlot d))
      g (d.grp g).turn (chooseSlot d) := by
  simp only [tryArrive, ho, ha, hb, hr, beq_self_eq_true, Bool.not_true, Bool.or_self, Bool.false_eq_true, ↓reduceIte]

theorem fenceMessage_decide (hk : m.kind = 2) (hp : fromParent (d.grp g) port = true) (hc : (d.grp g).children = 0) :
    fenceMessage d g port m = takeDecision d g m.turn m.slot := by
  simp only [fenceMessage, hk, hp, Bool.not_true, Bool.false_eq_true, ↓reduceIte, sendDown_childless hc]

theorem fenceMessage_abort (hk : m.kind = 3) (hp : fromParent (d.grp g) port = true) (hc : d.klz.cascade = []) : ∃ e, Spoken d e
    ∧ ((∀ u, (d.job (d.grp g).slot).turn = some u → u.card.turn ≠ m.turn) → fenceMessage d g port m = e.setGrp g ((d.grp g).stopped m.reason m.turn))
    ∧ (∀ u, (d.job (d.grp g).slot).turn = some u → u.card.turn = m.turn →
      fenceMessage d g port m = domainAbort (e.setGrp g ((d.grp g).stopped m.reason m.turn)) (d.grp g).slot m.reason) := by
  have speaks := sendDown_spoken d g .abort m.reason 0 m.turn 0
  refine ⟨_, speaks, ?_⟩
  have ends (x : Grp) (p : CscCmd → Bool) : cascadeEnd ((sendDown d g .abort m.reason 0 m.turn 0).setGrp g x) p
      = (sendDown d g .abort m.reason 0 m.turn 0).setGrp g x :=
    cascadeEnd_none ((talked_trans speaks.talked (talked_setGrp _ g x)).2.trans hc) p
  simp only [fenceMessage, hk, hp, Bool.not_true, Bool.false_eq_true, ↓reduceIte, ends, speaks.job]
  refine ⟨fun h => ?_, fun u hu hm => ?_⟩
  · cases hu : (d.job (d.grp g).slot).turn with
    | none => rfl
    | some u =>
      simp only [beq_eq_false_iff_ne.mpr (h u hu), Bool.false_eq_true, ↓reduceIte]
      rfl
  · simp only [hu, hm, beq_self_eq_true, ↓reduceIte]
    rfl

theorem fenceMessage_replay (hk : m.kind = 4) (hp : fromParent (d.grp g) port = true) (hn : (d.job (d.grp g).slot).turn = none) (ht : (d.grp g).turn = m.turn)
    (hb : (d.grp g).barrier ≠ .decided) :
    ∃ e, Spoken d e ∧ fenceMessage d g port m = e.setGrp g { d.grp g with barrier := .idle, arrived := 0, own := false, first := none } := by
  have speaks := sendDown_spoken d g .replay 0 m.origin m.turn 0
  refine ⟨_, speaks, ?_⟩
  have down : fenceMessage d g port m = replayDown d g m.origin m.turn := by
    simp only [fenceMessage, hk, hp, ↓reduceIte]
  have again : ((d.grp g).turn == m.turn && !((d.grp g).barrier == .decided)) = true := by simp [ht, hb]
  rw [down]
  unfold replayDown
  simp only [speaks.grp, again, ↓reduceIte]
  refine if_pos ?_
  rw [Dev.setGrp_job, speaks.job, hn]
  rfl

theorem fenceMessage_stop (hk : m.kind = 5) (hc : fromChild (d.grp g) port = true) (hr : (d.grp g).root = true) (ht : m.turn = grpTurn d g)
    (hd : grpDecided d g = false) : fenceMessage d g port m = rootAbort d g := by
  simp only [fenceMessage, hk, hc, towardsRoot, hr, ht, hd, beq_self_eq_true, Bool.not_true, Bool.or_self, Bool.false_eq_true, ↓reduceIte]

theorem fenceMessage_absent_root (hk : m.kind = 6) (hc : fromChild (d.grp g) port = true) (hr : (d.grp g).root = true) :
    fenceMessage d g port m = d.setGrp g { d.grp g with absent := (d.grp g).absent ||| (1#16 <<< port) } := by
  simp only [fenceMessage, hk, hc, towardsRoot, hr, Bool.not_true, Bool.false_eq_true, ↓reduceIte]
  rfl

theorem fenceMessage_absent_member (hk : m.kind = 6) (hc : fromChild (d.grp g) port = true) (hr : (d.grp g).root = false) :
    fenceMessage d g port m = sendFence d g (d.grp g).parent .absent m.reason m.origin m.turn 0 := by
  simp only [fenceMessage, hk, hc, towardsRoot, hr, Bool.not_true, Bool.false_eq_true, ↓reduceIte]

theorem sendFence_active {n : Nat} (h : (d.port n).state = .active) (k : FenceKind) (reason : Byte) (origin : Nat) (turn slot : Dword) :
    sendFence d g n k reason origin turn slot
      = emit d n { newPacket d tyFence (d.port n).neighbour.toNat (fencePayload k reason origin turn slot) with slotGroup := BitVec.ofNat 8 g } :=
  if_neg (by simp [h])

/-- The last arrival at the root decides the turn at a slot that has not passed. -/
theorem arrive_decides (hk : m.kind = 1) (hc : fromChild (d.grp g) port = true) (ht : m.turn = grpTurn d g) (hg : (d.grp g).turn = grpTurn d g)
    (hb : (d.grp g).barrier = .waiting) (ho : (d.grp g).own = true) (hr : (d.grp g).root = true)
    (ha : ((d.grp g).arrived ||| (1#16 <<< port)) &&& (d.grp g).children = (d.grp g).children) (hphase : (d.tslot (d.grp g).slot).phase = .staged)
    (hown : ∀ u, (d.job (d.grp g).slot).turn = some u → u.card.turn = grpTurn d g) (hturn : (d.job (d.grp g).slot).turn.isSome = true)
    (hnow : d.clp.now ≤ chooseSlot d) :
    ∃ z, Talked d z ∧ fenceMessage d g port m
      = (z.setGrp g { (d.grp g).heard port d.clp.elapsed with barrier := .decided, turn := grpTurn d g }).setTslot (d.grp g).slot
        { d.tslot (d.grp g).slot with phase := .decided, decided := some (chooseSlot d) } := by
  rw [fenceMessage_arrive hk hc ht hg hb]
  have heard := heardDev_regrouped d g port
  generalize heardDev d g port = y at heard ⊢
  have commit : chooseSlot y = chooseSlot d := by
    rw [heard.2.2]
    rfl
  have root := tryArrive_root (d := y) (g := g) (by rw [heard.1]; exact ho) (by rw [heard.1]; exact ha) (by rw [heard.1]; exact hb) (by rw [heard.1]; exact hr)
  have turn : (y.grp g).turn = grpTurn d g := by
    rw [heard.1]
    exact hg
  rw [turn, commit, heard.1] at root
  rw [root]
  have speaks := sendDown_spoken (y.setGrp g { (d.grp g).heard port d.clp.elapsed with barrier := .arrived }) g .decide 0 0 (grpTurn d g) (chooseSlot d)
  generalize sendDown (y.setGrp g { (d.grp g).heard port d.clp.elapsed with barrier := .arrived }) g .decide 0 0 (grpTurn d g) (chooseSlot d) = z at speaks ⊢
  have talks : Talked d z := talked_trans (heard.set _).talked speaks.talked
  have zgrp : z.grp g = { (d.grp g).heard port d.clp.elapsed with barrier := .arrived } := (speaks.grp g).trans (Dev.grp_setGrp_self y g _)
  have zslot : (z.grp g).slot = (d.grp g).slot := by
    rw [zgrp]
    rfl
  have ztslot : z.tslot = d.tslot := by
    rw [talks.1]
    rfl
  have zjob : z.job = d.job := by
    rw [talks.1]
    rfl
  have znow : z.clp = d.clp := by rw [talks.1]
  refine ⟨z, talks, ?_⟩
  rw [takeDecision_eq (by rw [zslot, ztslot]; exact hphase) (by rw [zslot, zjob]; exact hown) (by rw [zslot, zjob]; exact hturn), zslot, ztslot, zgrp, znow]
  exact if_neg (BitVec.not_lt.mpr hnow)

end Message

end Sys2Proof.Machine
end

section
/-! PROOFS. What a domain group's messages and timers leave (spec/03_turns_and_fences.md R71 to R77, R82;
spec/13_koliz_fabric.md R348 to R351). -/

namespace Sys2Proof.Machine

/-! ## Rows -/

section Next

variable {s : State} (hs : asleep s.dev = false)
include hs

/-- A FENCE packet of a served group that reaches this device acts on its group. -/
theorem fence_next {port kind g : Nat} {p : Packet}
    (h : Reaches s.dev port p ∧ p.type = tyFence ∧ p.slotGroup.toNat = g ∧ g < 16 ∧ serves s.dev g = true ∧ fieldLe p.payload 0 1 = kind) :
    fenceArrives kind port p s = .next { s with dev := fenceMessage (received s.dev p) g port (parseFence p.payload) }
    ∧ (parseFence p.payload).kind = kind := by
  obtain ⟨hreach, htype, hgroup, hlt, hserves, hkind⟩ := h
  have served : fencePacket (received s.dev p) port p = fenceMessage (received s.dev p) g port (parseFence p.payload) := by
    have hserves : serves (received s.dev p) g = true := hserves
    unfold fencePacket
    simp only [hgroup, hserves, Nat.not_le.mpr hlt, decide_false, Bool.not_true, Bool.or_self, Bool.false_eq_true, ↓reduceIte]
  refine ⟨?_, hkind⟩
  rw [fenceArrives, onDev_next (show is16 port = true from decide_eq_true hreach.port_lt) hs, if_pos (by simp [htype, hkind]), arrive_reaches hreach, served]

theorem kfenceTimeout_next {g : Nat} (hg : g < 16) : exec (.kfenceTimeout g) s = .next { s with dev := kfenceTimeout s.dev g } :=
  onDev_next (f := fun _ d => kfenceTimeout d g) (show is16 g = true from decide_eq_true hg) hs

theorem selfAbortTimeout_next {slot : Nat} (hslot : slot < 64) : exec (.selfAbortTimeout slot) s = .next { s with dev := selfAbortTimeout s.dev slot } :=
  onDev_next (f := fun _ d => selfAbortTimeout d slot) (show isSlot slot = true from decide_eq_true hslot) hs

end Next

/-! ## Timers (R77, R82) -/

section Kfence

variable {d : Dev} {g t : Nat} (hserves : serves d g = true) (hroot : (d.grp g).root = true) (hbarrier : (d.grp g).barrier = .waiting)
  (hfirst : (d.grp g).first = some t)
include hserves hroot hbarrier hfirst

theorem kfenceTimeout_eq : kfenceTimeout d g = if d.clp.elapsed < t + kfenceTime d then d else rootAbort d g := by
  simp [kfenceTimeout, hserves, hroot, hbarrier, hfirst]

end Kfence

theorem kfenceTimeout_idle {d : Dev} {g : Nat} (h : (d.grp g).first = none ∨ serves d g = false ∨ (d.grp g).root = false ∨ (d.grp g).barrier ≠ .waiting) :
    kfenceTimeout d g = d := by
  unfold kfenceTimeout
  dsimp only
  split
  · rfl
  · next t ht =>
    refine if_pos ?_
    rcases h with h | h | h | h
    · rw [h] at ht
      cases ht
    all_goals simp [h]

/-- The reason a participant that heard nothing aborts with (R77, R351). -/
def selfReason (d : Dev) (slot : Nat) : Byte :=
  match groupOf d slot with
  | some g => if (d.grp g).absentSeen then 0x60 else 0x61
  | none => 0x61

/-- The participant's group, if it has one, stops. -/
def selfStopped (d : Dev) (slot : Nat) : Dev :=
  match groupOf d slot with
  | some g => d.setGrp g { d.grp g with barrier := .aborted, abortReason := selfReason d slot, arrived := 0, own := false, first := none }
  | none => d

section SelfAbort

variable {d : Dev} {slot t : Nat} {u : Turn}

theorem selfAbortTimeout_eq (hu : (d.job slot).turn = some u) (ht : u.arrived = some t) (hp : (d.tslot slot).phase = .staged)
    (hd : (d.tslot slot).domain = true) : selfAbortTimeout d slot = if d.clp.elapsed < t + 2 * kfenceTime d then d
      else let e := domainRollback (selfStopped d slot) slot (selfReason d slot); { e with trn := { e.trn with selfAbort := true } } := by
  unfold selfAbortTimeout
  simp only [hu, Option.bind_some, ht, hp, hd, Bool.not_true, Bool.false_or, decide_eq_true_eq]
  rfl

theorem selfAbortTimeout_idle (h : (d.tslot slot).phase ≠ .staged ∨ (d.tslot slot).domain = false ∨ (d.job slot).turn = none) :
    selfAbortTimeout d slot = d := by
  unfold selfAbortTimeout
  split
  · next t ht hp =>
    rcases h with h | h | h
    · exact absurd hp h
    · exact if_pos (by simp [h])
    · rw [h] at ht
      cases ht
  · rfl

end SelfAbort

/-! ## What each message leaves -/

section Leaves

variable {d : Dev} {g port : Nat} {m : FenceMsg}

/-- A decision that comes in time decides a childless member's turn; one that comes late flips it at once (R71, R73). -/
theorem decide_leaves (hk : m.kind = 2) (hp : fromParent (d.grp g) port = true) (hc : (d.grp g).children = 0)
    (hphase : (d.tslot (d.grp g).slot).phase = .staged) (hown : ∀ u, (d.job (d.grp g).slot).turn = some u → u.card.turn = m.turn)
    (hturn : (d.job (d.grp g).slot).turn.isSome = true) :
    (d.clp.now ≤ m.slot → fenceMessage d g port m = (d.setGrp g { d.grp g with barrier := .decided, turn := m.turn }).setTslot (d.grp g).slot
      { d.tslot (d.grp g).slot with phase := .decided, decided := some m.slot })
    ∧ (m.slot < d.clp.now → fenceMessage d g port m = flipTurn ((d.setGrp g { d.grp g with barrier := .decided, turn := m.turn }).setTslot (d.grp g).slot
      { d.tslot (d.grp g).slot with phase := .decided, decided := some m.slot }) (d.grp g).slot true) := by
  rw [fenceMessage_decide hk hp hc, takeDecision_eq hphase hown hturn]
  exact ⟨fun h => if_neg (BitVec.not_lt.mpr h), fun h => if_pos h⟩

/-- An abort whose turn still drains stops the job's cores and waits (R350). -/
theorem abort_drains {e : Dev} {slot : Nat} {x : Grp} {r : Byte} (h : Spoken d e) (hcascade : d.klz.cascade = []) (hturn : (d.job slot).turn.isSome = true)
    (hphase : (d.tslot slot).phase = .running ∨ (d.tslot slot).phase = .ending) (hd : tmDrained d slot = false) :
    let f := domainAbort (e.setGrp g x) slot r
    f.grp g = x ∧ f.tslot slot = { d.tslot slot with aborting := some r } ∧ f.jobs = d.jobs ∧ ∀ l ∈ heldCores d slot, (f.core (d.phys l)).active = false := by
  have talks := h.setGrp g x
  have same : (e.setGrp g x).tslot = d.tslot ∧ (e.setGrp g x).job = d.job ∧ tmDrained (e.setGrp g x) slot = tmDrained d slot
      ∧ heldCores (e.setGrp g x) slot = heldCores d slot ∧ (e.setGrp g x).phys = d.phys ∧ (e.setGrp g x).jobs = d.jobs := by
    rw [talks.1]
    exact ⟨rfl, rfl, rfl, rfl, rfl, rfl⟩
  have grp := Dev.grp_setGrp_self e g x
  have hcascade : (e.setGrp g x).klz.cascade = [] := talks.2.trans hcascade
  generalize e.setGrp g x = y at same grp hcascade ⊢
  obtain ⟨tslot, job, drains, held, phys, jobs⟩ := same
  have aside := stopCores_aside y slot
  obtain ⟨-, -, idle⟩ := stopCores_stops y slot
  rw [domainAbort_running (by rw [job, hturn]) (by rw [tslot]; exact hphase) hcascade, if_neg (by simp [drains, hd])]
  dsimp only
  rw [Dev.setTslot_grp, aside.grp, Dev.tslot_setTslot_self, tslot, Dev.setTslot_jobs, aside.jobs, jobs]
  rw [held, phys] at idle
  exact ⟨grp, rfl, rfl, idle⟩

/-- An abort that finds its turn drained or staged rolls it back (R77, R350). -/
theorem abort_rolls {e : Dev} {slot : Nat} {x : Grp} {r : Byte} (h : Spoken d e) (hcascade : d.klz.cascade = []) (hturn : (d.job slot).turn.isSome = true)
    (hphase : (((d.tslot slot).phase = .running ∨ (d.tslot slot).phase = .ending) ∧ tmDrained d slot = true) ∨ (d.tslot slot).phase = .staged) :
    RolledBack (e.setGrp g x) slot r (domainAbort (e.setGrp g x) slot r) := by
  have talks := h.setGrp g x
  have same : (e.setGrp g x).tslot = d.tslot ∧ (e.setGrp g x).job = d.job ∧ tmDrained (e.setGrp g x) slot = tmDrained d slot := by
    rw [talks.1]
    exact ⟨rfl, rfl, rfl⟩
  have hcascade : (e.setGrp g x).klz.cascade = [] := talks.2.trans hcascade
  generalize e.setGrp g x = y at same hcascade ⊢
  obtain ⟨tslot, job, drains⟩ := same
  rcases hphase with ⟨hphase, hd⟩ | hphase
  · exact domainAbort_drained (by rw [job, hturn]) (by rw [tslot]; exact hphase) hcascade (by rw [drains, hd]) r
  · rw [domainAbort_staged (by rw [tslot, hphase])]
    exact domainRollback_rolls (by rw [job, hturn]) (by rw [tslot, hphase]; rfl) r

/-- A root that has no turn of its own open tells its group and does no more. -/
theorem rootAbort_idle (hn : (d.job (d.grp g).slot).turn = none) : ∃ e, Spoken d e
    ∧ rootAbort d g = e.setGrp g ((d.grp g).stopped (abortReason (d.grp g)) (grpTurn d g)) := by
  obtain ⟨e, speaks, stops⟩ := rootAbort_stops d g
  refine ⟨e, speaks, stops.trans (domainAbort_none ?_ _)⟩
  rw [Dev.setGrp_job, speaks.job, hn]

/-- A root whose own turn is staged rolls it back with its group's. -/
theorem rootAbort_rolls (hturn : (d.job (d.grp g).slot).turn.isSome = true) (hphase : (d.tslot (d.grp g).slot).phase = .staged) : ∃ e, Spoken d e
    ∧ RolledBack (e.setGrp g ((d.grp g).stopped (abortReason (d.grp g)) (grpTurn d g))) (d.grp g).slot (abortReason (d.grp g)) (rootAbort d g) := by
  obtain ⟨e, speaks, stops⟩ := rootAbort_stops d g
  refine ⟨e, speaks, ?_⟩
  have staged : ((e.setGrp g ((d.grp g).stopped (abortReason (d.grp g)) (grpTurn d g))).tslot (d.grp g).slot).phase = .staged := by
    rw [Dev.setGrp_tslot, speaks.tslot, hphase]
  rw [stops, domainAbort_staged staged]
  exact domainRollback_rolls (by rw [Dev.setGrp_job, speaks.job, hturn]) (by rw [staged]; rfl) _

end Leaves

theorem selfStopped_alone {d : Dev} {slot : Nat} (h : groupOf d slot = none) : selfStopped d slot = d ∧ selfReason d slot = 0x61 := by
  simp only [selfStopped, selfReason, h, and_self]

theorem selfStopped_group {d : Dev} {slot g : Nat} (h : groupOf d slot = some g) :
    selfReason d slot = (if (d.grp g).absentSeen then 0x60 else 0x61)
    ∧ selfStopped d slot = d.setGrp g { d.grp g with barrier := .aborted, abortReason := selfReason d slot, arrived := 0, own := false, first := none } := by
  simp only [selfStopped, selfReason, h, and_self]

/-- Settles O40: each message is one update of its group beside what its sends leave (`Spoken`), and an abort that finds its turn
drained or staged rolls it back (`domainRollback_rolls`). -/
theorem domainGroupsDecideTogether : Obligations.DomainGroupsDecideTogether := by
  unfold Obligations.DomainGroupsDecideTogether
  intro s hs d Comes Rest waited
  refine ⟨?arrive, ?decided, ?decide, ?abort, ?replay, ?stop, ?absent, ?kfence, ?kfenceIdle, ?selfAbort, ?selfIdle, ?selfNone⟩
  case arrive =>
    intro port p g hcomes hchild hmsg hgrp hb hown
    obtain ⟨row, hkind⟩ := fence_next hs hcomes
    refine ⟨_, row, ?_⟩
    have heard := heardDev_regrouped (received d p) g port
    rw [fenceMessage_arrive (d := received d p) hkind hchild hmsg hgrp hb, tryArrive_waits (by rw [heard.1]; exact hown)]
    exact heard
  case decided =>
    intro port p g hcomes hchild hmsg hgrp hb hown hroot hall hphase hu hturn hnow
    obtain ⟨row, hkind⟩ := fence_next hs hcomes
    refine ⟨_, row, ?_⟩
    obtain ⟨z, talks, decides⟩ := arrive_decides (d := received d p) hkind hchild hmsg hgrp hb hown hroot hall hphase hu hturn hnow
    obtain ⟨rest, jobs, -⟩ := talks.kept
    rw [decides]
    have grp := Dev.grp_setGrp_self z g { ((received d p).grp g).heard port (received d p).clp.elapsed with barrier := .decided, turn := grpTurn (received d p) g }
    exact ⟨congrArg Grp.barrier grp, congrArg Grp.turn grp, Dev.tslot_setTslot_self _ _ _, rest, jobs⟩
  case decide =>
    intro port p g hcomes hparent hkids hphase m hu hturn
    obtain ⟨row, hkind⟩ := fence_next hs hcomes
    obtain ⟨u, ht⟩ := Option.isSome_iff_exists.mp hturn
    obtain ⟨inTime, late⟩ := decide_leaves (d := received d p) (m := m) hkind hparent hkids hphase hu hturn
    refine ⟨fun h => ⟨_, row, ?_⟩, fun h => ⟨_, row, ?_⟩⟩
    · rw [inTime h]
      exact ⟨Dev.grp_setGrp_self (received d p) g _, Dev.tslot_setTslot_self _ _ _, ⟨rfl, rfl, rfl, rfl⟩, rfl⟩
    · rw [late h]
      obtain ⟨tslot, marked, counted, rest⟩ := flipTurn_late (slot := (d.grp g).slot) (d := ((received d p).setGrp g { d.grp g with barrier := .decided, turn := m.turn }).setTslot
        (d.grp g).slot { d.tslot (d.grp g).slot with phase := .decided, decided := some m.slot }) ht
      exact ⟨congrArg TrnSlot.phase tslot, congrArg TrnSlot.lastSlot tslot, congrArg TrnSlot.late tslot, marked, counted, rest⟩
  case abort =>
    intro port p g hcomes hparent hcascade m slot aborted
    obtain ⟨row, hkind⟩ := fence_next hs hcomes
    obtain ⟨e, speaks, other, own⟩ := fenceMessage_abort (d := received d p) (m := m) hkind hparent hcascade
    have talks := speaks.setGrp g (((received d p).grp g).stopped m.reason m.turn)
    obtain ⟨rest, jobs, trn⟩ := talks.kept
    refine ⟨fun h => ⟨_, row, ?_⟩, fun u hu hm hphase hd => ⟨_, row, ?_⟩, fun u hu hm hphase => ⟨_, row, ?_⟩⟩
    · rw [other h]
      exact ⟨Dev.grp_setGrp_self _ _ _, rest, jobs, trn⟩
    · rw [own u hu hm]
      exact abort_drains (d := received d p) speaks hcascade (Option.isSome_of_eq_some hu) hphase hd
    · rw [own u hu hm]
      exact (abort_rolls (d := received d p) speaks hcascade (Option.isSome_of_eq_some hu) hphase).afterSetGrp (d := received d p) speaks
  case replay =>
    intro port p g hcomes hparent hnone hgrp hb
    obtain ⟨row, hkind⟩ := fence_next hs hcomes
    refine ⟨_, row, ?_⟩
    obtain ⟨e, speaks, starts⟩ := fenceMessage_replay (d := received d p) hkind hparent hnone hgrp hb
    rw [starts]
    exact ⟨Dev.grp_setGrp_self _ _ _, (speaks.setGrp g _).kept⟩
  case stop =>
    intro port p g hcomes hchild hroot hmsg hdec hnone
    obtain ⟨row, hkind⟩ := fence_next hs hcomes
    refine ⟨_, row, ?_⟩
    obtain ⟨e, speaks, stops⟩ := rootAbort_idle (d := received d p) (g := g) hnone
    rw [fenceMessage_stop (d := received d p) hkind hchild hroot hmsg hdec, stops]
    exact ⟨Dev.grp_setGrp_self _ _ _, (speaks.setGrp g _).kept⟩
  case absent =>
    intro port p g hcomes hchild
    obtain ⟨row, hkind⟩ := fence_next hs hcomes
    refine ⟨fun hroot => ⟨_, row, ?_⟩, fun hroot hup => ⟨_, row, ?_⟩⟩
    · rw [fenceMessage_absent_root (d := received d p) hkind hchild hroot]
      exact regrouped_set (received d p) g _
    · rw [fenceMessage_absent_member (d := received d p) hkind hchild hroot]
      exact sendFence_active (d := received d p) hup _ _ _ _ _
  case kfence =>
    intro g t hg hserves hroot hb hfirst slot r aborted
    have acts : kfenceTimeout d g = if d.clp.elapsed < t + waited then d else rootAbort d g := kfenceTimeout_eq hserves hroot hb hfirst
    refine ⟨fun h => (kfenceTimeout_next hs hg).trans (by rw [acts, if_pos h]), fun h hnone => ⟨_, kfenceTimeout_next hs hg, ?_⟩,
      fun h hturn hphase => ⟨_, kfenceTimeout_next hs hg, ?_⟩⟩
    · obtain ⟨e, speaks, stops⟩ := rootAbort_idle (d := d) (g := g) hnone
      rw [acts, if_neg (Nat.not_lt.mpr h), stops]
      exact ⟨Dev.grp_setGrp_self _ _ _, (speaks.setGrp g _).kept⟩
    · obtain ⟨e, speaks, rolls⟩ := rootAbort_rolls hturn hphase
      rw [acts, if_neg (Nat.not_lt.mpr h)]
      exact rolls.afterSetGrp speaks
  case kfenceIdle =>
    intro g hg h
    exact (kfenceTimeout_next hs hg).trans (by rw [kfenceTimeout_idle h])
  case selfAbort =>
    intro slot u t hslot hu harr hphase hdom gone
    have acts : selfAbortTimeout d slot = if d.clp.elapsed < t + 2 * waited then d
        else let e := domainRollback (selfStopped d slot) slot (selfReason d slot); { e with trn := { e.trn with selfAbort := true } } :=
      selfAbortTimeout_eq hu harr hphase hdom
    refine ⟨fun h => (selfAbortTimeout_next hs hslot).trans (by rw [acts, if_pos h]), fun h hg => ⟨_, selfAbortTimeout_next hs hslot, ?_⟩, ?_⟩
    · obtain ⟨alone, why⟩ := selfStopped_alone hg
      rw [acts, if_neg (Nat.not_lt.mpr h), alone, why]
      obtain ⟨turn, phase, moves, why, aborts, record, seen, counted, groups⟩ := domainRollback_rolls (d := d) (Option.isSome_of_eq_some hu) (by rw [hphase]; rfl) 0x61
      exact ⟨⟨rfl, turn, phase, moves, why, aborts, record, seen, counted⟩, groups⟩
    · intro g h hg r
      refine ⟨_, selfAbortTimeout_next hs hslot, ?_⟩
      obtain ⟨why, stops⟩ := selfStopped_group hg
      rw [why] at stops
      rw [acts, if_neg (Nat.not_lt.mpr h), stops, why]
      obtain ⟨grp, gone⟩ := (domainRollback_rolls (d := d.setGrp g { d.grp g with barrier := .aborted, abortReason := r, arrived := 0, own := false, first := none })
        (slot := slot) (Option.isSome_of_eq_some hu) (by rw [Dev.setGrp_tslot, hphase]; rfl) r).afterSetGrp (spoken_refl d)
      exact ⟨⟨rfl, gone⟩, grp⟩
  case selfIdle =>
    intro slot hslot h
    exact (selfAbortTimeout_next hs hslot).trans (by rw [selfAbortTimeout_idle (h.imp_right .inl)])
  case selfNone =>
    intro slot hslot h
    exact (selfAbortTimeout_next hs hslot).trans (by rw [selfAbortTimeout_idle (.inr (.inr h))])

end Sys2Proof.Machine
end

section
/-! PROOFS. One step: the front command, or one phase unit and the repair records that reach the flash
(spec/04_clepsydra_and_scheduling.md R83, R87, R88; spec/12_hbm.md R302, R303, R308). -/

namespace Sys2Proof.Machine

/-! ## What a phase unit strikes (R302, R303) -/

/-- From `d` to `e` errors may have struck the stacks; a marked burst stays marked. -/
def Struck (d e : Dev) : Prop :=
  e = { d with hbm := e.hbm, poison := e.poison, upsets := e.upsets }
  ∧ ∀ u, tabGet false d.poison u = true → tabGet false e.poison u = true

theorem struck_refl (d : Dev) : Struck d d := ⟨rfl, fun _ h => h⟩

theorem struck_trans {d e f : Dev} (h : Struck d e) (k : Struck e f) : Struck d f :=
  ⟨by rw [k.1, h.1], fun u hu => k.2 u (h.2 u hu)⟩

theorem struck_ite {c : Prop} [Decidable c] {d e f : Dev} (h : Struck d e) (k : Struck d f) : Struck d (if c then e else f) := by
  split
  · exact h
  · exact k

/-- Marking one burst unmarks none. -/
theorem struck_mark (d : Dev) (u : Nat) (x : Tab (Option CellErr)) :
    Struck d { d with poison := tabSet false d.poison u true, upsets := x } := by
  refine ⟨rfl, fun v hv => ?_⟩
  dsimp only
  rw [tabGet_tabSet]
  split
  · rfl
  · exact hv

theorem strikeBurst_struck (d : Dev) (u : Nat) (hard : Bool) (p : Nat) : Struck d (strikeBurst d u hard p) := by
  unfold strikeBurst
  exact struck_ite (struck_refl d) (struck_ite (struck_mark d u _) ⟨rfl, fun _ h => h⟩)

theorem failPin_struck (d : Dev) (s pc p : Nat) : Struck d (failPin d s pc p) := by
  unfold failPin
  dsimp only
  split
  · exact struck_refl d
  refine struck_trans (e := d.setStack s { d.stack s with deadPins := tabSet none (d.stack s).deadPins pc (some (p % 35)) }) ⟨rfl, fun _ h => h⟩ ?_
  split
  · exact struck_refl _
  · refine foldl_keeps struck_refl struck_trans (fun d e => ?_) _ _
    split
    · exact struck_mark d _ _
    · exact struck_refl d

theorem strikeHbm_struck (d : Dev) : Struck d (strikeHbm d) := by
  unfold strikeHbm
  dsimp only
  split
  · exact struck_refl d
  split
  · exact strikeBurst_struck d _ _ _
  · exact strikeBurst_struck d _ _ _
  · exact failPin_struck d _ _ _
  · exact struck_refl d

/-! ## What the ports count in it (spec/13_koliz_fabric.md R365) -/

/-- A relation that each entry and its image satisfy, and the default with itself, holds of what the two tables read. -/
theorem tabGet_map {α : Type} {dflt : α} {P : Nat → α → α → Prop} (hd : ∀ n, P n dflt dflt) {f : Nat × α → Nat × α} (hkey : ∀ e, (f e).1 = e.1)
    (hval : ∀ e, P e.1 e.2 (f e).2) : ∀ (t : Tab α) (n : Nat), P n (tabGet dflt t n) (tabGet dflt (t.map f) n)
  | [], n => hd n
  | e :: t, n => by
    have step : tabGet dflt ((e :: t).map f) n = if e.1 = n then (f e).2 else tabGet dflt (t.map f) n := by
      rw [List.map_cons, ← hkey e]
      rfl
    have read : tabGet dflt (e :: t) n = if e.1 = n then e.2 else tabGet dflt t n := rfl
    rw [step, read]
    split
    · next h => exact h ▸ hval e
    · exact tabGet_map hd hkey hval t n

theorem countFec_port (d : Dev) (n : Nat) : (countFec d).port n = { d.port n with
    fecCorrected := ((countFec d).port n).fecCorrected, fecUncorrected := ((countFec d).port n).fecUncorrected } := by
  refine tabGet_map (P := fun _ (x y : Port) => y = { x with fecCorrected := y.fecCorrected, fecUncorrected := y.fecUncorrected }) (fun _ => rfl) ?_ ?_ _ n
    <;> intro e <;> dsimp only <;> split <;> rfl

/-! ## A phase unit (R83, R88) -/

theorem clockRuns_iff (d : Dev) : clockRuns d = true ↔ ¬(d.sys.state = .reset ∨ d.sys.tripped = true) := by
  simp [clockRuns]

/-- The slew moves the count by one unit more or less in the one unit of every 1,000 that it takes (R87). -/
theorem slewed_clp (c : Clp) : (let turn := c.elapsed % 1000 == 999 && !(c.slew == 0)
    { c with
      elapsed := c.elapsed + 1
      now := if turn && decide (0 < c.slew) then c.now + 2 else if turn && decide (c.slew < 0) then c.now else c.now + 1
      slew := if turn && decide (0 < c.slew) then c.slew - 1 else if turn && decide (c.slew < 0) then c.slew + 1 else c.slew })
    = if c.elapsed % 1000 = 999 ∧ 0 < c.slew then { c with elapsed := c.elapsed + 1, now := c.now + 2, slew := c.slew - 1 }
      else if c.elapsed % 1000 = 999 ∧ c.slew < 0 then { c with elapsed := c.elapsed + 1, slew := c.slew + 1 }
      else { c with elapsed := c.elapsed + 1, now := c.now + 1 } := by
  by_cases turns : c.elapsed % 1000 = 999
  · rcases lt_trichotomy c.slew 0 with h | h | h
    · simp [turns, h, h.ne, h.not_gt]
    · simp [turns, h]
    · simp [turns, h, h.ne']
  · simp [turns]

theorem tick_quiet {d : Dev} (h : clockRuns d = false) : tick d = d := if_pos (by simp [h])

/-- `d` with what the phase unit brings to CNT_0 and CNT_6 (spec/17_faults_and_counters.md R468). -/
def cyclesCounted (d : Dev) : Dev := (d.count 0 (Config.cycles d.clp.elapsed)).count 6 (Config.dieCut d.clp.elapsed)

theorem tick_runs {d : Dev} (h : clockRuns d = true) : ∃ e, Struck { cyclesCounted d with clp := (tick d).clp } e ∧ tick d = countFec e := by
  have shape : ∃ c, tick d = countFec (strikeHbm { cyclesCounted d with clp := c }) := by
    unfold tick
    rw [h]
    exact ⟨_, rfl⟩
  obtain ⟨c, hc⟩ := shape
  have clock : (tick d).clp = c := by rw [hc]; exact strikeHbm_clp _
  rw [clock]
  exact ⟨_, strikeHbm_struck _, hc⟩

theorem tick_only (d : Dev) : tick d = { d with
    clp := (tick d).clp, cnt := (tick d).cnt, hbm := (tick d).hbm, poison := (tick d).poison, upsets := (tick d).upsets, klz := { d.klz with ports := (tick d).klz.ports } } := by
  cases h : clockRuns d with
  | false => rw [tick_quiet h]
  | true =>
    obtain ⟨e, ⟨only, -⟩, ticks⟩ := tick_runs h
    rw [ticks]
    conv_lhs => rw [only]
    conv_rhs => rw [only]
    rfl

theorem tick_cnt (d : Dev) : (tick d).cnt = if clockRuns d = true then (cyclesCounted d).cnt else d.cnt := by
  split
  · next h =>
    obtain ⟨e, ⟨only, -⟩, ticks⟩ := tick_runs h
    rw [ticks]
    change e.cnt = _
    rw [only]
  · next h => rw [tick_quiet (Bool.eq_false_iff.mpr h)]

theorem tick_poison (d : Dev) (u : Nat) (hu : tabGet false d.poison u = true) : tabGet false (tick d).poison u = true := by
  cases h : clockRuns d with
  | false => rwa [tick_quiet h]
  | true =>
    obtain ⟨e, ⟨-, marked⟩, ticks⟩ := tick_runs h
    rw [ticks]
    exact marked u hu

theorem tick_port (d : Dev) (n : Nat) : (tick d).port n = { d.port n with
    fecCorrected := ((tick d).port n).fecCorrected, fecUncorrected := ((tick d).port n).fecUncorrected } := by
  cases h : clockRuns d with
  | false => rw [tick_quiet h]
  | true =>
    obtain ⟨e, ⟨only, -⟩, ticks⟩ := tick_runs h
    have port : e.port n = d.port n := by rw [only]; rfl
    have fec := countFec_port e n
    rw [port] at fec
    rw [ticks]
    exact fec

/-! ## Repair records that wait (spec/12_hbm.md R308) -/

/-- What a record that waits for the flash of stack `s` changes. -/
def flushRow (s : Nat) (acc : Nv × Dev) (r : Row) : Nv × Dev :=
  if (tabGet [] acc.1.repairs s).contains r then acc
  else if 256 ≤ (tabGet [] acc.1.repairs s).length then (acc.1, acc.2.modStack s (fun x => { x with repairFull := true }))
  else ({ acc.1 with repairs := tabSet [] acc.1.repairs s (tabGet [] acc.1.repairs s ++ [r]) }, acc.2)

/-- Record `r` of stack `k` is in the flash, or found its area of 256 full. -/
def Settles (k : Nat) (r : Row) (p : Nv × Dev) : Prop :=
  r ∈ tabGet [] p.1.repairs k ∨ (256 ≤ (tabGet [] p.1.repairs k).length ∧ (p.2.stack k).repairFull = true)

/-- From `p` to `q` records have gone to the flash: what it held stays, and so does what was settled. -/
structure Flushed (p q : Nv × Dev) : Prop where
  nv : q.1 = { p.1 with repairs := q.1.repairs }
  dev : q.2 = { p.2 with hbm := q.2.hbm, repairsDue := q.2.repairsDue }
  kept : ∀ k, ∀ r ∈ tabGet [] p.1.repairs k, r ∈ tabGet [] q.1.repairs k
  settled : ∀ k r, Settles k r p → Settles k r q

theorem flushed_refl (p : Nv × Dev) : Flushed p p := ⟨rfl, rfl, fun _ _ h => h, fun _ _ h => h⟩

theorem flushed_trans {p q r : Nv × Dev} (h : Flushed p q) (k : Flushed q r) : Flushed p r :=
  ⟨by rw [k.nv, h.nv], by rw [k.dev, h.dev], fun i x hx => k.kept i x (h.kept i x hx), fun i x hx => k.settled i x (h.settled i x hx)⟩

theorem flushRow_flushed (s : Nat) (p : Nv × Dev) (r : Row) : Flushed p (flushRow s p r) := by
  unfold flushRow
  split
  · exact flushed_refl p
  split
  · refine ⟨rfl, rfl, fun _ _ h => h, fun k x hx => hx.imp_right fun ⟨full, seen⟩ => ⟨full, ?_⟩⟩
    rw [Dev.modStack_eq, Dev.stack_setStack]
    split
    · rfl
    · exact seen
  · have grows (k : Nat) : ∃ l, tabGet [] (tabSet [] p.1.repairs s (tabGet [] p.1.repairs s ++ [r])) k = tabGet [] p.1.repairs k ++ l := by
      rw [tabGet_tabSet]
      split
      · next h => exact ⟨[r], by rw [h]⟩
      · exact ⟨[], (List.append_nil _).symm⟩
    refine ⟨rfl, rfl, fun k x hx => ?_, fun k x hx => ?_⟩ <;> obtain ⟨l, hl⟩ := grows k
    · exact hl ▸ List.mem_append_left l hx
    · refine hx.imp (fun h => hl ▸ List.mem_append_left l h) fun ⟨full, seen⟩ => ⟨?_, seen⟩
      dsimp only
      rw [hl, List.length_append]
      omega

theorem flushRow_settles (s : Nat) (p : Nv × Dev) (r : Row) : Settles s r (flushRow s p r) := by
  unfold flushRow
  split
  · next h => exact .inl (List.contains_iff_mem.mp h)
  split
  · next h => exact .inr ⟨h, by rw [Dev.modStack_eq, Dev.stack_setStack_self]⟩
  · exact .inl (by simp)

theorem flushRows (s : Nat) : ∀ (l : List Row) (p : Nv × Dev), Flushed p (l.foldl (flushRow s) p) ∧ ∀ r ∈ l, Settles s r (l.foldl (flushRow s) p)
  | [], p => ⟨flushed_refl p, fun _ h => nomatch h⟩
  | r :: l, p => by
    obtain ⟨flushed, settles⟩ := flushRows s l (flushRow s p r)
    refine ⟨flushed_trans (flushRow_flushed s p r) flushed, fun x hx => ?_⟩
    rcases List.mem_cons.mp hx with rfl | hx
    · exact flushed.settled s x (flushRow_settles s p x)
    · exact settles x hx

theorem flushStack_eq (p : Nv × Dev) (s : Nat) : flushStack p s =
    let r := (tabGet [] p.2.repairsDue s).foldl (flushRow s) p
    (r.1, { r.2 with repairsDue := tabSet [] r.2.repairsDue s [] }) := rfl

theorem flushRows_due (s : Nat) (l : List Row) (p : Nv × Dev) : (l.foldl (flushRow s) p).2.repairsDue = p.2.repairsDue := by
  refine foldl_keeps (R := fun p q : Nv × Dev => q.2.repairsDue = p.2.repairsDue) (fun _ => rfl) (fun h k => k.trans h) (fun p r => ?_) l p
  unfold flushRow
  split
  · rfl
  split <;> rfl

theorem flushStack_flushed (p : Nv × Dev) (s : Nat) : Flushed p (flushStack p s)
    ∧ (∀ r ∈ tabGet [] p.2.repairsDue s, Settles s r (flushStack p s))
    ∧ ∀ k, tabGet [] (flushStack p s).2.repairsDue k = if k = s then [] else tabGet [] p.2.repairsDue k := by
  obtain ⟨⟨nv, dev, kept, settled⟩, settles⟩ := flushRows s (tabGet [] p.2.repairsDue s) p
  rw [flushStack_eq]
  refine ⟨⟨nv, ?_, kept, settled⟩, settles, fun k => ?_⟩
  · dsimp only
    rw [dev]
  · dsimp only
    rw [tabGet_tabSet, flushRows_due]

/-- After the records of the first `n` stacks have gone, none of theirs waits, and those of the others wait as before. -/
theorem flushStacks (p : Nv × Dev) : ∀ n, let q := (List.range n).foldl flushStack p
    Flushed p q ∧ (∀ k, tabGet [] q.2.repairsDue k = if k < n then [] else tabGet [] p.2.repairsDue k)
    ∧ ∀ k, k < n → ∀ r ∈ tabGet [] p.2.repairsDue k, Settles k r q
  | 0 => ⟨flushed_refl p, fun _ => rfl, fun _ h => nomatch h⟩
  | n + 1 => by
    obtain ⟨flushed, due, settles⟩ := flushStacks p n
    dsimp only
    rw [List.range_succ, List.foldl_append]
    obtain ⟨one, oneSettles, oneDue⟩ := flushStack_flushed ((List.range n).foldl flushStack p) n
    refine ⟨flushed_trans flushed one, fun k => ?_, fun k hk r hr => ?_⟩
    · refine (oneDue k).trans ?_
      rw [due]
      by_cases h : k = n
      · rw [if_pos h, if_pos (by omega)]
      · rw [if_neg h]
        exact if_congr (by omega) rfl rfl
    · by_cases h : k = n
      · subst h
        exact oneSettles r (by rwa [due, if_neg (Nat.lt_irrefl k)])
      · exact one.settled k r (settles k (by omega) r hr)

theorem flushRepairs_none {nv : Nv} {d : Dev} (h : d.repairsDue = []) : flushRepairs nv d = (nv, d) := if_pos (by rw [h]; rfl)

theorem flushRepairs_flushed (nv : Nv) (d : Dev) : Flushed (nv, d) (flushRepairs nv d) ∧ ∀ k, k < 12 →
    tabGet [] (flushRepairs nv d).2.repairsDue k = [] ∧ ∀ r ∈ tabGet [] d.repairsDue k, Settles k r (flushRepairs nv d) := by
  by_cases h : d.repairsDue = []
  · rw [flushRepairs_none h]
    exact ⟨flushed_refl _, fun k _ => by rw [h]; exact ⟨rfl, fun _ hr => nomatch hr⟩⟩
  · have all : flushRepairs nv d = (List.range 12).foldl flushStack (nv, d) := if_neg (by simpa using h)
    obtain ⟨flushed, due, settles⟩ := flushStacks (nv, d) 12
    rw [all]
    exact ⟨flushed, fun k hk => ⟨by rw [due, if_pos hk], settles k hk⟩⟩

/-- Settles O1: an empty queue ticks (`tick_clp`, `tick_only`) and then flushes the repair records that wait (`flushRepairs_flushed`). That it
does so is the model's choice (notes/assumptions/2.md, 24.md, 25.md). -/
theorem stepTakesTheFrontCommandOrTicks : Obligations.StepTakesTheFrontCommandOrTicks := by
  unfold Obligations.StepTakesTheFrontCommandOrTicks
  intro s d c turns counted quiet
  refine ⟨fun i rest => rfl, fun hempty => ?_⟩
  have idles : step s = .next (idle s) := by rw [step, hempty]
  have runs : clockRuns d = true ↔ ¬quiet := clockRuns_iff d
  have due : (tick d).repairsDue = d.repairsDue := by rw [tick_only]
  obtain ⟨⟨nv, dev, kept, -⟩, flushed⟩ := flushRepairs_flushed s.nv (tick d)
  refine ⟨_, idles, hempty, nv, fun hnone => ?none, ?clock, ?counts, fun u hu => ?poison, fun n => ?port, fun k hk => ?repairs, ?only⟩
  case none =>
    have flush := flushRepairs_none (nv := s.nv) (due.trans hnone)
    have eq : idle s = { s with dev := tick d } := by
      unfold idle
      rw [flush]
    rw [eq]
    exact ⟨rfl, fun hq => by rw [tick_quiet (by simpa using mt runs.mp (not_not.mpr hq))]⟩
  case clock =>
    change (flushRepairs s.nv (tick d)).2.clp = _
    rw [dev]
    dsimp only
    rw [tick_clp]
    by_cases hq : quiet
    · rw [if_neg (mt runs.mp (not_not.mpr hq)), if_pos hq]
    · rw [if_pos (runs.mpr hq), if_neg hq]
      exact slewed_clp c
  case counts =>
    change (flushRepairs s.nv (tick d)).2.cnt = _
    rw [dev]
    dsimp only
    rw [tick_cnt]
    by_cases hq : quiet
    · rw [if_neg (mt runs.mp (not_not.mpr hq)), if_pos hq]
    · rw [if_pos (runs.mpr hq), if_neg hq]
      rfl
  case poison =>
    change tabGet false (flushRepairs s.nv (tick d)).2.poison u = true
    rw [dev]
    exact tick_poison d u hu
  case port =>
    have port : (idle s).dev.port n = (tick d).port n := by
      change (flushRepairs s.nv (tick d)).2.port n = _
      rw [dev]
      rfl
    rw [port]
    exact tick_port d n
  case repairs =>
    obtain ⟨gone, settles⟩ := flushed k hk
    exact ⟨gone, kept k, due ▸ settles⟩
  case only =>
    have only := tick_only d
    have idled : (idle s).dev = { tick d with hbm := (idle s).dev.hbm, repairsDue := (idle s).dev.repairsDue } := dev
    generalize (idle s).dev = f at idled ⊢
    generalize tick d = e at idled only
    rw [idled]
    dsimp only
    rw [only]

end Sys2Proof.Machine
end

section
/-! PROOFS. The Clepsydra against its source: lock, slews, steps and ARM (spec/04_clepsydra_and_scheduling.md R85 to R90). -/

namespace Sys2Proof.Machine

/-! ## Lock (R86) -/

/-- The clock without its lock: the loss is seen and counted when it was locked. -/
def Clp.unlocked (c : Clp) : Clp :=
  { c with locked := false, good := 0, unlockSeen := c.unlockSeen || c.locked, unlockCount := if c.locked then sat16 c.unlockCount else c.unlockCount }

theorem unlocked_counts {c : Clp} (h : c.locked = true) : c.unlocked.unlockSeen = true ∧ c.unlocked.unlockCount = sat16 c.unlockCount := by
  simp [Clp.unlocked, h]

theorem unlock_eq (d : Dev) : unlock d = { d with clp := d.clp.unlocked } := by
  unfold unlock Clp.unlocked
  split
  · next h => simp [h]
  · next h => simp [Bool.eq_false_iff.mpr h]

theorem clockRuns_awake {d : Dev} (h : asleep d = false) (ht : d.sys.tripped = false) : clockRuns d = true := by
  rw [asleep, beq_eq_false_iff_ne] at h
  simp [clockRuns, h, ht]

/-! ## Steps (R87, R88, R100) -/

/-- From `d` to `e` the clock has stepped by `k` phase units, a deferred correction is done with, and every open turn that has not
flipped is marked. -/
def Stepped (d : Dev) (k : Int) (e : Dev) : Prop :=
  e.clp.now = d.clp.now + BitVec.ofInt 64 k ∧ e.clp.elapsed = d.clp.elapsed ∧ e.clp.stepped = true
  ∧ e.clp.stepDeferred = e.clp.pendingArm.isSome ∧ e.clp.pendingStep = none ∧ e.clp.slew = 0
  ∧ (∀ j t, (d.job j).turn = some t → (e.job j).turn = some (if (d.tslot j).phase = .folding then t else { t with stepped := true }))
  ∧ e = { d with clp := e.clp, jobs := e.jobs }

theorem makeStep_job (d : Dev) (k : Int) (j : Nat) {t : Turn} (h : (d.job j).turn = some t) :
    ((makeStep d k).job j).turn = some (if (d.tslot j).phase = .folding then t else { t with stepped := true }) := by
  refine tabGet_map (P := fun n (x y : Job) => ∀ t, x.turn = some t →
    y.turn = some (if (d.tslot n).phase = .folding then t else { t with stepped := true })) ?none ?key ?entry d.jobs j t h
  case none => exact fun _ _ h => absurd h (by simp)
  case key => exact fun _ => rfl
  case entry =>
    intro e t he
    dsimp only
    rw [he, Option.map_some]
    split <;> simp [*]

/-- A step is one whatever else of the clock's registers has been set beside it. -/
theorem makeStep_stepped (d : Dev) {c : Clp} (hnow : c.now = d.clp.now) (helapsed : c.elapsed = d.clp.elapsed) (k : Int) :
    Stepped d k (makeStep { d with clp := c } k) :=
  ⟨by rw [← hnow]; rfl, helapsed, rfl, rfl, rfl, rfl, fun j _ h => makeStep_job { d with clp := c } k j h, rfl⟩

theorem Stepped.disarm {d e : Dev} {k : Int} (h : Stepped d k e) : Stepped d k { e with clp := { e.clp with arm := false } } := by
  obtain ⟨now, elapsed, stepped, deferred, pending, slew, turns, only⟩ := h
  exact ⟨now, elapsed, stepped, deferred, pending, slew, turns, by rw [only]⟩

/-- The step of ARM takes the clock to the frame that CLP_SET_FRAME names (R90). -/
theorem armStep_lands (d : Dev) : d.clp.now + BitVec.ofInt 64 (armStep d) = BitVec.ofNat 64 (d.clp.setFrame.toNat * 0x1000000) := by
  unfold armStep
  rw [Int.sub_eq_add_neg, BitVec.ofInt_add, BitVec.ofInt_neg, BitVec.ofInt_natCast, BitVec.ofInt_natCast, BitVec.ofNat_toNat, BitVec.setWidth_eq]
  grind

section ArmDue

variable {d : Dev} {c : Clp} (hnow : c.now = d.clp.now) (helapsed : c.elapsed = d.clp.elapsed) (hframe : c.setFrame = d.clp.setFrame)
include hnow hframe

theorem armStep_with : armStep { d with clp := c } = armStep d := by simp [armStep, hnow, hframe]

include helapsed in
theorem armDue_steps (hs : c.allowStep = true) (hf : flipPending d = false) : Stepped d (armStep d) (armDue { d with clp := c })
    ∧ (armDue { d with clp := c }).clp.now = BitVec.ofNat 64 (d.clp.setFrame.toNat * 0x1000000) ∧ (armDue { d with clp := c }).clp.arm = false := by
  have hf : flipPending { d with clp := c } = false := hf
  have due : armDue { d with clp := c } = { makeStep { d with clp := c } (armStep d) with
      clp := { (makeStep { d with clp := c } (armStep d)).clp with arm := false } } := by
    simp [armDue, hs, hf, armStep_with hnow hframe]
  have steps := (makeStep_stepped d hnow helapsed (armStep d)).disarm
  rw [due]
  exact ⟨steps, steps.1.trans (armStep_lands d), rfl⟩

theorem armDue_defers (hs : c.allowStep = true) (hf : flipPending d = true) :
    armDue { d with clp := c } = { d with clp := { c with pendingArm := some (armStep d), stepDeferred := true } } := by
  have hf : flipPending { d with clp := c } = true := hf
  simp [armDue, hs, hf, armStep_with hnow hframe]

end ArmDue

theorem armDue_drops {d : Dev} (hs : d.clp.allowStep = false) : armDue d = { d with clp := { d.clp with arm := false } } := if_pos (by simp [hs])

/-! ## Measured errors (R86, R87) -/

/-- The clock with a slew by `k` phase units, which replaces a deferred correction. -/
def Clp.slewed (c : Clp) (k : Int) : Clp := { c with slew := k, pendingStep := none, stepDeferred := c.pendingArm.isSome }

theorem withinNs_mono {d : Dev} {v : Int} {w w' : Nat} (hw : w ≤ w') (h : withinNs d v w = true) : withinNs d v w' = true :=
  decide_eq_true ((of_decide_eq_true h).trans (Nat.mul_le_mul_right _ hw))

theorem withinNs_neg (d : Dev) (v : Int) (w : Nat) : withinNs d (-v) w = withinNs d v w := by simp only [withinNs, Int.natAbs_neg]

section Measure

variable {d : Dev} {v : Int} {window : Nat}

theorem measure_good (hw : withinNs d v window = true) (hn : withinNs d v 1000 = true) : measure d v window = { d with
    clp := Clp.slewed { d.clp with offset := fracNs d v, missing := 0, good := d.clp.good + 1, locked := d.clp.locked || decide (2 ≤ d.clp.good) } (-(v / 0x100000000)) } := by
  have hw : withinNs { d with clp := { d.clp with offset := fracNs d v, missing := 0 } } v window = true := hw
  simp [measure, hw, hn, correctError, slewBy, Clp.slewed]

theorem measure_near (hw : withinNs d v window = false) (hn : withinNs d v 1000 = true) : measure d v window = { d with
    clp := Clp.slewed { d.clp with offset := fracNs d v, missing := 0, good := 0 } (-(v / 0x100000000)) } := by
  have hw : withinNs { d with clp := { d.clp with offset := fracNs d v, missing := 0 } } v window = false := hw
  simp [measure, hw, hn, correctError, slewBy, Clp.slewed]

/-- `d` with an error of more than 1 µs measured and not yet corrected. -/
def farMeasured (d : Dev) (v : Int) : Dev := { d with clp := { d.clp.unlocked with offset := fracNs d v, missing := 0 } }

theorem measure_far (hw : withinNs d v window = false) (hn : withinNs d v 1000 = false) :
    measure d v window = correctError (farMeasured d v) (v / 0x100000000) false := by
  have hw : withinNs { d with clp := { d.clp with offset := fracNs d v, missing := 0 } } v window = false := hw
  simp only [measure, hw, hn, Bool.false_eq_true, ↓reduceIte, unlock_eq]
  rfl

end Measure

theorem correctError_slews {d : Dev} (hs : d.clp.allowStep = false) (k : Int) : correctError d k false = { d with clp := d.clp.slewed (-k) } :=
  if_pos (by simp [hs])

theorem correctError_defers {d : Dev} (hs : d.clp.allowStep = true) (hf : flipPending d = true ∨ d.clp.pendingArm.isSome = true) (k : Int) :
    correctError d k false = { d with clp := { d.clp with pendingStep := some (-k), stepDeferred := true } } :=
  (if_neg (by simp [hs])).trans (if_pos (by simpa using hf))

theorem correctError_steps {d : Dev} (hs : d.clp.allowStep = true) (hf : flipPending d = false) (hp : d.clp.pendingArm = none) (k : Int) :
    correctError d k false = makeStep d (-k) :=
  (if_neg (by simp [hs])).trans (if_neg (by simp [hf, hp]))

/-! ## TIME_FRAME_PULSE and TIME_FRAME_MISSING -/

theorem withinNs_pulse (d : Dev) (w : Nat) :
    withinNs d (pulseFrac d) w = true ↔ (pulseError d).natAbs * (d.clp.den * 1000000000) ≤ w * (d.clp.num * 0x1000000) := by
  have scaled : (pulseFrac d).natAbs * (d.clp.den * 1000000000) = (pulseError d).natAbs * (d.clp.den * 1000000000) * 0x100000000 := by
    rw [pulseFrac, Int.natAbs_mul]
    exact Nat.mul_right_comm _ _ _
  have range : w * (d.clp.num * 0x100000000000000) = w * (d.clp.num * 0x1000000) * 0x100000000 := by ring
  rw [withinNs, decide_eq_true_iff, scaled, range]
  exact Nat.mul_le_mul_right_iff (by decide)

theorem pulseFrac_whole (d : Dev) : pulseFrac d / 0x100000000 = pulseError d := Int.mul_ediv_cancel _ (by decide)

section Pulse

variable {d : Dev} (hsource : d.clp.source = 1) (hruns : clockRuns d = true)
include hsource hruns

theorem timeFramePulse_arms (ha : d.clp.arm = true) (hp : d.clp.pendingArm = none) : timeFramePulse d = armDue d := by
  simp [timeFramePulse, hsource, hruns, ha, hp]

theorem timeFramePulse_measures (h : d.clp.arm = false ∨ d.clp.pendingArm.isSome = true) : timeFramePulse d = measure d (pulseFrac d) 20 := by
  have waits : (d.clp.arm && d.clp.pendingArm.isNone) = false := by
    rcases h with h | h
    · rw [h, Bool.false_and]
    · rw [Option.isNone_eq_false_iff.mpr h, Bool.and_false]
  simp [timeFramePulse, hsource, hruns, waits]

theorem timeFrameMissing_first (hm : d.clp.missing = 0) :
    timeFrameMissing d = { d with clp := { d.clp with pulseMissing := true, missing := 1, good := 0 } } := by
  simp [timeFrameMissing, hsource, hruns, hm]

theorem timeFrameMissing_unlocks (hm : 1 ≤ d.clp.missing) :
    timeFrameMissing d = { d with clp := { d.clp.unlocked with pulseMissing := true, missing := d.clp.missing + 1 } } := by
  have loses : 2 ≤ d.clp.missing + 1 := by omega
  rw [timeFrameMissing, if_neg (by simp [hsource, hruns])]
  dsimp only
  rw [if_pos loses, unlock_eq]
  rfl

end Pulse

theorem timeFramePulse_idle {d : Dev} (h : d.clp.source ≠ 1) : timeFramePulse d = d := if_pos (by simp [h])

theorem timeFrameMissing_idle {d : Dev} (h : d.clp.source ≠ 1) : timeFrameMissing d = d := if_pos (by simp [h])

/-! ## TIME_CLK_LOSS -/

theorem timeClkLoss_unlocks {d : Dev} (h : d.clp.source = 1) : timeClkLoss d = { d with clp := { d.clp.unlocked with timeClk := false } } := by
  rw [timeClkLoss]
  dsimp only
  rw [if_pos (by simp [h]), unlock_eq]
  rfl

theorem timeClkLoss_notes {d : Dev} (h : d.clp.source ≠ 1) : timeClkLoss d = { d with clp := { d.clp with timeClk := false } } := if_neg (by simp [h])

/-! ## CLP_ARM -/

theorem clpArm_free {d : Dev} (hs : d.clp.allowStep = true) (h : d.clp.source = 0) : clpArm d = armDue { d with clp := { d.clp with arm := true } } := by
  rw [clpArm, if_neg (by simp [hs, h]), if_pos (by simp [h])]

theorem clpArm_genlock {d : Dev} (hs : d.clp.allowStep = true) (h : d.clp.source = 1) : clpArm d = { d with clp := { d.clp with arm := true } } := by
  rw [clpArm, if_neg (by simp [hs, h]), if_neg (by simp [h])]

theorem clpArm_refused {d : Dev} (h : d.clp.allowStep = false ∨ d.clp.source = 2) : clpArm d = d := if_pos (by simpa using h)

/-! ## DEFERRED_STEP -/

section Deferred

variable {d : Dev} {k : Int}

theorem deferredStep_waits (h : flipPending d = true) : deferredStep d = d := if_pos h

theorem deferredStep_due (hf : flipPending d = false) : deferredStep d = stepFallsDue (armFallsDue d) := if_neg (by simp [hf])

theorem armFallsDue_none (h : d.clp.pendingArm = none) : armFallsDue d = d := by simp only [armFallsDue, h]

theorem stepFallsDue_none (h : d.clp.pendingStep = none) : stepFallsDue d = d := by simp only [stepFallsDue, h]

theorem stepFallsDue_steps (h : d.clp.pendingStep = some k) (hs : d.clp.allowStep = true) : stepFallsDue d = makeStep d k := by
  simp [stepFallsDue, h, hs]

theorem stepFallsDue_slews (h : d.clp.pendingStep = some k) (hs : d.clp.allowStep = false) : stepFallsDue d = { d with clp := d.clp.slewed k } := by
  simp [stepFallsDue, h, hs, slewBy, Clp.slewed]

/-- `d` with a deferred ARM step taken up. -/
def armTaken (d : Dev) : Dev := { d with clp := { d.clp with pendingArm := none, stepDeferred := d.clp.pendingStep.isSome, arm := false } }

theorem armFallsDue_steps (h : d.clp.pendingArm = some k) (hs : d.clp.allowStep = true) :
    armFallsDue d = makeStep (armTaken d) k := by
  simp [armFallsDue, h, hs, armTaken]

theorem armFallsDue_drops (h : d.clp.pendingArm = some k) (hs : d.clp.allowStep = false) : armFallsDue d = armTaken d := by
  simp [armFallsDue, h, hs, armTaken]

end Deferred

/-! ## FABRIC_TIME_TIMEOUT -/

theorem fabricTimeTimeout_unlocks {d : Dev} (h : d.clp.source = 2) (he : d.clp.exchangeAt + nsUnits d 4000000 ≤ d.clp.elapsed) :
    fabricTimeTimeout d = { d with clp := d.clp.unlocked } := (if_pos (by simp [h, he])).trans (unlock_eq d)

theorem fabricTimeTimeout_waits {d : Dev} (h : d.clp.source ≠ 2 ∨ d.clp.elapsed < d.clp.exchangeAt + nsUnits d 4000000) : fabricTimeTimeout d = d :=
  if_neg (by rcases h with h | h <;> simp [h])

/-! ## The rows -/

section Next

variable {s : State} (h : asleep s.dev = false)
include h

theorem timeFramePulse_next : exec .timeFramePulse s = .next { s with dev := timeFramePulse s.dev } :=
  onDev_true_next (f := fun _ d => timeFramePulse d) h

theorem timeFrameMissing_next : exec .timeFrameMissing s = .next { s with dev := timeFrameMissing s.dev } :=
  onDev_true_next (f := fun _ d => timeFrameMissing d) h

theorem clpArm_next : exec .clpArm s = .next { s with dev := clpArm s.dev } :=
  onDev_true_next (f := fun _ d => clpArm d) h

theorem deferredStep_next : exec .deferredStep s = .next { s with dev := deferredStep s.dev } :=
  onDev_true_next (f := fun _ d => deferredStep d) h

theorem fabricTimeTimeout_next : exec .fabricTimeTimeout s = .next { s with dev := fabricTimeTimeout s.dev } :=
  onDev_true_next (f := fun _ d => fabricTimeTimeout d) h

end Next

/-- Settles O23: a measured error within its window counts towards LOCKED and slews (`measure_good`, `measure_near`), a larger one unlocks and
slews, steps or waits for the flips (`measure_far`, `correctError_steps`), and ARM steps to CLP_SET_FRAME (`armDue_steps`). -/
theorem clepsydraFollowsItsSource : Obligations.ClepsydraFollowsItsSource := by
  unfold Obligations.ClepsydraFollowsItsSource
  intro s d c unlocked stepped within measured slewed
  have near (w : Nat) : withinNs d (pulseFrac d) w = true ↔ within w := withinNs_pulse d w
  have far {w : Nat} (h : ¬within w) : withinNs d (pulseFrac d) w = false := Bool.eq_false_iff.mpr (mt (near w).mp h)
  have far20 (h : ¬within 1000) : withinNs d (pulseFrac d) 20 = false :=
    Bool.eq_false_iff.mpr fun hw => h ((near 1000).mp (withinNs_mono (by decide) hw))
  have whole := pulseFrac_whole d
  refine ⟨⟨_, rfl, rfl⟩, fun h => ⟨_, rfl, timeClkLoss_notes h⟩, fun h => ⟨_, rfl, timeClkLoss_unlocks h⟩, fun hs ht hsource => ?genlock,
    fun hs h => ⟨⟨_, timeFramePulse_next hs, timeFramePulse_idle h⟩, ⟨_, timeFrameMissing_next hs, timeFrameMissing_idle h⟩⟩,
    fun hs ha h => ⟨_, clpArm_next hs, clpArm_genlock ha h⟩, fun hs ha h hf => ?armNow, fun hs ha h hf => ?armLater,
    fun hs h => ⟨_, clpArm_next hs, clpArm_refused h⟩, fun hs hf => ?deferred,
    fun hs hf => ⟨_, deferredStep_next hs, deferredStep_waits hf⟩, fun hs h he => ⟨_, fabricTimeTimeout_next hs, fabricTimeTimeout_unlocks h he⟩,
    fun hs h => ⟨_, fabricTimeTimeout_next hs, fabricTimeTimeout_waits h⟩⟩
  case genlock =>
    have runs := clockRuns_awake hs ht
    refine ⟨fun h => ⟨_, timeFrameMissing_next hs, timeFrameMissing_first hsource runs h⟩,
      fun h => ⟨_, timeFrameMissing_next hs, timeFrameMissing_unlocks hsource runs h⟩,
      fun hm hw => ⟨_, timeFramePulse_next hs, ?good⟩, fun hm hw hn => ⟨_, timeFramePulse_next hs, ?near⟩,
      fun hm hn ha => ⟨_, timeFramePulse_next hs, ?slews⟩, fun hm hn ha hd => ⟨_, timeFramePulse_next hs, ?defers⟩,
      fun hn hm hp ha hf => ⟨_, timeFramePulse_next hs, ?steps⟩, fun hm hp ha hf => ⟨_, timeFramePulse_next hs, ?arms⟩,
      fun hm hp ha hf => ⟨_, timeFramePulse_next hs, ?armDefers⟩, fun hm hp ha => ⟨_, timeFramePulse_next hs, ?armDrops⟩⟩
    case good =>
      have hw := (near 20).mpr hw
      exact (timeFramePulse_measures hsource runs hm).trans ((measure_good hw (withinNs_mono (by decide) hw)).trans (by rw [whole]; rfl))
    case near => exact (timeFramePulse_measures hsource runs hm).trans ((measure_near (far hw) ((near 1000).mpr hn)).trans (by rw [whole]; rfl))
    case slews =>
      rw [timeFramePulse_measures hsource runs hm, measure_far (far20 hn) (far hn), whole, correctError_slews (d := farMeasured d _) ha]
      rfl
    case defers =>
      rw [timeFramePulse_measures hsource runs hm, measure_far (far20 hn) (far hn), whole, correctError_defers (d := farMeasured d _) ha hd]
      rfl
    case steps =>
      rw [timeFramePulse_measures hsource runs (.inl hm), measure_far (far20 hn) (far hn), whole, correctError_steps (d := farMeasured d _) ha hf hp]
      exact ⟨makeStep_stepped d (c := (farMeasured d (pulseFrac d)).clp) rfl rfl _, rfl, rfl, rfl, rfl, fun hl => unlocked_counts hl⟩
    case arms =>
      rw [timeFramePulse_arms hsource runs hm hp]
      exact armDue_steps (c := c) rfl rfl rfl ha hf
    case armDefers => exact (timeFramePulse_arms hsource runs hm hp).trans (armDue_defers (c := c) rfl rfl ha hf)
    case armDrops => exact (timeFramePulse_arms hsource runs hm hp).trans (armDue_drops ha)
  case armNow =>
    refine ⟨_, clpArm_next hs, ?_⟩
    rw [clpArm_free ha h]
    exact armDue_steps rfl rfl rfl ha hf
  case armLater => exact ⟨_, clpArm_next hs, (clpArm_free ha h).trans (armDue_defers rfl rfl ha hf)⟩
  case deferred =>
    refine ⟨fun k hp hk ha => ⟨_, deferredStep_next hs, ?steps⟩, fun k hp hk ha => ⟨_, deferredStep_next hs, ?slews⟩,
      fun k hk ha => ⟨_, deferredStep_next hs, ?arms⟩, fun k hk hp ha => ⟨_, deferredStep_next hs, ?drops⟩⟩
    case steps =>
      rw [deferredStep_due hf, armFallsDue_none hp, stepFallsDue_steps hk ha]
      exact makeStep_stepped d (c := c) rfl rfl k
    case slews =>
      rw [deferredStep_due hf, armFallsDue_none hp, stepFallsDue_slews hk ha]
      simp [c, Clp.slewed, show d.clp.pendingArm = none from hp]
    case arms =>
      rw [deferredStep_due hf, armFallsDue_steps hk ha, stepFallsDue_none rfl]
      exact ⟨makeStep_stepped d (c := (armTaken d).clp) rfl rfl k, rfl, rfl⟩
    case drops =>
      rw [deferredStep_due hf, armFallsDue_drops hk ha, stepFallsDue_none (d := armTaken d) hp]
      simp [c, armTaken, show d.clp.pendingStep = none from hp]

end Sys2Proof.Machine
end

section
/-! PROOFS. Time over the fabric: TIME_REQ and TIME_RESP (spec/13_koliz_fabric.md R328, R352, R353). -/

namespace Sys2Proof.Machine

/-! ## TIME_REQ_SEND -/

section Send

variable {d : Dev} {frac : Word}

theorem timeReqSend_idle (h : d.clp.source ≠ 2) : timeReqSend d frac = d := if_pos (by simp [h])

section Fabric

variable (hsource : d.clp.source = 2) (hruns : clockRuns d = true)
include hsource hruns

theorem timeReqSend_eq : timeReqSend d frac = match upstream d with
    | none => masterRoute d
    | some n => if !linkUp (d.port n).state then d else
        emit { d with klz := { d.klz with tagNext := d.klz.tagNext + 1, timeTag := some d.klz.tagNext }, clp := { d.clp with reqT1 := some (d.clp.now, frac) } } n
          { newPacket d tyTimeReq (d.port n).neighbour.toNat [] with tag := d.klz.tagNext } := if_neg (by simp [hsource, hruns])

theorem timeReqSend_sends {n : Nat} (hup : upstream d = some n) (hlink : linkUp (d.port n).state = true) : timeReqSend d frac =
    emit { d with klz := { d.klz with tagNext := d.klz.tagNext + 1, timeTag := some d.klz.tagNext }, clp := { d.clp with reqT1 := some (d.clp.now, frac) } } n
      { newPacket d tyTimeReq (d.port n).neighbour.toNat [] with tag := d.klz.tagNext } := by
  rw [timeReqSend_eq hsource hruns, hup]
  exact if_neg (by simp [hlink])

theorem timeReqSend_down {n : Nat} (hup : upstream d = some n) (hlink : linkUp (d.port n).state = false) : timeReqSend d frac = d := by
  rw [timeReqSend_eq hsource hruns, hup]
  exact if_pos (by simp [hlink])

/-- A master without a route loses lock, and no upstream port shows. -/
theorem timeReqSend_unrouted (h : d.route d.clp.master.toNat = 0xFF) :
    timeReqSend d frac = { d with clp := d.clp.unlocked, klz := { d.klz with linkPort := 0 } } := by
  have none : upstream d = none := if_neg (by simp [h])
  rw [timeReqSend_eq hsource hruns, none, masterRoute]
  dsimp only
  rw [if_pos (by simpa using ⟨hsource, h⟩), unlock_eq, none]
  rfl

end Fabric

end Send

theorem linkUp_iff (s : PortState) : linkUp s = true ↔ s = .active ∨ s = .up ∨ s = .mismatch := by cases s <;> simp [linkUp]

/-! ## TIME_REQ_RECEIVE and TIME_RESP_RECEIVE -/

theorem timeAnswer_answers {d : Dev} {port : Nat} {p : Packet} {fracRx fracTx : Word} (hlink : linkUp (d.port port).state = true) (hruns : clockRuns d = true) :
    timeAnswer d port p fracRx fracTx = emit d port { newPacket d tyTimeResp (d.port port).neighbour.toNat (stampBytes d.clp.now fracRx
      ++ stampBytes d.clp.now fracTx ++ leBytes 1 (bit d.clp.locked + 2 * bit (d.clp.source == 0 || (d.clp.source == 2 && d.clp.masterFree)))) with tag := p.tag } :=
  if_neg (by simp [hlink, hruns])

/-- The stamps of an answered TIME_REQ: the link delay, and the neighbour less this device. -/
def respStamps (d : Dev) (p : Packet) (c1 : Dword) (f1 frac : Word) : Int × Int :=
  timeExchange (c1.toNat * 2 ^ 32 + f1.toNat) (fieldLe p.payload 0 12) (fieldLe p.payload 12 12) (d.clp.now.toNat * 2 ^ 32 + frac.toNat)

/-- `d` with the answer to its TIME_REQ noted and the delay shown. -/
def respNoted (d : Dev) (p : Packet) (delay : Int) : Dev :=
  { d with
    klz := { d.klz with timeTag := none, linkDelay := BitVec.ofInt 16 (clampInt 0 0xFFFF (fracNs d delay)) }
    clp := { d.clp with reqT1 := none, masterFree := natBit (fieldLe p.payload 24 1) 1, exchangeAt := d.clp.elapsed } }

section Resp

variable {d : Dev} {port : Nat} {p : Packet} {frac : Word} {c1 : Dword} {f1 : Word} (hreq : d.clp.reqT1 = some (c1, f1)) (htag : d.klz.timeTag = some p.tag)
  (hup : upstream d = some port) (hsource : d.clp.source = 2) (hruns : clockRuns d = true)
include hreq htag hup hsource hruns

theorem timeTaken_eq : timeTaken d port p frac = if isMaster d port || natBit (fieldLe p.payload 24 1) 0
    then measure (respNoted d p (respStamps d p c1 f1 frac).1) (-(respStamps d p c1 f1 frac).2) 10 else respNoted d p (respStamps d p c1 f1 frac).1 := by
  have ours : (!(d.klz.timeTag == some p.tag) || !(upstream d == some port) || !(d.clp.source == 2) || !clockRuns d) = false := by
    simp [htag, hup, hsource, hruns]
  unfold timeTaken
  rw [hreq]
  dsimp only
  rw [ours]
  rfl

end Resp

theorem isMaster_iff (d : Dev) (port : Nat) : isMaster d port = true ↔ (d.port port).state ≠ .up ∧ (d.port port).neighbour = d.clp.master := by
  simp [isMaster]

/-! ## A measured error leaves the rest -/

/-- From `d` to `e` the clock and the turns' marks have changed, and of the clock only what a correction sets. -/
def Corrected (d e : Dev) : Prop :=
  e = { d with clp := e.clp, jobs := e.jobs }
  ∧ e.clp = { d.clp with
      now := e.clp.now, stepped := e.clp.stepped, stepDeferred := e.clp.stepDeferred, slew := e.clp.slew, pendingStep := e.clp.pendingStep }

theorem correctError_corrected (d : Dev) (k : Int) (near : Bool) : Corrected d (correctError d k near) := by
  unfold correctError stepOrDefer
  split
  · exact ⟨rfl, rfl⟩
  split
  · exact ⟨rfl, rfl⟩
  · exact ⟨rfl, rfl⟩

/-! ## The rows -/

section Next

variable {s : State} (hs : asleep s.dev = false)
include hs

theorem timeReqSend_next (frac : Word) : exec (.timeReqSend frac) s = .next { s with dev := timeReqSend s.dev frac } :=
  onDev_true_next (f := fun _ d => timeReqSend d frac) hs

variable {port : Nat} {p : Packet} (h : Reaches s.dev port p)
include h

theorem timeReqReceive_next (ht : p.type = tyTimeReq) (fracRx fracTx : Word) :
    exec (.timeReqReceive port p fracRx fracTx) s = .next { s with dev := timeAnswer (received s.dev p) port p fracRx fracTx } := by
  refine (onDev_next (f := fun _ d => if p.type == tyTimeReq then arrive d port p (fun d => timeAnswer d port p fracRx fracTx) else d)
    (show is16 port = true from decide_eq_true h.port_lt) hs).trans ?_
  rw [if_pos (by simpa using ht), arrive_reaches h]

theorem timeRespReceive_next (ht : p.type = tyTimeResp) (frac : Word) :
    exec (.timeRespReceive port p frac) s = .next { s with dev := timeTaken (received s.dev p) port p frac } := by
  refine (onDev_next (f := fun _ d => if p.type == tyTimeResp then arrive d port p (fun d => timeTaken d port p frac) else d)
    (show is16 port = true from decide_eq_true h.port_lt) hs).trans ?_
  rw [if_pos (by simpa using ht), arrive_reaches h]

end Next

/-- Settles O24: a request leaves with its stamp, its answer carries both of the neighbour's, and what the four stamps say is measured like a
pulse with a window of 10 ns (`timeTaken_eq`, `measure_good`). The layout of the payload is the model's choice (notes/assumptions/55.md). -/
theorem timeGoesOverTheFabric : Obligations.TimeGoesOverTheFabric := by
  unfold Obligations.TimeGoesOverTheFabric
  intro s hs htrip d talks within
  have runs : clockRuns d = true := clockRuns_awake hs htrip
  have link {n : Nat} : linkUp (d.port n).state = true ↔ talks n := linkUp_iff _
  refine ⟨fun frac n hsource hup ht => ⟨_, timeReqSend_next hs frac, timeReqSend_sends hsource runs hup (link.mpr ht)⟩,
    fun frac hsource hr => ⟨_, timeReqSend_next hs frac, ?unrouted⟩,
    fun frac n hsource hup ht => ⟨_, timeReqSend_next hs frac, timeReqSend_down hsource runs hup (Bool.eq_false_iff.mpr (mt link.mp ht))⟩,
    fun frac hsource => ⟨_, timeReqSend_next hs frac, timeReqSend_idle hsource⟩,
    fun port p fracRx fracTx hreach htype ht => ⟨_, timeReqReceive_next hs hreach htype fracRx fracTx, timeAnswer_answers (link.mpr ht) runs⟩,
    fun port p frac c1 f1 hreach htype hreq htag hup hsource => ⟨_, timeRespReceive_next hs hreach htype frac, ?response⟩⟩
  case unrouted =>
    rw [timeReqSend_unrouted hsource runs hr]
    exact ⟨rfl, rfl⟩
  case response =>
    have taken := timeTaken_eq (d := received s.dev p) (frac := frac) hreq htag hup hsource runs
    generalize timeTaken (received s.dev p) port p frac = e at taken ⊢
    beta_reduce
    intro x flags trusted c slewed
    have master : (isMaster (received d p) port || natBit flags 0) = true ↔ trusted := by rw [Bool.or_eq_true, isMaster_iff]; rfl
    have near (w : Nat) : withinNs (respNoted (received d p) p x.1) (-x.2) w = true ↔ within x.2 w := by
      rw [withinNs_neg]
      exact decide_eq_true_iff
    replace taken : e = if isMaster (received d p) port || natBit flags 0
        then measure (respNoted (received d p) p x.1) (-x.2) 10 else respNoted (received d p) p x.1 := taken
    by_cases ht : trusted
    case neg =>
      rw [if_neg (mt master.mp ht)] at taken
      subst taken
      exact ⟨rfl, rfl, rfl, rfl, fun _ => ⟨rfl, rfl⟩, fun h => absurd h ht, rfl⟩
    rw [if_pos (master.mpr ht)] at taken
    by_cases hfar : within x.2 1000
    case neg =>
      have hn := Bool.eq_false_iff.mpr (mt (near 1000).mp hfar)
      have hw : withinNs (respNoted (received d p) p x.1) (-x.2) 10 = false :=
        Bool.eq_false_iff.mpr fun hw => hfar ((near 1000).mp (withinNs_mono (by decide) hw))
      obtain ⟨only, clock⟩ := correctError_corrected (farMeasured (respNoted (received d p) p x.1) (-x.2)) (-x.2 / 0x100000000) false
      rw [← measure_far hw hn, ← taken] at only clock
      have klz : e.klz = (respNoted (received d p) p x.1).klz := by rw [only]; rfl
      refine ⟨klz, by rw [clock]; rfl, by rw [clock]; rfl, by rw [clock]; rfl, fun h => absurd ht h,
        fun _ => ⟨by rw [clock]; rfl, by rw [clock]; rfl, fun h => absurd h (mt (near 10).mpr (Bool.eq_false_iff.mp hw)), fun _ h => absurd h hfar,
          fun _ => ⟨by rw [clock]; rfl, by rw [clock]; rfl⟩⟩, by rw [klz]; exact only⟩
    by_cases hwin : within x.2 10
    case neg =>
      rw [measure_near (Bool.eq_false_iff.mpr (mt (near 10).mp hwin)) ((near 1000).mpr hfar)] at taken
      subst taken
      exact ⟨rfl, rfl, rfl, rfl, fun h => absurd ht h,
        fun _ => ⟨rfl, rfl, fun h => absurd h hwin, fun _ _ => ⟨rfl, rfl⟩, fun h => absurd hfar h⟩, rfl⟩
    case pos =>
      rw [measure_good ((near 10).mpr hwin) ((near 1000).mpr hfar)] at taken
      subst taken
      exact ⟨rfl, rfl, rfl, rfl, fun h => absurd ht h,
        fun _ => ⟨rfl, rfl, fun _ => ⟨rfl, rfl⟩, fun h => absurd hwin h, fun h => absurd hfar h⟩, rfl⟩

end Sys2Proof.Machine
end

section
/-! PROOFS. SEM.SIGNAL to the private semaphore of another core (spec/08_vector_engine.md R211, R212). The statement has a signal leave
every other core as it was, or let it go on from a SEM.WAIT; the private semaphores of a core are part of that core's context. -/

namespace Sys2Proof.Machine

/-- SEM.SIGNAL of VALUE 1 to semaphore 16 of logical core 1. -/
def signalWord : List Byte := [0x24, 0, 16, 0, 1, 0, 0, 0, 1] ++ List.replicate 23 0

/-- Cores 0 and 1 of one basin run the job of slot 0; core 0 stands at `signalWord`, and core 1 waits for nothing. -/
def signalAcross : Dev :=
  { sys := { state := .running }
    str := { bind := [(0, 0), (1, 1)], inForce := some { hash := [], rollback := 0, cores := [(0, { basin := 0 }), (1, { basin := 0 })], basins := [(0, { valid := true })], bound := [(0, 0), (1, 1)], spares := [], preloads := [], tables := [], spreadKey := 0, ownDevice := 0, maxHops := 0, horizon := 0, routes := [], codec := [], num := 60, den := 1, pinsafe := false, remap := false, threshold := 16 } }
    jobs := [(0, { state := .running, image := some { cores := [(0, { bytes := 32 }), (1, { bytes := 32 })], turns := [], root := 0, patterns := 0, streams := 0, bytes := 0, kv := none } })]
    cores := [(0, { slot := some 0, active := true }), (1, { slot := some 0, active := true })]
    mem := memWrite [] (cmdCell 0 0) signalWord }

/-- The command core 0 stands at. -/
def signalCmd : Cmd := { core := 0, slot := 0, logical := 0, pc := 0, b := signalWord }

theorem signalAcross_stands : Stands signalAcross 0 0x24 signalCmd :=
  ⟨by decide, by decide, by decide, by decide, rfl, by decide, by decide, by decide, by decide, by decide⟩

theorem semSignal_next {s : State} {core : Nat} (hc : core < 144) (hs : asleep s.dev = false) :
    exec (.semSignal core) s = .next { s with dev := issue core 0 (fun o => o == 0x24) semSignalCmd s.dev } :=
  onDev_next (f := fun _ d => issue core 0 (fun o => o == 0x24) semSignalCmd d) (show isCore core = true from decide_eq_true hc) hs

/-- The signal reaches the context of core 1 (R211), which was empty and waited for nothing. -/
theorem signalAcross_reaches : tabGet 0 ((issue 0 0 (fun o => o == 0x24) semSignalCmd signalAcross).core 1).ctx.psem 16 = 1
    ∧ tabGet 0 (signalAcross.core 1).ctx.psem 16 = 0 ∧ (signalAcross.core 1).ctx.wait = .none := by decide

/-- Refutes O13: core 0 signals a private semaphore of core 1, whose value rises in that core's context; the statement (`SemaphoreWakes`) has
core 1 stay as it was, or go on from a wait in which it does not stand. -/
theorem not_semaphoreCommandsAct : ¬ Obligations.SemaphoreCommandsAct := by
  unfold Obligations.SemaphoreCommandsAct
  intro h
  obtain ⟨commands, -⟩ := h { dev := signalAcross } 0 (by decide) (by decide)
  obtain ⟨signals, -⟩ := commands signalCmd (by decide) (by decide)
  obtain ⟨e, hnext, -, -, wakes, -⟩ := signals signalAcross_stands (.inl (by decide)) (.inr (by decide))
  obtain ⟨reached, empty, free⟩ := signalAcross_reaches
  rw [semSignal_next (by decide) (by decide)] at hnext
  cases hnext
  rcases wakes 1 (by decide) with same | ⟨⟨o, i, t, waits⟩, -⟩
  · rw [same, empty] at reached
    exact absurd reached (by decide)
  · exact absurd (free.symm.trans waits) (by simp)

end Sys2Proof.Machine
end

section
/-! PROOFS. What the scheduler's steps may change: the cores a step visits, the holder of a basin, and the basins, cores and jobs
that a change of holder reaches (spec/04_clepsydra_and_scheduling.md R102 to R104). -/

namespace Sys2Proof.Machine

/-! ## Steps over the cores of a list -/

/-- A step for each logical core of a list: on the physical core bound to it, it acts as `h`, and on nothing else. -/
def OnCores (d : Dev) (g : Dev → Nat → Dev) (h : Nat → CoreSt → CoreSt) : Prop :=
  ∀ e l, e = { d with cores := e.cores } → g e l = { e with cores := (g e l).cores }
    ∧ ∀ q, (g e l).core q = if q = d.phys l then h l (e.core q) else e.core q

theorem onCores_modCore (d : Dev) (h : Nat → CoreSt → CoreSt) : OnCores d (fun e l => e.modCore (e.phys l) (h l)) h := by
  intro e l only
  refine ⟨rfl, fun q => ?_⟩
  have hp : e.phys l = d.phys l := by rw [only]; rfl
  dsimp only [Dev.modCore_eq]
  rw [Dev.core_setCore, hp]
  split
  · next hq => rw [hq]
  · rfl

/-- The steps change cores only; each core meets the steps bound to it, in order. -/
theorem OnCores.fold {d : Dev} {g : Dev → Nat → Dev} {h : Nat → CoreSt → CoreSt} (H : OnCores d g h) (ls : List Nat) :
    ls.foldl g d = { d with cores := (ls.foldl g d).cores }
    ∧ ∀ q, (ls.foldl g d).core q = (ls.filter (fun l => d.phys l == q)).foldl (fun c l => h l c) (d.core q) := by
  suffices K : ∀ (ls : List Nat) (e : Dev), e = { d with cores := e.cores } → ls.foldl g e = { d with cores := (ls.foldl g e).cores }
      ∧ ∀ q, (ls.foldl g e).core q = (ls.filter (fun l => d.phys l == q)).foldl (fun c l => h l c) (e.core q) from K ls d rfl
  intro ls
  induction ls with
  | nil => exact fun e he => ⟨he, fun _ => rfl⟩
  | cons l ls ih =>
    intro e he
    obtain ⟨only, cores⟩ := H e l he
    obtain ⟨only', cores'⟩ := ih (g e l) (by rw [only, he])
    refine ⟨only', fun q => (cores' q).trans ?_⟩
    rw [cores q, List.filter_cons]
    by_cases hq : d.phys l = q
    · subst hq; simp
    · rw [if_neg (Ne.symm hq), if_neg (by simpa using hq)]

/-- What every step sets stands on each core the steps visited. -/
theorem OnCores.sets {d : Dev} {g : Dev → Nat → Dev} {h : Nat → CoreSt → CoreSt} (H : OnCores d g h) {P : CoreSt → Prop}
    (hP : ∀ l c, P (h l c)) {ls : List Nat} {l : Nat} (hl : l ∈ ls) : P ((ls.foldl g d).core (d.phys l)) := by
  rw [(H.fold ls).2]
  exact foldl_settles (P := fun _ c => P c) (fun c j => hP j c) (fun c j _ _ => hP j c) (List.mem_filter.mpr ⟨hl, by simp⟩) _

/-- What every step keeps stands on every core that had it. -/
theorem OnCores.keeps {d : Dev} {g : Dev → Nat → Dev} {h : Nat → CoreSt → CoreSt} (H : OnCores d g h) {P : CoreSt → Prop}
    (hP : ∀ l c, P c → P (h l c)) {q : Nat} (hq : P (d.core q)) (ls : List Nat) : P ((ls.foldl g d).core q) := by
  rw [(H.fold ls).2]
  exact List.foldlRecOn _ _ hq fun c hc l _ => hP l c hc

/-! ## What a change of holder reaches -/

/-- From `d` to `e` the basins' places and the cores may have changed, DEV_STATE, and of each job its state and its open turn. -/
structure Switched (d e : Dev) : Prop where
  only : e = { d with sch := { d.sch with basins := e.sch.basins }, cores := e.cores, jobs := e.jobs, sys := e.sys }
  jobs : ∀ k, e.job k = { d.job k with state := (e.job k).state, turn := (e.job k).turn }

theorem switched_refl (d : Dev) : Switched d d := ⟨rfl, fun _ => rfl⟩

theorem Switched.trans {d e f : Dev} (h : Switched d e) (k : Switched e f) : Switched d f :=
  ⟨by rw [k.only, h.only], fun i => by rw [k.jobs i, h.jobs i]⟩

theorem Switched.mem {d e : Dev} (h : Switched d e) : e.mem = d.mem := by rw [h.only]
theorem Switched.trn {d e : Dev} (h : Switched d e) : e.trn = d.trn := by rw [h.only]
theorem Switched.checks {d e : Dev} (h : Switched d e) : e.sch.checks = d.sch.checks := by rw [h.only]

theorem coresOnly_switched {d e : Dev} (h : e = { d with cores := e.cores }) : Switched d e := by
  rw [h]; exact ⟨rfl, fun _ => rfl⟩

theorem noteRunning_only (d : Dev) : noteRunning d = { d with sys := (noteRunning d).sys } := by
  unfold noteRunning
  dsimp only
  split
  · split <;> rfl
  · split <;> rfl
  · rfl

theorem setBasin_switched (d : Dev) (b : Nat) (x : Basin) : Switched d (d.setBasin b x) := ⟨rfl, fun _ => rfl⟩

theorem setJob_switched {d : Dev} {s : Nat} {x : Job} (h : x = { d.job s with state := x.state, turn := x.turn }) : Switched d (d.setJob s x) := by
  refine ⟨rfl, fun k => ?_⟩
  rw [Dev.job_setJob]
  split
  · next hk => subst hk; exact h
  · rfl

/-! ## Entering a basin (R104 step 5) -/

/-- The basin that slot `s` enters. -/
def Basin.entered (x : Basin) (s now : Nat) : Basin := { x with entering := some s, restoring := true, stepStart := now, lastHolder := s % 4 }

/-- A basin is entered: its record, and the cores of the job that enters. -/
theorem enterBasin_enters (d : Dev) (b s : Nat) :
    enterBasin d b s = { d.setBasin b ((d.basin b).entered s d.clp.elapsed) with cores := (enterBasin d b s).cores }
    ∧ (∀ l ∈ jobCores d s, ((enterBasin d b s).core (d.phys l)).restoring = true)
    ∧ ∀ q, ∃ r, (enterBasin d b s).core q = { d.core q with restoring := r } := by
  have H := onCores_modCore (d.setBasin b ((d.basin b).entered s d.clp.elapsed)) (fun _ c => { c with restoring := true })
  exact ⟨(H.fold (jobCores d s)).1, fun l hl => H.sets (P := fun c => c.restoring = true) (fun _ _ => rfl) hl,
    fun q => H.keeps (P := fun c => ∃ r, c = { d.core q with restoring := r }) (fun _ c ⟨r, hc⟩ => ⟨true, by rw [hc]⟩) ⟨_, rfl⟩ (jobCores d s)⟩

theorem enterBasin_switched (d : Dev) (b s : Nat) : Switched d (enterBasin d b s) :=
  (setBasin_switched d b _).trans (coresOnly_switched (enterBasin_enters d b s).1)

/-! ## An empty basin (R103) -/

/-- Nothing stands in the way of giving basin `b` to a next holder. -/
def Vacant (d : Dev) (b : Nat) : Prop :=
  (d.basin b).holder = none ∧ (d.basin b).leaving = none ∧ (d.basin b).entering = none ∧ d.flt.stopActive = false ∧ rebinding d b = false

theorem giveBasin_vacant {d : Dev} {b s : Nat} (hv : Vacant d b) (hn : nextHolder d b = some s) :
    giveBasin d b = if unbound d b then d.setJob s { d.job s with state := .waitBind } else enterBasin d b s := by
  obtain ⟨holder, leaving, entering, stop, rebind⟩ := hv
  simp [giveBasin, holder, leaving, entering, stop, rebind, hn]

/-- A basin is not given away, or it is vacant and goes to the next holder, whose job waits when a core is unbound. -/
theorem giveBasin_cases (d : Dev) (b : Nat) : giveBasin d b = d ∨ ∃ s, Vacant d b ∧ nextHolder d b = some s
    ∧ giveBasin d b = if unbound d b then d.setJob s { d.job s with state := .waitBind } else enterBasin d b s := by
  by_cases hv : Vacant d b
  · cases hn : nextHolder d b with
    | none => exact .inl (by simp [giveBasin, hn])
    | some s => exact .inr ⟨s, hv, rfl, giveBasin_vacant hv hn⟩
  · refine .inl (if_pos ?_)
    by_contra hx
    simp only [Bool.or_eq_true, not_or, Bool.not_eq_true, Option.isSome_eq_false_iff, Option.isNone_iff_eq_none] at hx
    obtain ⟨⟨⟨⟨holder, leaving⟩, entering⟩, stop⟩, rebind⟩ := hx
    exact hv ⟨holder, leaving, entering, stop, rebind⟩

theorem giveBasin_switched (d : Dev) (b : Nat) : Switched d (giveBasin d b) := by
  obtain he | ⟨s, -, -, he⟩ := giveBasin_cases d b
  · rw [he]; exact switched_refl d
  · rw [he]
    split
    · exact setJob_switched rfl
    · exact enterBasin_switched d b s

/-! ## Pre-emption (R104 step 1) -/

/-- The basin that its holder `s` is made to leave. -/
def Basin.left (x : Basin) (s now : Nat) : Basin :=
  { x with holder := none, leaving := some s, grace := true, stepStart := now, overran := false, preempts := sat16 x.preempts }

/-- The job that is made to leave its basin; a turn not yet flipped is marked. -/
def Job.preempted (j : Job) (flipped : Bool) : Job :=
  { j with state := .preempting, turn := j.turn.map (fun t => { t with preempted := t.preempted || !flipped }) }

/-- From `d` to `e` slot `s`, the holder of basin `b`, starts to leave it. -/
structure Preempted (d : Dev) (b s : Nat) (e : Dev) : Prop where
  only : e = { d with sch := e.sch, cores := e.cores, jobs := e.jobs, sys := e.sys }
  sch : e.sch = (d.setBasin b ((d.basin b).left s d.clp.elapsed)).sch
  jobs : e.jobs = (d.setJob s ((d.job s).preempted ((d.tslot s).phase == .folding))).jobs
  cores : ∀ q, ∃ a, e.core q = { d.core q with active := a }
  idle : ∀ l ∈ heldCores d s, ownsSharedCore d b l = false → (∀ m ∈ jobCores d s, m ≠ l → d.phys m ≠ d.phys l) → (e.core (d.phys l)).active = false
  busy : ∀ l ∈ jobCores d s, ownsSharedCore d b l = true → (e.core (d.phys l)).active = true

theorem preempt_none {d : Dev} {b : Nat} (h : (d.basin b).holder = none) : preempt d b = d := by simp only [preempt, h]

/-- The cores that own a shared semaphore of the basin issue on (R104 step 2). -/
theorem onCores_owners (d : Dev) (b : Nat) :
    OnCores d (fun e l => if ownsSharedCore e b l then e.modCore (e.phys l) (fun c => { c with active := true }) else e)
      (fun l c => if ownsSharedCore d b l then { c with active := true } else c) := by
  intro e l only
  have owns : ownsSharedCore e b l = ownsSharedCore d b l := by rw [only]; rfl
  dsimp only
  rw [owns]
  split
  · exact onCores_modCore d (fun _ c => { c with active := true }) e l only
  · exact ⟨rfl, fun q => (ite_self _).symm⟩

/-- Basin `b` and its holder `s` as the pre-emption marks them. -/
def markLeft (d : Dev) (b s : Nat) : Dev :=
  (d.setBasin b ((d.basin b).left s d.clp.elapsed)).setJob s ((d.job s).preempted ((d.tslot s).phase == .folding))

theorem jobCores_congr {d e : Dev} {s : Nat} (h : (e.job s).image = (d.job s).image) : jobCores e s = jobCores d s := by
  simp only [jobCores, h]

theorem preempt_preempts {d : Dev} {b s : Nat} (h : (d.basin b).holder = some s) : Preempted d b s (preempt d b) := by
  have image : ((markLeft d b s).job s).image = (d.job s).image := by rw [markLeft, Dev.job_setJob_self]; rfl
  have cores : jobCores (markLeft d b s) s = jobCores d s := jobCores_congr image
  have held : heldCores (markLeft d b s) s = heldCores d s := by rw [heldCores, cores]; rfl
  obtain ⟨stops, halts, stopped⟩ := stopCores_stops (markLeft d b s) s
  rw [held] at stopped
  have H := onCores_owners (stopCores (markLeft d b s) s) b
  obtain ⟨wakes, woken⟩ := H.fold (jobCores (stopCores (markLeft d b s) s) s)
  have eq : preempt d b = noteRunning ((jobCores (stopCores (markLeft d b s) s) s).foldl
      (fun e l => if ownsSharedCore e b l then e.modCore (e.phys l) (fun c => { c with active := true }) else e) (stopCores (markLeft d b s) s)) := by
    simp only [preempt, h]; rfl
  have same : jobCores (stopCores (markLeft d b s) s) s = jobCores d s := (jobCores_congr (by rw [stops]; rfl)).trans cores
  rw [same] at eq wakes woken
  generalize (jobCores d s).foldl _ _ = e at eq wakes woken
  have phys (l : Nat) : (stopCores (markLeft d b s) s).phys l = d.phys l := by rw [stops]; rfl
  have owns (l : Nat) : ownsSharedCore (stopCores (markLeft d b s) s) b l = ownsSharedCore d b l := by rw [stops]; rfl
  simp only [phys, owns] at woken
  generalize stopCores (markLeft d b s) s = x at *
  have only : preempt d b = { markLeft d b s with cores := e.cores, sys := (preempt d b).sys } := by
    rw [eq, noteRunning_only, wakes, stops]
  have core (q : Nat) : (preempt d b).core q = e.core q := by rw [Dev.core, only, Dev.core]
  refine ⟨?_, by rw [only]; rfl, by rw [only]; rfl, fun q => ?_, fun l hl free alone => ?_, fun l hl owner => ?_⟩
  · rw [only]; rfl
  · rw [core, woken]
    refine List.foldlRecOn (motive := fun c : CoreSt => ∃ a, c = { d.core q with active := a }) _ _ (halts q) fun c ⟨a, hc⟩ m _ => ?_
    split
    · exact ⟨true, by rw [hc]⟩
    · exact ⟨a, hc⟩
  · rw [core, woken]
    refine List.foldlRecOn (motive := fun c : CoreSt => c.active = false) _ _ (stopped l hl) fun c hc m hm => ?_
    obtain ⟨mem, hp⟩ := List.mem_filter.mp hm
    have hm : m = l := by_contra fun hne => alone m mem hne (by simpa using hp)
    rw [hm, free]
    exact hc
  · rw [core, woken]
    refine foldl_settles (P := fun l c => ownsSharedCore d b l = true → CoreSt.active c = true) (fun c m hm => ?_) (fun c i m hm hj => ?_)
      (List.mem_filter.mpr ⟨hl, by simp⟩) _ owner
    · rw [if_pos hm]
    · split
      · rfl
      · exact hm hj

namespace Preempted

variable {d e : Dev} {b s : Nat} (h : Preempted d b s e)
include h

theorem basin (k : Nat) : e.basin k = if k = b then (d.basin b).left s d.clp.elapsed else d.basin k := by
  rw [Dev.basin, h.sch]; exact Dev.basin_setBasin d b k _

theorem job (k : Nat) : e.job k = if k = s then (d.job s).preempted ((d.tslot s).phase == .folding) else d.job k := by
  rw [Dev.job, h.jobs]; exact Dev.job_setJob d s k _

theorem basin_self : e.basin b = (d.basin b).left s d.clp.elapsed := (h.basin b).trans (if_pos rfl)

theorem job_self : e.job s = (d.job s).preempted ((d.tslot s).phase == .folding) := (h.job s).trans (if_pos rfl)

theorem job_other {k : Nat} (hk : k ≠ s) : e.job k = d.job k := (h.job k).trans (if_neg hk)

theorem switched : Switched d e := by
  refine ⟨h.only.trans (by rw [h.sch]; rfl), fun k => ?_⟩
  rw [h.job k]
  split
  · next hk => rw [hk]; rfl
  · rfl

end Preempted

theorem preempt_switched (d : Dev) (b : Nat) : Switched d (preempt d b) := by
  cases h : (d.basin b).holder with
  | none => rw [preempt_none h]; exact switched_refl d
  | some s => exact (preempt_preempts h).switched

/-! ## The holder that is chosen (R103) -/

theorem minBy_mem {key : Nat → Nat} {s : Nat} : ∀ {l : List Nat}, minBy key l = some s → s ∈ l
  | x :: xs, h => by
    unfold minBy at h
    split at h
    · cases h; exact List.mem_cons_self
    next y hy =>
      split at h
      · cases h; exact List.mem_cons_of_mem x (minBy_mem hy)
      · cases h; exact List.mem_cons_self

theorem nextHolder_ready {d : Dev} {b s : Nat} (h : nextHolder d b = some s) : ready d s = true := by
  unfold nextHolder at h
  dsimp only at h
  split at h
  · exact nomatch h
  split at h
  · next t ht =>
    have := List.of_mem_filter (minBy_mem ht)
    simp only [Bool.and_eq_true] at this
    cases h
    exact this.1
  · have := List.find?_some h
    simp only [Bool.and_eq_true] at this
    exact this.1

/-- A basin given away leaves every job that is not ready as it is. -/
theorem giveBasin_job {d : Dev} {k : Nat} (h : ready d k = false) (b : Nat) : (giveBasin d b).job k = d.job k := by
  obtain he | ⟨s, -, hn, he⟩ := giveBasin_cases d b
  · rw [he]
  have hk : k ≠ s := fun hk => by rw [hk, nextHolder_ready hn] at h; exact nomatch h
  rw [he]
  split
  · rw [Dev.job_setJob, if_neg hk]
  · rw [(enterBasin_enters d b s).1]; rfl

/-- The holder of a basin stays when the basin is given away, and when it has none. -/
theorem reschedule_cases (d : Dev) (b : Nat) :
    reschedule d b = d ∨ reschedule d b = giveBasin d b ∨ ∃ s, (d.basin b).holder = some s ∧ reschedule d b = preempt d b := by
  unfold reschedule
  dsimp only
  split
  · exact .inl rfl
  split
  · exact .inr (.inl rfl)
  next s hs =>
    split
    · exact .inr (.inr ⟨s, hs, rfl⟩)
    split
    · exact .inr (.inr ⟨s, hs, rfl⟩)
    · exact .inl rfl

theorem reschedule_switched (d : Dev) (b : Nat) : Switched d (reschedule d b) := by
  obtain h | h | ⟨s, -, h⟩ := reschedule_cases d b <;> rw [h]
  · exact switched_refl d
  · exact giveBasin_switched d b
  · exact preempt_switched d b

/-- A job that neither holds the basin nor is ready stays as it is. -/
theorem reschedule_job {d : Dev} {b k : Nat} (hr : ready d k = false) (hk : (d.basin b).holder ≠ some k) : (reschedule d b).job k = d.job k := by
  obtain h | h | ⟨s, hs, h⟩ := reschedule_cases d b <;> rw [h]
  · exact giveBasin_job hr b
  · exact (preempt_preempts hs).job_other fun he => hk (he ▸ hs)

/-- Only a job in ADMITTED, RUNNING or SAVED is ready (R102). -/
theorem ready_idle {d : Dev} {k : Nat} (h : (d.job k).state = .idle) : ready d k = false := by simp [ready, h]

/-- The holder of a basin keeps it when no LIVE job is ready beside it, and it has a turn open or no other job is ready. -/
theorem reschedule_stays {d : Dev} {b s : Nat} (hs : (d.basin b).holder = some s)
    (hlive : ∀ t ∈ [4 * b, 4 * b + 1, 4 * b + 2, 4 * b + 3], t ≠ s → (d.job t).live = true → ready d t = false)
    (hwork : (d.job s).turn.isSome = true ∨ otherReady d b s = false) : reschedule d b = d := by
  have quiet : [4 * b, 4 * b + 1, 4 * b + 2, 4 * b + 3].any (fun t => !(t == s) && (d.job t).live && ready d t) = false := by
    refine List.any_eq_false.mpr fun t ht hc => ?_
    simp only [Bool.and_eq_true, Bool.not_eq_true', beq_eq_false_iff_ne] at hc
    obtain ⟨⟨hne, hl⟩, hr⟩ := hc
    exact nomatch hr.symm.trans (hlive t ht hne hl)
  unfold reschedule
  dsimp only
  split
  · rfl
  split
  · next hn => exact nomatch hn.symm.trans hs
  · next i hi =>
    cases hi.symm.trans hs
    rw [quiet, if_neg (by simp), if_neg]
    rcases hwork with h | h
    · simp [Option.isNone_eq_false_iff.mpr h]
    · simp [h]

end Sys2Proof.Machine
end

section
/-! PROOFS. How a basin changes hands: slices, the grace of a pre-emption and the drain (spec/04_clepsydra_and_scheduling.md R103,
R104, R109). -/

namespace Sys2Proof.Machine

/-- The basins after one of them is written. -/
theorem setBasin_basins {d e : Dev} {b : Nat} {y : Basin} (h : e.sch = (d.setBasin b y).sch) :
    e.basin b = y ∧ (∀ k, k ≠ b → e.basin k = d.basin k) ∧ e.sch = { d.sch with basins := e.sch.basins } := by
  have basin (k : Nat) : e.basin k = (d.setBasin b y).basin k := by rw [Dev.basin, h]; rfl
  refine ⟨(basin b).trans (Dev.basin_setBasin_self d b y), fun k hk => ?_, by rw [h]; rfl⟩
  rw [basin, Dev.basin_setBasin, if_neg hk]

/-! ## Slices (R103) -/

section Slice

variable {d : Dev} {b h : Nat}

theorem sliceEnd_none (hh : (d.basin b).holder = none) : sliceEnd d b = giveBasin d b := by simp only [sliceEnd, hh]

variable (hh : (d.basin b).holder = some h)
include hh

theorem sliceEnd_waits (hw : d.flt.stopActive = true ∨ d.clp.elapsed - (d.basin b).sliceStart < (d.basinRec b).slice) : sliceEnd d b = d := by
  simp only [sliceEnd, hh]
  exact if_pos (by simpa using hw)

variable (hstop : d.flt.stopActive = false) (hslice : (d.basinRec b).slice ≤ d.clp.elapsed - (d.basin b).sliceStart)
include hstop hslice

theorem sliceEnd_renews (ho : otherReady d b h = false) : sliceEnd d b = d.setBasin b { d.basin b with sliceStart := d.clp.elapsed } := by
  simp [sliceEnd, hh, hstop, Nat.not_lt.mpr hslice, ho]

theorem sliceEnd_preempts (ho : otherReady d b h = true) : sliceEnd d b = preempt d b := by
  have another := ho
  simp only [otherReady] at another
  simp only [sliceEnd, hh, hstop, Nat.not_lt.mpr hslice, ho, another]
  simp

end Slice

/-! ## Grace and drain (R104 steps 2 and 3, R109) -/

section Grace

/-- The basin whose grace has taken `took`. -/
def Basin.graced (x : Basin) (took : Word) : Basin := { x with lastGrace := took, overran := true }

/-- The basin whose cores are being saved. -/
def Basin.drained (x : Basin) (now : Nat) : Basin := { x with grace := false, saving := true, stepStart := now }

/-- Slot `j`'s engine commands parked, and the basin it leaves marked as saving. -/
def parkedBasin (d : Dev) (b j : Nat) : Dev := (spoutPark d j).setBasin b ((d.basin b).drained d.clp.elapsed)

variable {d : Dev} {b j : Nat}

/-- GRACE_OVERRUN on a basin (R109). -/
def graceOverran (d : Dev) (b : Nat) : Dev :=
  let x := d.basin b
  if x.leaving.isSome && x.grace && !x.saving && !x.overran && decide ((d.basinRec b).grace < d.clp.elapsed - x.stepStart) then
    let d := d.setBasin b (x.graced (BitVec.ofNat 32 (d.clp.elapsed - x.stepStart)))
    { d with sch := { d.sch with graceOverrun := true, graceOverruns := sat16 d.sch.graceOverruns } }
  else d

theorem graceOverran_waits (hw : (d.basin b).leaving = none ∨ (d.basin b).overran = true ∨ (d.basin b).saving = true
    ∨ d.clp.elapsed - (d.basin b).stepStart ≤ (d.basinRec b).grace) : graceOverran d b = d := by
  refine if_neg fun hc => ?_
  simp only [Bool.and_eq_true, Bool.not_eq_true', decide_eq_true_eq] at hc
  obtain ⟨⟨⟨⟨hleaving, -⟩, hsaving⟩, hoverran⟩, hlate⟩ := hc
  rcases hw with h | h | h | h
  · rw [h] at hleaving; exact nomatch hleaving
  · exact nomatch h.symm.trans hoverran
  · exact nomatch h.symm.trans hsaving
  · omega

theorem graceDone_waits (hl : ∀ j, (d.basin b).leaving = some j → graceOver d j = false) : graceDone d b = d := by
  simp only [graceDone]
  split
  · rfl
  · next j hj => rw [if_pos (by simp [hl j hj])]

theorem drainDone_waits (hl : ∀ j, (d.basin b).leaving = some j → graceOver d j = false) : drainDone d b = d := by
  simp only [drainDone]
  split
  · rfl
  · next j hj => rw [if_pos (by simp [hl j hj])]

variable (hl : (d.basin b).leaving = some j) (hg : (d.basin b).grace = true) (hs : (d.basin b).saving = false) (ho : graceOver d j = true)
include hl hg hs ho

theorem graceDone_stops : graceDone d b = stopCores (d.setBasin b ((d.basin b).graced (BitVec.ofNat 32 (d.clp.elapsed - (d.basin b).stepStart)))) j := by
  unfold graceDone
  dsimp only
  split
  · next hn => exact nomatch hn.symm.trans hl
  · next i hi =>
    cases hi.symm.trans hl
    exact if_neg (by simp [hg, hs, ho])

theorem drainDone_saves (ht : tmDrained d j = true) : drainDone d b = (jobCores (parkedBasin d b j) j).foldl
    (fun e l => e.modCore (e.phys l) (fun c => { c with saving := true })) (parkedBasin d b j) := by
  have drained : cascadeDrained d j = true := by
    simp only [graceOver, Bool.and_eq_true] at ho
    exact ho.1.1
  unfold drainDone
  dsimp only
  split
  · next hn => exact nomatch hn.symm.trans hl
  · next i hi =>
    cases hi.symm.trans hl
    rw [if_neg (by simp [hg, hs, ho, ht, drained])]
    rfl

end Grace

/-! ## Parked engine commands -/

/-- The next command of an engine is one of its own. -/
theorem spoutNext_all (d : Dev) (x : Spout) {c : SpoutCmd} (h : c ∈ (spoutNext d x).all) : c ∈ x.all := by
  unfold spoutNext at h
  split at h
  · exact h
  dsimp only at h
  split at h
  · split at h
    · next first hfirst =>
      have mem : first ∈ x.queue := List.mem_of_mem_take (List.mem_of_find?_eq_some hfirst)
      simp only [Spout.all, List.mem_append, Option.mem_toList, Option.some.injEq] at h ⊢
      rcases h with (h | rfl) | h
      · exact .inl (.inl h)
      · exact .inr mem
      · exact .inr (List.mem_of_mem_erase h)
    · simp_all [Spout.all]
  · split at h
    · simp_all [Spout.all]
    · exact h

/-- No command that `p` refuses is left in an engine. -/
theorem spoutFilter_all (d : Dev) (p : SpoutCmd → Bool) {k : Nat} (hk : k < 12) : ∀ c ∈ ((spoutFilter d p).spout k).all, p c = true := by
  have sets (e : Dev) (i : Nat) : ∀ c ∈ (spoutNext e { run := (e.spout i).run.filter p, suspended := (e.spout i).suspended.filter p, queue := (e.spout i).queue.filter p }).all,
      p c = true := fun c hc => by
    have := spoutNext_all e _ hc
    simp only [Spout.all, List.mem_append, Option.mem_toList, Option.filter_eq_some_iff, List.mem_filter] at this
    rcases this with (h | h) | h <;> exact h.2
  refine foldl_settles (P := fun k (e : Dev) => ∀ c ∈ (e.spout k).all, p c = true) (fun e i => ?_) (fun e i j hj => ?_) (List.mem_range.mpr hk) d
  · dsimp only
    rw [Dev.spout_setSpout_self]
    exact sets e i
  · dsimp only
    rw [Dev.spout_setSpout]
    split
    · exact sets e i
    · exact hj

/-- From `d` to `e` the contexts of cores and the Spout engines may have changed. -/
def Parked (d e : Dev) : Prop := e = { d with cores := e.cores, spouts := e.spouts }

theorem parked_trans {d e f : Dev} (h : Parked d e) (k : Parked e f) : Parked d f := by
  unfold Parked at *
  rw [k, h]

theorem spoutPark_parks (d : Dev) (slot : Nat) : Parked d (spoutPark d slot) ∧ ∀ k, k < 12 → ∀ c ∈ ((spoutPark d slot).spout k).all, c.slot ≠ slot := by
  refine ⟨?_, fun k hk c hc => by simpa using spoutFilter_all _ _ hk c hc⟩
  have filtered (e : Dev) (p : SpoutCmd → Bool) : Parked e (spoutFilter e p) :=
    foldl_keeps (R := Parked) (fun _ => rfl) parked_trans (fun _ _ => by rfl) _ _
  exact parked_trans (foldl_keeps (R := Parked) (fun _ => rfl) parked_trans (fun _ _ => by rfl) _ _) (filtered _ _)

theorem Parked.setBasin {d e : Dev} (h : Parked d e) (b : Nat) (y : Basin) : Parked (d.setBasin b y) (e.setBasin b y) := by
  unfold Parked at *
  rw [h]
  rfl

/-- What stands once the cores of slot `j` are marked as saving. -/
theorem Parked.saves {d p e : Dev} {b j : Nat} {y : Basin} (h : Parked (d.setBasin b y) p)
    (he : e = (jobCores p j).foldl (fun e l => e.modCore (e.phys l) (fun c => { c with saving := true })) p) :
    e.sch = (d.setBasin b y).sch ∧ e.spouts = p.spouts ∧ e = { d with sch := e.sch, cores := e.cores, spouts := e.spouts }
    ∧ ∀ l ∈ jobCores d j, (e.core (d.phys l)).saving = true := by
  unfold Parked at h
  have cores : jobCores p j = jobCores d j := jobCores_congr (by rw [h]; rfl)
  have phys (l : Nat) : p.phys l = d.phys l := by rw [h]; rfl
  have H := onCores_modCore p (fun _ c => { c with saving := true })
  obtain ⟨only, -⟩ := H.fold (jobCores p j)
  rw [← he] at only
  refine ⟨by rw [only, h], by rw [only], by rw [only, h]; rfl, fun l hl => ?_⟩
  rw [← phys, he, cores]
  exact H.sets (P := fun c => c.saving = true) (fun _ _ => rfl) hl

theorem drainDone_drains {d : Dev} {b j : Nat} (hl : (d.basin b).leaving = some j) (hg : (d.basin b).grace = true) (hs : (d.basin b).saving = false)
    (ho : graceOver d j = true) (ht : tmDrained d j = true) :
    (drainDone d b).sch = (d.setBasin b ((d.basin b).drained d.clp.elapsed)).sch ∧ (∀ l ∈ jobCores d j, ((drainDone d b).core (d.phys l)).saving = true)
      ∧ (∀ k, k < 12 → ∀ c ∈ ((drainDone d b).spout k).all, c.slot ≠ j)
      ∧ drainDone d b = { d with sch := (drainDone d b).sch, cores := (drainDone d b).cores, spouts := (drainDone d b).spouts } := by
  obtain ⟨parks, gone⟩ := spoutPark_parks d j
  obtain ⟨sch, spouts, only, marked⟩ := (parks.setBasin b ((d.basin b).drained d.clp.elapsed)).saves (drainDone_saves hl hg hs ho ht)
  refine ⟨sch, marked, fun k hk => ?_, only⟩
  rw [Dev.spout, spouts, Dev.setBasin_spouts, ← Dev.spout]
  exact gone k hk

/-! ## Saving (R104 step 5, R105) -/

/-- What a save keeps of logical core `l`. -/
def savedCtx (d : Dev) (l : Nat) : Ctx := { (d.core (d.phys l)).ctx with tm := (d.core (d.phys l)).tm }

/-- The save area with the cores `ls` of slot `j` in it. -/
def saveInto (d : Dev) (j : Nat) (ls : List Nat) (t : Tab (Option Ctx)) : Tab (Option Ctx) :=
  ls.foldl (fun t l => tabSet none t (256 * j + l) (some (savedCtx d l))) t

theorem saveCtx_eq (d : Dev) (j : Nat) : saveCtx d j = { d with saved := saveInto d j (jobCores d j) d.saved } := by
  suffices H : ∀ (ls : List Nat) (e : Dev), e = { d with saved := e.saved } → ls.foldl (fun d l =>
      let x := d.core (d.phys l)
      { d with saved := tabSet none d.saved (256 * j + l) (some { x.ctx with tm := x.tm }) }) e = { d with saved := saveInto d j ls e.saved } from H _ d rfl
  intro ls
  induction ls with
  | nil => exact fun e he => he
  | cons l ls ih =>
    intro e he
    rw [List.foldl_cons]
    refine (ih _ ?_).trans ?_ <;> rw [he]
    rfl

theorem saveInto_get {d : Dev} {j l : Nat} {ls : List Nat} (hl : l ∈ ls) (t : Tab (Option Ctx)) :
    tabGet none (saveInto d j ls t) (256 * j + l) = some (savedCtx d l) := by
  refine foldl_settles (P := fun l t => tabGet none t (256 * j + l) = some (savedCtx d l)) (fun t i => ?_) (fun t i k hk => ?_) hl t
  · exact tabGet_tabSet_self _ _ _ _
  · rw [tabGet_tabSet]
    split
    · next he => rw [Nat.add_left_cancel he]
    · exact hk

theorem saveDone_idle {d : Dev} {b : Nat} (hl : (d.basin b).leaving = none) : saveDone d b = d := by simp only [saveDone, hl]

/-- A core left by its job shows no state. -/
theorem clearCores_clears (d : Dev) (j : Nat) : clearCores d j = { d with cores := (clearCores d j).cores }
    ∧ ∀ l ∈ heldCores d j, ((clearCores d j).core (d.phys l)).slot = none ∧ ((clearCores d j).core (d.phys l)).ctx = {} := by
  have H := onCores_modCore d (fun _ x => { x with slot := none, ctx := {}, tm := [], active := false, saving := false, restoring := false, pages := [] })
  refine ⟨(H.fold _).1, fun l hl => H.sets (P := fun c => c.slot = none ∧ c.ctx = {}) (fun _ _ => ⟨rfl, rfl⟩) ?_⟩
  obtain ⟨mem, held⟩ := List.mem_filter.mp hl
  exact List.mem_filter.mpr ⟨mem, by rw [held]; rfl⟩

/-- The basin whose leaving job is saved. -/
def Basin.saved (x : Basin) (took : Word) : Basin := { x with leaving := none, saving := false, grace := false, lastSave := took }

/-- The job that is saved. -/
def Job.saved (j : Job) : Job := { j with state := .saved, parked := j.parked || j.preemptReq, preemptReq := false }

/-- Slot `j`, whose cores' ranges have been moved in `d2`, has left basin `b`, which was `x`. -/
def leftSaved (d2 : Dev) (x : Basin) (b j : Nat) : Dev :=
  ((clearCores (saveCtx d2 j) j).setBasin b (x.saved (BitVec.ofNat 32 (d2.clp.elapsed - x.stepStart)))).setJob j (d2.job j).saved

theorem saveDone_eq {d d2 : Dev} {b j : Nat} (hl : (d.basin b).leaving = some j) (hs : (d.basin b).saving = true) (hm : moveJob d j true = .ok d2) :
    saveDone d b = noteRunning (giveBasin (leftSaved d2 (d.basin b) b j) b) := by
  have cleared := (clearCores_clears (saveCtx d2 j) j).1
  have clp : (clearCores (saveCtx d2 j) j).clp = d2.clp := by rw [cleared, saveCtx_eq]
  have job : (clearCores (saveCtx d2 j) j).job j = d2.job j := by rw [cleared, saveCtx_eq]; rfl
  unfold saveDone
  dsimp only
  split
  · next hn => exact nomatch hn.symm.trans hl
  · next i hi =>
    cases hi.symm.trans hl
    rw [if_neg (by simp [hs])]
    split
    · next he => exact nomatch he.symm.trans hm
    · next e he =>
      cases he.symm.trans hm
      simp only [Dev.modJob_eq, Dev.setBasin_job, clp, job]
      rfl

/-- A basin given away while its cores are all bound: at most its entering job is named, and cores are marked. -/
theorem giveBasin_bound {d : Dev} {b : Nat} (hu : unbound d b = false) :
    giveBasin d b = { d with sch := (giveBasin d b).sch, cores := (giveBasin d b).cores }
    ∧ (∃ en re st last, (giveBasin d b).basin b = { d.basin b with entering := en, restoring := re, stepStart := st, lastHolder := last })
    ∧ ∀ q, ∃ r, (giveBasin d b).core q = { d.core q with restoring := r } := by
  obtain he | ⟨s, -, -, he⟩ := giveBasin_cases d b
  · rw [he]
    exact ⟨rfl, ⟨_, _, _, _, rfl⟩, fun q => ⟨_, rfl⟩⟩
  · rw [hu, if_neg (by simp)] at he
    obtain ⟨only, -, cores⟩ := enterBasin_enters d b s
    rw [he]
    exact ⟨by rw [only]; rfl, ⟨_, _, _, _, by rw [only]; exact Dev.basin_setBasin_self d b _⟩, cores⟩

/-- What stands once a job's save has ended: the job is SAVED and has left its basin and its cores. -/
theorem leftSaved_leaves {d2 : Dev} {x : Basin} {b j : Nat} (hu : unbound d2 b = false) :
    let e := noteRunning (giveBasin (leftSaved d2 x b j) b)
    e.job j = (d2.job j).saved ∧ e.mem = d2.mem ∧ e.saved = (saveCtx d2 j).saved
    ∧ (e.basin b).leaving = none ∧ (e.basin b).saving = false ∧ (e.basin b).lastSave = BitVec.ofNat 32 (d2.clp.elapsed - x.stepStart)
    ∧ ∀ l ∈ heldCores d2 j, (e.core (d2.phys l)).slot = none ∧ (e.core (d2.phys l)).ctx = {} := by
  obtain ⟨clears, cleared⟩ := clearCores_clears (saveCtx d2 j) j
  have left : leftSaved d2 x b j = { d2 with
      sch := (leftSaved d2 x b j).sch, jobs := (leftSaved d2 x b j).jobs, saved := (saveCtx d2 j).saved, cores := (clearCores (saveCtx d2 j) j).cores } := by
    conv_lhs => rw [leftSaved, clears, saveCtx_eq]
    rw [leftSaved, clears, saveCtx_eq]
    rfl
  have bound : unbound (leftSaved d2 x b j) b = false := by rw [left]; exact hu
  have job : (leftSaved d2 x b j).job j = (d2.job j).saved := Dev.job_setJob_self _ _ _
  have basin : (leftSaved d2 x b j).basin b = x.saved (BitVec.ofNat 32 (d2.clp.elapsed - x.stepStart)) := Dev.basin_setBasin_self _ _ _
  have core (l : Nat) (hl : l ∈ heldCores d2 j) : ((leftSaved d2 x b j).core (d2.phys l)).slot = none ∧ ((leftSaved d2 x b j).core (d2.phys l)).ctx = {} := by
    have held : l ∈ heldCores (saveCtx d2 j) j := by rw [saveCtx_eq]; exact hl
    have := cleared l held
    rw [saveCtx_eq] at this
    rw [left, saveCtx_eq]
    exact this
  obtain ⟨gives, ⟨en, re, st, last, given⟩, cores⟩ := giveBasin_bound bound
  rw [basin] at given
  intro e
  have only : e = { giveBasin (leftSaved d2 x b j) b with sys := e.sys } := noteRunning_only _
  generalize giveBasin (leftSaved d2 x b j) b = y at *
  have basin_e : e.basin b = y.basin b := by rw [only]; rfl
  rw [basin_e, given]
  refine ⟨?_, ?_, ?_, rfl, rfl, rfl, fun l hl => ?_⟩
  · rw [← job, only, gives]; rfl
  · rw [only, gives, left]
  · rw [only, gives, left]
  · obtain ⟨r, hr⟩ := cores (d2.phys l)
    have core_e : e.core (d2.phys l) = y.core (d2.phys l) := by rw [only]; rfl
    rw [core_e, hr]
    exact core l hl

/-! ## Restoring (R104 step 5, R105) -/

/-- From `d` to `e` waits may have ended, and with them shared semaphores and free choices changed. -/
structure Woken (d e : Dev) : Prop where
  only : e = { d with cores := e.cores, sems := e.sems, free := e.free }
  cores : ∀ q, ∃ w p a, e.core q = { d.core q with ctx := { (d.core q).ctx with wait := w, pc := p, addf := a } }

theorem woken_refl (d : Dev) : Woken d d := ⟨rfl, fun _ => ⟨_, _, _, rfl⟩⟩

theorem Woken.trans {d e f : Dev} (h : Woken d e) (k : Woken e f) : Woken d f := by
  refine ⟨by rw [k.only, h.only], fun q => ?_⟩
  obtain ⟨_, _, _, hc⟩ := h.cores q
  obtain ⟨w, p, a, hc'⟩ := k.cores q
  exact ⟨w, p, a, by rw [hc', hc]⟩

theorem leaveWait_woken (d : Dev) (p : Nat) : Woken d (d.modCtx p leaveWait) := by
  refine ⟨rfl, fun q => ?_⟩
  rw [Dev.modCtx_eq, Dev.core_setCore]
  split
  · next hq => exact ⟨_, _, _, by rw [hq]; rfl⟩
  · exact ⟨_, _, _, rfl⟩

theorem wakeWaits_woken (d : Dev) (b : Nat) : Woken d (wakeWaits d b) := by
  refine foldl_keeps woken_refl Woken.trans (fun d l => ?_) _ d
  dsimp only
  split
  · split
    · exact leaveWait_woken d _
    · exact woken_refl d
  · exact woken_refl d

theorem grantSem_woken (d : Dev) (b i : Nat) : Woken d (grantSem d b i) := by
  unfold grantSem
  dsimp only
  split
  · exact woken_refl d
  have grant (x : SharedSem) (p : Nat) : Woken d ((d.setSem b i x).modCtx p leaveWait) :=
    (show Woken d (d.setSem b i x) from ⟨rfl, fun _ => ⟨_, _, _, rfl⟩⟩).trans (leaveWait_woken _ p)
  split
  · exact grant _ _
  · exact (grant _ _).trans ⟨rfl, fun _ => ⟨_, _, _, rfl⟩⟩

theorem wakeBasin_woken (d : Dev) (b : Nat) : Woken d (wakeBasin d b) :=
  (foldl_keeps woken_refl Woken.trans (fun d i => grantSem_woken d b i) _ d).trans (wakeWaits_woken _ b)

/-! ## Cores whose engines have nothing left to do -/

/-- Nothing waits in the core's queues, and its mover has no piece left to start. -/
def CoreSt.Calm (x : CoreSt) : Prop := queuedCount x.ctx = 0 ∧ x.ctx.codQueue = [] ∧ x.tm.all (fun t => t.todo.isEmpty) = true

/-- No head of a queue may start where every queue is empty. -/
theorem startHead_empty {d : Dev} {slot core : Nat} (h : queuedCount (d.core core).ctx = 0) : startHead d slot core = none := by
  simp only [queuedCount, Nat.add_eq_zero_iff, List.length_eq_zero_iff] at h
  obtain ⟨⟨⟨⟨h0, h1⟩, hvec⟩, hrow⟩, htm⟩ := h
  have heads (a : Nat) : arrHead d slot core a = none := by
    unfold arrHead
    dsimp only
    split
    · rfl
    · next q rest hq =>
      unfold arrEngine at hq
      split at hq <;> simp [Ctx.queue, h0, h1] at hq
  have other : otherHead d slot core = none := by
    simp [otherHead, Ctx.queue, hvec, hrow, htm, minBy, List.filterMap_cons]
  simp [startHead, heads, other, minBy]

theorem drainCore_calm {d : Dev} {core : Nat} (h : (d.core core).Calm) : drainCore d core = d := by
  obtain ⟨queues, -, todo⟩ := h
  rw [drainCore, queues]
  unfold drainLoop
  dsimp only
  split
  · rfl
  split
  · rfl
  split
  · next t ht => rw [if_pos (by simp [List.all_eq_true.mp todo t (List.mem_of_find?_eq_some ht)])]
  split
  · rfl
  · rw [startHead_empty queues]

theorem drainJob_calm {d : Dev} {slot : Nat} (h : JobCalm d slot) : drainJob d slot = d := by
  unfold drainJob
  generalize hls : jobCores d slot = ls
  have all : ∀ l ∈ ls, (d.core (d.phys l)).Calm := hls ▸ h
  clear hls h
  induction ls with
  | nil => rfl
  | cons l ls ih =>
    rw [List.foldl_cons, drainCore_calm (all l List.mem_cons_self)]
    exact ih fun k hk => all k (List.mem_cons_of_mem l hk)

theorem codDrain_calm {d : Dev} {slot : Nat} (h : JobCalm d slot) : codDrain d slot = d := by
  have none_waits : ((jobCores d slot).map (fun l => (d.core (d.phys l)).ctx.codQueue.length)).sum = 0 := by
    refine List.sum_eq_zero fun n hn => ?_
    obtain ⟨l, hl, rfl⟩ := List.mem_map.mp hn
    rw [(h l hl).2.1]
    rfl
  rw [codDrain, none_waits, codPump]

/-- A calm job stays calm where its program and binding are the same and its cores are calm. -/
theorem JobCalm.mono {d e : Dev} {j : Nat} (h : JobCalm d j) (himg : (e.job j).image = (d.job j).image) (hstr : e.str = d.str)
    (hcore : ∀ q, (d.core q).Calm → (e.core q).Calm) : JobCalm e j := fun l hl => by
  have hp : e.phys l = d.phys l := by simp only [Dev.phys, hstr]
  rw [hp]
  exact hcore _ (h l (jobCores_congr himg ▸ hl))

/-! ## A basin taken without a save -/

/-- Streams are loaded into cells. -/
theorem loadStreams_only (d : Dev) (j : Nat) : loadStreams d j = { d with
    mem := (loadStreams d j).mem, poison := (loadStreams d j).poison, upsets := (loadStreams d j).upsets } := by
  unfold loadStreams
  split
  · rfl
  · exact foldl_keeps (R := fun d e : Dev => e = { d with mem := e.mem, poison := e.poison, upsets := e.upsets })
      (fun _ => rfl) (fun h k => by rw [k, h]) (fun _ _ => by rfl) _ d

theorem loadStreams_job (d : Dev) (j k : Nat) : (loadStreams d j).job k = d.job k := by rw [loadStreams_only]; rfl

/-- The basin that slot `j` holds from now on. -/
def Basin.resumed (x : Basin) (j now : Nat) : Basin :=
  { x with holder := some j, entering := none, restoring := false, sliceStart := now, lastRestore := BitVec.ofNat 32 (now - x.stepStart) }

/-- The cores of slot `j` are its own, with their streams. -/
def coresTaken (d : Dev) (j : Nat) : Dev :=
  (jobCores (loadStreams d j) j).foldl (fun d l => d.modCore (d.phys l) (fun c => { c with slot := some j, restoring := false, pages := [] })) (loadStreams d j)

/-- Slot `j` has taken basin `b`, with no save to restore. -/
def basinTaken (d : Dev) (b j : Nat) : Dev :=
  ((dropSaves (coresTaken d j) j).setBasin b ((d.basin b).resumed j d.clp.elapsed)).setJob j { d.job j with state := .running, started := true }

theorem coresTaken_takes (d : Dev) (j : Nat) :
    coresTaken d j = { loadStreams d j with cores := (coresTaken d j).cores }
    ∧ (∀ l ∈ jobCores d j, ((coresTaken d j).core (d.phys l)).slot = some j ∧ ((coresTaken d j).core (d.phys l)).restoring = false)
    ∧ ∀ q, (d.core q).Calm → ((coresTaken d j).core q).Calm := by
  have H := onCores_modCore (loadStreams d j) (fun _ c => { c with slot := some j, restoring := false, pages := [] })
  have cores : jobCores (loadStreams d j) j = jobCores d j := jobCores_congr (by rw [loadStreams_only]; rfl)
  have phys (l : Nat) : (loadStreams d j).phys l = d.phys l := by rw [loadStreams_only]; rfl
  have core (q : Nat) : (loadStreams d j).core q = d.core q := by rw [loadStreams_only]; rfl
  refine ⟨(H.fold _).1, fun l hl => ?_, fun q hq => H.keeps (P := CoreSt.Calm) (fun _ _ hc => hc) (by rwa [core]) _⟩
  rw [← phys]
  exact H.sets (P := fun c => c.slot = some j ∧ c.restoring = false) (fun _ _ => ⟨rfl, rfl⟩) (cores.symm ▸ hl)

/-- A basin that slot `j` has taken, once its waits have looked again. -/
theorem basinTaken_takes (d : Dev) (b j : Nat) : let e := wakeBasin (basinTaken d b j) b
    e.basin b = (d.basin b).resumed j d.clp.elapsed ∧ e.job j = { d.job j with state := .running, started := true } ∧ (∀ k, k ≠ j → e.job k = d.job k)
    ∧ e.mem = (loadStreams d j).mem
    ∧ (∀ l ∈ jobCores d j, (e.core (d.phys l)).slot = some j ∧ (e.core (d.phys l)).restoring = false)
    ∧ e.str = d.str ∧ ∀ q, (d.core q).Calm → (e.core q).Calm := by
  obtain ⟨only, cores⟩ := wakeBasin_woken (basinTaken d b j) b
  obtain ⟨taken, cores', calm⟩ := coresTaken_takes d j
  have job (k : Nat) : (wakeBasin (basinTaken d b j) b).job k = (basinTaken d b j).job k := by rw [Dev.job, only]; rfl
  have job' (k : Nat) : (dropSaves (coresTaken d j) j).job k = d.job k := by rw [dropSaves, taken, loadStreams_only]; rfl
  refine ⟨?_, ?_, fun k hk => ?_, ?_, fun l hl => ?_, ?_, fun q hq => ?_⟩
  · rw [Dev.basin, only]
    exact Dev.basin_setBasin_self _ _ _
  · rw [job]
    exact Dev.job_setJob_self _ _ _
  · rw [job, basinTaken, Dev.job_setJob, if_neg hk, Dev.setBasin_job, job']
  · rw [only]
    exact (show (coresTaken d j).mem = _ by rw [taken])
  · obtain ⟨_, _, _, hc⟩ := cores (d.phys l)
    rw [hc]
    exact cores' l hl
  · rw [only]
    exact (show (coresTaken d j).str = _ by rw [taken, loadStreams_only])
  · obtain ⟨_, _, _, hc⟩ := cores q
    rw [hc]
    exact calm q hq

section Restore

variable {d : Dev} {b j : Nat} (he : (d.basin b).entering = some j) (hsaved : ∀ l, tabGet none d.saved l = none)
  (hrestart : (d.job j).restart = false) (hblank : (d.job j).blank = false)
include he hsaved hrestart hblank

theorem restoreDone_eq : restoreDone d b =
    if ((wakeBasin (basinTaken d b j) b).job j).parked then preempt (wakeBasin (basinTaken d b j) b) b
    else reschedule (noteRunning (resumeCard (wakeBasin (basinTaken d b j) b) j)) b := by
  have unsaved : (jobCores d j).any (fun l => (tabGet none d.saved (256 * j + l)).isSome) = false := by simp [hsaved]
  have filled : fillBlank (loadStreams d j) j = loadStreams d j := by
    rw [fillBlank, if_neg (by simp [loadStreams_job, hblank])]
  obtain ⟨taken, -⟩ := coresTaken_takes d j
  have clp : (dropSaves (coresTaken d j) j).clp = d.clp := by rw [dropSaves, taken, loadStreams_only]
  have job : (dropSaves (coresTaken d j) j).job j = d.job j := by rw [dropSaves, taken, loadStreams_only]; rfl
  unfold restoreDone
  dsimp only
  split
  · next hn => exact nomatch hn.symm.trans he
  · next i hi =>
    cases hi.symm.trans he
    rw [unsaved, if_neg (by simp)]
    dsimp only
    rw [filled]
    simp only [Bool.false_eq_true, ↓reduceIte, ← coresTaken.eq_1, Dev.modJob_eq, Dev.setBasin_job, Dev.job_setJob_self, clp, job, hrestart,
      basinTaken, Basin.resumed]

theorem restoreDone_parks (hp : (d.job j).parked = true) :
    Preempted (wakeBasin (basinTaken d b j) b) b j (restoreDone d b) := by
  obtain ⟨basin, job, -⟩ := basinTaken_takes d b j
  rw [restoreDone_eq he hsaved hrestart hblank, if_pos (by rw [job]; exact hp)]
  exact preempt_preempts (by rw [basin]; rfl)

theorem restoreDone_runs (hw : (d.job j).waiting = none) (hp : (d.job j).parked = false)
    (hidle : ∀ t ∈ [4 * b, 4 * b + 1, 4 * b + 2, 4 * b + 3], t ≠ j → (d.job t).state = .idle) :
    restoreDone d b = noteRunning (wakeBasin (basinTaken d b j) b) := by
  obtain ⟨basin, job, others, -⟩ := basinTaken_takes d b j
  rw [restoreDone_eq he hsaved hrestart hblank, if_neg (by rw [job]; simp [hp])]
  generalize wakeBasin (basinTaken d b j) b = e at *
  have resumed : resumeCard e j = e := by simp only [resumeCard, job, hw]
  have job_e (k : Nat) : (noteRunning e).job k = e.job k := by rw [noteRunning_only]; rfl
  have quiet (t : Nat) (ht : t ∈ [4 * b, 4 * b + 1, 4 * b + 2, 4 * b + 3]) (hne : t ≠ j) : ready (noteRunning e) t = false :=
    ready_idle (by rw [job_e, others t hne]; exact hidle t ht hne)
  rw [resumed]
  refine reschedule_stays (s := j) (by rw [noteRunning_only]; exact congrArg Basin.holder basin) (fun t ht hne _ => quiet t ht hne) (.inr ?_)
  refine List.any_eq_false.mpr fun t ht hc => ?_
  simp only [Bool.and_eq_true, Bool.not_eq_true', beq_eq_false_iff_ne] at hc
  exact nomatch hc.2.symm.trans (quiet t ht hc.1)

end Restore

/-! ## The commands -/

section Commands

variable {s : State} {b : Nat} (hs : asleep s.dev = false) (hb : b < 16)
include hs hb

theorem sliceEnd_next : exec (.sliceEnd b) s = .next { s with dev := sliceEnd s.dev b } :=
  onDev_next (f := fun _ d => sliceEnd d b) (show is16 b = true from decide_eq_true hb) hs

theorem preemptGraceDone_next : exec (.preemptGraceDone b) s = .next { s with dev := graceDone s.dev b } :=
  onDev_next (f := fun _ d => graceDone d b) (show is16 b = true from decide_eq_true hb) hs

theorem preemptDrainDone_next : exec (.preemptDrainDone b) s = .next { s with dev := drainDone s.dev b } :=
  onDev_next (f := fun _ d => drainDone d b) (show is16 b = true from decide_eq_true hb) hs

theorem saveDone_next : exec (.saveDone b) s = .next { s with dev := saveDone s.dev b } :=
  onDev_next (f := fun _ d => saveDone d b) (show is16 b = true from decide_eq_true hb) hs

theorem restoreDone_next {j : Nat} (he : (s.dev.basin b).entering = some j) (hc : JobCalm (restoreDone s.dev b) j) :
    exec (.restoreDone b) s = .next { s with dev := restoreDone s.dev b } := by
  refine (onDev_next (f := fun _ d => match (d.basin b).entering with
    | some t => codDrain (drainJob (restoreDone d b) t) t
    | none => d) (show is16 b = true from decide_eq_true hb) hs).trans ?_
  rw [he]
  dsimp only
  rw [drainJob_calm hc, codDrain_calm hc]

theorem restoreDone_idle (he : (s.dev.basin b).entering = none) : exec (.restoreDone b) s = .next { s with dev := s.dev } := by
  refine (onDev_next (f := fun _ d => match (d.basin b).entering with
    | some t => codDrain (drainJob (restoreDone d b) t) t
    | none => d) (show is16 b = true from decide_eq_true hb) hs).trans ?_
  rw [he]

theorem graceOverrun_next : exec (.graceOverrun b) s = .next { s with dev := graceOverran s.dev b } :=
  onDev_next (f := fun _ d => graceOverran d b) (show is16 b = true from decide_eq_true hb) hs

end Commands

/-- Settles O44: each of the six commands through what it does to its basin, its job and the job's cores. -/
theorem basinsChangeHands : Obligations.BasinsChangeHands := by
  intro s b hs hb
  dsimp only
  refine ⟨fun h hholder hleaving hentering hstop hreb hnext hbound => ⟨_, sliceEnd_next hs hb, ?_⟩,
    fun h hholder hleaving hentering hstop hreb hnext hunb => ⟨_, sliceEnd_next hs hb, ?_⟩,
    fun h hh hw => (sliceEnd_next hs hb).trans (by rw [sliceEnd_waits hh hw]),
    fun h hh hstop hslice ho => ⟨_, sliceEnd_next hs hb, ?_⟩,
    fun h hh hstop hslice ho => ⟨_, sliceEnd_next hs hb, ?_⟩,
    fun j hl hg hsv ho => ⟨_, preemptGraceDone_next hs hb, ?_⟩,
    fun j hl ho => ?_,
    fun j hl hg hsv hov hlate => ⟨_, graceOverrun_next hs hb, ?_⟩,
    fun hw => (graceOverrun_next hs hb).trans ?_,
    fun hl => ?_,
    fun j hl hg hsv ho ht => ⟨_, preemptDrainDone_next hs hb, ?_⟩,
    fun j d2 hl hsv hm hbound hj => ⟨_, saveDone_next hs hb, ?_⟩,
    fun he => restoreDone_idle hs hb he,
    fun j he hsaved hrestart hblank hwait hcalm hidle hpark => ?_,
    fun j he hsaved hrestart hblank hpark hstop hcalm => ?_⟩
  · have gives := giveBasin_vacant ⟨hholder, hleaving, hentering, hstop, hreb⟩ hnext
    rw [hbound, if_neg (by simp)] at gives
    obtain ⟨only, marked, -⟩ := enterBasin_enters s.dev b h
    rw [sliceEnd_none hholder, gives]
    exact ⟨setBasin_basins (by rw [only]; rfl), marked, only.trans (by rw [only]; rfl)⟩
  · have gives := giveBasin_vacant ⟨hholder, hleaving, hentering, hstop, hreb⟩ hnext
    rw [hunb, if_pos rfl] at gives
    rw [sliceEnd_none hholder, gives]
    exact ⟨Dev.job_setJob_self _ _ _, rfl⟩
  · rw [sliceEnd_renews hh hstop hslice ho]
    exact ⟨setBasin_basins rfl, rfl⟩
  · rw [sliceEnd_preempts hh hstop hslice ho]
    have pre := preempt_preempts hh
    refine ⟨setBasin_basins pre.sch, pre.job_self, fun k hk => pre.job_other hk, fun apart l hl => ?_, pre.only⟩
    have mem := (List.mem_filter.mp hl).1
    cases hown : ownsSharedCore s.dev b l with
    | true => exact pre.busy l mem hown
    | false => exact pre.idle l hl hown (apart l mem)
  · rw [graceDone_stops hl hg hsv ho]
    obtain ⟨only, -, idle⟩ := stopCores_stops (s.dev.setBasin b ((s.dev.basin b).graced (BitVec.ofNat 32 (s.dev.clp.elapsed - (s.dev.basin b).stepStart)))) j
    exact ⟨setBasin_basins (by rw [only]; rfl), idle, only.trans (by rw [only]; rfl)⟩
  · have only_j : ∀ i, (s.dev.basin b).leaving = some i → graceOver s.dev i = false := fun i hi => by
      cases hi.symm.trans hl
      exact ho
    exact ⟨(preemptGraceDone_next hs hb).trans (by rw [graceDone_waits only_j]), (preemptDrainDone_next hs hb).trans (by rw [drainDone_waits only_j])⟩
  · have late : graceOverran s.dev b = { s.dev.setBasin b ((s.dev.basin b).graced (BitVec.ofNat 32 (s.dev.clp.elapsed - (s.dev.basin b).stepStart))) with
        sch := { (s.dev.setBasin b ((s.dev.basin b).graced (BitVec.ofNat 32 (s.dev.clp.elapsed - (s.dev.basin b).stepStart)))).sch with
          graceOverrun := true, graceOverruns := sat16 s.dev.sch.graceOverruns } } := if_pos (by simp [hl, hg, hsv, hov, hlate])
    rw [late]
    exact ⟨Dev.basin_setBasin_self _ _ _, fun k hk => (Dev.basin_setBasin _ _ _ _).trans (if_neg hk), rfl⟩
  · rw [graceOverran_waits (.inr hw)]
  · have none_leaves : ∀ i, (s.dev.basin b).leaving = some i → graceOver s.dev i = false := fun i hi => nomatch hi.symm.trans hl
    exact ⟨(preemptGraceDone_next hs hb).trans (by rw [graceDone_waits none_leaves]),
      (graceOverrun_next hs hb).trans (by rw [graceOverran_waits (.inl hl)]),
      (preemptDrainDone_next hs hb).trans (by rw [drainDone_waits none_leaves]),
      (saveDone_next hs hb).trans (by rw [saveDone_idle hl])⟩
  · obtain ⟨sch, marked, gone, only⟩ := drainDone_drains hl hg hsv ho ht
    exact ⟨setBasin_basins sch, marked, gone, only⟩
  · rw [saveDone_eq hl hsv hm]
    obtain ⟨job, mem, saved, leaving, saving, lastSave, cores⟩ := leftSaved_leaves (x := s.dev.basin b) (j := j) hbound
    refine ⟨by rw [job]; rfl, by rw [job]; rfl, by rw [job]; rfl, leaving, saving, lastSave, fun l hl _ => ?_, cores, mem⟩
    rw [saved, saveCtx_eq]
    exact saveInto_get hl _
  · obtain ⟨basin, job, -, mem, cores, str, calm⟩ := basinTaken_takes s.dev b j
    have runs := restoreDone_runs he hsaved hrestart hblank hwait hpark hidle
    have next := restoreDone_next hs hb he
    have only := noteRunning_only (wakeBasin (basinTaken s.dev b j) b)
    rw [← runs] at only
    generalize restoreDone s.dev b = e at *
    generalize wakeBasin (basinTaken s.dev b j) b = w at *
    have basin' : e.basin b = (s.dev.basin b).resumed j s.dev.clp.elapsed := by rw [only]; exact basin
    have job' : e.job j = { s.dev.job j with state := .running, started := true } := by rw [only]; exact job
    refine ⟨e, next (hcalm.mono (by rw [job']) (by rw [only]; exact str) (fun q hq => by rw [only]; exact calm q hq)), ?_⟩
    dsimp only
    rw [basin', job']
    exact ⟨rfl, rfl, rfl, rfl, rfl, rfl, rfl, rfl, fun l hl => by rw [only]; exact cores l hl, by rw [only]; exact mem⟩
  · obtain ⟨basin, job, -, -, -, str, calm⟩ := basinTaken_takes s.dev b j
    have pre := restoreDone_parks he hsaved hrestart hblank hpark
    have next := restoreDone_next hs hb he
    generalize restoreDone s.dev b = e at *
    generalize wakeBasin (basinTaken s.dev b j) b = w at *
    have basin' := pre.basin_self
    have job' := pre.job_self
    rw [basin] at basin'
    rw [job] at job'
    refine ⟨e, next (hcalm.mono (by rw [job']; rfl) (by rw [pre.only]; exact str) fun q hq => ?_), ?_⟩
    · obtain ⟨a, ha⟩ := pre.cores q
      rw [ha]
      exact calm q hq
    · dsimp only
      rw [basin', job']
      exact ⟨rfl, rfl, rfl, rfl, hpark⟩

end Sys2Proof.Machine
end

section
/-! PROOFS. The control of a job slot: ENABLE, ABANDON, RESUME, PREEMPT_REQ and doorbells (spec/04_clepsydra_and_scheduling.md R92,
R95, R97, R110). -/

namespace Sys2Proof.Machine

/-! ## ENABLE (R92, R93) -/

/-- The ring check reads the rings of its own slot; the checks it waits among and the rest of the slot do not matter. -/
theorem ringOk_congr {d e : Dev} {slot : Nat} (hstr : e.str = d.str) (htrn : e.trn = d.trn)
    (hjobs : ∀ k, k ≠ slot → e.job k = d.job k) (r : Nat × Nat) (lg : Nat) : ringOk e slot r lg = ringOk d slot r lg := by
  have hend : hbmEnd e = hbmEnd d := by simp only [hbmEnd, hbmCap, slotsPerPc, hstr]
  have apart (k : Nat) : (k == slot || (e.job k).state == .idle
      || (!(meet r.1 r.2 (cardSpan (e.job k)).1 (cardSpan (e.job k)).2) && !(meet r.1 r.2 (cplSpan (e.job k)).1 (cplSpan (e.job k)).2)))
      = (k == slot || (d.job k).state == .idle
      || (!(meet r.1 r.2 (cardSpan (d.job k)).1 (cardSpan (d.job k)).2) && !(meet r.1 r.2 (cplSpan (d.job k)).1 (cplSpan (d.job k)).2))) := by
    by_cases hk : k = slot
    · simp [hk]
    · rw [hjobs k hk]
  have guarded (a n : Nat) : rangeGuarded e a n = rangeGuarded d a n := by simp only [rangeGuarded, frameGuarded, Dev.frame, htrn]
  simp only [ringOk, hend, guarded, apart]

/-- The job whose check ends with a refusal. -/
def Job.refusedFor (j : Job) (reason detail : Nat) : Job :=
  { j with state := .refused, reason := BitVec.ofNat 8 reason, detail := BitVec.ofNat 32 detail, ringDue := false }

theorem refuseJob_job (d : Dev) (slot reason detail k : Nat) :
    (refuseJob d slot reason detail).job k = if k = slot then (d.job slot).refusedFor reason detail else d.job k :=
  Dev.job_setJob d slot k ((d.job slot).refusedFor reason detail)

/-- The slot as ENABLE leaves it. -/
def checkingJob (d : Dev) (slot : Nat) : Job :=
  let j := d.job slot
  let base := j.prog.toNat
  let n := if hbmOk d base && decide (base % 2 ^ 40 + 12 ≤ hbmEnd d) then d.hbmNat (base + 8) 4 else 0
  { j with state := .checking, enable := true, guarded := some (base, n), doorbell := 0, ringDue := loading d, image := none }

/-- The device with the slot's check the youngest. -/
def enabled (d : Dev) (slot : Nat) : Dev :=
  { d.setJob slot (checkingJob d slot) with sch := { d.sch with checks := d.sch.checks ++ [slot] } }

theorem enabled_job (d : Dev) (slot k : Nat) : (enabled d slot).job k = if k = slot then checkingJob d slot else d.job k :=
  Dev.job_setJob d slot k (checkingJob d slot)

theorem ringFault_enabled (d : Dev) (slot : Nat) : ringFault (enabled d slot) slot = ringFault d slot := by
  have ok (r : Nat × Nat) (lg : Nat) : ringOk (enabled d slot) slot r lg = ringOk d slot r lg :=
    ringOk_congr (d := d) (e := enabled d slot) rfl rfl (fun k hk => (enabled_job d slot k).trans (if_neg hk)) r lg
  have job : (enabled d slot).job slot = checkingJob d slot := (enabled_job d slot slot).trans (if_pos rfl)
  have card : cardSpan (checkingJob d slot) = cardSpan (d.job slot) := rfl
  have cpl : cplSpan (checkingJob d slot) = cplSpan (d.job slot) := rfl
  have log : (checkingJob d slot).cardLog2 = (d.job slot).cardLog2 := rfl
  have log' : (checkingJob d slot).cplLog2 = (d.job slot).cplLog2 := rfl
  unfold ringFault
  dsimp only
  rw [job, card, cpl, log, log', ok, ok]

section Enable

variable {d : Dev} {slot : Nat} (h : (d.job slot).state = .idle)

theorem jobEnable_busy (h : (d.job slot).state ≠ .idle) : jobEnable d slot = d := if_pos (by simpa using h)

include h

theorem jobEnable_eq : jobEnable d slot = if loading d then enabled d slot else match ringFault (enabled d slot) slot with
    | some det => refuseJob (enabled d slot) slot 0x50 det
    | none => enabled d slot := by
  unfold jobEnable
  dsimp only
  rw [if_neg (by simp [h])]
  rfl

theorem jobEnable_checks (hr : loading d = true ∨ ringFault d slot = none) : jobEnable d slot = enabled d slot := by
  rw [jobEnable_eq h, ringFault_enabled]
  rcases hr with hr | hr
  · exact if_pos hr
  · rw [hr]; exact ite_self _

theorem jobEnable_refuses {det : Nat} (hl : loading d = false) (hr : ringFault d slot = some det) :
    jobEnable d slot = refuseJob (enabled d slot) slot 0x50 det := by
  rw [jobEnable_eq h, ringFault_enabled, hl, hr]
  rfl

end Enable

/-! ## The slot becomes IDLE (R95) -/

/-- The slot's job once it is IDLE. -/
def Job.idled (j : Job) : Job :=
  { j with state := .idle, enable := false, abandon := false, preemptReq := false, parked := false, cardsHeld := false, image := none,
           guarded := none, waiting := none, turn := none, started := false, restart := false, askReplay := false, blank := false }

/-- A basin that slot `k` is no longer in. -/
def Basin.without (x : Basin) (k : Nat) : Basin :=
  { x with holder := if x.holder == some k then none else x.holder, leaving := if x.leaving == some k then none else x.leaving,
           entering := if x.entering == some k then none else x.entering, grace := x.grace && !(x.leaving == some k), saving := x.saving && !(x.leaving == some k), restoring := x.restoring && !(x.entering == some k) }

theorem without_gone (x : Basin) (k : Nat) : (x.without k).holder ≠ some k ∧ (x.without k).leaving ≠ some k := by
  unfold Basin.without
  constructor <;> dsimp only <;> split <;> simp_all

/-- What slot `k` holds is given back: owners, held frames, cores and saves. -/
def slotEmptied (d : Dev) (k : Nat) : Dev := dropSaves (clearCores (emptyHeld (dropOwners d k) k) k) k

theorem emptyHeld_jobs (d : Dev) (k : Nat) : (emptyHeld d k).jobs = d.jobs ∧ (emptyHeld d k).sch = d.sch := by
  unfold emptyHeld
  dsimp only
  rw [pushFrames_trnOnly]
  exact ⟨rfl, rfl⟩

theorem emptyHeld_tslot (d : Dev) (k : Nat) : (emptyHeld d k).tslot k = { d.tslot k with held := [] } := by
  rw [emptyHeld, pushFrames_tslot, Dev.tslot_setTslot_self]

theorem slotEmptied_keeps (d : Dev) (k : Nat) : (slotEmptied d k).job k = d.job k ∧ (slotEmptied d k).tslot k = { d.tslot k with held := [] } := by
  have owners := dropOwners_aside d k
  unfold slotEmptied dropSaves
  rw [(clearCores_clears _ k).1]
  exact ⟨by rw [← owners.job k]; exact congrArg (tabGet _ · k) (emptyHeld_jobs _ k).1, by rw [← owners.tslot k]; exact emptyHeld_tslot _ k⟩

/-- The holder and the leaving job of a basin stay when an empty basin is given away. -/
theorem giveBasin_basin (d : Dev) (b : Nat) :
    ((giveBasin d b).basin b).holder = (d.basin b).holder ∧ ((giveBasin d b).basin b).leaving = (d.basin b).leaving := by
  obtain he | ⟨s, -, -, he⟩ := giveBasin_cases d b <;> rw [he]
  · exact ⟨rfl, rfl⟩
  · split
    · exact ⟨rfl, rfl⟩
    · have entered : (enterBasin d b s).basin b = (d.basin b).entered s d.clp.elapsed := by
        rw [(enterBasin_enters d b s).1]; exact Dev.basin_setBasin_self d b _
      rw [entered]
      exact ⟨rfl, rfl⟩

/-- The slot's job, turn and basin cleared. -/
def slotCleared (e : Dev) (k : Nat) : Dev :=
  ((e.setJob k (e.job k).idled).setTslot k { e.tslot k with root := 0 }).setBasin (basinOf k) ((e.basin (basinOf k)).without k)

theorem slotIdle_eq (d : Dev) (k : Nat) : slotIdle d k = noteRunning (giveBasin (slotCleared (slotEmptied d k) k) (basinOf k)) := by
  unfold slotIdle slotCleared slotEmptied
  generalize dropSaves _ k = e
  rfl

theorem slotCleared_job (e : Dev) (k : Nat) : (slotCleared e k).job k = (e.job k).idled := Dev.job_setJob_self e k _

theorem slotCleared_tslot (e : Dev) (k : Nat) : (slotCleared e k).tslot k = { e.tslot k with root := 0 } :=
  Dev.tslot_setTslot_self (e.setJob k (e.job k).idled) k _

theorem slotCleared_basin (e : Dev) (k : Nat) : (slotCleared e k).basin (basinOf k) = (e.basin (basinOf k)).without k := Dev.basin_setBasin_self _ _ _

/-- A cleared slot's basin goes on without touching the slot. -/
theorem givenOn_keeps (e : Dev) (k : Nat) (h : (e.job k).state = .idle) : let y := noteRunning (giveBasin e (basinOf k))
    y.job k = e.job k ∧ y.tslot k = e.tslot k ∧ (y.basin (basinOf k)).holder = (e.basin (basinOf k)).holder
    ∧ (y.basin (basinOf k)).leaving = (e.basin (basinOf k)).leaving := by
  have job := giveBasin_job (ready_idle h) (basinOf k)
  obtain ⟨holder, leaving⟩ := giveBasin_basin e (basinOf k)
  have trn := (giveBasin_switched e (basinOf k)).trn
  generalize giveBasin e (basinOf k) = y at *
  dsimp only
  rw [noteRunning_only]
  exact ⟨job, by rw [Dev.tslot, Dev.tslot, ← trn], holder, leaving⟩

theorem slotIdle_idles (d : Dev) (k : Nat) :
    (slotIdle d k).job k = (d.job k).idled ∧ (slotIdle d k).tslot k = { d.tslot k with held := [], root := 0 }
    ∧ ((slotIdle d k).basin (basinOf k)).holder ≠ some k ∧ ((slotIdle d k).basin (basinOf k)).leaving ≠ some k := by
  obtain ⟨job, tslot⟩ := slotEmptied_keeps d k
  rw [slotIdle_eq]
  generalize slotEmptied d k = e at *
  obtain ⟨job', tslot', holder, leaving⟩ := givenOn_keeps (slotCleared e k) k (by rw [slotCleared_job]; rfl)
  rw [job', tslot', holder, leaving, slotCleared_job, slotCleared_tslot, slotCleared_basin, job, tslot]
  exact ⟨rfl, rfl, without_gone _ k⟩

theorem endTurn_none {d : Dev} {k : Nat} (ht : (d.job k).turn = none) (hw : (d.job k).waiting = none) (st : RecStatus) (r : Byte) :
    endTurn d k st r = d := by simp only [endTurn, ht, hw]

/-! ## DISABLE, ABANDON and PREEMPT_REQ (R95, R110) -/

/-- The slot starts to leave its basin, which counts `preempts` pre-emptions. -/
def Leaves (d : Dev) (slot : Nat) (e : Dev) (preempts : BitVec 16) : Prop :=
  (e.basin (basinOf slot)).holder = none ∧ (e.basin (basinOf slot)).leaving = some slot ∧ (e.basin (basinOf slot)).grace = true
  ∧ (e.basin (basinOf slot)).stepStart = d.clp.elapsed ∧ (e.basin (basinOf slot)).preempts = preempts
  ∧ (e.job slot).state = .preempting
  ∧ (∀ t, (d.job slot).turn = some t → (e.job slot).turn = some { t with preempted := t.preempted || !((d.tslot slot).phase == .folding) })
  ∧ (∀ k, k ≠ slot → e.job k = d.job k)
  ∧ (∀ l ∈ heldCores d slot, ownsSharedCore d (basinOf slot) l = false → (∀ m ∈ jobCores d slot, m ≠ l → d.phys m ≠ d.phys l) → (e.core (d.phys l)).active = false)
  ∧ e.mem = d.mem

section Leave

variable {d e : Dev} {slot : Nat} {x : Job}

theorem preempted_leaves (himg : x.image = (d.job slot).image) (hturn : x.turn = (d.job slot).turn)
    (h : Preempted (d.setJob slot x) (basinOf slot) slot e) :
    Leaves d slot e (sat16 (d.basin (basinOf slot)).preempts) ∧ e.job slot = x.preempted ((d.tslot slot).phase == .folding) := by
  have cores : jobCores (d.setJob slot x) slot = jobCores d slot := jobCores_congr (by rw [Dev.job_setJob_self, himg])
  have held : heldCores (d.setJob slot x) slot = heldCores d slot := by rw [heldCores, cores]; rfl
  have job := h.job_self
  have basin := h.basin_self
  have idle := h.idle
  rw [Dev.job_setJob_self, Dev.setJob_tslot] at job
  rw [held, cores] at idle
  refine ⟨?_, job⟩
  unfold Leaves
  rw [basin, job]
  refine ⟨rfl, rfl, rfl, rfl, rfl, rfl, fun t ht => ?_, fun k hk => ?_, idle, h.switched.mem⟩
  · rw [Job.preempted, hturn, ht]
    rfl
  · rw [h.job_other hk, Dev.job_setJob, if_neg hk]

theorem Leaves.setBasin {p : BitVec 16} (h : Leaves d slot e p) (q : BitVec 16) :
    Leaves d slot (e.setBasin (basinOf slot) { e.basin (basinOf slot) with preempts := q }) q := by
  obtain ⟨holder, leaving, grace, start, -, rest⟩ := h
  unfold Leaves
  rw [Dev.basin_setBasin_self]
  exact ⟨holder, leaving, grace, start, rfl, rest⟩

end Leave

/-- The job that PREEMPT_REQ parks. -/
def Job.parkedNow (j : Job) : Job := { j with parked := true, preemptReq := false }

/-- The job that PREEMPT_REQ asks to leave its basin. -/
def Job.asked (j : Job) : Job := { j with preemptReq := true }

/-- What a job's own record alone is written to. -/
theorem setJob_only (d : Dev) (slot : Nat) (x : Job) :
    (d.setJob slot x).job slot = x ∧ (∀ k, k ≠ slot → (d.setJob slot x).job k = d.job k) ∧ d.setJob slot x = { d with jobs := (d.setJob slot x).jobs } :=
  ⟨Dev.job_setJob_self d slot x, fun k hk => (Dev.job_setJob d slot k x).trans (if_neg hk), rfl⟩

section Control

variable {d : Dev} {slot : Nat}

theorem jobAbandon_idle (h : isActive (d.job slot).state = false ∨ d.flt.stopActive = true) : jobAbandon d slot = d := if_pos (by
  simpa using h)

/-- The slot with its drain asked for. -/
def abandoned (d : Dev) (slot : Nat) : Dev := d.setJob slot { d.job slot with abandon := true }

theorem jobAbandon_drains (ha : isActive (d.job slot).state = true) (hl : (d.job slot).state ≠ .lost) (hs : d.flt.stopActive = false) :
    jobAbandon d slot = if (d.basin (basinOf slot)).holder == some slot then
      (preempt (abandoned d slot) (basinOf slot)).modBasin (basinOf slot) (fun x => { x with preempts := (d.basin (basinOf slot)).preempts })
      else abandoned d slot := by
  unfold jobAbandon
  dsimp only
  rw [if_neg (by simp [ha, hs]), if_neg (by simp [hl])]
  rfl

theorem jobAbandonDone_waits (h : (d.job slot).abandon = false ∨ tmDrained d slot = false) : jobAbandonDone d slot = d := by
  unfold jobAbandonDone
  dsimp only
  refine if_pos ?_
  rcases h with h | h <;> simp [h]

theorem jobAbandonDone_ends (ha : (d.job slot).abandon = true) (hs : d.flt.stopActive = false) (hl : (d.basin (basinOf slot)).leaving ≠ some slot)
    (hd : (d.tslot slot).phase ≠ .decided) (hf : (d.tslot slot).phase ≠ .folding) (ht : tmDrained d slot = true) :
    jobAbandonDone d slot = slotIdle (endTurn d slot .aborted 0) slot := by
  unfold jobAbandonDone
  dsimp only
  refine if_neg ?_
  cases hp : (d.tslot slot).phase with
  | decided => exact absurd hp hd
  | folding => exact absurd hp hf
  | _ => simp [ha, hs, ht, hl]

theorem jobDisable_ends (h : (d.job slot).state = .admitted ∨ (d.job slot).state = .saved) :
    jobDisable d slot = if (d.job slot).turn.isNone then slotIdle (endTurn d slot .aborted 0) slot else d := by
  rcases h with h | h <;> simp only [jobDisable, h]

theorem jobDisable_idle (h : (d.job slot).state = .idle ∨ (d.job slot).state = .running ∨ (d.job slot).state = .checking) :
    jobDisable d slot = d := by
  rcases h with h | h | h <;> simp only [jobDisable, h]

theorem jobPreemptReq_parks (h : (d.job slot).state = .admitted ∨ (d.job slot).state = .saved ∨ (d.job slot).state = .waitBind) :
    jobPreemptReq d slot = d.setJob slot (d.job slot).parkedNow := by
  rcases h with h | h | h <;> simp only [jobPreemptReq, h] <;> rfl

theorem jobPreemptReq_running (h : (d.job slot).state = .running) : jobPreemptReq d slot =
    if (d.basin (basinOf slot)).holder == some slot then preempt (d.setJob slot (d.job slot).asked) (basinOf slot)
    else d.setJob slot (d.job slot).parkedNow := by
  simp only [jobPreemptReq, h]; rfl

theorem jobPreemptReq_preempting (h : (d.job slot).state = .preempting) : jobPreemptReq d slot = d.setJob slot (d.job slot).asked := by
  simp only [jobPreemptReq, h]; rfl

theorem jobPreemptReq_idle (h : (d.job slot).state = .idle ∨ (d.job slot).state = .checking ∨ (d.job slot).state = .refused
    ∨ (d.job slot).state = .lost) : jobPreemptReq d slot = d := by
  rcases h with h | h | h | h <;> simp only [jobPreemptReq, h]

theorem jobResume_eq (hw : (d.job slot).waiting = none) :
    jobResume d slot = reschedule (d.setJob slot { d.job slot with parked := false, cardsHeld := false }) (basinOf slot) := by
  simp only [jobResume, resumeCard, Dev.modJob_eq, Dev.job_setJob_self, hw]

theorem jobDoorbell_ignored {v : Word} (h : 2 ^ (d.job slot).cardLog2.toNat < (v - (d.job slot).cardsTaken).toNat) :
    jobDoorbell d slot v = d.setJob slot { d.job slot with doorbellIgnored := true } := if_pos h

theorem jobDoorbell_rings {v : Word} (h : (v - (d.job slot).cardsTaken).toNat ≤ 2 ^ (d.job slot).cardLog2.toNat) :
    jobDoorbell d slot v = reschedule (d.setJob slot { d.job slot with doorbell := v }) (basinOf slot) := if_neg (Nat.not_lt.mpr h)

end Control

/-! ## The commands -/

section Commands

variable {s : State} {slot : Nat} (hs : asleep s.dev = false) (h : slot < 64)
include hs h

theorem jobEnable_next : exec (.jobEnable slot) s = .next { s with dev := jobEnable s.dev slot } :=
  onDev_next (f := fun _ d => jobEnable d slot) (show isSlot slot = true from decide_eq_true h) hs

theorem jobDisable_next : exec (.jobDisable slot) s = .next { s with dev := jobDisable s.dev slot } :=
  onDev_next (f := fun _ d => jobDisable d slot) (show isSlot slot = true from decide_eq_true h) hs

theorem jobAbandon_next : exec (.jobAbandon slot) s = .next { s with dev := jobAbandon s.dev slot } :=
  onDev_next (f := fun _ d => jobAbandon d slot) (show isSlot slot = true from decide_eq_true h) hs

theorem jobAbandonDone_next : exec (.jobAbandonDone slot) s = .next { s with dev := jobAbandonDone s.dev slot } :=
  onDev_next (f := fun _ d => jobAbandonDone d slot) (show isSlot slot = true from decide_eq_true h) hs

theorem jobResume_next : exec (.jobResume slot) s = .next { s with dev := jobResume s.dev slot } :=
  onDev_next (f := fun _ d => jobResume d slot) (show isSlot slot = true from decide_eq_true h) hs

theorem jobPreemptReq_next : exec (.jobPreemptReq slot) s = .next { s with dev := jobPreemptReq s.dev slot } :=
  onDev_next (f := fun _ d => jobPreemptReq d slot) (show isSlot slot = true from decide_eq_true h) hs

theorem jobDoorbell_next (v : Word) : exec (.jobDoorbell slot v) s = .next { s with dev := jobDoorbell s.dev slot v } :=
  onDev_next (f := fun _ d => jobDoorbell d slot v) (show isSlot slot = true from decide_eq_true h) hs

end Commands

/-- Settles O41: each command through what it does to its slot. That the rings are checked at ENABLE, or at the end of a load that
holds the check, and what an ABANDON does to a job that is leaving its basin are the model's choices (log entries 63 and 54). -/
theorem jobSlotsFollowTheirControl : Obligations.JobSlotsFollowTheirControl := by
  intro s slot hs hslot
  dsimp only
  refine ⟨fun h => (jobEnable_next hs hslot).trans (by rw [jobEnable_busy h]),
    fun h hr => ⟨_, jobEnable_next hs hslot, ?_⟩,
    fun det h hl hr => ⟨_, jobEnable_next hs hslot, ?_⟩,
    fun h => ⟨_, jobDisable_next hs hslot, ?_⟩,
    fun h ht hw => ⟨_, jobDisable_next hs hslot, ?_⟩,
    fun h ht => (jobDisable_next hs hslot).trans ?_,
    fun h => (jobDisable_next hs hslot).trans ?_,
    fun ha hl hstop hh => ⟨_, jobAbandon_next hs hslot, ?_⟩,
    fun ha hl hstop hh => ⟨_, jobAbandon_next hs hslot, ?_⟩,
    fun h => (jobAbandon_next hs hslot).trans (by rw [jobAbandon_idle h]),
    fun ha hstop hl hd hf hdr ht hw => ⟨_, jobAbandonDone_next hs hslot, ?_⟩,
    fun t ha hstop hl hd hf hdr ht => ⟨_, jobAbandonDone_next hs hslot, ?_⟩,
    fun h => (jobAbandonDone_next hs hslot).trans (by rw [jobAbandonDone_waits h]),
    fun hw => ⟨_, jobResume_next hs hslot, ?_⟩,
    fun h => ⟨_, jobPreemptReq_next hs hslot, ?_⟩,
    fun h hh => ⟨_, jobPreemptReq_next hs hslot, ?_⟩,
    fun h => ⟨_, jobPreemptReq_next hs hslot, ?_⟩,
    fun h hh => ⟨_, jobPreemptReq_next hs hslot, ?_⟩,
    fun h => (jobPreemptReq_next hs hslot).trans (by rw [jobPreemptReq_idle h]),
    fun v hv => ⟨_, jobDoorbell_next hs hslot v, ?_⟩,
    fun v hv => ⟨_, jobDoorbell_next hs hslot v, ?_⟩⟩
  · rw [jobEnable_checks h hr]
    exact ⟨(enabled_job s.dev slot slot).trans (if_pos rfl), fun k hk => (enabled_job s.dev slot k).trans (if_neg hk), rfl⟩
  · rw [jobEnable_refuses h hl hr]
    dsimp only
    rw [refuseJob_job, if_pos rfl, enabled_job, if_pos rfl]
    refine ⟨rfl, rfl, rfl, rfl, fun k hk => ?_, rfl⟩
    rw [refuseJob_job, if_neg hk, enabled_job, if_neg hk]
  · rw [show jobDisable s.dev slot = s.dev.setJob slot _ by simp only [jobDisable, h]; rfl]
    exact setJob_only s.dev slot _
  · rw [jobDisable_ends h, if_pos (by simp [ht]), endTurn_none ht hw]
    obtain ⟨job, tslot, holder, leaving⟩ := slotIdle_idles s.dev slot
    rw [job, tslot]
    exact ⟨rfl, rfl, rfl, holder, leaving⟩
  · rw [jobDisable_ends h, if_neg (by simpa using Option.isSome_iff_ne_none.mp ht)]
  · rw [jobDisable_idle h]
  · rw [jobAbandon_drains ha hl hstop, if_neg (by simpa using hh)]
    exact setJob_only s.dev slot _
  · rw [jobAbandon_drains ha hl hstop, if_pos (by simpa using hh)]
    have pre : Preempted (abandoned s.dev slot) (basinOf slot) slot _ := preempt_preempts hh
    obtain ⟨leaves, job⟩ := preempted_leaves (d := s.dev) (x := { s.dev.job slot with abandon := true }) rfl rfl pre
    exact ⟨by rw [Dev.modBasin_eq, Dev.setBasin_job, job]; rfl, leaves.setBasin _⟩
  · rw [jobAbandonDone_ends ha hstop hl hd hf hdr, endTurn_none ht hw]
    obtain ⟨job, tslot, holder, leaving⟩ := slotIdle_idles s.dev slot
    rw [job, tslot]
    exact ⟨rfl, rfl, rfl, holder, leaving⟩
  · rw [jobAbandonDone_ends ha hstop hl hd hf hdr]
    obtain ⟨tslot, job, -, -⟩ := endTurn_ends ht .aborted 0
    obtain ⟨job', tslot', -, -⟩ := slotIdle_idles (endTurn s.dev slot .aborted 0) slot
    rw [job', tslot', job, tslot]
    exact ⟨rfl, rfl, rfl, rfl, rfl, rfl⟩
  · rw [jobResume_eq hw]
    have switched := reschedule_switched (s.dev.setJob slot { s.dev.job slot with parked := false, cardsHeld := false }) (basinOf slot)
    have job := switched.jobs slot
    rw [Dev.job_setJob_self] at job
    dsimp only
    rw [job]
    exact ⟨rfl, rfl, rfl, switched.mem, switched.trn⟩
  · rw [jobPreemptReq_parks h]
    exact setJob_only s.dev slot _
  · rw [jobPreemptReq_running h, if_neg (by simpa using hh)]
    exact setJob_only s.dev slot _
  · rw [jobPreemptReq_preempting h]
    exact setJob_only s.dev slot _
  · rw [jobPreemptReq_running h, if_pos (by simpa using hh)]
    obtain ⟨leaves, job⟩ := preempted_leaves (d := s.dev) (x := (s.dev.job slot).asked) rfl rfl (preempt_preempts (d := s.dev.setJob slot (s.dev.job slot).asked) hh)
    exact ⟨leaves, by rw [job]; rfl⟩
  · rw [jobDoorbell_ignored hv]
    exact setJob_only s.dev slot _
  · rw [jobDoorbell_rings hv]
    have switched := reschedule_switched (s.dev.setJob slot { s.dev.job slot with doorbell := v }) (basinOf slot)
    have job := switched.jobs slot
    rw [Dev.job_setJob_self] at job
    dsimp only
    rw [job]
    exact ⟨rfl, rfl, switched.mem, switched.trn⟩

end Sys2Proof.Machine
end

section
/-! PROOFS. The end of a program check (spec/04_clepsydra_and_scheduling.md R93; spec/07_loop_nests.md R190, R191). -/

namespace Sys2Proof.Machine

/-! ## What the reads of a check leave -/

theorem meetProg_hbmRead (d : Dev) (addr : Nat) : HbmRead d (meetProg d addr) := by
  unfold meetProg
  split
  · exact hbmRead_refl d
  · exact hbmRead_trans (meetHbm_hbmRead d _ _) (meetSpan_hbmRead _ _ _ _)

/-- The check that is due: the oldest, with no structure load and no stop in its way. -/
def CheckDue (d : Dev) (slot : Nat) : Prop := (checkOrder d).head? = some slot ∧ loading d = false ∧ d.flt.stopActive = false

/-- The end of a check whose rings are sound, on the image as it has been read. -/
def imageCheck (nv : Nv) (m : Dev) (slot : Nat) : Nv × Dev :=
  match progSpan m (m.job slot).prog.toNat with
  | none => (nv, secRefuse (refuseJob m slot 0x20 0) 0x20)
  | some img =>
    if !verifyStruct nv.vendorHash nv.ownerHash img then (nv, secRefuse (refuseJob m slot 0x20 0) 0x20)
    else if !rollbackOk nv.prgCounter (fieldLe img 0x10 4) then (nv, secRefuse (refuseJob m slot 0x2F 0) 0x2F)
    else match checkProg { d := m, slot := slot, img := img } with
      | .error e => (nv, refuseJob m slot e.1 e.2)
      | .ok _ => ({ nv with prgCounter := raiseCounter nv.prgCounter (fieldLe img 0x10 4) }, admitJob m slot (parseProg { d := m, slot := slot, img := img }))

section Check

variable {nv : Nv} {d : Dev} {slot : Nat}

theorem jobCheckDone_waits (h : ¬ CheckDue d slot) : jobCheckDone nv d slot = (nv, d) := by
  refine if_pos ?_
  by_contra hc
  simp only [Bool.or_eq_true, not_or, Bool.not_eq_true, Bool.not_eq_false', beq_iff_eq] at hc
  exact h ⟨hc.1.1, hc.1.2, hc.2⟩

variable (h : CheckDue d slot)
include h

theorem jobCheckDone_rings {det : Nat} (hr : (d.job slot).ringDue = true) (hf : ringFault d slot = some det) :
    jobCheckDone nv d slot = (nv, refuseJob d slot 0x50 det) := by
  obtain ⟨head, load, stop⟩ := h
  unfold jobCheckDone
  rw [if_neg (by simp [head, load, stop]), hr, if_pos rfl, hf]

theorem jobCheckDone_image (hr : (d.job slot).ringDue = false ∨ ringFault d slot = none) :
    jobCheckDone nv d slot = imageCheck nv (meetProg d (d.job slot).prog.toNat) slot := by
  obtain ⟨head, load, stop⟩ := h
  have sound : (if (d.job slot).ringDue then ringFault d slot else none) = none := by
    rcases hr with hr | hr <;> simp [hr]
  unfold jobCheckDone
  rw [if_neg (by simp [head, load, stop]), sound]
  rfl

end Check

theorem HbmRead.job {d m : Dev} (h : HbmRead d m) (k : Nat) : m.job k = d.job k := by rw [Dev.job, h.1]; rfl

/-! ## How an image check ends -/

section Ends

variable {nv : Nv} {m : Dev} {slot : Nat} {img : List Byte}

theorem imageCheck_unread (hp : progSpan m (m.job slot).prog.toNat = none) :
    imageCheck nv m slot = (nv, secRefuse (refuseJob m slot 0x20 0) 0x20) := by
  unfold imageCheck
  rw [hp]

variable (hp : progSpan m (m.job slot).prog.toNat = some img)
include hp

theorem imageCheck_unsigned (hv : verifyStruct nv.vendorHash nv.ownerHash img = false) :
    imageCheck nv m slot = (nv, secRefuse (refuseJob m slot 0x20 0) 0x20) := by
  unfold imageCheck
  rw [hp]
  exact if_pos (by simp [hv])

variable (hv : verifyStruct nv.vendorHash nv.ownerHash img = true)
include hv

theorem imageCheck_rolledBack (hr : rollbackOk nv.prgCounter (fieldLe img 0x10 4) = false) :
    imageCheck nv m slot = (nv, secRefuse (refuseJob m slot 0x2F 0) 0x2F) := by
  unfold imageCheck
  rw [hp]
  exact (if_neg (by simp [hv])).trans (if_pos (by simp [hr]))

variable (hr : rollbackOk nv.prgCounter (fieldLe img 0x10 4) = true)
include hr

theorem imageCheck_refused {r : Nat × Nat} (hc : checkProg { d := m, slot := slot, img := img } = .error r) :
    imageCheck nv m slot = (nv, refuseJob m slot r.1 r.2) := by
  unfold imageCheck
  rw [hp]
  refine (if_neg (by simp [hv])).trans ((if_neg (by simp [hr])).trans ?_)
  rw [hc]

theorem imageCheck_admits (hc : checkProg { d := m, slot := slot, img := img } = .ok ()) : imageCheck nv m slot =
    ({ nv with prgCounter := raiseCounter nv.prgCounter (fieldLe img 0x10 4) }, admitJob m slot (parseProg { d := m, slot := slot, img := img })) := by
  unfold imageCheck
  rw [hp]
  refine (if_neg (by simp [hv])).trans ((if_neg (by simp [hr])).trans ?_)
  rw [hc]

end Ends

/-- The slot's check has ended with a refusal, on the device `d0`. -/
def RefusedBy (d : Dev) (slot r det : Nat) (d0 e : Dev) : Prop :=
  e.job slot = (d.job slot).refusedFor r det ∧ (∀ k, k ≠ slot → e.job k = d.job k)
  ∧ e = { d0 with jobs := e.jobs, sch := { d.sch with checks := d.sch.checks.filter (fun k => !(k == slot)) } }

theorem refuseJob_refuses {d m : Dev} (h : HbmRead d m) (slot r det : Nat) : RefusedBy d slot r det m (refuseJob m slot r det) := by
  refine ⟨?_, fun k hk => ?_, ?_⟩
  · rw [refuseJob_job, if_pos rfl, h.job]
  · rw [refuseJob_job, if_neg hk, h.job]
  · have sch : m.sch = d.sch := by rw [h.1]
    rw [← sch]
    rfl

theorem secRefuse_refuses {d m : Dev} (h : HbmRead d m) (slot r det : Nat) (why : Byte) :
    RefusedBy d slot r det { m with sec := { d.sec with lastReason := why, refusals := sat16 d.sec.refusals } } (secRefuse (refuseJob m slot r det) why) := by
  obtain ⟨job, others, only⟩ := refuseJob_refuses h slot r det
  have sec : m.sec = d.sec := by rw [h.1]
  refine ⟨job, others, ?_⟩
  rw [← sec]
  generalize refuseJob m slot r det = e at *
  rw [secRefuse, only]

/-! ## Admission (R93, R171) -/

/-- A job with no turn, no waiting card and no card to take is not ready (R102). -/
theorem ready_workless {d : Dev} {k : Nat} (ht : (d.job k).turn = none) (hw : (d.job k).waiting = none) (hm : mayTake (d.job k) = false) :
    ready d k = false := by simp [ready, ht, hw, hm]

/-- The job that admission starts. -/
def Job.admitted (j : Job) (p : Prog) : Job :=
  { j with state := .admitted, image := some p, saveUnits := (p.cores.map (fun e => 16 + e.2.scrUnits + e.2.accUnits + e.2.exchUnits)).sum, cardsTaken := 0, cplWritten := 0, ringDue := false }

/-- The slot admitted, before its basin looks for a holder. -/
def admittedSlot (m : Dev) (slot : Nat) (p : Prog) : Dev :=
  let e := { m with sch := { m.sch with checks := m.sch.checks.filter (fun k => !(k == slot)) } }
  (e.setJob slot ((m.job slot).admitted p)).setTslot slot { m.tslot slot with lastCommitted := (m.job slot).firstTurn - 1, epoch := 0, root := p.root }

theorem admitJob_eq (m : Dev) (slot : Nat) (p : Prog) : admitJob m slot p = reschedule (admittedSlot m slot p) (basinOf slot) := by
  unfold admitJob admittedSlot
  simp only [Dev.modJob_eq, Dev.modTslot_eq, Dev.job_setJob_self]
  rfl

theorem admitJob_admits (m : Dev) (slot : Nat) (p : Prog) : let e := admitJob m slot p
    (e.job slot).image = some p ∧ (e.job slot).cardsTaken = 0 ∧ (e.job slot).cplWritten = 0
    ∧ (e.job slot).saveUnits = (p.cores.map (fun q => 16 + q.2.scrUnits + q.2.accUnits + q.2.exchUnits)).sum
    ∧ e.tslot slot = { m.tslot slot with lastCommitted := (m.job slot).firstTurn - 1, epoch := 0, root := p.root }
    ∧ slot ∉ e.sch.checks ∧ e.mem = m.mem
    ∧ ((m.job slot).doorbell = 0 → (m.job slot).turn = none → (m.job slot).waiting = none → (m.basin (basinOf slot)).holder ≠ some slot →
      (e.job slot).state = .admitted) := by
  have switched := reschedule_switched (admittedSlot m slot p) (basinOf slot)
  have jobs := switched.jobs slot
  have job : (admittedSlot m slot p).job slot = (m.job slot).admitted p := by
    unfold admittedSlot
    dsimp only
    rw [Dev.setTslot_job, Dev.job_setJob_self]
  have tslot : (admittedSlot m slot p).tslot slot = { m.tslot slot with lastCommitted := (m.job slot).firstTurn - 1, epoch := 0, root := p.root } :=
    Dev.tslot_setTslot_self _ _ _
  have checks : (admittedSlot m slot p).sch.checks = m.sch.checks.filter (fun k => !(k == slot)) := rfl
  have keeps (hd : (m.job slot).doorbell = 0) (ht : (m.job slot).turn = none) (hw : (m.job slot).waiting = none) (hh : (m.basin (basinOf slot)).holder ≠ some slot) :
      (reschedule (admittedSlot m slot p) (basinOf slot)).job slot = (m.job slot).admitted p := by
    refine (reschedule_job (d := admittedSlot m slot p) ?_ hh).trans job
    have idle : mayTake ((m.job slot).admitted p) = false := by simp [mayTake, Job.admitted, hd]
    exact ready_workless (by rw [job]; exact ht) (by rw [job]; exact hw) (by rw [job]; exact idle)
  dsimp only
  rw [admitJob_eq]
  rw [job] at jobs
  refine ⟨by rw [jobs]; rfl, by rw [jobs]; rfl, by rw [jobs]; rfl, by rw [jobs]; rfl, ?_, ?_, switched.mem, fun hd ht hw hh => ?_⟩
  · rw [← tslot, Dev.tslot, switched.trn]; rfl
  · rw [switched.checks, checks]
    simp
  · rw [keeps hd ht hw hh]; rfl

/-- JOB_CHECK_DONE ends a check as `jobCheckDone` does. -/
theorem jobCheckDone_next {s : State} {slot : Nat} (hs : asleep s.dev = false) (h : slot < 64) {nv : Nv} {e : Dev}
    (he : jobCheckDone s.nv s.dev slot = (nv, e)) : exec (.jobCheckDone slot) s = .next { s with nv := nv, dev := e } := by
  refine (onBoth_next (f := fun nv d => jobCheckDone nv d slot) (show isSlot slot = true from decide_eq_true h) hs).trans ?_
  rw [he]

/-- Settles O42: each end of a check through what it does to its slot. That a check uses memory as it is at its end, and that a refusal
by signature, key or rollback counts in SEC_REFUSALS, are the model's choices (log entries 63 and 67). -/
theorem programChecksEndInOrder : Obligations.ProgramChecksEndInOrder := by
  intro s slot hs hslot
  dsimp only
  have read := meetProg_hbmRead s.dev (s.dev.job slot).prog.toNat
  have prog := congrArg Job.prog (read.job slot)
  refine ⟨read, fun h => jobCheckDone_next hs hslot (jobCheckDone_waits h),
    fun det h hr hf => ⟨_, jobCheckDone_next hs hslot (jobCheckDone_rings h hr hf), refuseJob_refuses (hbmRead_refl s.dev) slot 0x50 det⟩,
    fun h hr hp => ?_, fun img h hr hp => ?_⟩
  · refine ⟨_, jobCheckDone_next hs hslot ((jobCheckDone_image h hr).trans (imageCheck_unread ?_)), secRefuse_refuses read slot 0x20 0 0x20⟩
    rw [prog]; exact hp
  · have hp' : progSpan (meetProg s.dev (s.dev.job slot).prog.toNat) ((meetProg s.dev (s.dev.job slot).prog.toNat).job slot).prog.toNat = some img := by
      rw [prog]; exact hp
    have ends := jobCheckDone_image (nv := s.nv) h hr
    generalize meetProg s.dev (s.dev.job slot).prog.toNat = m at *
    refine ⟨fun hv => ⟨_, jobCheckDone_next hs hslot (ends.trans (imageCheck_unsigned hp' hv)), secRefuse_refuses read slot 0x20 0 0x20⟩,
      fun hv hb => ⟨_, jobCheckDone_next hs hslot (ends.trans (imageCheck_rolledBack hp' hv hb)), secRefuse_refuses read slot 0x2F 0 0x2F⟩,
      fun r hv hb hc => ⟨_, jobCheckDone_next hs hslot (ends.trans (imageCheck_refused hp' hv hb hc)), refuseJob_refuses read slot r.1 r.2⟩,
      fun hv hb hc => ⟨_, jobCheckDone_next hs hslot (ends.trans (imageCheck_admits hp' hv hb hc)), ?_⟩⟩
    have job : m.job slot = s.dev.job slot := read.job slot
    have tslot : m.tslot slot = s.dev.tslot slot := by rw [read.1]; rfl
    have basin : m.basin (basinOf slot) = s.dev.basin (basinOf slot) := by rw [read.1]; rfl
    have mem : m.mem = s.dev.mem := by rw [read.1]
    have admits := admitJob_admits m slot (parseProg { d := m, slot := slot, img := img })
    rw [job, tslot, basin, mem] at admits
    exact admits

end Sys2Proof.Machine
end

section
/-! PROOFS. What the read of a card leaves: the Weir levels, the stacks that take writes (spec/12_hbm.md R304, R313). -/

namespace Sys2Proof.Machine

/-! ## Weir levels (R114, R313) -/

/-- The stacks of `t` and `u` have the same levels for bounds. -/
def SameLevels (t u : Tab Stack) : Prop := ∀ n, (∀ e ∈ u, e.2.level ≤ n) ↔ ∀ e ∈ t, e.2.level ≤ n

theorem weirNow_le (d : Dev) (n : Nat) : weirNow d ≤ n ↔ ∀ e ∈ d.hbm, e.2.level ≤ n := by
  suffices H : ∀ (l : Tab Stack) (m : Nat), l.foldl (fun m e => max m e.2.level) m ≤ n ↔ m ≤ n ∧ ∀ e ∈ l, e.2.level ≤ n from
    (H d.hbm 0).trans (by simp)
  intro l
  induction l with
  | nil => simp
  | cons e l ih => intro m; simp [ih, and_assoc]

theorem weirNow_congr {d e : Dev} (h : SameLevels d.hbm e.hbm) : weirNow e = weirNow d :=
  eq_of_forall_ge_iff fun n => (weirNow_le e n).trans ((h n).trans (weirNow_le d n).symm)

theorem tabGet_level_le {t : Tab Stack} {n : Nat} (h : ∀ e ∈ t, e.2.level ≤ n) (s : Nat) : (tabGet {} t s).level ≤ n := by
  induction t with
  | nil => exact Nat.zero_le n
  | cons e t ih =>
    unfold tabGet
    split
    · exact h _ List.mem_cons_self
    · exact ih fun x hx => h x (List.mem_cons_of_mem e hx)

/-- A stack written at its place with the level it had. -/
theorem sameLevels_tabInsert {s : Nat} {x : Stack} : ∀ {t : Tab Stack}, x.level = (tabGet {} t s).level → SameLevels t (tabInsert t s x)
  | [], hx, n => by simp [tabInsert, hx, tabGet]
  | (k, w) :: t, hx, n => by
    unfold tabInsert
    split
    · refine ⟨fun h e he => h e (List.mem_cons_of_mem _ he), fun h e he => ?_⟩
      rcases List.mem_cons.mp he with rfl | he
      · exact hx ▸ tabGet_level_le h s
      · exact h e he
    unfold tabGet at hx
    split
    · next hk =>
      rw [if_pos hk] at hx
      simp [hx]
    · next hk =>
      rw [if_neg hk] at hx
      rw [List.forall_mem_cons, List.forall_mem_cons, sameLevels_tabInsert hx n]

/-- A stack whose record is not the initial one, with the level of `y`. -/
def Stack.Noted (y x : Stack) : Prop := x.level = y.level ∧ x ≠ {}

theorem setStack_levels {d : Dev} {s : Nat} {x : Stack} (h : Stack.Noted (d.stack s) x) : SameLevels d.hbm (d.setStack s x).hbm := by
  obtain ⟨level, ne⟩ := h
  have inserts : (d.setStack s x).hbm = tabInsert d.hbm s x := if_neg ne
  rw [inserts]
  exact sameLevels_tabInsert level

theorem capture_valid (x : Stack) (pc slot burst position kind : Nat) : (capture x pc slot burst position kind).lastErr.valid = true := by
  unfold capture
  split
  · assumption
  · rfl

theorem countSymbol_valid {x : Stack} (h : x.lastErr.valid = true) (d : Dev) (pc position : Nat) :
    (countSymbol d x pc position).lastErr.valid = true := by
  unfold countSymbol
  split
  · exact h
  · dsimp only
    split <;> exact h

theorem ne_initial_of_valid {x : Stack} (h : x.lastErr.valid = true) : x ≠ {} := fun hx => by
  rw [hx] at h
  exact nomatch h

theorem read_level {x y : Stack} (h : y = x.read y) : y.level = x.level := by rw [h]; rfl

/-- A stack that a read has written into with a captured error. -/
theorem noted_of_read {x y : Stack} (h : y = x.read y) (hv : y.lastErr.valid = true) : Stack.Noted x y := ⟨read_level h, ne_initial_of_valid hv⟩

theorem recordRepair_hbm (d : Dev) (s : Nat) (r : Row) : (recordRepair d s r).hbm = d.hbm := by
  unfold recordRepair
  dsimp only
  split <;> rfl

/-- A row that is counted is noted in its stack. -/
theorem countRow_levels (d : Dev) (s : Nat) (r : Row) (whole : Bool) : SameLevels d.hbm (countRow d s r whole).hbm := by
  have recorded {x : Stack} (h : Stack.Noted (d.stack s) x) : SameLevels d.hbm ((recordRepair d s r).setStack s x).hbm := by
    rw [← recordRepair_hbm d s r]
    exact setStack_levels (by rwa [recordRepair_stack])
  unfold countRow
  split
  · exact fun _ => Iff.rfl
  extract_lets x old n y d' full
  have rows : y.rows ≠ [] := by simp [y]
  have noted : Stack.Noted (d.stack s) y := ⟨rfl, fun h => rows (by rw [h])⟩
  split
  · exact setStack_levels noted
  split
  · exact recorded noted
  split
  · exact recorded (x := startRemap d' y r) ⟨rfl, fun h => List.cons_ne_nil _ _ (congrArg Stack.remapping h)⟩
  · exact recorded (x := { y with remapQueue := y.remapQueue ++ [r] }) ⟨rfl, fun h => rows (by simpa using congrArg Stack.rows h)⟩

theorem SameLevels.trans {t u v : Tab Stack} (h : SameLevels t u) (k : SameLevels u v) : SameLevels t v := fun n => (k n).trans (h n)

theorem meetUnit_levels (d : Dev) (u : Nat) : SameLevels d.hbm (meetUnit d u).hbm := by
  unfold meetUnit
  dsimp only
  split
  · exact fun _ => Iff.rfl
  · exact setStack_levels (noted_of_read (capture_read _ _ _ _ _ _) (capture_valid _ _ _ _ _ _))
  · refine SameLevels.trans (setStack_levels (noted_of_read ?_ (countSymbol_valid (capture_valid _ _ _ _ _ _) _ _ _))) (countRow_levels _ _ _ _)
    exact read_trans (read_trans rfl (capture_read _ _ _ _ _ _)) (countSymbol_read _ _ _ _)
  · refine SameLevels.trans ?_ (countRow_levels _ _ _ _)
    refine setStack_levels (d := d) (noted_of_read (read_trans rfl (capture_read _ _ _ _ _ _)) (capture_valid _ _ _ _ _ _))

/-- What a read of HBM notes moves no Weir level. -/
theorem meetHbm_weirNow (d : Dev) (off n : Nat) : weirNow (meetHbm d off n) = weirNow d := by
  refine weirNow_congr ?_
  refine foldl_keeps (R := fun d e : Dev => SameLevels d.hbm e.hbm) (fun _ _ => Iff.rfl) SameLevels.trans (fun d p => ?_) _ d
  unfold meetCells
  split
  · exact fun _ => Iff.rfl
  split
  · exact fun _ => Iff.rfl
  · exact foldl_keeps (R := fun d e : Dev => SameLevels d.hbm e.hbm) (fun _ _ => Iff.rfl) SameLevels.trans meetUnit_levels _ d

/-! ## Writes after a read -/

/-- What a write leaves depends on the cells, the structure in force and which stacks have failed. -/
theorem hbmWrite_mem_live {d e : Dev} (hstr : e.str = d.str) (hdead : ∀ c, stackDead e c = stackDead d c) (hmem : e.mem = d.mem) (off : Nat) (bs : List Byte) :
    (e.hbmWrite off bs).mem = (d.hbmWrite off bs).mem := by
  have cell {x y : Dev} (h : y.str = x.str) (o : Nat) : hbmCell y o = hbmCell x o := by simp only [hbmCell, spreadKey, hbmCap, slotsPerPc, h]
  suffices H : ∀ (l : List (Nat × Nat)) (x y : Dev) (bs : List Byte), y.str = x.str → (∀ c, stackDead y c = stackDead x c) → y.mem = x.mem →
      (l.foldl writePiece (y, bs)).1.mem = (l.foldl writePiece (x, bs)).1.mem from H _ d e bs hstr hdead hmem
  intro l
  induction l with
  | nil => exact fun _ _ _ _ _ hm => hm
  | cons p l ih =>
    intro x y bs hs hd hm
    simp only [List.foldl_cons, writePiece, cell hs, hd]
    split
    · exact ih x y _ hs hd hm
    · exact ih _ _ _ hs hd (by simp only [Dev.cellPut, hm])

theorem HbmRead.stackDead {d m : Dev} (h : HbmRead d m) (c : Nat) : stackDead m c = Machine.stackDead d c := by
  rw [Machine.stackDead, h.2.1]
  rfl

end Sys2Proof.Machine
end

section
/-! PROOFS. Cards taken, checked, held for their time and admitted (spec/04_clepsydra_and_scheduling.md R96 to R99, R114). -/

namespace Sys2Proof.Machine

/-! ## A refused card (R99, R101) -/

/-- The job whose card is refused. -/
def Job.cardRefused (j : Job) (r : Byte) (detail : Word) : Job :=
  { j with cplWritten := j.cplWritten + 1, reason := r, detail := detail, cardsHeld := true, waiting := none }

/-- Where the next record of a job's ring goes. -/
def recordOffset (j : Job) : Nat := j.cplRing.toNat + 32 * (j.cplWritten.toNat % 2 ^ j.cplLog2.toNat)

theorem refuseCard_refuses (d : Dev) (slot : Nat) (c : Card) (r : Byte) (detail : Word) :
    (refuseCard d slot c r detail).job slot = (d.job slot).cardRefused r detail
    ∧ (refuseCard d slot c r detail).mem
      = (d.hbmWrite (recordOffset (d.job slot)) (recordBytes c.turn 0 0 c.user .refused r 0 0 ((d.job slot).cplWritten + 1))).mem := by
  obtain ⟨e, writes, he, -⟩ := writeRecord_eq d slot c.turn 0 0 c.user .refused r 0 0
  unfold refuseCard
  dsimp only
  rw [writes, Dev.modJob_eq, Dev.job_setJob_self, Dev.job_setJob_self, Dev.setJob_mem, Dev.setJob_mem, he, recordOffset]
  exact ⟨rfl, rfl⟩

/-! ## Frames reserved (R66) -/

theorem sortNat_length (l : List Nat) : (sortNat l).length = l.length := by
  have insert (x : Nat) (l : List Nat) : (insertNat x l).length = l.length + 1 := by
    induction l with
    | nil => rfl
    | cons y ys ih =>
      unfold insertNat
      split
      · rfl
      · simp [ih]
  induction l with
  | nil => rfl
  | cons x l ih => rw [sortNat, List.foldr_cons, insert]; exact congrArg (· + 1) ih

theorem reserve_reserves (d : Dev) (slot n : Nat) :
    TrnOnly d (reserve d slot n)
    ∧ (reserve d slot n).tslot slot = { d.tslot slot with
        stock := (d.tslot slot).stock ++ (d.freeStack (basinOf slot)).take n, reserved := (d.tslot slot).reserved + n }
    ∧ (reserve d slot n).freeStack (basinOf slot) = (d.freeStack (basinOf slot)).drop n := by
  have frames : FramesOnly (d.setFreeStack (basinOf slot) ((d.freeStack (basinOf slot)).drop n)) _ :=
    foldl_keeps (R := FramesOnly) (f := fun d f => d.modFrame f (fun x => { x with state := .reserved })) (fun _ => rfl)
      (fun h k => by unfold FramesOnly at *; rw [k, h]) (fun _ _ => by rfl) ((d.freeStack (basinOf slot)).take n) _
  unfold reserve
  dsimp only
  generalize List.foldl _ _ ((d.freeStack (basinOf slot)).take n) = e at *
  unfold FramesOnly at frames
  have tslot : e.tslot slot = d.tslot slot := by rw [frames]; rfl
  have free : e.freeStack (basinOf slot) = (d.freeStack (basinOf slot)).drop n := by
    rw [frames]; exact Dev.freeStack_setFreeStack_self d (basinOf slot) _
  refine ⟨?_, ?_, ?_⟩
  · unfold TrnOnly
    rw [frames]
    rfl
  · rw [Dev.modTslot_eq, Dev.tslot_setTslot_self, tslot]
  · rw [Dev.modTslot_eq, Dev.setTslot_freeStack, free]

theorem emptyHeld_empties (d : Dev) (slot : Nat) :
    TrnOnly d (emptyHeld d slot) ∧ (emptyHeld d slot).tslot slot = { d.tslot slot with held := [] }
    ∧ (emptyHeld d slot).freeStack (basinOf slot) = sortNat (d.tslot slot).held ++ d.freeStack (basinOf slot) := by
  refine ⟨?_, emptyHeld_tslot d slot, ?_⟩
  · exact trnOnly_trans (e := d.setTslot slot _) rfl (pushFrames_trnOnly _ _ _)
  · rw [emptyHeld, pushFrames_freeStack, if_pos rfl]
    rfl

/-! ## The cores at the start of a turn (R114, R196) -/

/-- A core at the first command of a turn. -/
def CoreSt.started (x : CoreSt) (slot l : Nat) (c : Card) (stop : Bool) : CoreSt :=
  { x with slot := some slot, ctx := { freshCtx l c with arr0 := x.ctx.arr0.emptied, arr1 := x.ctx.arr1.emptied }, tm := [], active := !stop }

theorem onCores_started (d : Dev) (slot : Nat) (c : Card) :
    OnCores d (fun e l => e.modCore (e.phys l) (fun x => x.started slot l c e.flt.stopActive)) (fun l x => x.started slot l c d.flt.stopActive) := by
  intro e l only
  have stop : e.flt.stopActive = d.flt.stopActive := by rw [only]
  dsimp only
  rw [stop]
  exact onCores_modCore d (fun l x => x.started slot l c d.flt.stopActive) e l only

theorem startCores_starts (d : Dev) (slot : Nat) (c : Card) :
    startCores d slot c = { d with klz := (startCores d slot c).klz, cores := (startCores d slot c).cores }
    ∧ ∀ l ∈ jobCores d slot, ((startCores d slot c).core (d.phys l)).slot = some slot ∧ ((startCores d slot c).core (d.phys l)).active = !d.flt.stopActive
      ∧ ((startCores d slot c).core (d.phys l)).tm = [] ∧ ((startCores d slot c).core (d.phys l)).ctx.pc = 0 := by
  have H := onCores_started { d with klz := { d.klz with issued := tabDrop d.klz.issued (16 * slot) (16 * slot + 16) } } slot c
  have only : startCores d slot c = { d with
      klz := { d.klz with issued := tabDrop d.klz.issued (16 * slot) (16 * slot + 16) }, cores := (startCores d slot c).cores } := (H.fold (jobCores d slot)).1
  refine ⟨only.trans ?_, fun l hl => ?_⟩
  · rw [only]
  · exact H.sets (P := fun x => x.slot = some slot ∧ x.active = !d.flt.stopActive ∧ x.tm = [] ∧ x.ctx.pc = 0) (fun _ _ => ⟨rfl, rfl, rfl, rfl⟩) hl

/-! ## Admission without sequences (R99 steps 5 to 7) -/

theorem kvAdmit_none {d : Dev} {slot : Nat} {c : Card} (hkv : ((d.job slot).image).bind (·.kv) = none) (hseq : c.seqCount = 0) :
    kvAdmit d slot c = .ok (d, [], 0) := by simp [kvAdmit, hkv, hseq]

theorem writeAdmission_none {d : Dev} {slot : Nat} (hkv : ((d.job slot).image).bind (·.kv) = none) : writeAdmission d slot = d := by
  simp [writeAdmission, hkv]

/-- The turn that a card opens. -/
def openedTurn (d : Dev) (slot : Nat) (c : Card) (k : TurnKind) : Turn :=
  let far := d.far (basinOf slot)
  let wcet := if far then k.wcetFar else k.wcetNear
  { card := c, admitClp := d.clp.now, admitElapsed := d.clp.elapsed, wcet := wcet, far := far, weirMax := weirNow d,
    predictedLate := !(c.deadline == 0) && decide (c.deadline.toNat < d.clp.now.toNat + wcet) }

/-- The job whose turn is open. -/
def Job.opened (j : Job) (t : Turn) : Job := { j with turn := some t, waiting := none, lastWcet := BitVec.ofNat 32 t.wcet, started := true }

/-- The slot whose turn is open. -/
def TrnSlot.opened (ts : TrnSlot) (domain : Bool) : TrnSlot :=
  { ts with phase := .running, domain := domain, replaying := false, moves := [], shadows := [], decided := none, aborting := none }

/-- The frames of a turn reserved. -/
def reserved (d : Dev) (slot : Nat) (k : TurnKind) : Dev := reserve (reserve (emptyHeld d slot) slot k.moves) slot 0

/-- The device with the turn open and its cores not yet started. -/
def turnOpened (d : Dev) (slot : Nat) (c : Card) (k : TurnKind) : Dev :=
  ((reserved d slot k).setJob slot ((d.job slot).opened (openedTurn d slot c k))).setTslot slot (((reserved d slot k).tslot slot).opened k.domain)

theorem reserved_reserves (d : Dev) (slot : Nat) (k : TurnKind) :
    TrnOnly d (reserved d slot k)
    ∧ (reserved d slot k).tslot slot = { d.tslot slot with
        held := [], stock := (d.tslot slot).stock ++ (sortNat (d.tslot slot).held ++ d.freeStack (basinOf slot)).take k.moves,
        reserved := (d.tslot slot).reserved + k.moves }
    ∧ (reserved d slot k).freeStack (basinOf slot) = (sortNat (d.tslot slot).held ++ d.freeStack (basinOf slot)).drop k.moves := by
  obtain ⟨only, tslot, free⟩ := emptyHeld_empties d slot
  obtain ⟨only', tslot', free'⟩ := reserve_reserves (emptyHeld d slot) slot k.moves
  obtain ⟨only'', tslot'', free''⟩ := reserve_reserves (reserve (emptyHeld d slot) slot k.moves) slot 0
  refine ⟨trnOnly_trans only (trnOnly_trans only' only''), tslot''.trans ?_, free''.trans ?_⟩
  · rw [tslot', tslot, free]
    simp
  · rw [free', free]
    rfl

/-- A card of kind `k` that finds its frames and asks for no sequences. -/
structure Fits (d : Dev) (slot : Nat) (c : Card) (k : TurnKind) : Prop where
  kind : turnKind d slot c = some k
  locked : c.flags.toNat % 2 = 1 → d.clp.locked = true
  frames : k.moves ≤ (d.tslot slot).held.length + (d.freeStack (basinOf slot)).length
  moves : k.moves ≤ 16384
  plain : ((d.job slot).image).bind (·.kv) = none
  seqs : c.seqCount = 0

/-- What is opened on the reserved frames is what is opened on the device that the card met. -/
theorem openTurn_eq {d : Dev} {slot : Nat} {c : Card} {k : TurnKind} (plain : ((d.job slot).image).bind (·.kv) = none) :
    startCores (writeAdmission (((reserved d slot k).modJob slot (fun j => j.opened (openedTurn (reserved d slot k) slot c k))).modTslot slot
      (fun ts => ts.opened k.domain)) slot) slot c = startCores (turnOpened d slot c k) slot c := by
  have only : reserved d slot k = { d with trn := (reserved d slot k).trn } := (reserved_reserves d slot k).1
  unfold turnOpened
  generalize reserved d slot k = e at *
  have turn : openedTurn e slot c k = openedTurn d slot c k := by rw [only]; rfl
  have job : e.job slot = d.job slot := by rw [only]; rfl
  rw [Dev.modJob_eq, Dev.modTslot_eq, turn, job, Dev.setJob_tslot]
  rw [writeAdmission_none]
  rw [Dev.setTslot_job, Dev.job_setJob_self]
  exact plain

theorem admitCard_opens {d : Dev} {slot : Nat} {c : Card} {k : TurnKind} (h : Fits d slot c k) :
    admitCard d slot c = startCores (turnOpened d slot c k) slot c := by
  obtain ⟨kind, locked, frames, moves, plain, seqs⟩ := h
  obtain ⟨emptied, -, free⟩ := emptyHeld_empties d slot
  have enough : (decide (((emptyHeld d slot).freeStack (basinOf slot)).length < k.moves) || decide (16384 < k.moves)) = false := by
    rw [free, List.length_append, sortNat_length]
    simp
    omega
  have unlocked : (c.flags.toNat % 2 == 1 && !d.clp.locked) = false := by
    cases hl : d.clp.locked with
    | true => simp
    | false => simpa [hl] using locked
  obtain ⟨only, -, -⟩ := reserve_reserves (emptyHeld d slot) slot k.moves
  have kv : kvAdmit (reserve (emptyHeld d slot) slot k.moves) slot c = .ok (reserve (emptyHeld d slot) slot k.moves, [], 0) :=
    kvAdmit_none (by rw [trnOnly_trans emptied only]; exact plain) seqs
  unfold admitCard
  dsimp only
  split
  · next hn => exact nomatch hn.symm.trans kind
  · next k' hk =>
    cases hk.symm.trans kind
    rw [unlocked, if_neg (by simp), enough, if_neg (by simp), kv]
    exact openTurn_eq plain

theorem turnOpened_opens (d : Dev) (slot : Nat) (c : Card) (k : TurnKind) :
    turnOpened d slot c k = { d with trn := (turnOpened d slot c k).trn, jobs := (turnOpened d slot c k).jobs }
    ∧ (turnOpened d slot c k).tslot slot = { (d.tslot slot).opened k.domain with
        held := [], stock := (d.tslot slot).stock ++ (sortNat (d.tslot slot).held ++ d.freeStack (basinOf slot)).take k.moves,
        reserved := (d.tslot slot).reserved + k.moves }
    ∧ (turnOpened d slot c k).freeStack (basinOf slot) = (sortNat (d.tslot slot).held ++ d.freeStack (basinOf slot)).drop k.moves
    ∧ ∀ i, (turnOpened d slot c k).job i = if i = slot then (d.job slot).opened (openedTurn d slot c k) else d.job i := by
  obtain ⟨only, tslot, free⟩ := reserved_reserves d slot k
  unfold TrnOnly at only
  unfold turnOpened
  generalize reserved d slot k = e at *
  refine ⟨?_, ?_, ?_, fun i => ?_⟩
  · rw [only]
    rfl
  · rw [Dev.tslot_setTslot_self, tslot]
    rfl
  · rw [Dev.setTslot_freeStack, Dev.setJob_freeStack, free]
  · rw [Dev.setTslot_job, Dev.job_setJob, only]
    rfl

/-! ## The device on which a card is checked -/

/-- `y` is `d` once its slot's card has been read: what stands for the card's checks is the same, and `taken` cards have been taken. -/
structure CardRead (d : Dev) (slot : Nat) (taken : Word) (y : Dev) : Prop where
  str : y.str = d.str
  clp : y.clp = d.clp
  flt : y.flt = d.flt
  mem : y.mem = d.mem
  trn : y.trn = d.trn
  sch : y.sch = d.sch
  weir : weirNow y = weirNow d
  dead : ∀ c, stackDead y c = stackDead d c
  job : y.job slot = { d.job slot with cardsTaken := taken }
  jobs : ∀ k, k ≠ slot → y.job k = d.job k

theorem cardRead_refl (d : Dev) (slot : Nat) : CardRead d slot (d.job slot).cardsTaken d :=
  ⟨rfl, rfl, rfl, rfl, rfl, rfl, rfl, fun _ => rfl, rfl, fun _ _ => rfl⟩

theorem cardRead_taken (d : Dev) (slot off n : Nat) (taken : Word) :
    CardRead d slot taken ((meetHbm d off n).setJob slot { (meetHbm d off n).job slot with cardsTaken := taken }) := by
  have read := meetHbm_hbmRead d off n
  have weir := meetHbm_weirNow d off n
  have mem := meetHbm_mem d off n
  have dead := read.stackDead
  have job := read.job
  have only := read.1
  generalize meetHbm d off n = m at *
  rw [job]
  exact ⟨by rw [only]; rfl, by rw [only]; rfl, by rw [only]; rfl, mem, by rw [only]; rfl, by rw [only]; rfl, weir, dead,
    Dev.job_setJob_self m slot _, fun k hk => (Dev.job_setJob m slot k _).trans ((if_neg hk).trans (job k))⟩

section Read

variable {d y : Dev} {slot : Nat} {taken : Word} (h : CardRead d slot taken y)
include h

theorem CardRead.openedTurn (c : Card) (k : TurnKind) : openedTurn y slot c k = Machine.openedTurn d slot c k := by
  have far : y.far (basinOf slot) = d.far (basinOf slot) := by simp only [Dev.far, Dev.basinCores, Dev.coreRec, Dev.phys, h.str]
  simp only [Machine.openedTurn, far, h.clp, h.weir]

theorem CardRead.turnKind (c : Card) : turnKind y slot c = Machine.turnKind d slot c := by simp only [Machine.turnKind, h.job]

theorem CardRead.tslot (k : Nat) : y.tslot k = d.tslot k := by rw [Dev.tslot, h.trn, Dev.tslot]

theorem CardRead.freeStack (b : Nat) : y.freeStack b = d.freeStack b := by rw [Dev.freeStack, h.trn, Dev.freeStack]

theorem CardRead.basin (b : Nat) : y.basin b = d.basin b := by rw [Dev.basin, h.sch, Dev.basin]

theorem CardRead.fits {c : Card} {k : TurnKind} (hf : Fits d slot c k) : Fits y slot c k := by
  obtain ⟨kind, locked, frames, moves, plain, seqs⟩ := hf
  exact ⟨(h.turnKind c).trans kind, fun hc => by rw [h.clp]; exact locked hc, by rw [h.tslot, h.freeStack]; exact frames, moves,
    by rw [h.job]; exact plain, seqs⟩

end Read

/-! ## How a card ends: a turn, a refusal, or a wait -/

/-- From `d` to `e` card `c` of kind `k` has opened the slot's turn. -/
def Opens (d : Dev) (slot : Nat) (c : Card) (k : TurnKind) (taken : Word) (e : Dev) : Prop :=
  e.tslot slot = { (d.tslot slot).opened k.domain with
      held := [], stock := (d.tslot slot).stock ++ (sortNat (d.tslot slot).held ++ d.freeStack (basinOf slot)).take k.moves,
      reserved := (d.tslot slot).reserved + k.moves }
  ∧ e.freeStack (basinOf slot) = (sortNat (d.tslot slot).held ++ d.freeStack (basinOf slot)).drop k.moves
  ∧ e.job slot = Job.opened { d.job slot with cardsTaken := taken } (openedTurn d slot c k)
  ∧ (∀ l ∈ jobCores d slot, (e.core (d.phys l)).slot = some slot ∧ (e.core (d.phys l)).active = true ∧ (e.core (d.phys l)).tm = []
    ∧ (e.core (d.phys l)).ctx.pc = 0)
  ∧ (∀ i, i ≠ slot → e.job i = d.job i) ∧ e.mem = d.mem

/-- The slot holds its basin, with no LIVE job beside it. -/
structure Alone (d : Dev) (slot : Nat) : Prop where
  stop : d.flt.stopActive = false
  holder : (d.basin (basinOf slot)).holder = some slot
  live : ∀ t, basinOf t = basinOf slot → t ≠ slot → (d.job t).live = false

/-- From `d` to `e` card `c` has been refused, with its record. -/
def CardRefused (d : Dev) (slot : Nat) (c : Card) (r : Byte) (taken idx : Word) (e : Dev) : Prop :=
  (e.job slot).reason = r ∧ (e.job slot).detail = idx ∧ (e.job slot).cardsHeld = true ∧ (e.job slot).cardsTaken = taken
  ∧ (e.job slot).cplWritten = (d.job slot).cplWritten + 1 ∧ (e.job slot).turn = none
  ∧ e.mem = (d.hbmWrite (recordOffset (d.job slot)) (recordBytes c.turn 0 0 c.user .refused r 0 0 ((d.job slot).cplWritten + 1))).mem

section Ends

variable {d y : Dev} {slot : Nat} {taken : Word} (h : CardRead d slot taken y) {c : Card}
include h

theorem CardRead.refuses (ht : (d.job slot).turn = none) (r : Byte) (idx : Word) :
    CardRefused d slot c r taken idx (reschedule (refuseCard y slot c r idx) (basinOf slot)) := by
  obtain ⟨job, mem⟩ := refuseCard_refuses y slot c r idx
  generalize refuseCard y slot c r idx = e at *
  have switched := reschedule_switched e (basinOf slot)
  have keeps := switched.jobs slot
  have turn := (reschedule_handed e (basinOf slot)).turn slot (by rw [job, Job.cardRefused, h.job]; exact ht)
  unfold CardRefused
  rw [turn, switched.mem, mem, keeps, job, h.job]
  exact ⟨rfl, rfl, rfl, rfl, rfl, rfl, hbmWrite_mem_live h.str h.dead h.mem _ _⟩

theorem CardRead.waits (ht : (d.job slot).turn = none) : let e := reschedule (y.modJob slot (fun j => { j with waiting := some c })) (basinOf slot)
    (e.job slot).waiting = some c ∧ (e.job slot).cardsTaken = taken ∧ (e.job slot).turn = none ∧ e.mem = d.mem ∧ e.trn = d.trn := by
  have switched := reschedule_switched (y.setJob slot { y.job slot with waiting := some c }) (basinOf slot)
  have keeps := switched.jobs slot
  rw [Dev.job_setJob_self] at keeps
  have turn := (reschedule_handed (y.setJob slot { y.job slot with waiting := some c }) (basinOf slot)).turn slot (by
    rw [Dev.job_setJob_self, h.job]; exact ht)
  dsimp only [Dev.modJob_eq]
  rw [turn, keeps, switched.mem, switched.trn, h.job]
  exact ⟨rfl, rfl, rfl, h.mem, h.trn⟩

theorem CardRead.opens {k : TurnKind} (hf : Fits d slot c k) (ha : Alone d slot) :
    Opens d slot c k taken (reschedule (admitCard y slot c) (basinOf slot)) := by
  obtain ⟨opened, tslot, free, job⟩ := turnOpened_opens y slot c k
  rw [admitCard_opens (h.fits hf)]
  obtain ⟨starts, cores⟩ := startCores_starts (turnOpened y slot c k) slot c
  generalize turnOpened y slot c k = z at *
  generalize startCores z slot c = e at *
  have job_e (i : Nat) : e.job i = z.job i := by rw [starts]; rfl
  have image : (z.job slot).image = (d.job slot).image := by rw [job, if_pos rfl, h.job]; rfl
  have str : z.str = d.str := by rw [opened]; exact h.str
  have phys (l : Nat) : z.phys l = d.phys l := by simp only [Dev.phys, str]
  have stop : z.flt.stopActive = false := by rw [opened]; exact (congrArg Flt.stopActive h.flt).trans ha.stop
  have slot_e : e.job slot = Job.opened { d.job slot with cardsTaken := taken } (Machine.openedTurn d slot c k) := by
    rw [job_e, job, if_pos rfl, h.openedTurn, h.job]
  have other_e (i : Nat) (hi : i ≠ slot) : e.job i = d.job i := by rw [job_e, job, if_neg hi, h.jobs i hi]
  have stays : reschedule e (basinOf slot) = e := by
    refine reschedule_stays (s := slot) ?_ (fun t ht hne hl => ?_) (.inl (by rw [slot_e]; rfl))
    · rw [starts, opened]
      exact (congrArg Basin.holder (h.basin _)).trans ha.holder
    · rw [other_e t hne, ha.live t ?_ hne] at hl
      · exact nomatch hl
      · simp only [List.mem_cons, List.not_mem_nil, or_false] at ht
        simp only [basinOf] at ht ⊢
        omega
  rw [stays]
  refine ⟨?_, ?_, slot_e, fun l hl => ?_, other_e, ?_⟩
  · rw [← h.tslot, ← h.freeStack, ← tslot, starts]
    rfl
  · rw [← h.tslot, ← h.freeStack, ← free, starts]
    rfl
  · have started := cores l (jobCores_congr image ▸ hl)
    rw [phys, stop] at started
    exact started
  · rw [starts, opened]
    exact h.mem

end Ends

/-! ## A stop that begins (R455) -/

theorem sendStops_talked (d : Dev) : Talked d (sendStops d) := by
  refine foldl_keeps talked_refl talked_trans (fun d g => ?_) _ d
  split
  · exact talked_refl d
  split
  · exact sendFence_talked d _ _ _ _ _ _ _
  split
  · exact talked_refl d
  · obtain ⟨e, spoken, stops⟩ := abortDown_stops d g
    rw [stops]
    exact spoken.setGrp g _

/-- What is dropped and sent at a stop leaves the jobs and the fault block. -/
theorem dropStops_keeps (x : Dev) (ls : List Nat) :
    (sendStops (ls.foldl enginesDrop x)).jobs = x.jobs ∧ (sendStops (ls.foldl enginesDrop x)).flt = x.flt := by
  have aside : Aside x (ls.foldl enginesDrop x) := foldl_aside enginesDrop_aside ls x
  rw [(sendStops_talked (ls.foldl enginesDrop x)).1]
  exact ⟨aside.jobs, aside.flt⟩

theorem beginStop_stops (d : Dev) (info : FltInfo) (detail : Word) (addr : Dword) :
    (beginStop d info detail addr).jobs = d.jobs ∧ (beginStop d info detail addr).flt.stopActive = true := by
  unfold beginStop
  dsimp only
  generalize hx : holdCores _ = x
  obtain ⟨jobs, flt⟩ := dropStops_keeps x ((List.range 64).filter (fun s => !commits x s))
  rw [jobs, flt, ← hx]
  exact ⟨rfl, rfl⟩

theorem logAppend_stop (d : Dev) (info : FltInfo) (detail : Word) : (logAppend d info detail).flt.stopActive = d.flt.stopActive := by
  unfold logAppend
  dsimp only
  split <;> rfl

/-- The fault charged to a slot, once the reads that met it are noted. -/
def faultCharged (m : Dev) (slot : Nat) (reason : Byte) (info : FltInfo) (detail : Word) (addr : Dword) : Dev :=
  let e := logAppend m info detail
  let e := { e with flt := { e.flt with jobFaults := sat16 e.flt.jobFaults, faulted := slot :: e.flt.faulted } }
  let e := e.setJob slot { e.job slot with reason := reason, detail := detail }
  if e.flt.stopActive then e else beginStop e info detail addr

theorem faultCharged_stops {m : Dev} (hstop : m.flt.stopActive = false) (slot : Nat) (reason : Byte) (info : FltInfo) (detail : Word) (addr : Dword) :
    let e := faultCharged m slot reason info detail addr
    (e.job slot).reason = reason ∧ e.flt.stopActive = true ∧ (e.job slot).cardsTaken = (m.job slot).cardsTaken := by
  obtain ⟨jobs, -⟩ := logAppend_kept m info detail
  have stop := logAppend_stop m info detail
  unfold faultCharged
  generalize logAppend m info detail = x at *
  dsimp only
  rw [if_neg (by rw [Dev.setJob_flt]; simp [stop, hstop])]
  generalize hy : Dev.setJob _ slot _ = y
  obtain ⟨jobs', stopped⟩ := beginStop_stops y info detail addr
  have job : (beginStop y info detail addr).job slot = { m.job slot with reason := reason, detail := detail } := by
    rw [Dev.job, jobs', ← hy]
    refine (Dev.job_setJob_self _ slot _).trans ?_
    rw [Dev.job, jobs, Dev.job]
  rw [job]
  exact ⟨rfl, stopped, rfl⟩

/-- Poison met in a read of HBM is FLT_POISON for the job, and the device stops; no card is taken. -/
theorem jobFault_poison {d : Dev} (hstop : d.flt.stopActive = false) (slot off n : Nat) :
    let e := jobFault d slot 0xFF 0 0xFF 0 (fltHbmPoison d off n 0)
    (e.job slot).reason = 0xA3 ∧ e.flt.stopActive = true ∧ (e.job slot).cardsTaken = (d.job slot).cardsTaken := by
  have read := meetCells_hbmRead d (hbmCell d off) n
  rw [← read.job slot]
  exact faultCharged_stops (m := meetCells d (hbmCell d off) n) (by rw [read.1]; exact hstop) slot 0xA3 _ _ _

/-! ## CARD_TAKE and NOT_BEFORE_REACHED -/

section Checks

variable {d y : Dev} {slot : Nat} {c : Card} {taken : Word} (h : CardRead d slot (taken + 1) y)
include h

theorem CardRead.index : (y.job slot).cardsTaken - 1 = taken := by rw [h.job]; exact BitVec.add_sub_cancel taken 1

theorem checkCard_kind (hk : c.reserved = true ∨ turnKind d slot c = none) : checkCard y slot c = refuseCard y slot c 0x52 taken := by
  unfold checkCard
  dsimp only
  rw [h.index, h.turnKind]
  exact if_pos (by simpa using hk)

variable (hr : c.reserved = false) (hk : (turnKind d slot c).isSome = true)
include hr hk

theorem checkCard_known : checkCard y slot c = if c.turn = 0xFFFFFFFFFFFFFFFF then refuseCard y slot c 0x44 taken
    else if !(c.turn == (d.tslot slot).lastCommitted + 1) then refuseCard y slot c 0x51 taken
    else if d.clp.now < c.notBefore then y.modJob slot (fun j => { j with waiting := some c })
    else admitCard y slot c := by
  unfold checkCard
  dsimp only
  rw [h.index, h.turnKind, h.tslot, h.clp]
  exact if_neg (by simp [hr, Option.isNone_eq_false_iff.mpr hk])

variable (hlast : c.turn ≠ 0xFFFFFFFFFFFFFFFF) (hnext : c.turn = (d.tslot slot).lastCommitted + 1)
include hlast hnext

theorem checkCard_early (hn : d.clp.now < c.notBefore) : checkCard y slot c = y.modJob slot (fun j => { j with waiting := some c }) := by
  rw [checkCard_known h hr hk, if_neg hlast, if_neg (by simp [hnext]), if_pos hn]

theorem checkCard_due (hn : c.notBefore ≤ d.clp.now) : checkCard y slot c = admitCard y slot c := by
  rw [checkCard_known h hr hk, if_neg hlast, if_neg (by simp [hnext]), if_neg (by simpa using hn)]

end Checks

theorem admitCard_unlocked {d y : Dev} {slot : Nat} {c : Card} {taken : Word} (h : CardRead d slot (taken + 1) y)
    (hk : (turnKind d slot c).isSome = true) (hf : c.flags.toNat % 2 = 1) (hl : d.clp.locked = false) :
    admitCard y slot c = refuseCard y slot c 0x42 taken := by
  obtain ⟨k, hk⟩ := Option.isSome_iff_exists.mp hk
  unfold admitCard
  dsimp only
  rw [h.index, h.turnKind, hk, h.clp]
  exact if_pos (by simp [hf, hl])

section Take

variable {d : Dev} {slot : Nat}

theorem mayTake_calm (h : mayTake (d.job slot) = true) : (d.job slot).turn = none := by
  simp only [mayTake, Bool.and_eq_true, Option.isNone_iff_eq_none] at h
  exact h.1.1.1.1.2

theorem holds_alone (h : holds d slot = true) (hl : ∀ t, basinOf t = basinOf slot → t ≠ slot → (d.job t).live = false) : Alone d slot := by
  simp only [holds, Bool.and_eq_true, Bool.not_eq_true', beq_iff_eq] at h
  exact ⟨h.1.2, h.1.1.1, hl⟩

theorem cardTake_idle (h : holds d slot = false ∨ mayTake (d.job slot) = false) : cardTake d slot = d := by
  unfold cardTake
  dsimp only
  exact if_pos (by rcases h with h | h <;> simp [h])

variable (hh : holds d slot = true) (hm : mayTake (d.job slot) = true)
include hh hm

theorem cardTake_poisoned (hp : d.hbmPoisoned (cardOffset (d.job slot) (d.job slot).cardsTaken) 64 = true) :
    cardTake d slot = jobFault d slot 0xFF 0 0xFF 0 (fltHbmPoison d (cardOffset (d.job slot) (d.job slot).cardsTaken) 64 0) := by
  unfold cardTake
  dsimp only
  rw [if_neg (by simp [hh, hm]), if_pos hp]

theorem cardTake_checks (hp : d.hbmPoisoned (cardOffset (d.job slot) (d.job slot).cardsTaken) 64 = false) :
    ∃ y, CardRead d slot ((d.job slot).cardsTaken + 1) y ∧ cardTake d slot = reschedule (checkCard y slot (nextCard d slot)) (basinOf slot) := by
  have read := meetHbm_hbmRead d (cardOffset (d.job slot) (d.job slot).cardsTaken) 64
  refine ⟨_, cardRead_taken d slot (cardOffset (d.job slot) (d.job slot).cardsTaken) 64 _, ?_⟩
  unfold cardTake
  dsimp only
  rw [if_neg (by simp [hh, hm]), if_neg (by simp [hp]), Dev.modJob_eq, read.job]

end Take

theorem resumeCard_admits {d : Dev} {slot : Nat} {w : Card} (hw : (d.job slot).waiting = some w) (hn : w.notBefore ≤ d.clp.now)
    (hh : holds d slot = true) (hc : (d.job slot).cardsHeld = false) (hp : (d.job slot).parked = false) : resumeCard d slot = admitCard d slot w := by
  simp only [resumeCard, hw]
  exact if_neg (by simp [hh, hc, hp]; exact hn)

theorem resumeCard_early {d : Dev} {slot : Nat} {w : Card} (hw : (d.job slot).waiting = some w) (hn : d.clp.now < w.notBefore) :
    resumeCard d slot = d := by
  simp only [resumeCard, hw]
  exact if_pos (by simp [hn])

section Commands

variable {s : State} {slot : Nat} (hs : asleep s.dev = false) (h : slot < 64)
include hs h

theorem cardTake_next : exec (.cardTake slot) s = .next { s with dev := cardTake s.dev slot } :=
  onDev_next (f := fun _ d => cardTake d slot) (show isSlot slot = true from decide_eq_true h) hs

theorem notBeforeReached_next :
    exec (.notBeforeReached slot) s = .next { s with dev := reschedule (resumeCard s.dev slot) (basinOf slot) } :=
  onDev_next (f := fun _ d => reschedule (resumeCard d slot) (basinOf slot)) (show isSlot slot = true from decide_eq_true h) hs

end Commands

/-- What the obligation asks of an admissible card, as the facts that admission uses. -/
theorem fits_of {d : Dev} {slot : Nat} {c : Card} {k : TurnKind} (kind : turnKind d slot c = some k)
    (locked : c.flags.toNat % 2 = 1 → d.clp.locked = true) (frames : k.moves ≤ (d.tslot slot).held.length + (d.freeStack (basinOf slot)).length)
    (moves : k.moves ≤ 16384) (plain : ∀ p, (d.job slot).image = some p → p.kv = none) (seqs : c.seqCount = 0) : Fits d slot c k := by
  refine ⟨kind, locked, frames, moves, ?_, seqs⟩
  cases hi : (d.job slot).image with
  | none => rfl
  | some p => exact plain p hi

/-- Settles O43: a card read is refused, waits, or opens its turn, each shown on the device that the read leaves. -/
theorem cardsAreTakenCheckedAndAdmitted : Obligations.CardsAreTakenCheckedAndAdmitted := by
  intro s slot hs hslot
  dsimp only
  refine ⟨fun h => (cardTake_next hs hslot).trans (by rw [cardTake_idle h]),
    fun hh hm hp => ⟨_, cardTake_next hs hslot, ?_⟩,
    fun hh hm hp hk => ⟨_, cardTake_next hs hslot, ?_⟩,
    fun hh hm hp hr hk => ?_,
    fun w k hw hh ht hc hpark hn hadm => ⟨_, notBeforeReached_next hs hslot, ?_⟩,
    fun w hw hn => ⟨_, notBeforeReached_next hs hslot, ?_⟩⟩
  · rw [cardTake_poisoned hh hm hp]
    have stop : s.dev.flt.stopActive = false := by
      simp only [holds, Bool.and_eq_true, Bool.not_eq_true'] at hh
      exact hh.1.2
    exact jobFault_poison stop slot _ _
  · obtain ⟨y, read, takes⟩ := cardTake_checks hh hm hp
    rw [takes, checkCard_kind read hk]
    exact read.refuses (mayTake_calm hm) 0x52 _
  · obtain ⟨y, read, takes⟩ := cardTake_checks hh hm hp
    have turn := mayTake_calm hm
    have known := checkCard_known read hr hk
    refine ⟨fun hlast => ⟨_, cardTake_next hs hslot, ?_⟩, fun hlast hnext => ⟨_, cardTake_next hs hslot, ?_⟩,
      fun hlast hnext hn => ⟨_, cardTake_next hs hslot, ?_⟩, fun hlast hnext hn hf hl => ⟨_, cardTake_next hs hslot, ?_⟩,
      fun k hlast hnext hn hadm => ⟨_, cardTake_next hs hslot, ?_⟩⟩
    · rw [takes, known, if_pos hlast]
      exact read.refuses turn 0x44 _
    · rw [takes, known, if_neg hlast, if_pos (by simpa using hnext)]
      exact read.refuses turn 0x51 _
    · rw [takes, checkCard_early read hr hk hlast hnext hn]
      exact read.waits turn
    · rw [takes, checkCard_due read hr hk hlast hnext hn, admitCard_unlocked read hk hf hl]
      exact read.refuses turn 0x42 _
    · obtain ⟨kind, locked, frames, moves, plain, seqs, live⟩ := hadm
      rw [takes, checkCard_due read hr hk hlast hnext hn]
      exact read.opens (fits_of kind locked frames moves plain seqs) (holds_alone hh live)
  · obtain ⟨kind, locked, frames, moves, plain, seqs, live⟩ := hadm
    rw [resumeCard_admits hw hn hh hc hpark]
    exact (cardRead_refl s.dev slot).opens (fits_of kind locked frames moves plain seqs) (holds_alone hh live)
  · rw [resumeCard_early hw hn]
    have switched := reschedule_switched s.dev (basinOf slot)
    have job := switched.jobs slot
    dsimp only
    rw [job]
    exact ⟨hw, switched.mem, switched.trn⟩

end Sys2Proof.Machine
end

section
/-! PROOFS. NaNs in the floating-point formats (spec/05_number_formats.md R119, R121). -/

namespace Sys2Proof.Machine

/-- What is written for a NaN depends on the format code alone, not on the layout or the rounding mode. -/
@[simp] theorem encodeF_nan (code : Nat) (f : FFmt) (mode : RMode) : encodeF code f mode .nan = canonNan code := rfl

/-- The canonical NaN reads back as a NaN in each format whose top exponent holds one. -/
theorem decodeF_canonNan {code : Nat} {f : FFmt} (known : fmtOf code = some f) (holdsNan : f.top ≠ 0) : decodeF f (canonNan code) = .nan := by
  unfold fmtOf at known
  split at known <;> cases known
  case h_1 | h_2 | h_3 | h_4 | h_8 | h_9 => decide
  case h_5 | h_6 | h_7 => exact absurd rfl holdsNan

/-- Settles O57: every NaN is written as `canonNan` of its format's code (`encodeF_nan`), which the 8-bit formats read back as a NaN
(`decodeF_canonNan`). -/
theorem nansAreWrittenCanonical : Obligations.NansAreWrittenCanonical := by
  intro mode
  refine ⟨fun f _ => encodeF_nan 8 f mode, fun f _ => encodeF_nan 0 f mode, fun f _ => encodeF_nan 1 f mode, fun f _ => encodeF_nan 10 f mode,
    fun f known => ⟨encodeF_nan 2 f mode, decodeF_canonNan known ?_⟩, fun f known => ⟨encodeF_nan 3 f mode, decodeF_canonNan known ?_⟩,
    fun code f bits _ readNan => ?_⟩
  · cases known
    decide
  · cases known
    decide
  · rw [readNan, encodeF_nan]

end Sys2Proof.Machine
end

section
/-! PROOFS. The cells a RUN writes: one update after another at places apart (spec/06_matrix_arrays.md R157, R158). -/

namespace Sys2Proof.Machine

/-! ## Updates of cells apart from each other -/

/-- Ranges whose cells read alike read alike. -/
theorem memRead_congr {m k : List Host.Cell} : ∀ (n a : Nat), (∀ z, a ≤ z → z < a + n → memGet m z = memGet k z) → memRead m a n = memRead k a n
  | 0, _, _ => rfl
  | n + 1, a, h => by
    rw [memRead, memRead, h a (Nat.le_refl a) (by omega), memRead_congr n (a + 1) fun z hlo hhi => h z (by omega) (by omega)]

/-- Two places of 4 cells that do not meet. -/
def Apart (a b : Nat) : Prop := a + 4 ≤ b ∨ b + 4 ≤ a

/-- From `d` to `e` each place of `xs` has taken the value `new` makes of the number it held, and no other cell has changed. -/
structure Joined {α : Type} (d : Dev) (place : α → Nat) (new : α → Nat → Nat) (xs : List α) (e : Dev) : Prop where
  joined : ∀ x ∈ xs, memRead e.mem (place x) 4 = leBytes 4 (new x (leNat (memRead d.mem (place x) 4)))
  others : ∀ z, (∀ x ∈ xs, z < place x ∨ place x + 4 ≤ z) → memGet e.mem z = memGet d.mem z
  only   : e = { d with mem := e.mem, upsets := e.upsets }

/-- Where nothing is poisoned, a write of cells changes nothing else. -/
theorem cellPut_only {d : Dev} (clean : d.poison = []) (a : Nat) (bs : List Byte) :
    d.cellPut a bs = { d with mem := (d.cellPut a bs).mem, upsets := (d.cellPut a bs).upsets } := by
  simp [Dev.cellPut, clean, poisonAfterWrite, tabDrop]

theorem length_leBytes : ∀ n v, (leBytes n v).length = n
  | 0, _ => rfl
  | n + 1, v => congrArg (· + 1) (length_leBytes n (v / 256))

section Folds

variable {α : Type} {place : α → Nat} {new : α → Nat → Nat}

/-- One place is updated, then others apart from it. -/
theorem Joined.cons {d e : Dev} {x : α} {xs : List α} (clean : d.poison = []) (apart : ∀ y ∈ xs, Apart (place x) (place y))
    (h : Joined (d.cellPut (place x) (leBytes 4 (new x (leNat (memRead d.mem (place x) 4))))) place new xs e) :
    Joined d place new (x :: xs) e := by
  have frame := cellPut_frame d (place x) (leBytes 4 (new x (leNat (memRead d.mem (place x) 4))))
  have put := memRead_memWrite (leBytes 4 (new x (leNat (memRead d.mem (place x) 4)))) d.mem (place x)
  have only := cellPut_only clean (place x) (leBytes 4 (new x (leNat (memRead d.mem (place x) 4))))
  rw [length_leBytes] at frame put
  obtain ⟨joined, others, rest⟩ := h
  refine ⟨fun y hy => ?_, fun z hz => ?_, ?_⟩
  · rcases List.mem_cons.mp hy with rfl | hy
    · rw [← put]
      exact memRead_congr 4 _ fun z hlo hhi => others z fun w hw => by have := apart w hw; unfold Apart at this; omega
    · have := apart y hy
      rw [joined y hy, memRead_congr 4 (place y) fun z hlo hhi => frame z (by unfold Apart at this; omega)]
  · rw [others z fun y hy => hz y (List.mem_cons_of_mem x hy)]
    exact frame z (hz x List.mem_cons_self)
  · rw [rest, only]

/-- Updates of places apart from each other each meet the number that stood there before all of them. -/
theorem foldlM_joined {d0 : Dev} {f : Dev → α → Acc Dev} (clean : d0.poison = []) : ∀ (xs : List α) (d : Dev), xs.Pairwise (fun x y => Apart (place x) (place y)) →
    (∀ x ∈ xs, ∀ e, e = { d0 with mem := e.mem, upsets := e.upsets } →
      f e x = .ok (e.cellPut (place x) (leBytes 4 (new x (leNat (memRead e.mem (place x) 4)))))) →
    d = { d0 with mem := d.mem, upsets := d.upsets } → ∃ e, xs.foldlM f d = .ok e ∧ Joined d place new xs e
  | [], d, _, _, _ => ⟨d, rfl, fun _ h => absurd h List.not_mem_nil, fun _ _ => rfl, rfl⟩
  | x :: xs, d, apart, step, hd => by
    obtain ⟨apartX, apartXs⟩ := List.pairwise_cons.mp apart
    have cleanD : d.poison = [] := by rw [hd]; exact clean
    have only := cellPut_only cleanD (place x) (leBytes 4 (new x (leNat (memRead d.mem (place x) 4))))
    obtain ⟨e, run, all⟩ := foldlM_joined clean xs _ apartXs (fun y hy => step y (List.mem_cons_of_mem x hy)) (only.trans (by rw [hd]))
    refine ⟨e, ?_, all.cons cleanD apartX⟩
    rw [List.foldlM_cons, step x List.mem_cons_self d hd, acc_bind_ok, run]

/-- A fold in a fold is a fold over the pairs. -/
theorem foldlM_product {β γ : Type} (f : Dev → β → γ → Acc Dev) (ys : List γ) : ∀ (xs : List β) (d : Dev),
    (xs.product ys).foldlM (fun d p => f d p.1 p.2) d = xs.foldlM (fun d x => ys.foldlM (fun d y => f d x y) d) d
  | [], _ => rfl
  | x :: xs, d => by
    rw [List.product, List.flatMap_cons, List.foldlM_append, List.foldlM_map, List.foldlM_cons]
    exact congrArg _ (funext fun e => foldlM_product f ys xs e)

end Folds

/-! ## The elements of a RUN -/

/-- The cell of an offset of a core's accumulator (spec/02_structure_image.md R24). -/
def accCell (d : Dev) (core l off : Nat) : Nat := sramCell core ((partition (d.coreRec l) 1).1 + off)

/-- One element is joined where the accumulator holds it and nothing is poisoned. -/
theorem accUpdate_puts {d : Dev} {core l off : Nat} {ints sub fresh : Bool} {tf ti : List FVal × List Int} (clean : d.poison = [])
    (fits : off + 4 ≤ (partition (d.coreRec l) 1).2) :
    accUpdate d core l off ints sub fresh tf ti = .ok (d.cellPut (accCell d core l off)
      (leBytes 4 (accValue ints sub fresh (if fresh = true then 0 else leNat (memRead d.mem (accCell d core l off) 4)) tf ti))) := by
  have cell : partCell d core l 1 off 4 = .ok (accCell d core l off) := by rw [partCell, if_pos fits, accCell]
  have sound : poisonedAt d.poison (accCell d core l off) 4 = false := by rw [clean, poisonedAt, List.any_eq_false]; exact fun _ _ => Bool.false_ne_true
  have put (v : Nat) : partWrite d core l 1 off (leBytes 4 v) = .ok (d.cellPut (accCell d core l off) (leBytes 4 v)) := by
    rw [partWrite, length_leBytes, cell, acc_bind_ok]
  cases fresh with
  | true => simp only [accUpdate, ↓reduceIte, acc_bind_ok, put]
  | false =>
    have old : accRead d core l off = .ok (leNat (memRead d.mem (accCell d core l off) 4)) := by
      rw [accRead, partRead, cell, acc_bind_ok, sound, if_neg Bool.false_ne_true, acc_bind_ok]
    simp only [accUpdate, Bool.false_eq_true, ↓reduceIte, old, acc_bind_ok, put]

/-- Rows of a table whose pitch holds them, and the elements of a row, lie apart. -/
theorem grid_apart {p i j k l : Nat} (hj : 4 * j + 4 ≤ p) (hl : 4 * l + 4 ≤ p) (h : i ≠ k ∨ j ≠ l) (base : Nat) :
    Apart (base + i * p + 4 * j) (base + k * p + 4 * l) := by
  unfold Apart
  rcases Nat.lt_trichotomy i k with lt | rfl | lt
  · have := Nat.mul_le_mul_right p (Nat.succ_le_of_lt lt)
    rw [Nat.succ_mul] at this
    omega
  · omega
  · have := Nat.mul_le_mul_right p (Nat.succ_le_of_lt lt)
    rw [Nat.succ_mul] at this
    omega

/-- Tile lines that an array of the form holds (R148, R154). -/
def formLines (wide : Bool) : Nat := if wide then 16 else 64

section Place

variable {d : Dev} {l base stride n i j : Nat} {wide : Bool} (ok : accPlaceOk d l wide base stride n = true)
  (hi : i < formLines wide) (hj : j < n)
include ok hi hj

/-- Every element of a RUN lies in the accumulator (R158). -/
theorem accOffset_fits : accOffset wide base stride i j + 4 ≤ (partition (d.coreRec l) 1).2 := by
  cases wide with
  | false =>
    simp only [accPlaceOk, Bool.false_eq_true, ↓reduceIte, Bool.and_eq_true, decide_eq_true_eq] at ok
    have rows := Nat.mul_le_mul_right stride (Nat.le_sub_one_of_lt hj)
    change i < 64 at hi
    change base + j * stride + 4 * i + 4 ≤ _
    omega
  | true =>
    simp only [accPlaceOk, ↓reduceIte, Bool.and_eq_true, decide_eq_true_eq] at ok
    have rows := Nat.mul_le_mul_right stride (Nat.le_of_lt_succ (show i < 15 + 1 from hi))
    change base + i * stride + 4 * j + 4 ≤ _
    omega

/-- Different elements of a RUN lie apart (R157, R158). -/
theorem accOffset_apart {i' j' : Nat} (hi' : i' < formLines wide) (hj' : j' < n) (h : i ≠ i' ∨ j ≠ j') :
    Apart (accOffset wide base stride i j) (accOffset wide base stride i' j') := by
  cases wide with
  | false =>
    simp only [accPlaceOk, Bool.false_eq_true, ↓reduceIte, Bool.and_eq_true, decide_eq_true_eq] at ok
    change i < 64 at hi
    change i' < 64 at hi'
    exact grid_apart (by omega) (by omega) h.symm base
  | true =>
    simp only [accPlaceOk, ↓reduceIte, Bool.and_eq_true, decide_eq_true_eq] at ok
    exact grid_apart (by omega) (by omega) h base

end Place

end Sys2Proof.Machine
end

section
/-! PROOFS. ARR.TILE, ARR.RUN and ARR.LIST (spec/06_matrix_arrays.md R148 to R158, R161, R162; spec/07_loop_nests.md R179 to R182). -/

namespace Sys2Proof.Machine

/-! ## The arrays of a core's context -/

/-- The context with array `a` replaced. -/
def Ctx.withArr (x : Ctx) (a : Nat) (r : Arr) : Ctx := if a = 0 then { x with arr0 := r } else { x with arr1 := r }

@[simp] theorem Ctx.withArr_getArr (x : Ctx) (a : Nat) : x.withArr a (getArr x a) = x := by
  unfold Ctx.withArr getArr
  by_cases h : a = 0 <;> simp [h]

theorem Ctx.withArr_wait (x : Ctx) (w : Wait) (a : Nat) (r : Arr) :
    ({ x with wait := w } : Ctx).withArr a r = { x.withArr a r with wait := w } := by
  unfold Ctx.withArr
  split <;> rfl

theorem queue_arrEngine (x : Ctx) (a : Nat) : x.queue (arrEngine a) = (getArr x a).queue := by
  unfold arrEngine getArr
  split <;> rfl

theorem setQueue_arrEngine (x : Ctx) (a : Nat) (q : List Queued) : x.setQueue (arrEngine a) q = x.withArr a { getArr x a with queue := q } := by
  unfold arrEngine getArr Ctx.withArr
  by_cases h : a = 0 <;> simp [h, Ctx.setQueue]

theorem queueFull_arrEngine (x : CoreSt) (a : Nat) : queueFull x (arrEngine a) = decide (8 ≤ (getArr x.ctx a).queue.length) := by
  unfold arrEngine getArr
  split <;> rfl

theorem core_unwait (d : Dev) (core : Nat) : (unwait d core).core core = { d.core core with ctx := { (d.core core).ctx with wait := .none } } := by
  simp

/-- A core whose array `a` has become `r` and that goes on at `pc`. -/
def CoreSt.arrWent (x : CoreSt) (a : Nat) (r : Arr) (pc : Nat) : CoreSt := { x with ctx := { x.ctx.withArr a r with wait := .none, pc := pc, addf := [] } }

/-- A core that has left its wait, with array `a` replaced. -/
def CoreSt.arrSet (x : CoreSt) (a : Nat) (r : Arr) : CoreSt := { x with ctx := { x.ctx.withArr a r with wait := .none } }

theorem setArr_eq (d : Dev) (core a : Nat) (r : Arr) : setArr d core a r = d.modCtx core (fun x => x.withArr a r) := by
  refine congrArg (d.modCtx core) (funext fun x => ?_)
  unfold Ctx.withArr
  by_cases h : a = 0 <;> simp [h]

theorem coreStep_setArr (d : Dev) (core a : Nat) (r : Arr) :
    CoreStep d core ((d.core core).arrSet a r) (setArr (unwait d core) core a r) := by
  rw [setArr_eq, Dev.modCtx_eq, core_unwait, Ctx.withArr_wait]
  exact coreStep_set (coreStep_one _ _ _) _

theorem coreStep_unwait (d : Dev) (core a : Nat) : CoreStep d core ((d.core core).arrSet a (getArr (d.core core).ctx a)) (unwait d core) := by
  rw [CoreSt.arrSet, Ctx.withArr_getArr]
  exact coreStep_one d core _

/-- An array command has run: its core goes on, and its pending additions are used up (R198). -/
theorem CoreStep.arrWent {d e : Dev} {core op a : Nat} {x : CoreSt} {r : Arr} (h : CoreStep d core (x.arrSet a r) e) (hop : 0x20 ≤ op) (pc : Nat) :
    CoreStep d core (x.arrWent a r pc) (issued e core op pc) := by
  have went : issued e core op pc = e.setCore core (x.arrWent a r pc) := by
    simp [issued, advance, hop, h.1, CoreSt.arrWent, CoreSt.arrSet]
  rw [went]
  exact coreStep_set h _

/-! ## Waiting in the array's queue (R161, R162, R195) -/

/-- The array after a command of stamp `n` has joined its queue. -/
def Arr.join (r : Arr) (n : Nat) (c : Cmd) (entry : Nat) : Arr :=
  { r with queue := r.queue ++ [{ stamp := n, pc := c.pc, b := c.b, entry := entry }] }

theorem CoreStep.withCnt {d e : Dev} {core : Nat} {x : CoreSt} (h : CoreStep d core x e) (n : Cnt) :
    CoreStep { d with cnt := n } core x { e with cnt := n } := by
  obtain ⟨core_eq, others, only⟩ := h
  exact ⟨core_eq, others, by rw [only]⟩

theorem CoreStep.withTmNext {d e : Dev} {core : Nat} {x : CoreSt} (h : CoreStep d core x e) (n : Nat) :
    CoreStep { d with tmNext := n } core x { e with tmNext := n } := by
  obtain ⟨core_eq, others, only⟩ := h
  exact ⟨core_eq, others, by rw [only]⟩

/-- Something stands before a command of array `a` of the core: an unfinished command of another engine, or one in the array's queue. -/
def ArrHeld (x : CoreSt) (a : Nat) : Prop := coreBusy x = true ∨ (getArr x.ctx a).queue ≠ []

section Waiting

variable {d : Dev} {core : Nat} {c : Cmd} (own : c.core = core)
include own

theorem arrWaits_iff : arrWaits (unwait d core) c = true ↔ ArrHeld (d.core core) c.arr := by
  rw [arrWaits, own, core_unwait, Cmd.arrEngine, queue_arrEngine, Bool.or_eq_true, Bool.not_eq_true', List.isEmpty_eq_false_iff]
  rfl

theorem arrWaits_false (h : ¬ArrHeld (d.core core) c.arr) : arrWaits (unwait d core) c = false :=
  Bool.eq_false_iff.mpr (mt (arrWaits_iff own).mp h)

/-- A command joins its array's queue while that has room. -/
theorem joinQueue_room (entry : Nat) (room : (getArr (d.core core).ctx c.arr).queue.length < 8) :
    ∃ e, joinQueue (unwait d core) c c.arrEngine entry = .next e
      ∧ CoreStep { d with tmNext := d.tmNext + 1 } core ((d.core core).arrSet c.arr ((getArr (d.core core).ctx c.arr).join d.tmNext c entry)) e := by
  have notFull : queueFull ((unwait d core).core core) c.arrEngine = false := by
    rw [core_unwait, Cmd.arrEngine, queueFull_arrEngine]
    exact decide_eq_false (Nat.not_le.mpr room)
  refine ⟨_, by rw [joinQueue, own, notFull, if_neg Bool.false_ne_true], ?_⟩
  have joined : (unwait d core).modCtx core (fun x => x.setQueue c.arrEngine (x.queue c.arrEngine
      ++ [{ stamp := d.tmNext, pc := c.pc, b := c.b, entry := entry }]))
      = setArr (unwait d core) core c.arr ((getArr (d.core core).ctx c.arr).join d.tmNext c entry) := by
    rw [setArr_eq, Dev.modCtx_eq, Dev.modCtx_eq, core_unwait, Cmd.arrEngine, queue_arrEngine, setQueue_arrEngine]
    rfl
  have step := (coreStep_setArr d core c.arr ((getArr (d.core core).ctx c.arr).join d.tmNext c entry)).withTmNext (d.tmNext + 1)
  rw [← joined] at step
  exact step

/-- At a full queue the core stalls. -/
theorem joinQueue_stalls (entry : Nat) (full : 8 ≤ (getArr (d.core core).ctx c.arr).queue.length) :
    joinQueue (unwait d core) c c.arrEngine entry
      = .stall ((unwait d core).setCore core { d.core core with ctx := { (d.core core).ctx with wait := .queue } }) := by
  have isFull : queueFull ((unwait d core).core core) c.arrEngine = true := by
    rw [core_unwait, Cmd.arrEngine, queueFull_arrEngine]
    exact decide_eq_true full
  rw [joinQueue, own, isFull, if_pos rfl, queueStall, Dev.modCtx_eq, core_unwait]

end Waiting

/-- An array command that waits joins its queue with its core going on, or its core stalls at it. -/
theorem arrCommand_queues {s : State} {core op engine : Nat} {ops : Nat → Bool} {f : Dev → Cmd → Acc Issued} {c : Cmd}
    (ha : asleep s.dev = false) (h : Stands s.dev core op c) (hl : listedOp op = true) (ho : ops op = true) (hop : 0x20 ≤ op)
    (hf : f (unwait s.dev core) c = .ok (joinQueue (unwait s.dev core) c c.arrEngine 0)) :
    let x := s.dev.core core
    let arr := getArr x.ctx c.arr
    (arr.queue.length < 8 → YieldsSome (onDev (isCore core) (fun _ d => issue core engine ops f d) s) s
      (CoreStep { s.dev with tmNext := s.dev.tmNext + 1 } core
        (x.arrWent c.arr (arr.join s.dev.tmNext c 0) (c.pc + 1))))
    ∧ (8 ≤ arr.queue.length → YieldsSome (onDev (isCore core) (fun _ d => issue core engine ops f d) s) s
      (CoreStep s.dev core { x with ctx := { x.ctx with wait := .queue } })) := by
  refine ⟨fun room => ?_, fun full => ?_⟩
  · obtain ⟨e, join, step⟩ := joinQueue_room h.own 0 room
    exact issue_yields ha h hl ho _ (hf.trans (congrArg _ join)) (step.arrWent hop _)
  · exact issue_stall ha h hl ho _ (hf.trans (congrArg _ (joinQueue_stalls h.own 0 full))) (coreStep_set (coreStep_one _ _ _) _)

/-! ## TILE (R154, R155) -/

theorem arrTile_waits {d : Dev} {core : Nat} {c : Cmd} (own : c.core = core)
    (h : ArrHeld (d.core core) c.arr
      ∨ (arrFieldsOk c false = true ∧ (getArr (d.core core).ctx c.arr).shadow.isSome = true)) :
    arrTile (unwait d core) c = .ok (joinQueue (unwait d core) c c.arrEngine 0) := by
  refine if_pos ?_
  rw [Bool.or_eq_true, arrWaits_iff own, Bool.and_eq_true, own, core_unwait]
  exact h

/-- A TILE that waits for nothing fills the empty shadow. -/
theorem arrTile_loads {d : Dev} {core : Nat} {c : Cmd} {t : Tile} (own : c.core = core)
    (free : ¬ArrHeld (d.core core) c.arr) (fields : arrFieldsOk c false = true)
    (empty : (getArr (d.core core).ctx c.arr).shadow = none)
    (load : loadTile d core c.slot c.logical c.arr (c.u 2 1) (c.u 4 1) (c.i 8 4) (c.i 0xC 4) = .ok t) :
    arrTile (unwait d core) c = .ok (.next (setArr (unwait d core) core c.arr { getArr (d.core core).ctx c.arr with shadow := some t })) := by
  have loadU : loadTile (unwait d core) core c.slot c.logical c.arr (c.u 2 1) (c.u 4 1) (c.i 8 4) (c.i 0xC 4) = .ok t := load
  have arr : getArr ((unwait d core).core core).ctx c.arr = getArr (d.core core).ctx c.arr := by rw [core_unwait]; rfl
  have now : tileNow (unwait d core) c = .ok (setArr (unwait d core) core c.arr { getArr (d.core core).ctx c.arr with shadow := some t }) := by
    rw [tileNow, legal_ok fields, acc_bind_ok, own, arr, loadU, acc_bind_ok]
  rw [arrTile, arrWaits_false own free, fields, own, arr, empty, now]
  rfl

/-! ## RUN (R156 to R158) -/

/-- Nothing of R148, R153 and R158 stands against a RUN of pattern `p` over tile `t`, whose pair of formats has K `kt`. -/
structure RunFits (d : Dev) (l a fmt : Nat) (p : Pattern) (t : Tile) (kt base stride : Nat) : Prop where
  pair    : pairK t.fmt fmt = some kt
  pattern : patternOk p fmt ((if arrWide d l a then 4 * kt else kt) * elemBits fmt / 8) 0 0 = true
  lines   : t.lines.all (fun b => decide (b.length ≤ (if arrWide d l a then 4 * kt else kt) * elemBits t.fmt / 8)) = true
  place   : accPlaceOk d l (arrWide d l a) base stride (p.count 1 * p.count 2) = true

/-- What a RUN does with each pair of lines: the core and form it runs on, the formats, the mode, and where it writes. -/
structure Run where
  core   : Nat
  l      : Nat
  fmt    : Nat
  k      : Nat
  wide   : Bool
  mode   : Nat
  base   : Nat
  stride : Nat

/-- A streamed line and its place in the stream, with a tile line's values and its place in the tile. -/
abbrev RunElem := ((List Byte × List Byte) × Nat) × ((List FVal × List Int) × Nat)

/-- The elements of a RUN in the order it joins them: for each streamed line, each tile line. -/
def Run.elems (r : Run) (t : Tile) (stream : List (List Byte × List Byte)) : List RunElem :=
  stream.zipIdx.product ((t.lines.zip t.scales).map (lineBoth t.fmt r.k (r.fmt == 7))).zipIdx

/-- Its offset in the accumulator (R157). -/
def Run.off (r : Run) (x : RunElem) : Nat := accOffset r.wide r.base r.stride x.2.2 x.1.2

/-- Its cell. -/
def Run.cell (r : Run) (d : Dev) (x : RunElem) : Nat := accCell d r.core r.l (r.off x)

/-- What an element that held `old` becomes (R129, R156). -/
def Run.new (r : Run) (x : RunElem) (old : Nat) : Nat :=
  accValue (r.fmt == 7) (r.mode == 1) (r.mode == 2) (if r.mode = 2 then 0 else old) x.2.1 (lineBoth r.fmt r.k (r.fmt == 7) x.1.1)

/-- One step of a RUN: streamed line `s` meets tile line `t`. -/
def Run.update (r : Run) (e : Dev) (s : (List Byte × List Byte) × Nat) (t : (List FVal × List Int) × Nat) : Acc Dev :=
  accUpdate e r.core r.l (accOffset r.wide r.base r.stride t.2 s.2) (r.fmt == 7) (r.mode == 1) (r.mode == 2) t.1 (lineBoth r.fmt r.k (r.fmt == 7) s.1)

section Elems

variable {r : Run} {t : Tile} {stream : List (List Byte × List Byte)}

theorem Run.mem_elems {x : RunElem} : x ∈ r.elems t stream ↔ stream[x.1.2]? = some x.1.1
    ∧ ∃ tl, (t.lines.zip t.scales)[x.2.2]? = some tl ∧ lineBoth t.fmt r.k (r.fmt == 7) tl = x.2.1 := by
  obtain ⟨⟨sl, j⟩, ⟨tv, i⟩⟩ := x
  simp [Run.elems, List.pair_mem_product, List.mk_mem_zipIdx_iff_getElem?, List.getElem?_map]

/-- An element names a tile line and a streamed line that exist. -/
theorem Run.elems_lt {x : RunElem} (h : x ∈ r.elems t stream) : x.2.2 < t.lines.length ∧ x.1.2 < stream.length := by
  obtain ⟨line, tl, tile, -⟩ := Run.mem_elems.mp h
  have := (List.getElem?_eq_some_iff.mp tile).1
  rw [List.length_zip] at this
  exact ⟨by omega, (List.getElem?_eq_some_iff.mp line).1⟩

/-- Elements of the same two places are the same. -/
theorem Run.elems_ext {x y : RunElem} (hx : x ∈ r.elems t stream) (hy : y ∈ r.elems t stream) (hi : x.2.2 = y.2.2) (hj : x.1.2 = y.1.2) : x = y := by
  obtain ⟨⟨sl, j⟩, ⟨tv, i⟩⟩ := x
  obtain ⟨⟨sl', j'⟩, ⟨tv', i'⟩⟩ := y
  simp only at hi hj
  subst hi hj
  obtain ⟨line, tl, tile, rfl⟩ := Run.mem_elems.mp hx
  obtain ⟨line', tl', tile', rfl⟩ := Run.mem_elems.mp hy
  simp only at line line' tile tile'
  rw [line] at line'
  rw [tile] at tile'
  cases line'
  cases tile'
  rfl

theorem Run.elems_nodup : (r.elems t stream).Nodup :=
  (List.Nodup.of_map _ (List.nodup_zipIdx_map_snd _)).product (List.Nodup.of_map _ (List.nodup_zipIdx_map_snd _))

/-- A RUN that R158 lets write joins all its elements, each to the number its place held before. -/
theorem Run.joins {d : Dev} {n : Nat} (clean : d.poison = []) (place : accPlaceOk d r.l r.wide r.base r.stride n = true)
    (lines : t.lines.length ≤ formLines r.wide) (len : stream.length = n) :
    ∃ e, (r.elems t stream).foldlM (fun e x => r.update e x.1 x.2) d = .ok e ∧ Joined d (r.cell d) r.new (r.elems t stream) e := by
  subst len
  refine foldlM_joined clean _ d ?_ (fun x hx e he => ?_) rfl
  · refine Run.elems_nodup.pairwise_of_forall_ne fun x hx y hy ne => ?_
    obtain ⟨hi, hj⟩ := Run.elems_lt hx
    obtain ⟨hi', hj'⟩ := Run.elems_lt hy
    have differ : x.2.2 ≠ y.2.2 ∨ x.1.2 ≠ y.1.2 := by
      by_contra same
      rw [not_or, not_not, not_not] at same
      exact ne (Run.elems_ext hx hy same.1 same.2)
    have := accOffset_apart place (by omega) hj (by omega) hj' differ
    unfold Apart Run.cell Run.off accCell sramCell at *
    omega
  · obtain ⟨hi, hj⟩ := Run.elems_lt hx
    have fits := accOffset_fits place (Nat.lt_of_lt_of_le hi lines) hj
    have rec_eq : e.coreRec r.l = d.coreRec r.l := by rw [he]; rfl
    have cleanE : e.poison = [] := by rw [he]; exact clean
    have put := accUpdate_puts (core := r.core) (ints := r.fmt == 7) (sub := r.mode == 1) (fresh := r.mode == 2) (tf := x.2.1)
      (ti := lineBoth r.fmt r.k (r.fmt == 7) x.1.1) cleanE (rec_eq ▸ fits)
    simp only [beq_iff_eq, accCell, rec_eq] at put
    exact put

end Elems

theorem length_mapM_ok {α β : Type} {f : α → Acc β} : ∀ {xs : List α} {ys : List β}, xs.mapM f = .ok ys → ys.length = xs.length
  | [], ys, h => by
    cases h
    rfl
  | x :: xs, ys, h => by
    rw [List.mapM_cons] at h
    cases hx : f x with
    | error e => rw [hx] at h; cases h
    | ok y =>
      cases hxs : xs.mapM f with
      | error e => rw [hx, hxs] at h; cases h
      | ok zs =>
        rw [hx, hxs] at h
        cases h
        exact congrArg (· + 1) (length_mapM_ok hxs)

/-- As many lines are fed as were asked for (R152). -/
theorem length_feed {d : Dev} {core l fmt n1 n2 : Nat} {p : Pattern} {adj sadj : Int} {stream : List (List Byte × List Byte)}
    (fed : feed d core l fmt p adj sadj n1 n2 = .ok stream) : stream.length = n1 * n2 := (length_mapM_ok fed).trans List.length_range

/-- The array and the counter when a RUN begins to join its elements (R163, R465). -/
def runBegun (d : Dev) (core a : Nat) (t : Tile) (swap : Bool) (n : Nat) : Dev :=
  (if swap then setArr d core a { getArr (d.core core).ctx a with active := some t, shadow := none } else d).count 1 n

/-- The RUN a command asks of core `core`, with K `kt` per square-form line. -/
def Cmd.run (c : Cmd) (d : Dev) (core kt : Nat) : Run :=
  { core := core, l := c.logical, fmt := c.u 2 1, k := if arrWide d c.logical c.arr then 4 * kt else kt, wide := arrWide d c.logical c.arr,
    mode := natBits (c.u 1 1) 3 2, base := c.u 0x10 4, stride := c.u 0x14 4 }

theorem runNow_eq {d : Dev} {c : Cmd} {kt : Nat} {p : Pattern} {t : Tile} {stream : List (List Byte × List Byte)} (fields : arrFieldsOk c true = true)
    (pattern : corePattern d c.core c.slot c.logical (c.u 4 1) = .ok p)
    (tile : (if natBit (c.u 1 1) 1 then (getArr (d.core c.core).ctx c.arr).shadow else (getArr (d.core c.core).ctx c.arr).active) = some t)
    (fits : RunFits d c.logical c.arr (c.u 2 1) p t kt (c.u 0x10 4) (c.u 0x14 4))
    (fed : feed d c.core c.logical (c.u 2 1) p (c.i 8 4) (c.i 0xC 4) (p.count 1) (p.count 2) = .ok stream) :
    runNow d c = ((c.run d c.core kt).elems t stream).foldlM (fun e x => (c.run d c.core kt).update e x.1 x.2)
      (runBegun d c.core c.arr t (natBit (c.u 1 1) 1) (p.count 1 * p.count 2)) := by
  obtain ⟨pair, patOk, lines, place⟩ := fits
  rw [Run.elems, foldlM_product]
  simp only [runNow, legal_ok fields, runArray, pattern, acc_bind_ok, Option.getD_none, Option.isSome_none, Bool.false_eq_true, ↓reduceIte, tile, pair,
    legal_ok patOk, legal_ok lines, legal_ok place, fed]
  rfl

/-- The array a RUN leaves: a swap makes the shadow's tile the active one (R156). -/
def Arr.ran (r : Arr) (swap : Bool) (t : Tile) : Arr := if swap then { r with active := some t, shadow := none } else r

theorem coreStep_runBegun (d : Dev) (core a : Nat) (t : Tile) (swap : Bool) (n : Nat) :
    CoreStep { d with cnt := (d.count 1 n).cnt } core ((d.core core).arrSet a ((getArr (d.core core).ctx a).ran swap t)) (runBegun (unwait d core) core a t swap n) := by
  have begun : runBegun (unwait d core) core a t swap n
      = { (if swap then setArr (unwait d core) core a ((getArr (d.core core).ctx a).ran true t) else unwait d core) with cnt := (d.count 1 n).cnt } := by
    rw [runBegun, core_unwait]
    cases swap <;> rfl
  rw [begun]
  cases swap with
  | true => exact (coreStep_setArr d core a _).withCnt _
  | false => exact (coreStep_unwait d core a).withCnt _

section Ran

variable {d : Dev} {core : Nat} {c : Cmd} {kt : Nat} {p : Pattern} {t : Tile} {stream : List (List Byte × List Byte)} (own : c.core = core)
  (clean : d.poison = []) (fields : arrFieldsOk c true = true) (pattern : corePattern d core c.slot c.logical (c.u 4 1) = .ok p)
  (tile : (if natBit (c.u 1 1) 1 then (getArr (d.core core).ctx c.arr).shadow else (getArr (d.core core).ctx c.arr).active) = some t)
  (fits : RunFits d c.logical c.arr (c.u 2 1) p t kt (c.u 0x10 4) (c.u 0x14 4)) (lines : t.lines.length ≤ formLines (arrWide d c.logical c.arr))
  (fed : feed d core c.logical (c.u 2 1) p (c.i 8 4) (c.i 0xC 4) (p.count 1) (p.count 2) = .ok stream)
include own clean fields pattern tile fits lines fed

/-- A RUN that nothing stands against joins all its elements to the accumulator. -/
theorem runNow_joins : ∃ e, runNow (unwait d core) c = .ok e
    ∧ Joined (runBegun (unwait d core) core c.arr t (natBit (c.u 1 1) 1) (p.count 1 * p.count 2))
        ((c.run d core kt).cell d) (c.run d core kt).new ((c.run d core kt).elems t stream) e := by
  subst own
  obtain ⟨-, -, begun⟩ := coreStep_runBegun d c.core c.arr t (natBit (c.u 1 1) 1) (p.count 1 * p.count 2)
  generalize hb : runBegun (unwait d c.core) c.core c.arr t (natBit (c.u 1 1) 1) (p.count 1 * p.count 2) = b at begun ⊢
  have rec_eq (l : Nat) : b.coreRec l = d.coreRec l := by rw [begun]; rfl
  have place : accPlaceOk b c.logical (arrWide d c.logical c.arr) (c.u 0x10 4) (c.u 0x14 4) (p.count 1 * p.count 2) = true := by
    rw [accPlaceOk, rec_eq]
    exact fits.place
  have cell_eq : (c.run d c.core kt).cell b = (c.run d c.core kt).cell d := by
    funext x
    rw [Run.cell, accCell, rec_eq]
    rfl
  obtain ⟨e, run, all⟩ := Run.joins (r := c.run d c.core kt) (t := t) (by rw [begun]; exact clean) place lines (length_feed fed)
  refine ⟨e, ?_, cell_eq ▸ all⟩
  rw [← run, ← hb]
  refine runNow_eq fields pattern ?_ ⟨fits.pair, fits.pattern, fits.lines, fits.place⟩ fed
  rw [core_unwait]
  exact tile

/-- What a RUN leaves: every pair of lines at its element, all other cells as they were, its array after the swap, and its lines counted. -/
theorem arrRun_ran (free : ¬ArrHeld (d.core core) c.arr) :
    ∃ e, arrRun (unwait d core) c = .ok (.next e)
      ∧ (∀ i j tl sl, (t.lines.zip t.scales)[i]? = some tl → stream[j]? = some sl →
        let x : RunElem := ((sl, j), (lineBoth t.fmt (c.run d core kt).k (c.u 2 1 == 7) tl, i))
        memRead e.mem ((c.run d core kt).cell d x) 4 = leBytes 4 ((c.run d core kt).new x (leNat (memRead d.mem ((c.run d core kt).cell d x) 4))))
      ∧ (∀ z, (∀ x : RunElem, x.2.2 < t.lines.length → x.1.2 < p.count 1 * p.count 2 → z < (c.run d core kt).cell d x ∨ (c.run d core kt).cell d x + 4 ≤ z) →
        memGet e.mem z = memGet d.mem z)
      ∧ CoreStep { d with mem := e.mem, upsets := e.upsets, cnt := (d.count 1 (p.count 1 * p.count 2)).cnt } core
        ((d.core core).arrSet c.arr ((getArr (d.core core).ctx c.arr).ran (natBit (c.u 1 1) 1) t)) e := by
  obtain ⟨e, run, joined, others, only⟩ := runNow_joins own clean fields pattern tile fits lines fed
  obtain ⟨begunCore, begunOthers, begun⟩ := coreStep_runBegun d core c.arr t (natBit (c.u 1 1) 1) (p.count 1 * p.count 2)
  generalize runBegun (unwait d core) core c.arr t (natBit (c.u 1 1) 1) (p.count 1 * p.count 2) = b at *
  have mem : b.mem = d.mem := by rw [begun]
  have core_eq (q : Nat) : e.core q = b.core q := by rw [only]; rfl
  rw [mem] at joined others
  refine ⟨e, by rw [arrRun, arrWaits_false own free, if_neg Bool.false_ne_true, run]; rfl, fun i j tl sl htl hsl => ?_, fun z hz => ?_,
    (core_eq _).trans begunCore, fun q hq => (core_eq q).trans (begunOthers q hq), ?_⟩
  · exact joined _ (Run.mem_elems.mpr ⟨hsl, tl, htl, rfl⟩)
  · refine others z fun x hx => ?_
    obtain ⟨hi, hj⟩ := Run.elems_lt hx
    exact hz x hi (length_feed fed ▸ hj)
  · rw [only, begun]

end Ran

/-! ## LIST (R179 to R182) -/

theorem yields_of_eq {o : Out} {s : State} {e : Dev} (h : YieldsSome o s (· = e)) : Yields o s e := by
  obtain ⟨_, answer, rfl⟩ := h
  exact answer

/-- A list that waits for nothing takes its entries from the first. -/
theorem arrListCmd_eq {d : Dev} {core : Nat} {c : Cmd} (own : c.core = core)
    (free : ¬ArrHeld (d.core core) c.arr) (fields : listFieldsOk c = true) :
    arrListCmd (unwait d core) c = match listEntries (unwait d core) c (c.u 6 2) 0 with
      | (e, .done) => .ok (.next e)
      | (e, .fault f) => .ok (.stall (jobFault e c.slot core 1 c.logical c.pc f))
      | (e, .waits n) => .ok (joinQueue e c c.arrEngine n) := by
  rw [arrListCmd, arrWaits_false own free, if_neg Bool.false_ne_true, listNow, if_pos fields, own]
  rfl

/-! ## The statement -/

/-- Settles O15: a command that waits joins its array's queue; a TILE fills the empty shadow; the elements of a RUN lie apart, so each joins
the number its place held before; a LIST ends as its entries do. -/
theorem arrayCommandsLoadAndAccumulate : Obligations.ArrayCommandsLoadAndAccumulate := by
  unfold Obligations.ArrayCommandsLoadAndAccumulate
  intro s core c h d x a arr wide withArr goes joins waits
  refine ⟨fun t hs fields free empty load => ?tile, fun op i waiting hs => ?queue, fun p t kt stream hs fields free clean => ?run,
    fun e hs fields free => ⟨fun ends => ?done, fun m d2 ends join => ?waits, fun f ends => ?fault⟩⟩
  case tile =>
    exact issue_yields h hs rfl rfl _ (arrTile_loads hs.own free fields empty load) ((coreStep_setArr d core a _).arrWent (by decide) _)
  case queue =>
    rcases waiting with ⟨rfl, rfl, hw⟩ | ⟨rfl, rfl, hw⟩ | ⟨rfl, rfl, hw⟩
    · exact arrCommand_queues h hs rfl rfl (by decide) (arrTile_waits hs.own hw)
    · exact arrCommand_queues h hs rfl rfl (by decide) (if_pos ((arrWaits_iff hs.own).mpr hw))
    · exact arrCommand_queues h hs rfl rfl (by decide) (if_pos ((arrWaits_iff hs.own).mpr hw))
  case run =>
    intro fmt swap mode n k cell pattern tile pair patOk fit lines place fed
    obtain ⟨e, cmd, joined, others, step⟩ := arrRun_ran hs.own clean fields pattern tile ⟨pair, patOk, fit, place⟩ lines fed free
    exact issue_yields h hs rfl rfl _ cmd ⟨joined, fun z hz => others z fun x hi hj => hz _ _ hi hj, step.arrWent (by decide) _⟩
  case done =>
    exact yields_of_eq (issue_yields h hs rfl rfl _ (by rw [arrListCmd_eq hs.own free fields, ends]) rfl)
  case waits =>
    exact yields_of_eq (issue_yields h hs rfl rfl _ (by rw [arrListCmd_eq hs.own free fields, ends]; exact congrArg _ join) rfl)
  case fault =>
    exact yields_of_eq (issue_stall h hs rfl rfl _ (by rw [arrListCmd_eq hs.own free fields, ends]) rfl)

end Sys2Proof.Machine
end

section
/-! PROOFS. The control core's scalar, scratchpad and pip commands (spec/08_vector_engine.md R196 to R198, R200 to R203). -/

namespace Sys2Proof.Machine

/-! ## How a command of the control core ends (R195, R198) -/

theorem YieldsSome.mono {o : Out} {s : State} {P Q : Dev → Prop} (h : YieldsSome o s P) (hpq : ∀ e, P e → Q e) : YieldsSome o s Q := by
  obtain ⟨e, next, hp⟩ := h
  exact ⟨e, next, hpq e hp⟩

theorem CoreStep.modCtx {d e : Dev} {core : Nat} {x : CoreSt} (h : CoreStep d core x e) (f : Ctx → Ctx) :
    CoreStep d core { x with ctx := f x.ctx } (e.modCtx core f) := by
  rw [Dev.modCtx_eq, h.1]
  exact coreStep_set h _

/-- A core that goes on at `pc`. -/
def CoreSt.wentOn (x : CoreSt) (pc : Nat) : CoreSt := { x with ctx := { x.ctx with pc := pc } }

/-- A command of the control core leaves the pending additions alone (R198). -/
theorem CoreStep.wentOn {d e : Dev} {core op : Nat} {x : CoreSt} (h : CoreStep d core x e) (hop : op < 0x20) (pc : Nat) :
    CoreStep d core (x.wentOn pc) (issued e core op pc) := by
  have went : issued e core op pc = e.setCore core (x.wentOn pc) := by simp [issued, advance, Nat.not_le.mpr hop, h.1, CoreSt.wentOn]
  rw [went]
  exact coreStep_set h _

/-- Scalar register SD is written. -/
theorem coreStep_setSd {d : Dev} {core : Nat} {c : Cmd} (own : c.core = core) (v : Dword) :
    CoreStep d core { d.core core with ctx := { (d.core core).ctx.setSreg (c.u 2 1) v with wait := .none } } (setSd (unwait d core) c v) := by
  have sets := (coreStep_one d core { d.core core with ctx := { (d.core core).ctx with wait := .none } }).modCtx (fun x => x.setSreg (c.u 2 1) v)
  rw [setSreg_wait] at sets
  rw [setSd, own]
  exact sets

section Ends

variable {s : State} {core op engine : Nat} {ops : Nat → Bool} {f : Dev → Cmd → Acc Issued} {c : Cmd} (ha : asleep s.dev = false)
  (h : Stands s.dev core op c) (hl : listedOp op = true) (ho : ops op = true)
include ha h hl ho

/-- A command that changes its core alone. -/
theorem control_goes {d2 : Dev} {x : CoreSt} (hop : op < 0x20) (hf : f (unwait s.dev core) c = .ok (.next d2)) (step : CoreStep s.dev core x d2) :
    YieldsSome (onDev (isCore core) (fun _ d => issue core engine ops f d) s) s (CoreStep s.dev core (x.wentOn (c.pc + 1))) :=
  issue_yields ha h hl ho _ hf (step.wentOn hop _)

/-- A command that changes its core's context. -/
theorem control_modifies {g : Ctx → Ctx} (hop : op < 0x20) (hf : f (unwait s.dev core) c = .ok (.next ((unwait s.dev core).modCtx core g))) :
    YieldsSome (onDev (isCore core) (fun _ d => issue core engine ops f d) s) s (CoreStep s.dev core
      { s.dev.core core with ctx := { g { (s.dev.core core).ctx with wait := .none } with pc := c.pc + 1 } }) :=
  control_goes ha h hl ho hop hf ((coreStep_one _ _ _).modCtx g)

/-- A command that writes its scalar register SD. -/
theorem control_sets {v : Dword} (hop : op < 0x20) (hf : f (unwait s.dev core) c = .ok (.next (setSd (unwait s.dev core) c v))) :
    YieldsSome (onDev (isCore core) (fun _ d => issue core engine ops f d) s) s
      (CoreStep s.dev core { s.dev.core core with ctx := { (s.dev.core core).ctx.setSreg (c.u 2 1) v with wait := .none, pc := c.pc + 1 } }) :=
  control_goes ha h hl ho hop hf (coreStep_setSd h.own v)

/-- A command at which its core stays, free to issue it again. -/
theorem control_stays (hf : f (unwait s.dev core) c = .ok (.stall (unwait s.dev core))) :
    YieldsSome (onDev (isCore core) (fun _ d => issue core engine ops f d) s) s
      (CoreStep s.dev core { s.dev.core core with ctx := { (s.dev.core core).ctx with wait := .none } }) :=
  issue_stall ha h hl ho _ hf (coreStep_one _ _ _)

end Ends

/-! ## Operands (R197, R198) -/

theorem regOk_of_le {n : Nat} (h : n ≤ 31) : regOk n = true := decide_eq_true h

theorem sbOk_of {c : Cmd} (h : natBit (c.u 1 1) 7 = true ∨ c.u 4 1 ≤ 31) : sbOk c = true := by
  rw [sbOk, Bool.or_eq_true]
  exact h.imp_right regOk_of_le

section Operands

variable {d : Dev} {core : Nat} {c : Cmd} (own : c.core = core)
include own

theorem sregOf_unwait (n : Nat) : sregOf (unwait d core) c n = (d.core core).ctx.sreg n := by
  rw [sregOf, own, core_unwait, sreg_wait]

theorem operandB_unwait : operandB (unwait d core) c
    = if natBit (c.u 1 1) 7 then BitVec.ofNat 64 (c.u 8 8) else (d.core core).ctx.sreg (c.u 4 1) := by
  rw [operandB, sregOf_unwait own]

end Operands

/-! ## NOP, SETI, ALU, TIME and SEED (R198) -/

/-- Settles O8: each command's checks pass, and it writes the one register, or the generators, that its row names. -/
theorem scalarCommandsWriteTheirRegister : Obligations.ScalarCommandsWriteTheirRegister := by
  unfold Obligations.ScalarCommandsWriteTheirRegister
  intro s core c h x sets
  refine ⟨fun hs ctl => ?nop, fun hs ctl hd => ?seti, fun v hs ctl hd ha hb hv => ?alu, fun hs ctl hd => ?time, fun hs ctl ha => ?seed⟩
  case nop =>
    have cmd : nopCmd (unwait s.dev core) c = .ok (.next (unwait s.dev core)) := by rw [nopCmd, legal_ok ctl, acc_bind_ok]
    exact control_goes h hs rfl rfl (by decide) cmd (coreStep_one _ _ _)
  case seti =>
    refine control_sets h hs rfl rfl (by decide) ?_
    rw [setiCmd, legal_ok (by rw [ctl, regOk_of_le hd]; rfl), acc_bind_ok]
  case alu =>
    have fields : (ctlOk c && regOk (c.u 2 1) && regOk (c.u 3 1) && sbOk c) = true := by
      rw [ctl, regOk_of_le hd, regOk_of_le ha, sbOk_of hb]; rfl
    refine control_sets h hs rfl rfl (by decide) ?_
    rw [aluCmd, legal_ok fields, acc_bind_ok, sregOf_unwait hs.own, operandB_unwait hs.own, hv]
  case time =>
    refine control_sets h hs rfl rfl (by decide) ?_
    rw [timeCmd, legal_ok (by rw [ctl, regOk_of_le hd]; rfl), acc_bind_ok]
    rfl
  case seed =>
    have cmd : seedCmd (unwait s.dev core) c = .ok (.next ((unwait s.dev core).modCtx core fun y =>
        { y with seed := lo32 (x.ctx.sreg (c.u 3 1)), lanes := seedLanes (lo32 (x.ctx.sreg (c.u 3 1))) })) := by
      rw [seedCmd, legal_ok (by rw [ctl, regOk_of_le ha]; rfl), acc_bind_ok, sregOf_unwait hs.own, hs.own]
    exact control_modifies h hs rfl rfl (by decide) cmd

/-! ## LOAD and STORE (R161, R198) -/

section Scratchpad

variable {d : Dev} {core : Nat} {c : Cmd} {o : Nat} (own : c.core = core)
  (offset : ((d.core core).ctx.sreg (c.u 3 1) + BitVec.ofNat 64 (c.u 8 8)).toNat = o) (aligned : o % 8 = 0)
include own offset aligned

theorem loadCmd_unwait (fields : (ctlOk c && regOk (c.u 2 1) && regOk (c.u 3 1)) = true) :
    loadCmd (unwait d core) c = behind (coreBusy (d.core core)) (unwait d core) (do
      let b ← partRead d core c.logical 0 o 8
      .ok (.next (setSd (unwait d core) c (BitVec.ofNat 64 (leNat b))))) := by
  rw [loadCmd, legal_ok fields, acc_bind_ok, scalarOffset, sregOf_unwait own, offset, aligned, own, core_unwait]
  rfl

theorem storeCmd_unwait (fields : (ctlOk c && regOk (c.u 3 1) && regOk (c.u 4 1)) = true) :
    storeCmd (unwait d core) c = behind (coreBusy (d.core core) || arraysBusy (d.core core)) (unwait d core) (do
      let e ← partWrite (unwait d core) core c.logical 0 o (leBytes 8 ((d.core core).ctx.sreg (c.u 4 1)).toNat)
      .ok (.next e)) := by
  rw [storeCmd, legal_ok fields, acc_bind_ok, scalarOffset, sregOf_unwait own, sregOf_unwait own, offset, aligned, own, core_unwait]
  rfl

end Scratchpad

theorem partCell_fits {d : Dev} {core l part off n : Nat} (fits : off + n ≤ (partition (d.coreRec l) part).2) :
    partCell d core l part off n = .ok (sramCell core ((partition (d.coreRec l) part).1 + off)) := by rw [partCell, if_pos fits]

theorem partRead_sound {d : Dev} {core l part off n : Nat} (fits : off + n ≤ (partition (d.coreRec l) part).2)
    (sound : poisonedAt d.poison (sramCell core ((partition (d.coreRec l) part).1 + off)) n = false) :
    partRead d core l part off n = .ok (memRead d.mem (sramCell core ((partition (d.coreRec l) part).1 + off)) n) := by
  rw [partRead, partCell_fits fits, acc_bind_ok, sound, if_neg Bool.false_ne_true]

theorem partWrite_fits {d : Dev} {core l part off : Nat} {bs : List Byte} (fits : off + bs.length ≤ (partition (d.coreRec l) part).2) :
    partWrite d core l part off bs = .ok (d.cellPut (sramCell core ((partition (d.coreRec l) part).1 + off)) bs) := by
  rw [partWrite, partCell_fits fits, acc_bind_ok]

/-- A write of cells beside a core's step. -/
theorem CoreStep.cellPut {d e : Dev} {core : Nat} {x : CoreSt} (h : CoreStep d core x e) (a : Nat) (bs : List Byte) :
    CoreStep (d.cellPut a bs) core x (e.cellPut a bs) := by
  obtain ⟨core_eq, others, only⟩ := h
  exact ⟨core_eq, others, by rw [only]; rfl⟩

theorem cellPut_cells (d : Dev) (a : Nat) (bs : List Byte) : CellsKept d (d.cellPut a bs) [(a, bs.length)] := fun z hz =>
  cellPut_frame d a bs z (hz _ (List.mem_singleton_self _))

/-- Settles O9: both wait while an earlier command stands before them, and otherwise the bytes of the scratchpad cell go to or come from
the register. -/
theorem loadAndStoreReachTheScratchpad : Obligations.LoadAndStoreReachTheScratchpad := by
  unfold Obligations.LoadAndStoreReachTheScratchpad
  intro s core c h ctl ha x o cell aligned fits
  have loads (hd : c.u 2 1 ≤ 31) : (ctlOk c && regOk (c.u 2 1) && regOk (c.u 3 1)) = true := by rw [ctl, regOk_of_le hd, regOk_of_le ha]; rfl
  have stores (hb : c.u 4 1 ≤ 31) : (ctlOk c && regOk (c.u 3 1) && regOk (c.u 4 1)) = true := by rw [ctl, regOk_of_le hb, regOk_of_le ha]; rfl
  refine ⟨fun op i waits hs => ?waits, fun hs hd idle sound => ?load, fun hs hb idle arrays => ?store⟩
  case waits =>
    rcases waits with ⟨rfl, rfl, hd, busy⟩ | ⟨rfl, rfl, hb, busy⟩
    · refine control_stays h hs rfl rfl ?_
      rw [loadCmd_unwait hs.own rfl aligned (loads hd), busy]
      rfl
    · refine control_stays h hs rfl rfl ?_
      rw [storeCmd_unwait hs.own rfl aligned (stores hb), (Bool.or_eq_true _ _).mpr busy]
      rfl
  case load =>
    refine control_sets h hs rfl rfl (by decide) ?_
    rw [loadCmd_unwait hs.own rfl aligned (loads hd), idle, partRead_sound fits sound]
    rfl
  case store =>
    have length : (leBytes 8 (x.ctx.sreg (c.u 4 1)).toNat).length = 8 := length_leBytes 8 _
    have put : partWrite (unwait s.dev core) core c.logical 0 o (leBytes 8 (x.ctx.sreg (c.u 4 1)).toNat)
        = .ok ((unwait s.dev core).cellPut cell (leBytes 8 (x.ctx.sreg (c.u 4 1)).toNat)) := partWrite_fits (by rw [length]; exact fits)
    have cmd : storeCmd (unwait s.dev core) c = .ok (.next ((unwait s.dev core).cellPut cell (leBytes 8 (x.ctx.sreg (c.u 4 1)).toNat))) := by
      rw [storeCmd_unwait hs.own rfl aligned (stores hb), idle, arrays, put]
      rfl
    have cells := cellPut_cells s.dev cell (leBytes 8 (x.ctx.sreg (c.u 4 1)).toNat)
    have stored := memRead_memWrite (leBytes 8 (x.ctx.sreg (c.u 4 1)).toNat) s.dev.mem cell
    rw [length] at cells stored
    exact issue_yields h hs rfl rfl _ cmd ⟨stored, cells, ((coreStep_one _ _ _).cellPut _ _).wentOn (by decide) _⟩

/-! ## PIPREAD, PIPCLR, ADDF and PIP_DEPOSIT (R198, R200 to R203) -/

theorem tabGet_eraseAll {α : Type} (v : α) (i : Nat) : ∀ (ks : List Nat) (t : Tab α),
    tabGet v (ks.foldl (fun t k => tabErase t k) t) i = if i ∈ ks then v else tabGet v t i
  | [], t => by simp
  | k :: ks, t => by
    rw [List.foldl_cons, tabGet_eraseAll v i ks]
    by_cases hk : i = k
    · subst hk
      simp [tabGet_tabErase_self]
    · simp [hk, tabGet_tabErase_other v t hk]

/-- The table of pending additions with `v` joined at word offset `o` (R198 ADDF). -/
def addTo (t : Tab Word) (o : Nat) (v : Dword) : Tab Word := tabSet 0 t o (tabGet 0 t o + lo32 v)

theorem tabGet_addTo (t : Tab Word) (o k : Nat) (v : Dword) : tabGet 0 (addTo t o v) k = tabGet 0 t k + if k = o then lo32 v else 0 := by
  rw [addTo, tabGet_tabSet]
  split
  · next hk => rw [hk]
  · exact (BitVec.add_zero _).symm

/-- The table after ADDF: `va` joined at `o1`, and `vb` at `o2` unless that is 0 (R198). -/
def addBoth (t : Tab Word) (o1 o2 : Nat) (va vb : Dword) : Tab Word :=
  if o2 == 0 then addTo t o1 va else addTo (addTo t o1 va) o2 vb

theorem tabGet_addBoth (t : Tab Word) (o1 o2 k : Nat) (va vb : Dword) : tabGet 0 (addBoth t o1 o2 va vb) k
    = tabGet 0 t k + (if k = o1 then lo32 va else 0) + (if o2 ≠ 0 ∧ k = o2 then lo32 vb else 0) := by
  by_cases one : o2 = 0
  · rw [addBoth, if_pos (beq_iff_eq.mpr one), tabGet_addTo, if_neg (c := o2 ≠ 0 ∧ k = o2) fun h => h.1 one]
    exact (BitVec.add_zero _).symm
  · rw [addBoth, if_neg (mt beq_iff_eq.mp one), tabGet_addTo, tabGet_addTo]
    simp only [ne_eq, one, not_false_eq_true, true_and]

/-- The pips that PIPCLR names (R198). -/
def Cmd.clears (c : Cmd) : List Nat := (List.range 16).filter (fun i => natBit (c.u 8 8) i)

theorem Cmd.mem_clears {c : Cmd} {i : Nat} : i ∈ c.clears ↔ i < 16 ∧ natBit (c.u 8 8) i = true := by rw [Cmd.clears, List.mem_filter, List.mem_range]

section Pips

variable {d : Dev} {core : Nat} {c : Cmd} (own : c.core = core) (ctl : ctlOk c = true)
include own ctl

theorem pipreadCmd_unwait (hd : c.u 2 1 ≤ 31) (hp : c.u 5 1 ≤ 15) :
    pipreadCmd (unwait d core) c = if pipWaits (d.core core).ctx (c.u 5 1) = true then .ok (.stall (unwait d core))
      else .ok (.next (setSd (unwait d core) c (tabGet {} (d.core core).ctx.pips (c.u 5 1)).value)) := by
  rw [pipreadCmd, legal_ok (by rw [ctl, regOk_of_le hd, decide_eq_true hp]; rfl), acc_bind_ok, own, core_unwait]
  rfl

theorem pipclrCmd_unwait (landed : ∀ i ∈ c.clears, pipWaits (d.core core).ctx i = false) :
    pipclrCmd (unwait d core) c = .ok (.next ((unwait d core).modCtx core (fun x => { x with pips := c.clears.foldl (fun t i => tabErase t i) x.pips }))) := by
  have none_waits : ¬c.clears.any (pipWaits ((unwait d core).core core).ctx) = true := by
    rw [core_unwait, List.any_eq_true]
    rintro ⟨i, hi, waits⟩
    exact Bool.false_ne_true ((landed i hi).symm.trans waits)
  rw [pipclrCmd, legal_ok ctl, acc_bind_ok, own]
  exact if_neg none_waits

theorem addfCmd_unwait (ha : c.u 3 1 ≤ 31) (h1 : addfOffset (c.u 1 1) = true) (h2 : c.u 6 1 = 0 ∨ (addfOffset (c.u 6 1) = true ∧ c.u 4 1 ≤ 31)) :
    addfCmd (unwait d core) c = .ok (.next ((unwait d core).modCtx core (fun x =>
      { x with addf := addBoth x.addf (c.u 1 1) (c.u 6 1) ((d.core core).ctx.sreg (c.u 3 1)) ((d.core core).ctx.sreg (c.u 4 1)) }))) := by
  have second : (c.u 6 1 == 0 || (addfOffset (c.u 6 1) && regOk (c.u 4 1))) = true := by
    rw [Bool.or_eq_true, Bool.and_eq_true, beq_iff_eq]
    exact h2.imp_right (And.imp_right regOk_of_le)
  have fields : (ctlOk c && regOk (c.u 3 1) && addfOffset (c.u 1 1) && (c.u 6 1 == 0 || (addfOffset (c.u 6 1) && regOk (c.u 4 1)))) = true := by
    rw [ctl, regOk_of_le ha, h1, second]; rfl
  simp only [addfCmd, legal_ok fields, acc_bind_ok, sregOf_unwait own, own]
  rfl

end Pips

theorem landDeposit_lands {d : Dev} {core pip : Nat} {e : Deposit} (found : (d.core core).ctx.deposits.find? (fun q => q.pip == pip) = some e)
    (due : e.due = none) : landDeposit d core pip = d.modCtx core (fun x => { x with
      deposits := x.deposits.erase e, pips := tabSet {} x.pips pip (landPip (tabGet {} x.pips pip) e.val) }) := by
  simp [landDeposit, found, due]

theorem pipDeposit_next {s : State} {core pip : Nat} (hc : core < 144) (hp : pip < 16) (h : asleep s.dev = false) :
    exec (.pipDeposit core pip) s = .next { s with dev := landDeposit s.dev core pip } :=
  onDev_next (f := fun _ d => landDeposit d core pip) (show (isCore core && is16 pip) = true by simp [isCore, is16, hc, hp]) h

/-- Settles O10: PIPREAD waits for the deposits on their way, PIPCLR erases the pips it names, ADDF joins its sums to the pending
additions, and the oldest deposit lands. -/
theorem pipsAndPendingAdditionsAct : Obligations.PipsAndPendingAdditionsAct := by
  unfold Obligations.PipsAndPendingAdditionsAct
  intro s core c h x goes
  refine ⟨fun hs ctl hd hp => ⟨fun landed => ?read, fun waits => ?stays⟩, fun hs ctl landed => ?clear, fun hs ctl ha h1 h2 => ?add,
    fun pip e hc hp found due => ?lands⟩
  case read =>
    refine control_sets h hs rfl rfl (by decide) ?_
    rw [pipreadCmd_unwait hs.own ctl hd hp, landed, if_neg Bool.false_ne_true]
  case stays =>
    refine control_stays h hs rfl rfl ?_
    rw [pipreadCmd_unwait hs.own ctl hd hp, if_pos waits]
  case clear =>
    have cleared : ∀ i ∈ c.clears, pipWaits x.ctx i = false := fun i hi => landed i (Cmd.mem_clears.mp hi).1 (Cmd.mem_clears.mp hi).2
    refine (control_modifies h hs rfl rfl (by decide) (pipclrCmd_unwait hs.own ctl cleared)).mono fun e step => ?_
    refine ⟨?_, fun i => ?_⟩
    · rw [step.1]
      exact step
    · rw [step.1]
      exact (tabGet_eraseAll _ i _ _).trans (if_congr Cmd.mem_clears rfl rfl)
  case add =>
    refine (control_modifies h hs rfl rfl (by decide) (addfCmd_unwait hs.own ctl ha h1 h2)).mono fun e step => ?_
    refine ⟨?_, fun o => ?_⟩
    · rw [step.1]
      exact step
    · rw [step.1]
      exact tabGet_addBoth _ _ _ _ _ _
  case lands =>
    refine ⟨_, pipDeposit_next hc hp h, ?_⟩
    rw [landDeposit_lands found due]
    exact coreStep_one _ _ _

end Sys2Proof.Machine
end

section
/-! PROOFS. The control core's branches (spec/08_vector_engine.md R198, R199, R203). -/

namespace Sys2Proof.Machine

/-! ## The sides of a branch (R199) -/

/-- The device after core `core` has set its count of takings of branch `pc` to `k`. -/
def takings (d : Dev) (core pc k : Nat) : Dev := d.modCtx core (fun x => { x with taken := tabSet 0 x.taken pc k })

/-- The core shows and counts that a branch has hit its bound. -/
def hitBound (d : Dev) (core : Nat) : Dev := d.modCore core (fun x => { x with boundHit := true, boundHits := sat16 x.boundHits })

section Sides

variable (d : Dev) (c : Cmd)

theorem branch_not_taken : branch d c false = .ok (.next (if c.u 0x10 4 ≤ c.pc then takings d c.core c.pc 0 else d)) := by
  unfold branch takings
  by_cases back : c.u 0x10 4 ≤ c.pc <;> simp [back]

variable {d c}

theorem branch_forward (forward : c.pc < c.u 0x10 4) (inside : 32 * c.u 0x10 4 + 32 ≤ streamBytes d c.slot c.logical) :
    branch d c true = .ok (.goto d (c.u 0x10 4)) := by
  simp [branch, Nat.not_le.mpr forward, Nat.not_lt.mpr inside]

theorem branch_bounded (back : c.u 0x10 4 ≤ c.pc) (full : tabGet 0 (d.core c.core).ctx.taken c.pc = c.u 0x14 4) :
    branch d c true = .ok (.next (hitBound (takings d c.core c.pc 0) c.core)) := by
  simp [branch, takings, hitBound, back, full]

theorem branch_backward (back : c.u 0x10 4 ≤ c.pc) (room : tabGet 0 (d.core c.core).ctx.taken c.pc ≠ c.u 0x14 4)
    (inside : 32 * c.u 0x10 4 + 32 ≤ streamBytes d c.slot c.logical) :
    branch d c true = .ok (.goto (takings d c.core c.pc (tabGet 0 (d.core c.core).ctx.taken c.pc + 1)) (c.u 0x10 4)) := by
  have same (k : Nat) : streamBytes (takings d c.core c.pc k) c.slot c.logical = streamBytes d c.slot c.logical := rfl
  unfold branch
  simp only [back, room, decide_true, Bool.not_true, Bool.false_eq_true, ↓reduceIte, beq_iff_eq]
  exact if_neg (Nat.not_lt.mpr inside)

end Sides

theorem CoreStep.takings {d e : Dev} {core : Nat} {x : CoreSt} (h : CoreStep d core x e) (pc k : Nat) :
    CoreStep d core { x with ctx := { x.ctx with taken := tabSet 0 x.ctx.taken pc k } } (takings e core pc k) := h.modCtx _

theorem CoreStep.hitBound {d e : Dev} {core : Nat} {x : CoreSt} (h : CoreStep d core x e) :
    CoreStep d core { x with boundHit := true, boundHits := sat16 x.boundHits } (hitBound e core) := by
  rw [Machine.hitBound, Dev.modCore_eq, h.1]
  exact coreStep_set h _

/-- A branch falls through to command `next`, or goes to another; `pc` is where the core goes on. -/
def BranchEnds (r : Acc Issued) (next : Nat) (e : Dev) (pc : Nat) : Prop := (r = .ok (.next e) ∧ pc = next) ∨ r = .ok (.goto e pc)

/-- A branch whose target lies in the stream leaves its core as R199 says, on every side of its condition, direction and bound. -/
theorem branch_lands {d e : Dev} {core op : Nat} {c : Cmd} {y : CoreSt} {take : Bool} (own : c.core = core) (hop : op < 0x20)
    (step : CoreStep d core { y with ctx := { y.ctx with wait := .none } } e)
    (inside : take = true → 32 * c.u 0x10 4 + 32 ≤ streamBytes d c.slot c.logical) :
    ∃ e2 pc, BranchEnds (branch e c take) (c.pc + 1) e2 pc
      ∧ CoreStep d core (afterBranch y c.pc (c.u 0x10 4) (c.u 0x14 4) take) (issued e2 core op pc) := by
  subst own
  have bytes : streamBytes e c.slot c.logical = streamBytes d c.slot c.logical := by rw [step.2.2]; rfl
  have count : tabGet 0 (e.core c.core).ctx.taken c.pc = tabGet 0 y.ctx.taken c.pc := by rw [step.1]
  rw [← bytes] at inside
  cases take with
  | false =>
    refine ⟨_, _, .inl ⟨branch_not_taken e c, rfl⟩, ?_⟩
    rw [afterBranch, if_pos rfl]
    split
    · exact (step.takings c.pc 0).wentOn hop _
    · exact step.wentOn hop _
  | true =>
    rw [afterBranch, if_neg (by decide)]
    by_cases back : c.u 0x10 4 ≤ c.pc
    · rw [if_neg (Nat.not_lt.mpr back)]
      by_cases full : tabGet 0 y.ctx.taken c.pc = c.u 0x14 4
      · refine ⟨_, _, .inl ⟨branch_bounded back (count.trans full), rfl⟩, ?_⟩
        rw [if_pos full]
        exact (step.takings c.pc 0).hitBound.wentOn hop _
      · refine ⟨_, _, .inr (branch_backward back (count ▸ full) (inside rfl)), ?_⟩
        rw [if_neg full, count]
        exact (step.takings c.pc _).wentOn hop _
    · refine ⟨_, _, .inr (branch_forward (Nat.lt_of_not_le back) (inside rfl)), ?_⟩
      rw [if_pos (Nat.lt_of_not_le back)]
      exact step.wentOn hop _

/-- A command that is a branch lands as R199 says. -/
theorem branch_yields {s : State} {core op engine : Nat} {ops : Nat → Bool} {f : Dev → Cmd → Acc Issued} {c : Cmd} {e : Dev} {y : CoreSt} {take : Bool}
    (ha : asleep s.dev = false) (h : Stands s.dev core op c) (hl : listedOp op = true) (ho : ops op = true) (hop : op < 0x20)
    (hf : f (unwait s.dev core) c = branch e c take) (step : CoreStep s.dev core { y with ctx := { y.ctx with wait := .none } } e)
    (inside : take = true → 32 * c.u 0x10 4 + 32 ≤ streamBytes s.dev c.slot c.logical) :
    YieldsSome (onDev (isCore core) (fun _ d => issue core engine ops f d) s) s
      (CoreStep s.dev core (afterBranch y c.pc (c.u 0x10 4) (c.u 0x14 4) take)) := by
  obtain ⟨e2, pc, ⟨falls, rfl⟩ | goes, lands⟩ := branch_lands h.own hop step inside
  · exact issue_yields ha h hl ho _ (hf.trans falls) lands
  · exact issue_goto ha h hl ho _ (hf.trans goes) lands

/-! ## The statement -/

theorem brpCmd_unwait {d : Dev} {core : Nat} {c : Cmd} {take : Bool} (own : c.core = core) (ctl : ctlOk c = true) (hp : c.u 5 1 ≤ 15)
    (test : pipTest (tabGet {} (d.core core).ctx.pips (c.u 5 1)) (c.u 6 1) (c.u 8 8) = some take) :
    brpCmd (unwait d core) c = if pipWaits (d.core core).ctx (c.u 5 1) = true then .ok (.stall (unwait d core)) else branch (unwait d core) c take := by
  have tests : pipTest (tabGet {} ((unwait d core).core core).ctx.pips (c.u 5 1)) (c.u 6 1) (c.u 8 8) = some take := by
    rw [core_unwait]
    exact test
  have waits : pipWaits ((unwait d core).core core).ctx (c.u 5 1) = pipWaits (d.core core).ctx (c.u 5 1) := by
    rw [core_unwait]
    rfl
  rw [brpCmd, legal_ok (by rw [ctl, decide_eq_true hp]; rfl), acc_bind_ok, own]
  dsimp only
  rw [tests]
  exact if_congr (iff_of_eq (congrArg (· = true) waits)) rfl rfl

/-- Settles O11: BR, BRP and LOOP come to a branch under their condition (`branch_yields`), but for a BRP that waits for a deposit. -/
theorem branchesKeepTheirBounds : Obligations.BranchesKeepTheirBounds := by
  unfold Obligations.BranchesKeepTheirBounds
  intro s core c h ctl x target lands inside
  refine ⟨fun take hs ha hb cond into => ?br, fun take hs hp test landed into => ?brp, fun take hs hp test waits => ?stays, fun hs hd => ?loop⟩
  case br =>
    have fields : (ctlOk c && regOk (c.u 3 1) && sbOk c) = true := by rw [ctl, regOk_of_le ha, sbOk_of hb]; rfl
    have cmd : brCmd (unwait s.dev core) c = branch (unwait s.dev core) c take := by
      rw [brCmd, legal_ok fields, acc_bind_ok, sregOf_unwait hs.own, operandB_unwait hs.own, cond]
    exact branch_yields h hs rfl rfl (by decide) cmd (coreStep_one _ _ _) into
  case brp =>
    have cmd : brpCmd (unwait s.dev core) c = branch (unwait s.dev core) c take := by
      rw [brpCmd_unwait hs.own ctl hp test, landed, if_neg Bool.false_ne_true]
    exact branch_yields h hs rfl rfl (by decide) cmd (coreStep_one _ _ _) into
  case stays =>
    refine control_stays h hs rfl rfl ?_
    rw [brpCmd_unwait hs.own ctl hp test, if_pos waits]
  case loop =>
    intro y take into
    have step := coreStep_setSd (d := s.dev) hs.own (x.ctx.sreg (c.u 2 1) - 1)
    have reads : sregOf (setSd (unwait s.dev core) c (x.ctx.sreg (c.u 2 1) - 1)) c (c.u 2 1) = y.ctx.sreg (c.u 2 1) := by
      rw [sregOf, hs.own, step.1, sreg_wait]
    have cmd : loopCmd (unwait s.dev core) c = branch (setSd (unwait s.dev core) c (x.ctx.sreg (c.u 2 1) - 1)) c take := by
      rw [loopCmd, legal_ok (by rw [ctl, regOk_of_le hd]; rfl), acc_bind_ok, sregOf_unwait hs.own]
      exact congrArg (fun v => branch _ c (!(v == 0))) reads
    exact branch_yields h hs rfl rfl (by decide) cmd step into

end Sys2Proof.Machine
end

section
/-! PROOFS. Commands in the queues of a core's engines, and how a command of the vector engine or of the row units ends
(spec/06_matrix_arrays.md R161; spec/08_vector_engine.md R195, R204, R205, R208). -/

namespace Sys2Proof.Machine

/-! ## The core's step at a command of an engine -/

theorem CoreStep.trans {d e f : Dev} {core : Nat} {x y : CoreSt} (h : CoreStep d core x e) (k : CoreStep e core y f) : CoreStep d core y f := by
  obtain ⟨-, others, only⟩ := h
  obtain ⟨core_eq, others', only'⟩ := k
  exact ⟨core_eq, fun p hp => (others' p hp).trans (others p hp), by rw [only', only]⟩

/-- A command of an engine uses up the pending additions (R198 ADDF). -/
theorem CoreStep.engineWent {d e : Dev} {core op : Nat} {x : CoreSt} (h : CoreStep d core x e) (hop : 0x20 ≤ op) (pc : Nat) :
    CoreStep d core { x with ctx := { x.ctx with pc := pc, addf := [] } } (issued e core op pc) := by
  have went : issued e core op pc = e.setCore core { x with ctx := { x.ctx with pc := pc, addf := [] } } := by simp [issued, advance, hop, h.1]
  rw [went]
  exact coreStep_set h _

/-! ## Queues (R161, R195) -/

theorem Ctx.setQueue_wait (x : Ctx) (w : Wait) (k : Engine) (q : List Queued) :
    ({ x with wait := w } : Ctx).setQueue k q = { x.setQueue k q with wait := w } := by cases k <;> rfl

theorem Ctx.queue_wait (x : Ctx) (w : Wait) (k : Engine) : ({ x with wait := w } : Ctx).queue k = x.queue k := by cases k <;> rfl

theorem coreBusy_unwait (d : Dev) (core : Nat) : coreBusy ((unwait d core).core core) = coreBusy (d.core core) := by
  rw [core_unwait]
  rfl

theorem queueFull_unwait (d : Dev) (core : Nat) (k : Engine) : queueFull ((unwait d core).core core) k = queueFull (d.core core) k := by
  rw [core_unwait]
  cases k <;> rfl

/-- With nothing before a new command, the queues of the vector engine and of the row units have room. -/
theorem queueFull_of_idle {x : CoreSt} {k : Engine} (hk : k = .vec ∨ k = .row) (idle : coreBusy x = false) : queueFull x k = false := by
  simp only [coreBusy, Bool.or_eq_false_iff, Bool.not_eq_false', List.isEmpty_iff] at idle
  obtain ⟨⟨⟨-, vec⟩, row⟩, -⟩ := idle
  rcases hk with rfl | rfl <;> simp [queueFull, vec, row]

section Queue

variable {d : Dev} {core : Nat} {c : Cmd} {k : Engine} (own : c.core = core)
include own

theorem joinQueue_joins (room : queueFull (d.core core) k = false) : ∃ e, joinQueue (unwait d core) c k 0 = .next e
    ∧ CoreStep { d with tmNext := d.tmNext + 1 } core { d.core core with ctx :=
        { (d.core core).ctx.setQueue k ((d.core core).ctx.queue k ++ [{ stamp := d.tmNext, pc := c.pc, b := c.b }]) with wait := .none } } e := by
  have step := ((coreStep_one d core { d.core core with ctx := { (d.core core).ctx with wait := .none } }).modCtx
    (fun x => x.setQueue k (x.queue k ++ [{ stamp := d.tmNext, pc := c.pc, b := c.b }]))).withTmNext (d.tmNext + 1)
  rw [Ctx.setQueue_wait, Ctx.queue_wait] at step
  exact ⟨_, by rw [joinQueue, own, queueFull_unwait, room, if_neg Bool.false_ne_true]; rfl, step⟩

theorem joinQueue_full (full : queueFull (d.core core) k = true) : joinQueue (unwait d core) c k 0
    = .stall ((unwait d core).setCore core { d.core core with ctx := { (d.core core).ctx with wait := .queue } }) := by
  rw [joinQueue, own, queueFull_unwait, full, if_pos rfl, queueStall, Dev.modCtx_eq, core_unwait]

theorem inQueue_waits {f : Dev → Cmd → Acc Issued} (behind : coreBusy (d.core core) = true ∨ queueFull (d.core core) k = true) :
    inQueue k f (unwait d core) c = .ok (joinQueue (unwait d core) c k 0) := by
  rw [inQueue, own, coreBusy_unwait, queueFull_unwait, if_pos ((Bool.or_eq_true _ _).mpr behind)]

theorem inQueue_runs {f : Dev → Cmd → Acc Issued} (idle : coreBusy (d.core core) = false) (room : queueFull (d.core core) k = false) :
    inQueue k f (unwait d core) c = f (unwait d core) c := by
  rw [inQueue, own, coreBusy_unwait, queueFull_unwait, idle, room, if_neg (by decide)]

end Queue

/-- A command that has to wait joins its queue with its core going on, or its core stalls at it. -/
theorem queuesBehind_of {s : State} {core op engine : Nat} {ops : Nat → Bool} {f : Dev → Cmd → Acc Issued} {c : Cmd} {k : Engine} {i : Instr} {held : Prop}
    (ha : asleep s.dev = false) (hl : listedOp op = true) (ho : ops op = true) (hop : 0x20 ≤ op)
    (hi : exec i s = onDev (isCore core) (fun _ d => issue core engine ops f d) s)
    (hf : c.core = core → (held ∨ coreBusy (s.dev.core core) = true ∨ queueFull (s.dev.core core) k = true) →
      f (unwait s.dev core) c = .ok (joinQueue (unwait s.dev core) c k 0)) : QueuesBehind s core op c k i held := by
  intro h waits
  rw [hi]
  refine ⟨fun room => ?_, fun full => ?_⟩
  · obtain ⟨e, join, step⟩ := joinQueue_joins h.own room
    exact issue_yields ha h hl ho _ ((hf h.own waits).trans (congrArg _ join)) (step.engineWent hop _)
  · exact issue_stall ha h hl ho _ ((hf h.own waits).trans (congrArg _ (joinQueue_full h.own full))) (coreStep_set (coreStep_one _ _ _) _)

/-! ## A command that runs (R205, R208) -/

/-- From `d` to `e` only cells of the ranges, the generators of core `core` and the free values used have changed. -/
structure Wrote (d : Dev) (core : Nat) (writes : List (Nat × Nat)) (e : Dev) : Prop where
  core_step : ∃ lanes, CoreStep { d with mem := e.mem, upsets := e.upsets, free := e.free } core
    { d.core core with ctx := { (d.core core).ctx with lanes := lanes } } e
  cells     : CellsKept d e writes

theorem Wrote.refl (d : Dev) (core : Nat) (writes : List (Nat × Nat)) : Wrote d core writes d :=
  ⟨⟨(d.core core).ctx.lanes, rfl, fun _ _ => rfl, rfl⟩, fun _ _ => rfl⟩

/-- Cells `a` up to `a + n` lie in the ranges. -/
def InRanges (writes : List (Nat × Nat)) (a n : Nat) : Prop := ∀ z, (∀ r ∈ writes, z < r.1 ∨ r.1 + r.2 ≤ z) → z < a ∨ a + n ≤ z

namespace Wrote

variable {d e : Dev} {core : Nat} {writes : List (Nat × Nat)} (h : Wrote d core writes e)
include h

theorem str : e.str = d.str := by
  obtain ⟨⟨lanes, -, -, only⟩, -⟩ := h
  rw [only]

theorem cnt : e.cnt = d.cnt := by
  obtain ⟨⟨lanes, -, -, only⟩, -⟩ := h
  rw [only]

theorem poison : e.poison = d.poison := by
  obtain ⟨⟨lanes, -, -, only⟩, -⟩ := h
  rw [only]

theorem coreRec (l : Nat) : e.coreRec l = d.coreRec l := by rw [Dev.coreRec, h.str]; rfl

theorem opndCell (l : Nat) (o : Opnd) (r : Nat) : opndCell e core l o r = Machine.opndCell d core l o r := by
  rw [Machine.opndCell, h.coreRec]
  rfl

/-- A write of cells of the ranges. -/
theorem cellPut (clean : d.poison = []) {a : Nat} {bs : List Byte} (within : InRanges writes a bs.length) : Wrote d core writes (e.cellPut a bs) := by
  have put := cellPut_only (h.poison.trans clean) a bs
  obtain ⟨⟨lanes, core_eq, others, only⟩, cells⟩ := h
  refine ⟨⟨lanes, core_eq, others, ?_⟩, fun z hz => (cellPut_frame e a bs z (within z hz)).trans (cells z hz)⟩
  rw [put, only]

/-- The generators move, and free values are used. -/
theorem vecEnd (v : VecSt) : Wrote d core writes (vecEnd e core v) := by
  obtain ⟨⟨lanes, core_eq, others, only⟩, cells⟩ := h
  obtain ⟨core_eq', others', only'⟩ := CoreStep.modCtx ⟨core_eq, others, only⟩ (fun c => { c with lanes := v.lanes })
  exact ⟨⟨v.lanes, core_eq', others', by rw [Machine.vecEnd, only', only]⟩, cells⟩

/-- A command that has written its cells ends: its core goes on, with the deposits `deps` on their way. -/
theorem ran {f : Dev} {op : Nat} {c : Cmd} {cnt : Cnt} {deps : List Deposit} (hd : d = unwait f core) (hop : 0x20 ≤ op) {e2 : Dev}
    (step : CoreStep { e with cnt := cnt } core { e.core core with ctx :=
      { (e.core core).ctx with deposits := (e.core core).ctx.deposits ++ deps } } e2) :
    EngineRan f core c cnt writes deps (issued e2 core op (c.pc + 1)) := by
  subst hd
  obtain ⟨⟨lanes, wrote⟩, cells⟩ := h
  have mem : (issued e2 core op (c.pc + 1)).mem = e.mem := by rw [← show e2.mem = e.mem by rw [step.2.2]]; rfl
  have upsets : (issued e2 core op (c.pc + 1)).upsets = e.upsets := by rw [← show e2.upsets = e.upsets by rw [step.2.2]]; rfl
  have free : (issued e2 core op (c.pc + 1)).free = e.free := by rw [← show e2.free = e.free by rw [step.2.2]]; rfl
  have begun := coreStep_one { f with mem := e.mem, upsets := e.upsets, cnt := cnt, free := e.free } core
    { f.core core with ctx := { (f.core core).ctx with wait := .none } }
  have whole := (begun.trans (wrote.withCnt cnt)).trans (step.engineWent hop (c.pc + 1))
  rw [wrote.1, core_unwait] at whole
  refine ⟨⟨lanes, ?_⟩, ?_⟩
  · rw [mem, upsets, free]
    exact whole
  · rw [CellsKept, mem]
    exact cells

end Wrote

end Sys2Proof.Machine
end

section
/-! PROOFS. Rows of operands: what is read where nothing is poisoned, and what is written (spec/08_vector_engine.md R205, R208). -/

namespace Sys2Proof.Machine

/-! ## Steps that succeed -/

theorem acc_bind_eq_ok {α β : Type} {x : Acc α} {f : α → Acc β} {b : β} : (x >>= f) = .ok b ↔ ∃ a, x = .ok a ∧ f a = .ok b := by
  cases x with
  | ok a => simp
  | error e => simp

theorem acc_map_eq_ok {α β : Type} {x : Acc α} {f : α → β} {b : β} : Except.map f x = .ok b ↔ ∃ a, x = .ok a ∧ f a = b := by
  cases x with
  | ok a => simp [Except.map]
  | error e => simp [Except.map]

theorem legal_eq_ok {p : Bool} {u : Unit} : legal p = .ok u ↔ p = true := by
  cases p with
  | true => simp [legal]
  | false => simp [legal]

theorem acc_ite_bind {α β : Type} {p : Prop} [Decidable p] (x y : Acc α) (f : α → Acc β) :
    (if p then x >>= f else y >>= f) = (if p then x else y) >>= f := by split <;> rfl

/-- Steps that each succeed and keep a property all succeed and keep it. -/
theorem foldlM_keeps {α β : Type} {I : β → Prop} {f : β → α → Acc β} : ∀ (xs : List α) (b : β), I b →
    (∀ x ∈ xs, ∀ b, I b → ∃ b2, f b x = .ok b2 ∧ I b2) → ∃ b2, xs.foldlM f b = .ok b2 ∧ I b2
  | [], b, h, _ => ⟨b, rfl, h⟩
  | x :: xs, b, h, step => by
    obtain ⟨b2, run, h2⟩ := step x List.mem_cons_self b h
    rw [List.foldlM_cons, run, acc_bind_ok]
    exact foldlM_keeps xs b2 h2 fun y hy => step y (List.mem_cons_of_mem x hy)

/-! ## Reads (R208, R304) -/

@[simp] theorem poisonedAt_nil (a n : Nat) : poisonedAt [] a n = false := List.any_eq_false.mpr fun _ _ => Bool.false_ne_true

section Reads

variable {d : Dev} (clean : d.poison = [])
include clean

theorem rowMask_ok (core l : Nat) (m : Option Opnd) (r n : Nat) : ∃ act, rowMask d core l m r n = .ok act ∧ act.length = n := by
  cases m with
  | none => exact ⟨_, rfl, List.length_replicate⟩
  | some o => exact ⟨_, by rw [rowMask, clean, poisonedAt_nil, if_neg Bool.false_ne_true], by simp⟩

theorem rowValues_ok (core l : Nat) (o : Opnd) (r fmt : Nat) (act : List Bool) : ∃ xs, rowValues d core l o r fmt act = .ok xs :=
  ⟨_, by rw [rowValues, clean, poisonedAt_nil, Bool.false_and, if_neg Bool.false_ne_true]⟩

theorem rowB_ok (c : Cmd) (v : VecCmd) (o : Option Opnd) (r : Nat) (act : List Bool) : ∃ xs, rowB d c v o r act = .ok xs := by
  cases o with
  | none => exact ⟨_, rfl⟩
  | some o => exact rowValues_ok clean c.core c.logical o r v.fb act

end Reads

/-! ## Lengths -/

theorem length_rowCodes (d : Dev) (core l : Nat) (o : Opnd) (r fmt n : Nat) : (rowCodes d core l o r fmt n).length = n := by simp [rowCodes]

/-- Elements formed one by one are as many as those given. -/
theorem length_mapElems (act : List Bool) (zeroing : Bool) (old : List Nat) (f : VecSt → Nat → VecSt × Nat) (s : VecSt) :
    (mapElems act zeroing old f s).2.length = min act.length old.length := by
  have grows : ∀ (es : List ((Bool × Nat) × Nat)) (acc : VecSt × List Nat), (es.foldl (fun acc e =>
      if e.1.1 then ((f acc.1 e.1.2).1, acc.2 ++ [(f acc.1 e.1.2).2]) else (acc.1, acc.2 ++ [if zeroing then 0 else e.2])) acc).2.length
      = acc.2.length + es.length := by
    intro es
    induction es with
    | nil => exact fun _ => rfl
    | cons e es ih =>
      intro acc
      rw [List.foldl_cons, ih, List.length_cons]
      split <;> simp only [List.length_append, List.length_singleton] <;> omega
  exact (grows _ _).trans (by simp)

/-- Packed elements fill the bytes of a row (R120, R205). -/
theorem length_packElems (fmt : Nat) (xs : List Nat) : (packElems fmt xs).length = rowBytes fmt xs.length := by
  unfold packElems rowBytes elemBits
  dsimp only
  split <;> simp [length_leBytes, List.length_flatMap] <;> omega

/-! ## Writes (R205, R208) -/

theorem inRanges_row {d : Dev} {core l : Nat} {o : Opnd} {r : Nat} (hr : r < o.rows) {writes : List (Nat × Nat)}
    (sub : ∀ q ∈ opndRanges d core l o, q ∈ writes) {k n : Nat} (fits : k + n ≤ o.n ∨ n = 0) :
    InRanges writes (opndCell d core l o r + k) n := by
  intro z hz
  have row := hz _ (sub _ (List.mem_map_of_mem (List.mem_range.mpr hr)))
  dsimp only at row
  omega

namespace Wrote

variable {d e : Dev} {core : Nat} {writes : List (Nat × Nat)} (h : Wrote d core writes e) (clean : d.poison = []) {l : Nat} {o : Opnd}
  (sub : ∀ q ∈ opndRanges d core l o, q ∈ writes) {r : Nat} (hr : r < o.rows)
include h clean sub hr

/-- A row of the operand is written. -/
theorem putRow {bs : List Byte} (fits : bs.length ≤ o.n) : Wrote d core writes (putRow e core l o r bs) := by
  refine h.cellPut clean ?_
  rw [h.opndCell]
  exact inRanges_row hr sub (k := 0) (.inl (by omega))

/-- Some elements of a row of the operand are written. -/
theorem putElems (b : Nat) (on : List Bool) {bs : List Byte} (fits : bs.length ≤ o.n) : Wrote d core writes (putElems e core l o r b on bs) := by
  unfold Machine.putElems
  split
  · exact h.putRow clean sub hr fits
  · generalize flagRuns (touchedBytes b bs.length on) = runs
    induction runs generalizing e with
    | nil => exact h
    | cons run runs ih =>
      refine ih (h.cellPut clean ?_)
      rw [h.opndCell]
      refine inRanges_row hr sub ?_
      rw [List.length_take, List.length_drop]
      omega

end Wrote

end Sys2Proof.Machine
end

section
/-! PROOFS. VEC.ARITH, VEC.FILL, VEC.CVT, VEC.CMP and VEC.REDUCE (spec/08_vector_engine.md R204 to R209). -/

namespace Sys2Proof.Machine

/-! ## The destinations of legal commands (R205) -/

/-- An operand of `rows` rows of `n` bytes. -/
def Opnd.Shaped (o : Opnd) (rows n : Nat) : Prop := o.rows = rows ∧ o.n = n

theorem opndOf_shaped {v pitch rows n : Nat} {o : Opnd} (h : opndOf v pitch rows n = .ok o) : o.Shaped rows n := by
  unfold opndOf at h
  split at h
  · cases h
  · cases h
    exact ⟨rfl, rfl⟩

section Plans

variable {d : Dev} {c : Cmd} {p : VecPlan}

theorem vecArithPlan_dst (h : vecArithPlan d c = .ok p) : p.dst.Shaped p.v.rows (rowBytes p.v.fd p.v.count) := by
  simp only [vecArithPlan, acc_ite_bind, acc_bind_eq_ok] at h
  obtain ⟨v, -, -, -, a, -, b, -, dst, hdst, -, -, ⟨⟩⟩ := h
  exact opndOf_shaped hdst

theorem vecFillPlan_dst (h : vecFillPlan d c = .ok p) : p.dst.Shaped p.v.rows (rowBytes p.v.fd p.v.count) := by
  simp only [vecFillPlan, acc_ite_bind, acc_bind_eq_ok] at h
  obtain ⟨v, -, -, -, dst, hdst, b, -, -, -, ⟨⟩⟩ := h
  exact opndOf_shaped hdst

theorem vecCmpPlan_dst (h : vecCmpPlan d c = .ok p) : p.dst.rows = p.v.rows := by
  simp only [vecCmpPlan, acc_ite_bind, acc_bind_eq_ok] at h
  obtain ⟨v, -, -, -, a, -, b, -, dst, hdst, -, -, ⟨⟩⟩ := h
  exact (opndOf_shaped hdst).1

theorem vecReducePlan_dst (h : vecReducePlan d c = .ok p) :
    p.dst.Shaped p.v.rows (if p.v.op = 5 ∨ p.v.op = 6 then 4 else rowBytes p.v.fd 1) := by
  simp only [vecReducePlan, acc_bind_eq_ok] at h
  obtain ⟨v, -, -, -, a, -, dst, hdst, -, -, ⟨⟩⟩ := h
  simpa using opndOf_shaped hdst

/-- VEC.CVT writes D, and with an MX format D the scale bytes of its blocks. -/
theorem vecCvtPlan_dst (h : vecCvtPlan d c = .ok p) : p.dst.Shaped p.v.rows (rowBytes p.v.fd p.v.count)
    ∧ (isMx p.v.fd = true → p.v.count % 32 = 0 ∧ ∀ o ∈ p.sc, o.Shaped p.v.rows (p.v.count / 32)) := by
  simp only [vecCvtPlan, acc_ite_bind, acc_bind_eq_ok] at h
  obtain ⟨v, -, _, fields, a, -, dst, hdst, sc, hsc, -, -, -, -, ⟨⟩⟩ := h
  refine ⟨opndOf_shaped hdst, fun mx => ?_⟩
  change isMx v.fd = true at mx
  rw [mx, Bool.or_true] at fields hsc
  rw [if_pos rfl, acc_map_eq_ok] at hsc
  obtain ⟨o, ho, rfl⟩ := hsc
  simp only [legal_eq_ok, Bool.and_eq_true, Bool.not_true, Bool.false_or, beq_iff_eq] at fields
  refine ⟨fields.2, fun q hq => ?_⟩
  cases hq
  exact opndOf_shaped ho

end Plans

/-! ## MX blocks (R133) -/

theorem length_cvtBlock (v : VecCmd) (act : List Bool) (xs : List FVal) (old : List Nat) (oldScale : Nat) (s : VecSt) (k : Nat) :
    (cvtBlock v act xs old oldScale s k).2.2.length = 32 := by
  unfold cvtBlock
  dsimp only
  split <;> simp only [List.length_map, List.length_range]

/-- The scale bytes and element codes of blocks `ks` of a row (R133, R205), joined to those of `acc`. -/
def cvtBlocks (v : VecCmd) (act : List Bool) (xs : List FVal) (old : List Nat) (scales : List Byte) (acc : VecSt × List Byte × List Nat) (ks : List Nat) :
    VecSt × List Byte × List Nat :=
  ks.foldl (fun acc k =>
    let b := cvtBlock v act xs old (fieldLe scales k 1) acc.1 k
    (b.1, acc.2.1 ++ [BitVec.ofNat 8 b.2.1], acc.2.2 ++ b.2.2)) acc

theorem length_cvtBlocks (v : VecCmd) (act : List Bool) (xs : List FVal) (old : List Nat) (scales : List Byte) :
    ∀ (ks : List Nat) (acc : VecSt × List Byte × List Nat),
      (cvtBlocks v act xs old scales acc ks).2.1.length = acc.2.1.length + ks.length
      ∧ (cvtBlocks v act xs old scales acc ks).2.2.length = acc.2.2.length + 32 * ks.length
  | [], acc => ⟨rfl, rfl⟩
  | k :: ks, acc => by
    obtain ⟨bytes, codes⟩ := length_cvtBlocks v act xs old scales ks (let b := cvtBlock v act xs old (fieldLe scales k 1) acc.1 k
      (b.1, acc.2.1 ++ [BitVec.ofNat 8 b.2.1], acc.2.2 ++ b.2.2))
    refine ⟨bytes.trans ?_, codes.trans ?_⟩
    · simp only [List.length_append, List.length_cons, List.length_nil]
      omega
    · simp only [List.length_append, List.length_cons, length_cvtBlock]
      omega

/-! ## Rows (R207 to R209) -/

section Rows

variable {d e : Dev} {c : Cmd} {v : VecCmd} {dst : Opnd} {r : Nat} {writes : List (Nat × Nat)} (clean : d.poison = [])
  (sub : ∀ q ∈ opndRanges d c.core c.logical dst, q ∈ writes) (hr : r < dst.rows)
include clean sub hr

theorem arithRow_writes (h : Wrote d c.core writes e) (row : dst.n = rowBytes v.fd v.count) (ao bo : Option Opnd) :
    ∃ e2, arithRow c v ao bo dst e r = .ok e2 ∧ Wrote d c.core writes e2 := by
  have cleanE := h.poison.trans clean
  obtain ⟨act, mask, len⟩ := rowMask_ok cleanE c.core c.logical v.mask r v.count
  obtain ⟨b, hb⟩ := rowB_ok cleanE c v bo r act
  obtain ⟨x, hx⟩ := rowValues_ok cleanE c.core c.logical dst r v.fd act
  have elems (f : VecSt → Nat → VecSt × Nat) (s : VecSt) :=
    let out := mapElems act v.zeroing (rowCodes e c.core c.logical dst r v.fd v.count) f s
    (h.vecEnd out.1).putElems clean sub hr (elemBits v.fd) (written act v.zeroing) (bs := packElems v.fd out.2)
      (by rw [length_packElems, length_mapElems, length_rowCodes, len, Nat.min_self, row])
  cases ao with
  | none =>
    simp only [arithRow, mask, hb, hx, acc_bind_ok]
    split <;> exact ⟨_, rfl, elems _ _⟩
  | some o =>
    obtain ⟨a, ha⟩ := rowValues_ok cleanE c.core c.logical o r v.fa act
    simp only [arithRow, mask, ha, hb, hx, acc_bind_ok]
    split <;> exact ⟨_, rfl, elems _ _⟩

/-- A row of VEC.CVT; with an MX format D, its scale bytes are written beside it. -/
theorem cvtRow_writes (h : Wrote d c.core writes e) (row : dst.n = rowBytes v.fd v.count) (a : Opnd) {sc : Option Opnd}
    (scales : isMx v.fd = true → v.count % 32 = 0
      ∧ ∀ o ∈ sc, r < o.rows ∧ o.n = v.count / 32 ∧ ∀ q ∈ opndRanges d c.core c.logical o, q ∈ writes) (s : VecSt) :
    ∃ q, cvtRow e c v a dst sc r s = .ok q ∧ Wrote d c.core writes q.1 := by
  have cleanE := h.poison.trans clean
  obtain ⟨act, mask, len⟩ := rowMask_ok cleanE c.core c.logical v.mask r v.count
  obtain ⟨x, hx⟩ := rowValues_ok cleanE c.core c.logical a r v.fa act
  have plain (f : VecSt → Nat → VecSt × Nat) :=
    let out := mapElems act v.zeroing (rowCodes e c.core c.logical dst r v.fd v.count) f s
    h.putElems clean sub hr (elemBits v.fd) (written act v.zeroing) (bs := packElems v.fd out.2)
      (by rw [length_packElems, length_mapElems, length_rowCodes, len, Nat.min_self, row])
  have blocks (hm : isMx v.fd = true) (xs : List FVal) (bytes : List Byte) :=
    let out := cvtBlocks v act xs (rowCodes e c.core c.logical dst r v.fd v.count) bytes (s, [], []) (List.range (v.count / 32))
    h.putElems clean sub hr (elemBits v.fd) (written act v.zeroing) (bs := packElems v.fd out.2.2) (by
      have codes := (length_cvtBlocks v act xs (rowCodes e c.core c.logical dst r v.fd v.count) bytes (List.range (v.count / 32)) (s, [], [])).2
      have whole := (scales hm).1
      rw [length_packElems, codes, row, List.length_range, List.length_nil, Nat.zero_add, Nat.mul_div_cancel' (Nat.dvd_of_mod_eq_zero whole)])
  have sound (ks : List Nat) : (ks.any fun _ => false) = false := List.any_eq_false.mpr fun _ _ => Bool.false_ne_true
  cases sc with
  | none =>
    simp only [cvtRow, mask, hx, acc_bind_ok, Bool.false_eq_true, ↓reduceIte]
    split
    · next hm => exact ⟨_, rfl, blocks hm _ _⟩
    · exact ⟨_, rfl, plain _⟩
  | some o =>
    simp only [cvtRow, mask, hx, acc_bind_ok, cleanE, poisonedAt_nil, Bool.and_false, sound, Bool.false_eq_true, ↓reduceIte]
    split
    · next hm =>
      obtain ⟨-, scaled⟩ := scales hm
      obtain ⟨hro, no, subo⟩ := scaled o rfl
      refine ⟨_, rfl, (blocks hm _ _).putElems clean subo hro _ _ ?_⟩
      rw [no]
      exact Nat.le_of_eq ((length_cvtBlocks v act _ _ _ _ _).1.trans (by simp))
    · exact ⟨_, rfl, plain _⟩

theorem cmpRow_writes (h : Wrote d c.core writes e) (a : Opnd) (b : Option Opnd) :
    ∃ e2, cmpRow c v a b dst e r = .ok e2 ∧ Wrote d c.core writes e2 := by
  have cleanE := h.poison.trans clean
  obtain ⟨act, mask, -⟩ := rowMask_ok cleanE c.core c.logical v.mask r v.count
  obtain ⟨x, hx⟩ := rowValues_ok cleanE c.core c.logical a r v.fa act
  obtain ⟨y, hy⟩ := rowB_ok cleanE c v b r act
  refine ⟨_, by simp only [cmpRow, mask, hx, hy, acc_bind_ok]; rfl, ?_⟩
  refine h.putElems clean sub hr _ _ ?_
  simp [packBits, opndRow, memRead_length]

theorem reduceRow_writes {s : RedSt} (h : Wrote d c.core writes s.d) (row : dst.n = if v.op = 5 ∨ v.op = 6 then 4 else rowBytes v.fd 1) (a : Opnd) :
    ∃ s2, reduceRow c v a dst s r = .ok s2 ∧ Wrote d c.core writes s2.d := by
  have cleanE := h.poison.trans clean
  obtain ⟨act, mask, -⟩ := rowMask_ok cleanE c.core c.logical v.mask r v.count
  obtain ⟨x, hx⟩ := rowValues_ok cleanE c.core c.logical a r v.fa act
  have word (i : Int) (hop : v.op = 5 ∨ v.op = 6) : Wrote d c.core writes (Machine.putRow s.d c.core c.logical dst r (leBytes 4 (i % (2 ^ 32 : Int)).toNat)) :=
    h.putRow clean sub hr (by rw [length_leBytes, row, if_pos hop])
  have result (q : Nat) (hop : ¬(v.op = 5 ∨ v.op = 6)) : Wrote d c.core writes (Machine.putRow s.d c.core c.logical dst r (packElems v.fd [q])) :=
    h.putRow clean sub hr (by rw [length_packElems, row, if_neg hop]; rfl)
  simp only [reduceRow, mask, hx, acc_bind_ok]
  split
  · next hop => exact ⟨_, rfl, word _ (.inr hop)⟩
  · next hop => exact ⟨_, rfl, word _ (.inl hop)⟩
  · next h6 h5 =>
    have hop : ¬(v.op = 5 ∨ v.op = 6) := by rintro (h | h); exacts [h5 h, h6 h]
    split
    · split
      · exact ⟨_, rfl, result _ hop⟩
      · exact ⟨_, rfl, result _ hop⟩
    · exact ⟨_, rfl, result _ hop⟩

end Rows

/-! ## Commands -/

section Commands

variable {d : Dev} {c : Cmd} {p : VecPlan} (clean : d.poison = [])
include clean

theorem arithRows_writes (row : p.dst.Shaped p.v.rows (rowBytes p.v.fd p.v.count)) (ao bo : Option Opnd) :
    ∃ e, arithRows d c p.v ao bo p.dst = .ok e ∧ Wrote d c.core (opndRanges d c.core c.logical p.dst) e := by
  obtain ⟨rows, bytes⟩ := row
  refine foldlM_keeps _ d (Wrote.refl d _ _) fun r hr e he => ?_
  rw [List.mem_range, ← rows] at hr
  exact arithRow_writes clean (fun _ hq => hq) hr he bytes ao bo

theorem vecArithCmd_writes (plan : vecArithPlan d c = .ok p) : ∃ e, vecArithCmd d c = .ok (.next (vecBusy e p.v (arithWidths p.v) 0))
    ∧ Wrote d c.core (opndRanges d c.core c.logical p.dst) e := by
  obtain ⟨e, rows, wrote⟩ := arithRows_writes clean (vecArithPlan_dst plan) p.a p.b
  exact ⟨e, by rw [vecArithCmd, plan, acc_bind_ok, rows, acc_bind_ok], wrote⟩

theorem vecFillCmd_writes (plan : vecFillPlan d c = .ok p) : ∃ e, vecFillCmd d c = .ok (.next (vecBusy e p.v [p.v.fd] 0))
    ∧ Wrote d c.core (opndRanges d c.core c.logical p.dst) e := by
  obtain ⟨e, rows, wrote⟩ := arithRows_writes clean (vecFillPlan_dst plan) p.a none
  exact ⟨e, by rw [vecFillCmd, plan, acc_bind_ok, rows, acc_bind_ok], wrote⟩

theorem vecCmpCmd_writes (plan : vecCmpPlan d c = .ok p) :
    ∃ e, vecCmpCmd d c = .ok (.next (vecBusy e p.v ([p.v.fa] ++ if p.v.op = 6 ∨ p.v.op = 7 then [] else [p.v.fb]) 0))
      ∧ Wrote d c.core (opndRanges d c.core c.logical p.dst) e := by
  have rows := vecCmpPlan_dst plan
  obtain ⟨e, run, wrote⟩ := foldlM_keeps (I := Wrote d c.core (opndRanges d c.core c.logical p.dst)) (f := cmpRow c p.v (p.a.getD p.dst) p.b p.dst)
    (List.range p.v.rows) d (Wrote.refl d _ _) fun r hr e he =>
      cmpRow_writes clean (fun _ hq => hq) (by rwa [List.mem_range, ← rows] at hr) he _ _
  refine ⟨e, ?_, wrote⟩
  rw [vecCmpCmd, plan, acc_bind_ok, run, acc_bind_ok]
  simp only [Bool.or_eq_true, beq_iff_eq]

/-- The cells of VEC.CVT: D's, and the scale bytes' of an MX format D. -/
def cvtCells (d : Dev) (core l : Nat) (p : VecPlan) : List (Nat × Nat) :=
  opndRanges d core l p.dst ++ if isMx p.v.fd = true then p.sc.toList.flatMap (opndRanges d core l) else []

omit clean in
theorem cvtCells_int (core l : Nat) (int : isIntFmt p.v.fd = true) : cvtCells d core l p = opndRanges d core l p.dst := by
  have notMx : isMx p.v.fd = false := by
    simp only [isIntFmt, Bool.or_eq_true, beq_iff_eq] at int
    rcases int with h | h <;> rw [h] <;> rfl
  rw [cvtCells, notMx, if_neg Bool.false_ne_true, List.append_nil]

theorem vecCvtCmd_writes (plan : vecCvtPlan d c = .ok p) : ∃ e v, Wrote d c.core (cvtCells d c.core c.logical p) e
    ∧ vecCvtCmd d c = .ok (.next (if v.nan && isIntFmt p.v.fd then
        deposit (vecBusy (vecEnd e c.core v) p.v [p.v.fa, p.v.fd] 0) c.core p.v.pip { nanSeen := true }
      else vecBusy (vecEnd e c.core v) p.v [p.v.fa, p.v.fd] 0)) := by
  obtain ⟨⟨rows, bytes⟩, mx⟩ := vecCvtPlan_dst plan
  have dstCells : ∀ q ∈ opndRanges d c.core c.logical p.dst, q ∈ cvtCells d c.core c.logical p := fun q hq => List.mem_append_left _ hq
  have scales (r : Nat) (hr : r < p.v.rows) (hm : isMx p.v.fd = true) : p.v.count % 32 = 0
      ∧ ∀ o ∈ p.sc, r < o.rows ∧ o.n = p.v.count / 32 ∧ ∀ q ∈ opndRanges d c.core c.logical o, q ∈ cvtCells d c.core c.logical p := by
    obtain ⟨whole, shaped⟩ := mx hm
    refine ⟨whole, fun o ho => ?_⟩
    obtain ⟨rowsO, bytesO⟩ := shaped o ho
    refine ⟨by rwa [rowsO], bytesO, fun q hq => ?_⟩
    rw [cvtCells, if_pos hm]
    exact List.mem_append_right _ (List.mem_flatMap.mpr ⟨o, Option.mem_toList.mpr ho, hq⟩)
  obtain ⟨r, run, wrote⟩ := foldlM_keeps (I := fun q : Dev × VecSt => Wrote d c.core (cvtCells d c.core c.logical p) q.1)
    (f := fun acc r => cvtRow acc.1 c p.v (p.a.getD p.dst) p.dst p.sc r acc.2) (List.range p.v.rows) (d, vecStart d c.core) (Wrote.refl d _ _)
    fun r hr q hq => cvtRow_writes clean dstCells (by rwa [List.mem_range, ← rows] at hr) hq bytes _ (scales r (List.mem_range.mp hr)) _
  exact ⟨r.1, r.2, wrote, by simp only [vecCvtCmd, plan, run, acc_bind_ok]⟩

theorem vecReduceCmd_writes (plan : vecReducePlan d c = .ok p) : ∃ s : RedSt, Wrote d c.core (opndRanges d c.core c.logical p.dst) s.d
    ∧ vecReduceCmd d c = .ok (.next (if p.v.deposit then
        deposit (vecBusy (vecEnd s.d c.core s.v) p.v [p.v.fa] 4) c.core p.v.pip (reduceDeposit p.v s)
      else vecBusy (vecEnd s.d c.core s.v) p.v [p.v.fa] 4)) := by
  obtain ⟨rows, bytes⟩ := vecReducePlan_dst plan
  obtain ⟨s, run, wrote⟩ := foldlM_keeps (I := fun s : RedSt => Wrote d c.core (opndRanges d c.core c.logical p.dst) s.d)
    (f := reduceRow c p.v (p.a.getD p.dst) p.dst) (List.range p.v.rows) { d := d, v := vecStart d c.core } (Wrote.refl d _ _)
    fun r hr s hs => reduceRow_writes clean (fun _ hq => hq) (by rwa [List.mem_range, ← rows] at hr) hs bytes _
  exact ⟨s, wrote, by simp only [vecReduceCmd, plan, run, acc_bind_ok]⟩

end Commands

/-! ## How a command ends (R195, R202, R204) -/

section Ends

variable {d e : Dev} {core : Nat} {writes : List (Nat × Nat)} (h : Wrote d core writes e)
include h

/-- VECTOR_BUSY advances. -/
theorem Wrote.busy (v : VecCmd) (fs : List Nat) (extra : Nat) : vecBusy e v fs extra = { e with cnt := (vecBusy d v fs extra).cnt } := by
  simp only [vecBusy, Dev.count, h.cnt]

theorem Wrote.busyStep (v : VecCmd) (fs : List Nat) (extra : Nat) : CoreStep { e with cnt := (vecBusy d v fs extra).cnt } core
    { e.core core with ctx := { (e.core core).ctx with deposits := (e.core core).ctx.deposits ++ [] } } (vecBusy e v fs extra) := by
  rw [h.busy, List.append_nil]
  exact ⟨rfl, fun _ _ => rfl, rfl⟩

theorem Wrote.depositStep (v : VecCmd) (fs : List Nat) (extra pip : Nat) (val : Pip) : CoreStep { e with cnt := (vecBusy d v fs extra).cnt } core
    { e.core core with ctx := { (e.core core).ctx with deposits := (e.core core).ctx.deposits ++ [{ pip := pip, val := val }] } }
    (deposit (vecBusy e v fs extra) core pip val) := by
  rw [h.busy, deposit]
  exact coreStep_one _ _ _

end Ends

/-- A command of the vector engine or of the row units that nothing stands before has run. -/
theorem engine_yields {s : State} {core op engine : Nat} {ops : Nat → Bool} {k : Engine} {cmd : Dev → Cmd → Acc Issued} {c : Cmd}
    {writes : List (Nat × Nat)} {deps : List Deposit} {cnt : Cnt} {e e2 : Dev} (ha : asleep s.dev = false) (h : Stands s.dev core op c)
    (hl : listedOp op = true) (ho : ops op = true) (hop : 0x20 ≤ op) (hk : k = .vec ∨ k = .row) (idle : coreBusy (s.dev.core core) = false)
    (hf : cmd (unwait s.dev core) c = .ok (.next e2)) (wrote : Wrote (unwait s.dev core) core writes e)
    (step : CoreStep { e with cnt := cnt } core { e.core core with ctx := { (e.core core).ctx with deposits := (e.core core).ctx.deposits ++ deps } } e2) :
    YieldsSome (onDev (isCore core) (fun _ d => issue core engine ops (inQueue k cmd) d) s) s (EngineRan s.dev core c cnt writes deps) :=
  issue_yields ha h hl ho _ ((inQueue_runs h.own idle (queueFull_of_idle hk idle)).trans hf) (wrote.ran rfl hop step)

/-- Settles O16: a vector command waits as every engine's does (`queuesBehind_of`); one that runs writes its rows one after another, each
within the cells of its destination. -/
theorem vectorCommandsWriteOnlyTheirDestination : Obligations.VectorCommandsWriteOnlyTheirDestination := by
  unfold Obligations.VectorCommandsWriteOnlyTheirDestination
  refine ⟨fun s core c h row hrow => ?queues, fun s core c p h clean idle => ?runs⟩
  case queues =>
    have waits {f : Dev → Cmd → Acc Issued} (own : c.core = core)
        (behind : False ∨ coreBusy (s.dev.core core) = true ∨ queueFull (s.dev.core core) .vec = true) :=
      inQueue_waits (f := f) own (behind.resolve_left id)
    simp only [List.mem_cons, List.not_mem_nil, or_false] at hrow
    rcases hrow with rfl | rfl | rfl | rfl | rfl | rfl | rfl <;> exact queuesBehind_of h rfl rfl (of_decide_eq_true rfl) rfl waits
  case runs =>
    intro d cells busy
    have cleanU : (unwait d core).poison = [] := clean
    refine ⟨fun hs plan => ?arith, fun hs plan => ?fill, fun hs plan => ?cvt, fun hs plan => ?cmp, fun hs plan => ?reduce⟩ <;> obtain rfl := hs.own
    case arith =>
      obtain ⟨e, cmd, wrote⟩ := vecArithCmd_writes cleanU plan
      exact engine_yields h hs rfl rfl (by decide) (.inl rfl) idle cmd wrote (wrote.busyStep _ _ _)
    case fill =>
      obtain ⟨e, cmd, wrote⟩ := vecFillCmd_writes cleanU plan
      exact engine_yields h hs rfl rfl (by decide) (.inl rfl) idle cmd wrote (wrote.busyStep _ _ _)
    case cvt =>
      obtain ⟨e, v, wrote, cmd⟩ := vecCvtCmd_writes cleanU plan
      by_cases nan : (v.nan && isIntFmt p.v.fd) = true
      · obtain ⟨-, int⟩ := (Bool.and_eq_true _ _).mp nan
        rw [if_pos nan] at cmd
        rw [cvtCells_int _ _ int] at wrote
        exact (engine_yields h hs rfl rfl (by decide) (.inl rfl) idle cmd (wrote.vecEnd v) ((wrote.vecEnd v).depositStep _ _ _ _ _)).mono fun e ran =>
          .inr ⟨int, ran⟩
      · rw [if_neg nan] at cmd
        exact (engine_yields h hs rfl rfl (by decide) (.inl rfl) idle cmd (wrote.vecEnd v) ((wrote.vecEnd v).busyStep _ _ _)).mono fun e ran => .inl ran
    case cmp =>
      obtain ⟨e, cmd, wrote⟩ := vecCmpCmd_writes cleanU plan
      exact engine_yields h hs rfl rfl (by decide) (.inl rfl) idle cmd wrote (wrote.busyStep _ _ _)
    case reduce =>
      obtain ⟨r, wrote, cmd⟩ := vecReduceCmd_writes cleanU plan
      by_cases dep : p.v.deposit = true
      · rw [if_pos dep] at cmd
        exact (engine_yields h hs rfl rfl (by decide) (.inl rfl) idle cmd (wrote.vecEnd r.v) ((wrote.vecEnd r.v).depositStep _ _ _ _ _)).mono fun e ran =>
          ⟨_, by rw [if_pos dep]; exact ran⟩
      · rw [if_neg dep] at cmd
        exact (engine_yields h hs rfl rfl (by decide) (.inl rfl) idle cmd (wrote.vecEnd r.v) ((wrote.vecEnd r.v).busyStep _ _ _)).mono fun e ran =>
          ⟨{}, by rw [if_neg dep]; exact ran⟩

end Sys2Proof.Machine
end


section
/-! PROOFS. VEC.SCATTER at the end of a partition (spec/08_vector_engine.md R198, R206, R210). The statement ranges over every state of a core,
those with an addition pending at word offset 0 among them, which ADDF never makes (R198). Such an addition changes the opcode byte that the
checks of R206 look at, so a scatter may name an MX format, whose elements of less than 8 bits fill no whole byte. -/

namespace Sys2Proof.Machine

/-- VEC.SCATTER of one element of format 4 from scratchpad 0x100 to index 0 from scratchpad 0x10_0000, by immediate. -/
def scatterWord : List Byte :=
  [0x55, 0, 0x94, 0x04] ++ leBytes 4 0x100000 ++ leBytes 4 0x100 ++ leBytes 4 0 ++ leBytes 4 0 ++ leBytes 4 0x20000001 ++ leBytes 2 1 ++ leBytes 6 0

/-- −4, which turns the opcode byte of VEC.SCATTER into that of VEC.CVT, is pending at word offset 0. -/
def opcodeAddition : Tab Word := [(0, 0xFFFFFFFC)]

/-- Core 0 of the job of `signalAcross`, here with 1 MiB of scratchpad, stands at `scatterWord`. -/
def scatterPastEnd : Dev :=
  { signalAcross with
    str := { signalAcross.str with inForce := signalAcross.str.inForce.map (fun st => { st with cores := [(0, { basin := 0, scratch := 1 })] }) }
    cores := [(0, { slot := some 0, active := true, ctx := { addf := opcodeAddition } })]
    mem := memWrite [] (cmdCell 0 0) scatterWord }

/-- The command as core 0 issues it. -/
def scatterCmd : Cmd := { core := 0, slot := 0, logical := 0, pc := 0, b := applyAddf scatterWord opcodeAddition }

/-- Its source, a row of one byte. -/
def scatterSrc : Opnd := { part := 0, off := 0x100, pitch := 0, rows := 1, n := 1 }

/-- What its checks let through. -/
def scatterPlan : VecPlan :=
  { v := { op := 0, fa := 4, fb := 9, fd := 4, round := 0, zeroing := false, count := 1, pip := 0, deposit := false, immB := true, rows := 1,
           dpitch := 0, spitch := 0, aux := 0, dst := 0x100000, srcA := 0x100, srcB := 0, mask := none }
    a := some scatterSrc, dst := { part := 0, off := 0x100000, pitch := 0, rows := 1, n := 0 } }

theorem scatterPastEnd_stands : Stands scatterPastEnd 0 0x55 scatterCmd :=
{ core_lt := by decide
  slot := rfl
  active := rfl
  free := .inl rfl
  own := rfl
  logical := by decide
  pc := rfl
  stream := by decide
  opcode := by decide
  bytes := by
    have raw : memRead scatterPastEnd.mem (cmdCell 0 (32 * 0)) 32 = scatterWord := memRead_memWrite scatterWord [] (cmdCell 0 0)
    rw [if_pos (by decide)]
    exact congrArg (applyAddf · opcodeAddition) raw.symm }

theorem scatterPastEnd_plan : vecScatterPlan scatterPastEnd scatterCmd = .ok scatterPlan := rfl

/-- Index 0 names an element of no bytes at the very end of the scratchpad, which meets no source. -/
theorem scatterPastEnd_index : indexed scatterPastEnd 0 0 0x100000 4 0 = .ok 0x100000
    ∧ (scatterSrcs scatterPlan.v scatterSrc none).any (fun q => elemMeets scatterPlan.dst 0x100000 (elemBits 4 / 8) q 0) = false := by decide

/-- The byte of the packed element lies past the scratchpad. -/
theorem scatterPastEnd_faults : vecScatterCmd (unwait scatterPastEnd 0) scatterCmd = .error fltIllegal := rfl

theorem vecScatter_faults {s : State} {core : Nat} {c : Cmd} {f : JFault} (h : asleep s.dev = false) (hs : Stands s.dev core 0x55 c)
    (idle : coreBusy (s.dev.core core) = false) (hf : vecScatterCmd (unwait s.dev core) c = .error f) :
    Yields (exec (.vecScatter core) s) s (jobFault s.dev c.slot core 2 c.logical c.pc f) :=
  issue_fault h hs rfl rfl ((inQueue_runs hs.own idle (queueFull_of_idle (.inl rfl) idle)).trans hf)

/-- A command has one answer. -/
theorem YieldsSome.of_yields {o : Out} {s : State} {P : Dev → Prop} {d : Dev} (h : YieldsSome o s P) (k : Yields o s d) : P d := by
  obtain ⟨e, next, hp⟩ := h
  cases next.symm.trans k
  exact hp

/-- An illegal operation stops the device (R455). -/
theorem jobFault_illegal_stops {d : Dev} (hstop : d.flt.stopActive = false) (slot core engine l pc : Nat) :
    (jobFault d slot core engine l pc fltIllegal).flt.stopActive = true :=
  (faultCharged_stops (m := d) hstop slot 0xA2 _ _ _).2.1

/-- A command that runs leaves the fault block alone, so one that is illegal has not run. -/
theorem not_engineRan_illegal {d : Dev} {core : Nat} {c : Cmd} {cnt : Cnt} {writes : List (Nat × Nat)} {deps : List Deposit}
    (hstop : d.flt.stopActive = false) (slot engine l pc : Nat) : ¬EngineRan d core c cnt writes deps (jobFault d slot core engine l pc fltIllegal) := by
  rintro ⟨⟨lanes, -, -, only⟩, -⟩
  have stops := jobFault_illegal_stops hstop slot core engine l pc
  rw [only] at stops
  exact Bool.false_ne_true (hstop.symm.trans stops)

/-- Refutes O17: a scatter whose index is legal by R210 writes the byte of an element of format 4 past the end of its partition, which is
FLT_ILLEGAL_OP and stops the device. -/
theorem not_gatherAndScatterFollowTheirIndices : ¬ Obligations.GatherAndScatterFollowTheirIndices := by
  unfold Obligations.GatherAndScatterFollowTheirIndices
  intro h
  obtain ⟨-, scatters, -⟩ := h { dev := scatterPastEnd } 0 scatterCmd scatterPlan scatterSrc (by decide) rfl (by decide) rfl
  have ran := scatters scatterPastEnd_stands scatterPastEnd_plan (by decide) fun r act ix _ mask row q hq _ => by
    obtain rfl : [true] = act := Except.ok.inj mask
    obtain rfl : [immValue 9 0] = ix := Except.ok.inj row
    obtain rfl : q = (immValue 9 0, true) := List.mem_singleton.mp hq
    exact .inr ⟨0x100000, scatterPastEnd_index⟩
  have faults := vecScatter_faults (s := { dev := scatterPastEnd }) (by decide) scatterPastEnd_stands (by decide) scatterPastEnd_faults
  exact not_engineRan_illegal rfl _ _ _ _ (ran.of_yields faults)

end Sys2Proof.Machine
end

section
/-! PROOFS. Tables and sequences of writes: what a table reads after a filter, and a place after a sequence of writes of which at most one is
for it. -/

namespace Sys2Proof.Machine

/-! ## Tables read after a filter, and after writes at places apart -/

/-- A canonical table that keeps the entries `q` holds of reads there as before, and the default elsewhere. -/
theorem tabGet_filter {α : Type} (d : α) (q : Nat × α → Bool) (i : Nat) : ∀ {lo : Option Nat} {t : Tab α}, tabRising lo t = true →
    tabGet d (t.filter q) i = if q (i, tabGet d t i) then tabGet d t i else d
  | _, [], _ => (ite_self d).symm
  | lo, (k, v) :: t, h => by
    rw [tabRising_cons, Bool.and_eq_true] at h
    obtain ⟨-, above⟩ := h
    have tail := tabGet_filter d q i above
    by_cases hk : k = i
    · subst hk
      have gone := tabGet_of_rising d (tabRising_filter q _ above)
      cases hq : q (k, v) <;> simp [tabGet, hq, gone]
    · have head : tabGet d ((k, v) :: t) i = tabGet d t i := if_neg hk
      rw [head, ← tail, List.filter_cons]
      split
      · exact if_neg hk
      · rfl

section Places

variable {σ α β : Type} {get : σ → Nat → β} {f : σ → Nat × α → σ} {val : β → α → β} {I : σ → Prop}
  (keeps : ∀ x e, I x → I (f x e)) (sets : ∀ x e, I x → ∀ k, get (f x e) k = if k = e.1 then val (get x e.1) e.2 else get x k)
include keeps sets

/-- A place that no step of a sequence is for reads as before. -/
theorem foldl_unlisted {k : Nat} : ∀ {l : List (Nat × α)}, (∀ e ∈ l, e.1 ≠ k) → ∀ x, I x → get (l.foldl f x) k = get x k
  | [], _, _, _ => rfl
  | e :: l, hk, x, hx => by
    obtain ⟨he, hl⟩ := List.forall_mem_cons.mp hk
    rw [List.foldl_cons, foldl_unlisted hl _ (keeps x e hx), sets x e hx, if_neg (Ne.symm he)]

/-- A place that one step of a sequence is for takes what that step gives it. -/
theorem foldl_listed {k : Nat} {a : α} : ∀ {l : List (Nat × α)}, (l.map Prod.fst).Nodup → (k, a) ∈ l → ∀ x, I x →
    get (l.foldl f x) k = val (get x k) a
  | e :: l, once, h, x, hx => by
    obtain ⟨hne, once⟩ := List.nodup_cons.mp once
    have next := keeps x e hx
    rcases List.mem_cons.mp h with rfl | h
    · have others : ∀ q ∈ l, q.1 ≠ k := fun q hq hk => hne (List.mem_map.mpr ⟨q, hq, hk⟩)
      rw [List.foldl_cons, foldl_unlisted keeps sets others _ next, sets _ _ hx, if_pos rfl]
    · have other : k ≠ e.1 := fun hk => hne (List.mem_map.mpr ⟨_, h, hk⟩)
      rw [List.foldl_cons, foldl_listed once h _ next, sets _ _ hx, if_neg other]

end Places

theorem mem_zip_range {α : Type} {n k : Nat} {a : α} {l : List α} : (k, a) ∈ (List.range n).zip l ↔ k < n ∧ l[k]? = some a := by
  rw [List.mem_iff_getElem?]
  simp only [List.getElem?_zip_eq_some, List.getElem?_eq_some_iff (l := List.range n), List.getElem_range, List.length_range]
  exact ⟨fun ⟨i, ⟨hi, hk⟩, ha⟩ => hk ▸ ⟨hi, ha⟩, fun ⟨hk, ha⟩ => ⟨k, ⟨hk, rfl⟩, ha⟩⟩

theorem zip_range_once {α : Type} (n : Nat) (l : List α) : (((List.range n).zip l).map Prod.fst).Nodup := by
  rw [List.zip_eq_zip_take_min, List.map_fst_zip (by simp)]
  exact List.nodup_range.sublist (List.take_sublist _ _)

theorem tabRising_above {α : Type} : ∀ {lo : Nat} {t : Tab α}, tabRising (some lo) t = true → ∀ e ∈ t, lo < e.1
  | _, [], _ => fun _ h => nomatch h
  | lo, (k, v) :: t, h => by
    rw [tabRising, Bool.and_eq_true, decide_eq_true_eq] at h
    obtain ⟨hk, above⟩ := h
    exact List.forall_mem_cons.mpr ⟨hk, fun e he => hk.trans (tabRising_above above e he)⟩

/-- A canonical table written entry by entry into another, each value through `g`. -/
theorem tabGet_rewritten {α : Type} [DecidableEq α] (d : α) (g : α → α) (k : Nat) : ∀ {lo : Option Nat} {t : Tab α}, tabRising lo t = true →
    ∀ acc : Tab α, tabGet d acc k = g d → tabGet d (t.foldl (fun a e => tabSet d a e.1 (g e.2)) acc) k = g (tabGet d t k)
  | _, [], _, _, h => h
  | lo, e :: t, rising, acc, h => by
    rw [tabRising_cons, Bool.and_eq_true] at rising
    obtain ⟨-, above⟩ := rising
    rw [List.foldl_cons, tabGet]
    split
    · next hk =>
      have others : ∀ q ∈ t, q.1 ≠ k := fun q hq => (hk ▸ tabRising_above above q hq).ne'
      rw [foldl_unlisted (I := fun _ => True) (val := fun _ v => g v) (fun _ _ _ => trivial) (fun a q _ j => tabGet_tabSet d a q.1 j _) others _ trivial,
        hk, tabGet_tabSet_self]
    · next hk => exact tabGet_rewritten d g k above _ (by rw [tabGet_tabSet_other _ _ _ (Ne.symm hk), h])

end Sys2Proof.Machine
end

section
/-! PROOFS. HBM stacks: the scrub and the errors it meets (spec/12_hbm.md R303 to R307). -/

namespace Sys2Proof.Machine

/-! ## Bursts of a slot (R292, R296) -/

/-- The first 64-byte unit of a slot. -/
def slotUnit (k pc slot : Nat) : Nat := ((64 * k + pc) * 294912 + slot) * 64

/-- The unit of burst `b` of a slot. -/
def burstAt (k pc slot b : Nat) : Nat := slotUnit k pc slot + b

theorem burstAt_place {pc slot b : Nat} (k : Nat) (hpc : pc < 64) (hslot : slot < 294912) (hb : b < 64) :
    stackOfCell (64 * burstAt k pc slot b) = k ∧ pcOfCell (64 * burstAt k pc slot b) = pc
    ∧ burstAt k pc slot b / 64 % 294912 = slot ∧ burstAt k pc slot b % 64 = b := by
  unfold stackOfCell pcOfCell burstAt slotUnit
  refine ⟨?_, ?_, ?_, ?_⟩ <;> omega

theorem burstAt_inj {k pc slot i b : Nat} : burstAt k pc slot i = burstAt k pc slot b ↔ i = b := Nat.add_left_cancel_iff

/-- A unit of the slot is one of its 64 bursts. -/
theorem eq_burstAt {k pc slot u : Nat} (h : u / 64 = slotUnit k pc slot / 64) : u = burstAt k pc slot (u % 64) := by
  unfold burstAt slotUnit at *
  omega

/-! ## What a read of a burst finds (R303, R304) -/

/-- No error and no dead pin stands in burst `u`, and it is not marked. -/
structure Sound (d : Dev) (u : Nat) : Prop where
  upset : tabGet none d.upsets u = none
  unmarked : tabGet false d.poison u = false
  pin : tabGet none (d.stack (stackOfCell (64 * u))).deadPins (pcOfCell (64 * u)) = none

section Found

variable {d : Dev} {u : Nat}

theorem Sound.found (h : Sound d u) : burstFound d u = .clean := by
  unfold burstFound livePin
  simp [h.upset, h.unmarked, h.pin]

theorem burstFound_marked (hu : tabGet none d.upsets u = none) (hp : tabGet false d.poison u = true) : burstFound d u = .marked := by
  unfold burstFound
  simp [hu, hp]

theorem burstFound_corrected {q : Nat} (hu : tabGet none d.upsets u = some (.correctable q)) (hp : tabGet false d.poison u = false)
    (pin : tabGet none (d.stack (stackOfCell (64 * u))).deadPins (pcOfCell (64 * u)) = none) : burstFound d u = .corrected q := by
  unfold burstFound
  simp [hu, hp, pin]

theorem burstFound_first {q : Nat} (hu : tabGet none d.upsets u = some (.uncorrectable q)) : burstFound d u = .first q := by
  unfold burstFound
  rw [hu]

theorem Sound.meets (h : Sound d u) : meetUnit d u = d := by
  unfold meetUnit
  rw [h.found]

end Found

/-- The record of the last error once an error has come: the earlier one while VALID is set (R304, R318). -/
def LastErr.after (l : LastErr) (pc slot burst position kind : Nat) : LastErr :=
  if l.valid then l else { pc := pc, uncorr := !(kind == 1), slot := slot, burst := burst, valid := true, position := position, kind := kind }

theorem capture_eq (x : Stack) (pc slot burst position kind : Nat) :
    capture x pc slot burst position kind = { x with lastErr := x.lastErr.after pc slot burst position kind } := by
  unfold capture LastErr.after
  split <;> rfl

/-! ## Rows counted (R307) -/

/-- From `d` to `e` a row of stack `s` has been counted: its counts, spares, remaps and the records due may have changed. -/
structure RowCounted (d : Dev) (s : Nat) (e : Dev) : Prop where
  only : e = { d with hbm := e.hbm, repairsDue := e.repairsDue }
  others : ∀ j, j ≠ s → e.stack j = d.stack j
  stack : ∃ y : Stack, e.stack s = { d.stack s with
    remaps := y.remaps, sparesUsed := y.sparesUsed, rows := y.rows, remapQueue := y.remapQueue, remapping := y.remapping, lastRemap := y.lastRemap }

theorem RowCounted.upsets {d e : Dev} {s : Nat} (h : RowCounted d s e) : e.upsets = d.upsets := by rw [h.only]

theorem RowCounted.poison {d e : Dev} {s : Nat} (h : RowCounted d s e) : e.poison = d.poison := by rw [h.only]

theorem recordRepair_only (d : Dev) (s : Nat) (r : Row) : recordRepair d s r = { d with repairsDue := (recordRepair d s r).repairsDue } := by
  unfold recordRepair
  dsimp only
  split <;> rfl

theorem countRow_counts (d : Dev) (s : Nat) (r : Row) (whole : Bool) : RowCounted d s (countRow d s r whole) := by
  have sets {e : Dev} (he : e = { d with repairsDue := e.repairsDue }) {x : Stack} (y : Stack) (hx : x = { d.stack s with
      remaps := y.remaps, sparesUsed := y.sparesUsed, rows := y.rows, remapQueue := y.remapQueue, remapping := y.remapping, lastRemap := y.lastRemap }) :
      RowCounted d s (e.setStack s x) := by
    refine ⟨?_, fun j hj => ?_, y, (Dev.stack_setStack_self e s x).trans hx⟩
    · rw [he]
      rfl
    · rw [Dev.stack_setStack, if_neg hj, he]
      rfl
  unfold countRow
  split
  · exact ⟨rfl, fun _ _ => rfl, d.stack s, rfl⟩
  extract_lets x old n y e full
  have record : e = { d with repairsDue := e.repairsDue } := recordRepair_only d s r
  split
  · exact sets rfl y rfl
  split
  · exact sets record y rfl
  split
  · exact sets record (startRemap e y r) rfl
  · exact sets record { y with remapQueue := y.remapQueue ++ [r] } rfl

/-- The first correctable error of a row below the threshold begins its count. -/
theorem countRow_begins {d : Dev} {s : Nat} {r : Row} (rowfix : d.str.pinsafe = false)
    (fresh : ((d.stack s).rows.find? (fun q => q.1 == r)).map (·.2) = none) (below : 1 < rowThreshold (d.stack s)) :
    countRow d s r false = d.setStack s { d.stack s with rows := ((r, 1) :: (d.stack s).rows.filter (fun q => !(q.1 == r))).take 1024 } := by
  unfold countRow
  simp only [rowfix, fresh, Bool.false_eq_true, ↓reduceIte, Option.getD_none, Nat.zero_add]
  exact if_pos below

/-- An uncorrectable error takes its row to the threshold, so the row is recorded for hard repair; PINSAFE records none. -/
theorem countRow_whole_due (d : Dev) (s : Nat) (r : Row) : (countRow d s r true).repairsDue =
    if d.str.pinsafe = true then d.repairsDue
    else if (tabGet [] d.repairsDue s).contains r then d.repairsDue else tabSet [] d.repairsDue s (tabGet [] d.repairsDue s ++ [r]) := by
  unfold countRow
  split
  · rfl
  extract_lets x old n y e full
  have reached : ¬ n < rowThreshold y := Nat.not_lt.mpr (le_max_right _ _)
  have due : e.repairsDue = if (tabGet [] d.repairsDue s).contains r then d.repairsDue else tabSet [] d.repairsDue s (tabGet [] d.repairsDue s ++ [r]) := by
    unfold e recordRepair
    dsimp only
    split <;> rfl
  rw [if_neg reached, ← due]
  split
  · rfl
  split <;> rfl

/-! ## Errors that strike and errors that heal (R302, R306) -/

/-- Burst `u` marked, with `e` for the error that stands in it. -/
def markedAt (d : Dev) (u : Nat) (e : Option CellErr) : Dev := { d with poison := tabSet false d.poison u true, upsets := tabSet none d.upsets u e }

theorem markedAt_upsets (d : Dev) (u : Nat) (e : Option CellErr) (v : Nat) :
    tabGet none (markedAt d u e).upsets v = if v = u then e else tabGet none d.upsets v := tabGet_tabSet none d.upsets u v e

theorem markedAt_poison (d : Dev) (u : Nat) (e : Option CellErr) (v : Nat) :
    tabGet false (markedAt d u e).poison v = if v = u then true else tabGet false d.poison v := tabGet_tabSet false d.poison u v true

theorem markedAt_wf {d : Dev} (wf : tabWf none d.upsets = true) (u : Nat) (e : Option CellErr) : tabWf none (markedAt d u e).upsets = true :=
  tabWf_tabSet none u e wf

theorem strikeBurst_hard {d : Dev} {u : Nat} (hp : tabGet false d.poison u = false) (p : Nat) :
    strikeBurst d u true p = markedAt d u (some (.uncorrectable (p % (if d.str.pinsafe then 35 else 2)))) := by
  unfold strikeBurst
  rw [hp]
  rfl

theorem strikeBurst_soft {d : Dev} {u : Nat} (h : Sound d u) (rowfix : d.str.pinsafe = false) (p : Nat) :
    strikeBurst d u false p = { d with upsets := tabSet none d.upsets u (some (.correctable (p % 2))) } := by
  unfold strikeBurst
  simp [h.unmarked, h.upset, rowfix]

section Heal

variable {m : Dev} {p : Nat → Bool} {u : Nat} (wf : tabWf none m.upsets = true)
include wf

theorem healBursts_upsets : tabGet none (healBursts m p).upsets u =
    if !(p u && (match tabGet none m.upsets u with | some (.correctable _) => true | _ => false)) then tabGet none m.upsets u else none := by
  rw [tabWf, Bool.and_eq_true] at wf
  exact tabGet_filter none (fun e => !(p e.1 && (match e.2 with | some (.correctable _) => true | _ => false))) u wf.1

theorem healBursts_heals {q : Nat} (hp : p u = true) (hu : tabGet none m.upsets u = some (.correctable q)) :
    tabGet none (healBursts m p).upsets u = none := by
  rw [healBursts_upsets wf, hp, hu]
  rfl

theorem healBursts_keeps (h : p u = false ∨ ∀ q, tabGet none m.upsets u ≠ some (.correctable q)) :
    tabGet none (healBursts m p).upsets u = tabGet none m.upsets u := by
  rw [healBursts_upsets wf]
  rcases h with h | h
  · rw [h]
    rfl
  · split
    · next q hq => exact absurd hq (h q)
    · simp

end Heal

/-! ## The other bursts -/

theorem meetUnit_elsewhere (d : Dev) {u v : Nat} (hv : v ≠ u) :
    tabGet none (meetUnit d u).upsets v = tabGet none d.upsets v ∧ tabGet false (meetUnit d u).poison v = tabGet false d.poison v := by
  unfold meetUnit
  dsimp only
  split
  · exact ⟨rfl, rfl⟩
  · exact ⟨rfl, rfl⟩
  · rw [(countRow_counts _ _ _ _).upsets, (countRow_counts _ _ _ _).poison]
    exact ⟨rfl, rfl⟩
  · rw [(countRow_counts _ _ _ _).upsets, (countRow_counts _ _ _ _).poison]
    dsimp only
    exact ⟨tabGet_tabSet_other _ _ _ hv, tabGet_tabSet_other _ _ _ hv⟩

/-- The read of another burst leaves a sound one sound. -/
theorem Sound.met {d : Dev} {u v : Nat} (h : Sound d v) (hv : v ≠ u) : Sound (meetUnit d u) v := by
  obtain ⟨upset, unmarked, pin⟩ := h
  obtain ⟨upsets, poison⟩ := meetUnit_elsewhere d hv
  refine ⟨upsets.trans upset, poison.trans unmarked, ?_⟩
  rw [(meetUnit_hbmRead d u).2.1]
  exact pin

/-- An error that strikes another burst leaves a sound one sound. -/
theorem Sound.struck {d : Dev} {u v : Nat} (h : Sound d v) (hv : v ≠ u) (hard : Bool) (p : Nat) : Sound (strikeBurst d u hard p) v := by
  obtain ⟨upset, unmarked, pin⟩ := h
  unfold strikeBurst
  dsimp only
  split
  · exact ⟨upset, unmarked, pin⟩
  generalize (hard || (tabGet none d.upsets u).isSome || _) = beyond
  split
  · exact ⟨by dsimp only; rw [tabGet_tabSet_other _ _ _ hv, upset], by dsimp only; rw [tabGet_tabSet_other _ _ _ hv, unmarked], pin⟩
  · exact ⟨by dsimp only; rw [tabGet_tabSet_other _ _ _ hv, upset], unmarked, pin⟩

/-! ## HBM_SCRUB (R306) -/

theorem hbmScrub_paused {d : Dev} {k pc slot : Nat} {errs : List (Nat × CellErr)}
    (h : ¬((d.stack k).state = .ready ∧ (d.stack k).scrub = true ∧ (d.stack k).level < 2 ∧ slot < slotsPerPc d)) : hbmScrub d k pc slot errs = d := by
  unfold hbmScrub
  refine if_pos ?_
  by_contra runs
  simp only [Bool.or_eq_true, Bool.not_eq_true', beq_eq_false_iff_ne, decide_eq_true_eq, not_or, not_not, Bool.not_eq_false, not_le] at runs
  obtain ⟨⟨⟨state, scrub⟩, level⟩, inside⟩ := runs
  exact h ⟨state, scrub, level, inside⟩

/-- Stack `k` scrubs slot `slot`. -/
structure Scrubs (d : Dev) (k pc slot : Nat) : Prop where
  state : (d.stack k).state = .ready
  scrub : (d.stack k).scrub = true
  level : (d.stack k).level < 2
  slot_lt : slot < slotsPerPc d
  pc_lt : pc < 64

/-- What a scrub of a slot reads, burst by burst. -/
def readSlot (d : Dev) (k pc slot : Nat) : Dev := (List.range 64).foldl (fun d b => meetUnit d (burstAt k pc slot b)) d

/-- A scrub as its three parts: the errors that have struck, the reads, and what is written back. -/
theorem hbmScrub_runs {d : Dev} {k pc slot : Nat} (h : Scrubs d k pc slot) (errs : List (Nat × CellErr)) : hbmScrub d k pc slot errs =
    healBursts (readSlot (errs.foldl (fun d e => if e.1 < 64 then plantErr d (burstAt k pc slot e.1) e.2 else d) d) k pc slot)
      (fun u => u / 64 == slotUnit k pc slot / 64) := by
  have guard : ¬ (!((d.stack k).state == .ready) || !(d.stack k).scrub || decide (2 ≤ (d.stack k).level) || decide (slotsPerPc d ≤ slot)) = true := by
    simp [h.state, h.scrub, Nat.not_le.mpr h.level, Nat.not_le.mpr h.slot_lt]
  unfold hbmScrub
  exact if_neg guard

theorem Scrubs.slot_place {d : Dev} {k pc slot : Nat} (h : Scrubs d k pc slot) : slot < 294912 := by
  have := h.slot_lt
  unfold slotsPerPc at this
  split at this <;> omega

theorem meetUnits_sound {d : Dev} {k pc slot : Nat} : ∀ {l : List Nat}, (∀ i ∈ l, Sound d (burstAt k pc slot i)) →
    l.foldl (fun d b => meetUnit d (burstAt k pc slot b)) d = d
  | [], _ => rfl
  | i :: l, h => by
    obtain ⟨hi, hl⟩ := List.forall_mem_cons.mp h
    rw [List.foldl_cons, hi.meets, meetUnits_sound hl]

theorem readSlot_sound {d : Dev} {k pc slot : Nat} (h : ∀ i, i < 64 → Sound d (burstAt k pc slot i)) : readSlot d k pc slot = d :=
  meetUnits_sound fun i hi => h i (List.mem_range.mp hi)

/-- A slot with at most one burst that is not sound reads as that burst does. -/
theorem readSlot_one {d : Dev} {k pc slot b : Nat} (hb : b < 64) (sound : ∀ i, i < 64 → i ≠ b → Sound d (burstAt k pc slot i)) :
    readSlot d k pc slot = meetUnit d (burstAt k pc slot b) := by
  obtain ⟨l, r, split⟩ := List.append_of_mem (List.mem_range.mpr hb)
  have once : (l ++ b :: r).Nodup := split ▸ List.nodup_range
  have inside {i : Nat} (hi : i ∈ l ++ b :: r) : i < 64 := List.mem_range.mp (split ▸ hi)
  obtain ⟨-, right, apart⟩ := List.nodup_append.mp once
  have left (i : Nat) (hi : i ∈ l) : Sound d (burstAt k pc slot i) :=
    sound i (inside (List.mem_append_left _ hi)) (apart i hi b List.mem_cons_self)
  have rest (i : Nat) (hi : i ∈ r) : Sound (meetUnit d (burstAt k pc slot b)) (burstAt k pc slot i) := by
    have hib : i ≠ b := fun h => (List.nodup_cons.mp right).1 (h ▸ hi)
    exact (sound i (inside (List.mem_append_right _ (List.mem_cons_of_mem _ hi))) hib).met (mt burstAt_inj.mp hib)
  rw [readSlot, split, List.foldl_append, meetUnits_sound left, List.foldl_cons, meetUnits_sound rest]

/-! ## What each scrub leaves (R304, R306, R307) -/

theorem sound_burstAt {d : Dev} {k pc slot i : Nat} (hpc : pc < 64) (hslot : slot < 294912) (hi : i < 64)
    (upset : tabGet none d.upsets (burstAt k pc slot i) = none) (unmarked : tabGet false d.poison (burstAt k pc slot i) = false)
    (pin : tabGet none (d.stack k).deadPins pc = none) : Sound d (burstAt k pc slot i) := by
  obtain ⟨stack, channel, -, -⟩ := burstAt_place k hpc hslot hi
  exact ⟨upset, unmarked, by rw [stack, channel, pin]⟩

/-- From `d` to `e` the scrub has left stack `k` as `y`, and every error that it did not find stands as before. -/
def Scrubbed (d : Dev) (k : Nat) (y : Stack) (e : Dev) : Prop :=
  e.stack k = y ∧ (∀ j, j ≠ k → e.stack j = d.stack j) ∧ (∀ u, tabGet none e.upsets u = tabGet none d.upsets u)
  ∧ e = { d with hbm := e.hbm, upsets := e.upsets }

section Slot

variable {d : Dev} {k pc slot : Nat} (quiet : ∀ i, i < 64 → tabGet none d.upsets (burstAt k pc slot i) = none)
include quiet

/-- What is written back heals the correctable errors that the slot's bursts had, and no other. -/
theorem healSlot_restores {m : Dev} (wf : tabWf none m.upsets = true) (struck : ∀ u, tabGet none m.upsets u = tabGet none d.upsets u
      ∨ ∃ i q, i < 64 ∧ u = burstAt k pc slot i ∧ tabGet none m.upsets u = some (.correctable q)) (u : Nat) :
    tabGet none (healBursts m (fun u => u / 64 == slotUnit k pc slot / 64)).upsets u = tabGet none d.upsets u := by
  rcases struck u with same | ⟨i, q, hi, rfl, soft⟩
  · by_cases hp : u / 64 = slotUnit k pc slot / 64
    · have none_ : tabGet none d.upsets u = none := by
        rw [eq_burstAt hp]
        exact quiet _ (Nat.mod_lt u (by decide))
      rw [healBursts_keeps wf (.inr fun q => by rw [same, none_]; exact nofun), same]
    · rw [healBursts_keeps (p := fun u => u / 64 == slotUnit k pc slot / 64) wf (.inl (beq_eq_false_iff_ne.mpr hp)), same]
  · have inside : burstAt k pc slot i / 64 = slotUnit k pc slot / 64 := by
      unfold burstAt slotUnit
      omega
    rw [healBursts_heals (p := fun u => u / 64 == slotUnit k pc slot / 64) wf (beq_iff_eq.mpr inside) soft, quiet i hi]

theorem scrubbed_of_read {m : Dev} {y : Stack} (stack : m.stack k = y) (others : ∀ j, j ≠ k → m.stack j = d.stack j)
    (only : m = { d with hbm := m.hbm, upsets := m.upsets }) (wf : tabWf none m.upsets = true) (struck : ∀ u, tabGet none m.upsets u = tabGet none d.upsets u
      ∨ ∃ i q, i < 64 ∧ u = burstAt k pc slot i ∧ tabGet none m.upsets u = some (.correctable q)) :
    Scrubbed d k y (healBursts m (fun u => u / 64 == slotUnit k pc slot / 64)) := by
  refine ⟨stack, others, healSlot_restores quiet wf struck, ?_⟩
  unfold healBursts
  rw [only]

end Slot

/-- A stack whose row has its first correctable error (R304, R307). -/
def Stack.correctedOnce (x : Stack) (pc slot b position : Nat) : Stack :=
  { x with
    ceSeen := true, ceCount := sat16 x.ceCount, lastErr := x.lastErr.after pc slot b position 1
    rows := ((rowAt pc slot, 1) :: x.rows.filter (fun q => !(q.1 == rowAt pc slot))).take 1024 }

/-- A stack that has found an uncorrectable error (R304). -/
def Stack.foundFirst (x : Stack) (pc slot b position : Nat) : Stack :=
  { x with ueSeen := true, ueCount := sat16 x.ueCount, lastErr := x.lastErr.after pc slot b position 2 }

section Met

variable {d : Dev} {k pc slot b q : Nat} (hpc : pc < 64) (hslot : slot < 294912) (hb : b < 64)
include hpc hslot hb

theorem meetUnit_marked (found : burstFound d (burstAt k pc slot b) = .marked) :
    meetUnit d (burstAt k pc slot b) = d.setStack k { d.stack k with lastErr := (d.stack k).lastErr.after pc slot b 0 3 } := by
  obtain ⟨stack, channel, place, burst⟩ := burstAt_place k hpc hslot hb
  unfold meetUnit
  rw [found, stack, channel, place, burst]
  exact congrArg (d.setStack k) (capture_eq _ _ _ _ _ _)

/-- The read of a correctable error in a row that the stack does not track. -/
theorem meetUnit_corrected (found : burstFound d (burstAt k pc slot b) = .corrected q) (rowfix : d.str.pinsafe = false)
    (fresh : ((d.stack k).rows.find? (fun q => q.1 == rowAt pc slot)).map (·.2) = none) (below : 1 < rowThreshold (d.stack k)) :
    let e := meetUnit d (burstAt k pc slot b)
    e.stack k = (d.stack k).correctedOnce pc slot b q ∧ (∀ j, j ≠ k → e.stack j = d.stack j) ∧ e = { d with hbm := e.hbm } := by
  obtain ⟨stack, channel, place, burst⟩ := burstAt_place k hpc hslot hb
  obtain ⟨x, hx, meets⟩ : ∃ x : Stack, x = { d.stack k with ceSeen := true, ceCount := sat16 (d.stack k).ceCount, lastErr := (d.stack k).lastErr.after pc slot b q 1 }
      ∧ meetUnit d (burstAt k pc slot b) = countRow (d.setStack k x) k (rowAt pc slot) false := by
    refine ⟨_, rfl, ?_⟩
    unfold meetUnit countSymbol
    rw [found, stack, channel, place, burst]
    dsimp only
    rw [rowfix, capture_eq]
    rfl
  have self := Dev.stack_setStack_self d k x
  dsimp only
  rw [meets, countRow_begins (d := d.setStack k x) rowfix (by rw [self, hx]; exact fresh) (by rw [self, hx]; exact below), self]
  refine ⟨?_, fun j hj => ?_, rfl⟩
  · rw [Dev.stack_setStack_self, hx]
    rfl
  · rw [Dev.stack_setStack, if_neg hj, Dev.stack_setStack, if_neg hj]

/-- The read that is the first to find an uncorrectable error. -/
theorem meetUnit_first (found : burstFound d (burstAt k pc slot b) = .first q) : ∃ m, m = markedAt d (burstAt k pc slot b) none
    ∧ meetUnit d (burstAt k pc slot b) = countRow (m.setStack k ((d.stack k).foundFirst pc slot b (if d.str.pinsafe then 0 else q))) k (rowAt pc slot) true := by
  obtain ⟨stack, channel, place, burst⟩ := burstAt_place k hpc hslot hb
  refine ⟨_, rfl, ?_⟩
  unfold meetUnit
  rw [found, stack, channel, place, burst]
  dsimp only
  rw [capture_eq]
  rfl

end Met

section Scrub

variable {d : Dev} {k pc slot b : Nat} (h : Scrubs d k pc slot) (wf : tabWf none d.upsets = true)
include h wf

theorem hbmScrub_sound (sound : ∀ i, i < 64 → Sound d (burstAt k pc slot i)) : Scrubbed d k (d.stack k) (hbmScrub d k pc slot []) := by
  rw [hbmScrub_runs h, List.foldl_nil, readSlot_sound sound]
  exact scrubbed_of_read (fun i hi => (sound i hi).upset) rfl (fun _ _ => rfl) rfl wf fun _ => .inl rfl

/-- The scrub of a slot with one marked burst captures it and counts nothing. -/
theorem hbmScrub_marked (hb : b < 64) (quiet : ∀ i, i < 64 → tabGet none d.upsets (burstAt k pc slot i) = none)
    (marked : ∀ i, i < 64 → (tabGet false d.poison (burstAt k pc slot i) = true ↔ i = b)) (pin : tabGet none (d.stack k).deadPins pc = none) :
    Scrubbed d k { d.stack k with lastErr := (d.stack k).lastErr.after pc slot b 0 3 } (hbmScrub d k pc slot []) := by
  have sound (i : Nat) (hi : i < 64) (hib : i ≠ b) : Sound d (burstAt k pc slot i) :=
    sound_burstAt h.pc_lt h.slot_place hi (quiet i hi) (Bool.eq_false_iff.mpr fun hm => hib ((marked i hi).mp hm)) pin
  have meets := meetUnit_marked h.pc_lt h.slot_place hb (burstFound_marked (quiet b hb) ((marked b hb).mpr rfl))
  rw [hbmScrub_runs h, List.foldl_nil, readSlot_one hb sound, meets]
  exact scrubbed_of_read quiet (Dev.stack_setStack_self d k _) (fun j hj => by rw [Dev.stack_setStack, if_neg hj]) rfl wf fun _ => .inl rfl

variable (hb : b < 64) (sound : ∀ i, i < 64 → Sound d (burstAt k pc slot i))
include hb sound

omit wf in
/-- An error that strikes one burst of a sound slot is all that its scrub finds. -/
theorem hbmScrub_struck {err : CellErr} {hard : Bool} {p : Nat} (herr : ∀ d u, plantErr d u err = strikeBurst d u hard p) : hbmScrub d k pc slot [(b, err)]
    = healBursts (meetUnit (strikeBurst d (burstAt k pc slot b) hard p) (burstAt k pc slot b)) (fun u => u / 64 == slotUnit k pc slot / 64) := by
  rw [hbmScrub_runs h, List.foldl_cons, List.foldl_nil, if_pos hb, herr,
    readSlot_one hb fun i hi hib => (sound i hi).struck (mt burstAt_inj.mp hib) hard p]

/-- The first correctable error of a row is counted, captured, and written back corrected. -/
theorem hbmScrub_correctable (rowfix : d.str.pinsafe = false)
    (fresh : ((d.stack k).rows.find? (fun q => q.1 == rowAt pc slot)).map (·.2) = none) (below : 1 < rowThreshold (d.stack k)) (p : Nat) :
    Scrubbed d k ((d.stack k).correctedOnce pc slot b (p % 2)) (hbmScrub d k pc slot [(b, .correctable p)]) := by
  have here := sound b hb
  rw [hbmScrub_struck h hb sound (hard := false) (p := p) (fun _ _ => rfl), strikeBurst_soft here rowfix]
  generalize hd : ({ d with upsets := tabSet none d.upsets (burstAt k pc slot b) (some (.correctable (p % 2))) } : Dev) = d'
  have upset (u : Nat) : tabGet none d'.upsets u = if u = burstAt k pc slot b then some (.correctable (p % 2)) else tabGet none d.upsets u := by
    rw [← hd]
    exact tabGet_tabSet none d.upsets (burstAt k pc slot b) u (some (.correctable (p % 2)))
  have found : burstFound d' (burstAt k pc slot b) = .corrected (p % 2) :=
    burstFound_corrected ((upset _).trans (if_pos rfl)) (by rw [← hd]; exact here.unmarked) (by rw [← hd]; exact here.pin)
  obtain ⟨self, others, only⟩ := meetUnit_corrected h.pc_lt h.slot_place hb found (by rw [← hd]; exact rowfix) (by rw [← hd]; exact fresh) (by rw [← hd]; exact below)
  generalize meetUnit d' (burstAt k pc slot b) = m at *
  have upsets : m.upsets = d'.upsets := by rw [only]
  refine scrubbed_of_read (fun i hi => (sound i hi).upset) ?_ (fun j hj => ?_) ?_ ?_ fun u => ?_
  · rw [self, ← hd]
    rfl
  · rw [others j hj, ← hd]
    rfl
  · rw [only, ← hd]
  · rw [upsets, ← hd]
    exact tabWf_tabSet none (burstAt k pc slot b) (some (.correctable (p % 2))) wf
  · rw [upsets, upset]
    split
    · next hu => exact .inr ⟨b, _, hb, hu, rfl⟩
    · exact .inl rfl

/-- An uncorrectable error is counted once, captured and marked in place; in ROWFIX its row is recorded for hard repair. -/
theorem hbmScrub_uncorrectable (p : Nat) : let e := hbmScrub d k pc slot [(b, .uncorrectable p)]
    ((e.stack k).ueSeen = true ∧ (e.stack k).ueCount = sat16 (d.stack k).ueCount
      ∧ (e.stack k).lastErr = (d.stack k).lastErr.after pc slot b (if d.str.pinsafe then 0 else p % 2) 2)
    ∧ (∀ u, tabGet false e.poison u = if u = burstAt k pc slot b then true else tabGet false d.poison u)
    ∧ (∀ u, tabGet none e.upsets u = tabGet none d.upsets u) ∧ (∀ j, j ≠ k → e.stack j = d.stack j)
    ∧ e = { d with hbm := e.hbm, poison := e.poison, upsets := e.upsets, repairsDue := e.repairsDue }
    ∧ e.repairsDue = if d.str.pinsafe = true then d.repairsDue
      else if (tabGet [] d.repairsDue k).contains (rowAt pc slot) then d.repairsDue else tabSet [] d.repairsDue k (tabGet [] d.repairsDue k ++ [rowAt pc slot]) := by
  have here := sound b hb
  dsimp only
  rw [hbmScrub_struck h hb sound (hard := true) (p := p) (fun _ _ => rfl), strikeBurst_hard here.unmarked]
  generalize hq : p % (if d.str.pinsafe then 35 else 2) = q
  have position : (if d.str.pinsafe then 0 else q) = if d.str.pinsafe then 0 else p % 2 := by
    rw [← hq]
    split <;> rfl
  have found : burstFound (markedAt d (burstAt k pc slot b) (some (.uncorrectable q))) (burstAt k pc slot b) = .first q :=
    burstFound_first ((markedAt_upsets _ _ _ _).trans (if_pos rfl))
  obtain ⟨m, hm, meets⟩ := meetUnit_first h.pc_lt h.slot_place hb found
  have upsets (u : Nat) : tabGet none m.upsets u = tabGet none d.upsets u := by
    rw [hm, markedAt_upsets, markedAt_upsets]
    split
    · next hu => rw [hu, here.upset]
    · rfl
  have poison (u : Nat) : tabGet false m.poison u = if u = burstAt k pc slot b then true else tabGet false d.poison u := by
    rw [hm, markedAt_poison, markedAt_poison]
    split <;> rfl
  have wfm : tabWf none m.upsets = true := hm ▸ markedAt_wf (markedAt_wf wf _ _) _ _
  have unchanged : m = { d with poison := m.poison, upsets := m.upsets } := by rw [hm]; rfl
  have stack (j : Nat) : m.stack j = d.stack j := by rw [hm]; rfl
  generalize hx : (d.stack k).foundFirst pc slot b (if d.str.pinsafe then 0 else q) = x
  have meets : meetUnit (markedAt d (burstAt k pc slot b) (some (.uncorrectable q))) (burstAt k pc slot b) = countRow (m.setStack k x) k (rowAt pc slot) true :=
    hx ▸ meets
  have due := countRow_whole_due (m.setStack k x) k (rowAt pc slot)
  rw [meets]
  obtain ⟨only, others, y, counted⟩ := countRow_counts (m.setStack k x) k (rowAt pc slot) true
  generalize countRow (m.setStack k x) k (rowAt pc slot) true = e at *
  have upsetsOf : e.upsets = m.upsets := by rw [only]; rfl
  have poisonOf : e.poison = m.poison := by rw [only]; rfl
  refine ⟨?_, fun u => ?_, healSlot_restores (fun i hi => (sound i hi).upset) (upsetsOf ▸ wfm) (fun u => .inl (upsetsOf ▸ upsets u)), fun j hj => ?_, ?_, ?_⟩
  · change (e.stack k).ueSeen = true ∧ (e.stack k).ueCount = _ ∧ (e.stack k).lastErr = _
    rw [counted, Dev.stack_setStack_self, ← hx, ← position]
    exact ⟨rfl, rfl, rfl⟩
  · rw [← poison u, ← poisonOf]
    rfl
  · refine (others j hj).trans ?_
    rw [Dev.stack_setStack, if_neg hj, stack]
  · have marked : e = { d with hbm := e.hbm, poison := e.poison, upsets := e.upsets, repairsDue := e.repairsDue } := by
      rw [only, unchanged]
      rfl
    unfold healBursts
    rw [marked]
  · change e.repairsDue = _
    rw [due, unchanged]
    rfl

end Scrub

end Sys2Proof.Machine
end

section
/-! PROOFS. HBM stacks: remaps, retraining and training (spec/12_hbm.md R307 to R311). -/

namespace Sys2Proof.Machine

/-! ## Hold queues (R311) -/

/-- With no tensor mover's piece waiting, what a hold no longer holds leaves the queue and nothing else changes. -/
theorem releaseHold_idle {d : Dev} {s : Nat} (pieces : ∀ h ∈ (d.stack s).hold, h.piece = none)
    (movers : ∀ c, c < 144 → (d.core c).tm.all (fun t => t.todo.isEmpty) = true) :
    releaseHold d s = d.setStack s { d.stack s with hold := (d.stack s).hold.filter (fun h => cellHeld d h.cell) } := by
  unfold releaseHold
  extract_lets x freed e f
  have noPieces : f = e := by
    refine List.foldlRecOn (motive := (· = e)) freed _ rfl fun g hg h hh => ?_
    rw [pieces h (List.mem_filter.mp hh).1]
    exact hg
  have noMovers : (List.range 144).filter (fun c => (e.core c).tm.any (fun t => !t.todo.isEmpty)) = [] := by
    refine List.filter_eq_nil_iff.mpr fun c hc => ?_
    have idle : (e.core c).tm.all (fun t => t.todo.isEmpty) = true := movers c (List.mem_range.mp hc)
    simpa using idle
  rw [noPieces, noMovers]
  rfl

/-! ## Remaps (R307, R311) -/

theorem startRemap_spare (d : Dev) (x : Stack) (r : Row) : tabGet 0 (startRemap d x r).sparesUsed r.pc = tabGet 0 x.sparesUsed r.pc + 1 :=
  tabGet_tabSet_self 0 x.sparesUsed r.pc (tabGet 0 x.sparesUsed r.pc + 1)

theorem startRemap_noted (d : Dev) (x : Stack) (r : Row) : tabGet 0 (startRemap d x r).lastRemap r.pc = d.clp.elapsed + 1 :=
  tabGet_tabSet_self 0 x.lastRemap r.pc (d.clp.elapsed + 1)

theorem startRemap_leaves (d : Dev) (x : Stack) (r : Row) : r ∉ (startRemap d x r).remapQueue := by simp [startRemap]

theorem hbmRemapStart_starts {d : Dev} {k pc : Nat} {r : Row} (first : (d.stack k).remapQueue.find? (fun r => r.pc == pc) = some r)
    (ready : (d.stack k).state = .ready) (spaced : remapAllowed d (d.stack k) pc = true) :
    hbmRemapStart d k pc = d.setStack k (startRemap d (d.stack k) r) := by
  unfold hbmRemapStart
  simp [first, ready, spaced]

theorem hbmRemapStart_waits {d : Dev} {k pc : Nat} (h : (d.stack k).remapQueue.find? (fun r => r.pc == pc) = none
    ∨ remapAllowed d (d.stack k) pc = false ∨ (d.stack k).state ≠ .ready) : hbmRemapStart d k pc = d := by
  unfold hbmRemapStart
  dsimp only
  split
  · rfl
  · next r hr =>
    refine if_neg ?_
    rcases h with h | h | h
    · exact nomatch hr.symm.trans h
    · simp [h]
    · simp [h]

/-- Stack `x` without the remaps of pseudo-channel `pc`. -/
def Stack.remapped (x : Stack) (pc : Nat) : Stack := { x with remapping := x.remapping.filter (fun r => !(r.pc == pc)) }

/-- The bursts of stack `k` in the rows that pseudo-channel `pc` remaps. -/
def remapCopied (d : Dev) (k pc u : Nat) : Bool :=
  stackOfCell (64 * u) == k && ((d.stack k).remapping.filter (fun r => r.pc == pc)).contains (rowAt (pcOfCell (64 * u)) (u / 64 % 294912))

theorem remapCopied_iff {d : Dev} {k pc u : Nat} : remapCopied d k pc u = true ↔ stackOfCell (64 * u) = k
    ∧ (rowAt (pcOfCell (64 * u)) (u / 64 % 294912)).pc = pc ∧ rowAt (pcOfCell (64 * u)) (u / 64 % 294912) ∈ (d.stack k).remapping := by
  simp only [remapCopied, Bool.and_eq_true, beq_iff_eq, List.contains_iff_mem, List.mem_filter, and_comm (a := _ ∈ _)]

theorem hbmRemapDone_eq (d : Dev) (k pc : Nat) :
    hbmRemapDone d k pc = releaseHold ((healBursts d (remapCopied d k pc)).setStack k ((d.stack k).remapped pc)) k := rfl

/-! ## Retraining (R311) -/

/-- Pseudo-channel `pc` began what `t` records less than 10 ms ago. -/
def withinTenMs (d : Dev) (t : Tab Nat) (pc : Nat) : Bool := !(tabGet 0 t pc == 0) && decide (d.clp.elapsed + 1 - tabGet 0 t pc < tenMs d)

section Retrain

variable {d : Dev} {k pc : Nat} {forced : Bool}

theorem hbmRetrainStart_starts (ready : (d.stack k).state = .ready) (alone : (d.stack k).retrainPc = none)
    (due : forced = true ∨ (withinTenMs d (d.stack k).lastRetrain pc = false ∧ withinTenMs d (d.stack k).lastRemap pc = false)) :
    hbmRetrainStart d k pc forced = d.setStack k { d.stack k with
      retrainPc := some pc, retrains := sat16 (d.stack k).retrains
      retrainsEarly := if withinTenMs d (d.stack k).lastRetrain pc then sat16 (d.stack k).retrainsEarly else (d.stack k).retrainsEarly
      lastRetrain := tabSet 0 (d.stack k).lastRetrain pc (d.clp.elapsed + 1) } := by
  refine if_neg ?_
  change ¬(!((d.stack k).state == .ready) || (d.stack k).retrainPc.isSome
    || (!forced && (withinTenMs d (d.stack k).lastRetrain pc || withinTenMs d (d.stack k).lastRemap pc))) = true
  rcases due with due | ⟨early, close⟩
  · simp [ready, alone, due]
  · simp [ready, alone, early, close]

theorem hbmRetrainStart_waits (h : (d.stack k).state ≠ .ready ∨ (d.stack k).retrainPc.isSome = true
    ∨ (forced = false ∧ (withinTenMs d (d.stack k).lastRetrain pc = true ∨ withinTenMs d (d.stack k).lastRemap pc = true))) :
    hbmRetrainStart d k pc forced = d := by
  refine if_pos ?_
  change (!((d.stack k).state == .ready) || (d.stack k).retrainPc.isSome
    || (!forced && (withinTenMs d (d.stack k).lastRetrain pc || withinTenMs d (d.stack k).lastRemap pc))) = true
  rcases h with h | h | ⟨free, h | h⟩
  · simp [h]
  · simp [h]
  · simp [free, h]
  · simp [free, h]

end Retrain

/-! ## Training (R308 to R310) -/

/-- A stack of a group that starts to train. -/
def Stack.begun (x : Stack) : Stack := if x.state == .off then { x with state := .training } else x

theorem foldl_modStack {f : Stack → Stack} (j : Nat) : ∀ {l : List Nat} (d : Dev), l.Nodup →
    (l.foldl (fun d k => d.modStack k f) d).stack j = if j ∈ l then f (d.stack j) else d.stack j
  | [], _, _ => rfl
  | k :: l, d, once => by
    obtain ⟨hk, once⟩ := List.nodup_cons.mp once
    rw [List.foldl_cons, foldl_modStack j _ once, Dev.modStack_eq, Dev.stack_setStack]
    by_cases hj : j = k
    · simp [hj, hk]
    · simp [hj]

theorem hbmTrainGroupStart_trains {d : Dev} {g : Nat} (h : d.sys.state = .boot ∨ d.sys.state = .train) :
    (∀ j, (hbmTrainGroupStart d g).stack j = if j / 4 = g ∧ (d.stack j).state = .off then { d.stack j with state := .training } else d.stack j)
    ∧ hbmTrainGroupStart d g = { d with hbm := (hbmTrainGroupStart d g).hbm } := by
  have starts : hbmTrainGroupStart d g = [4 * g, 4 * g + 1, 4 * g + 2, 4 * g + 3].foldl (fun d k => d.modStack k Stack.begun) d := by
    refine if_neg ?_
    rcases h with h | h <;> simp [h]
  have group (j : Nat) : j ∈ [4 * g, 4 * g + 1, 4 * g + 2, 4 * g + 3] ↔ j / 4 = g := by
    simp only [List.mem_cons, List.not_mem_nil, or_false]
    omega
  have step (e : Dev) (k : Nat) : e.modStack k Stack.begun = { e with hbm := (e.modStack k Stack.begun).hbm } := by rfl
  rw [starts]
  refine ⟨fun j => ?_, foldl_keeps (R := fun d e : Dev => e = { d with hbm := e.hbm }) (fun _ => rfl) (fun h k => by rw [k, h]) step _ d⟩
  rw [foldl_modStack j d (by simp), if_congr (group j) rfl rfl, ite_and, Stack.begun]
  simp only [beq_iff_eq]

/-- What one recorded row brings: a hard repair, a spare, or a record that stays. -/
def repairRow (free : Nat) (acc : Tab Nat × List Row × Nat) (e : Row × Nat) : Tab Nat × List Row × Nat :=
  if Config.repairTaken (free + e.2) then (acc.1, acc.2.1, acc.2.2 + 1)
  else if tabGet 0 acc.1 e.1.pc < 16 then (tabSet 0 acc.1 e.1.pc (tabGet 0 acc.1 e.1.pc + 1), acc.2.1, acc.2.2)
  else (acc.1, acc.2.1 ++ [e.1], acc.2.2)

theorem applyRepairs_eq (free : Nat) (l : List Row) : applyRepairs free l = l.zipIdx.foldl (repairRow free) ([], [], 0) := rfl

/-- A stack with the resources for every record applies them all and keeps none. -/
theorem applyRepairs_taken {free : Nat} {l : List Row} (h : ∀ i, i < l.length → Config.repairTaken (free + i) = true) :
    applyRepairs free l = ([], [], l.length) := by
  suffices H : ∀ (l : List Row) (n m : Nat), (∀ i, i < l.length → Config.repairTaken (free + (n + i)) = true) →
      (l.zipIdx n).foldl (repairRow free) ([], [], m) = ([], [], m + l.length) by
    rw [applyRepairs_eq, H l 0 0 fun i hi => by rw [Nat.zero_add]; exact h i hi, Nat.zero_add]
  intro l
  induction l with
  | nil => exact fun _ _ _ => rfl
  | cons r l ih =>
    intro n m taken
    have first : repairRow free ([], [], m) (r, n) = ([], [], m + 1) := if_pos (taken 0 (Nat.zero_lt_succ _))
    have rest (i : Nat) (hi : i < l.length) : Config.repairTaken (free + (n + 1 + i)) = true := by
      have := taken (i + 1) (Nat.succ_lt_succ hi)
      rwa [Nat.add_comm i 1, ← Nat.add_assoc n 1 i] at this
    rw [List.zipIdx_cons, List.foldl_cons, first, ih (n + 1) (m + 1) rest, List.length_cons, Nat.add_right_comm, Nat.add_assoc]

theorem hbmTrainDone_idle {d : Dev} {k : Nat} (h : (d.stack k).state ≠ .training) (nv : Nv) (ok : Bool) : hbmTrainDone nv d k ok = (nv, d) := by
  unfold hbmTrainDone
  exact if_pos (by simp [h])

/-- The device after a stack of `d` has trained: its records have gone to the flash, which leaves `f` and `l` there (R303, R308). -/
def trainedDev (d f : Dev) (k : Nat) (l : List Row) : Dev :=
  { f with
    mem := tabDrop d.mem (64 * k * 294912 * 4096) (64 * (k + 1) * 294912 * 4096)
    poison := tabDrop d.poison (64 * k * 294912 * 4096 / 64) (64 * (k + 1) * 294912 * 4096 / 64)
    upsets := tabDrop d.upsets (64 * k * 294912 * 4096 / 64) (64 * (k + 1) * 294912 * 4096 / 64)
    free := f.free + l.length
    hbm := tabSet {} f.hbm k { f.stack k with state := .ready, applied := BitVec.ofNat 16 (applyRepairs f.free l).2.2, attempts := 0, sparesUsed := (applyRepairs f.free l).1 } }

theorem hbmTrainDone_trains {d : Dev} {k : Nat} (h : (d.stack k).state = .training) (nv : Nv) : hbmTrainDone nv d k true =
    ({ (flushStack (nv, d) k).1 with
        repairs := tabSet [] (flushStack (nv, d) k).1.repairs k (applyRepairs (flushStack (nv, d) k).2.free (tabGet [] (flushStack (nv, d) k).1.repairs k)).2.1 },
      trainedDev d (flushStack (nv, d) k).2 k (tabGet [] (flushStack (nv, d) k).1.repairs k)) := by
  have trains : ¬(!((d.stack k).state == .training)) = true := by simp [h]
  exact if_neg trains

theorem flushStack_none {nv : Nv} {d : Dev} {k : Nat} (h : tabGet [] d.repairsDue k = []) :
    flushStack (nv, d) k = (nv, { d with repairsDue := tabSet [] d.repairsDue k [] }) := by
  rw [flushStack_eq]
  dsimp only
  rw [h]
  rfl

theorem hbmTrainDone_fails {d : Dev} {k : Nat} (h : (d.stack k).state = .training) (nv : Nv) : hbmTrainDone nv d k false =
    (nv, d.setStack k { d.stack k with attempts := (d.stack k).attempts + 1, state := if 3 ≤ (d.stack k).attempts + 1 then .failed else .training }) := by
  unfold hbmTrainDone
  exact if_neg (by simp [h])

/-! ## The rows -/

section Rows

variable {s : State} {k pc : Nat} (hs : asleep s.dev = false) (hk : k < 12)
include hs hk

section Channel

variable (hpc : pc < 64)
include hpc

theorem exec_hbmScrub {slot : Nat} (hslot : slot < 294912) (errs : List (Nat × CellErr)) :
    exec (.hbmScrub k pc slot errs) s = .next { s with dev := hbmScrub s.dev k pc slot errs } :=
  onDev_next (f := fun _ d => hbmScrub d k pc slot errs) (by simp [is12, isPc, hk, hpc, hslot]) hs

theorem exec_hbmRemapStart : exec (.hbmRemapStart k pc) s = .next { s with dev := hbmRemapStart s.dev k pc } :=
  onDev_next (f := fun _ d => hbmRemapStart d k pc) (by simp [is12, isPc, hk, hpc]) hs

theorem exec_hbmRemapDone : exec (.hbmRemapDone k pc) s = .next { s with dev := hbmRemapDone s.dev k pc } :=
  onDev_next (f := fun _ d => hbmRemapDone d k pc) (by simp [is12, isPc, hk, hpc]) hs

theorem exec_hbmRetrainStart (forced : Bool) : exec (.hbmRetrainStart k pc forced) s = .next { s with dev := hbmRetrainStart s.dev k pc forced } :=
  onDev_next (f := fun _ d => hbmRetrainStart d k pc forced) (by simp [is12, isPc, hk, hpc]) hs

end Channel

theorem exec_hbmRetrainDone : exec (.hbmRetrainDone k) s
    = .next { s with dev := releaseHold (s.dev.setStack k { s.dev.stack k with retrainPc := none }) k } :=
  onDev_next (f := fun _ d => releaseHold (d.modStack k (fun x => { x with retrainPc := none })) k) (by simp [is12, hk]) hs

theorem exec_hbmTrainDone (ok : Bool) : exec (.hbmTrainDone k ok) s
    = .next { s with nv := (hbmTrainDone s.nv s.dev k ok).1, dev := (hbmTrainDone s.nv s.dev k ok).2 } :=
  onBoth_next (f := fun nv d => hbmTrainDone nv d k ok) (by simp [is12, hk]) hs

omit hk in
theorem exec_hbmTrainGroupStart {g : Nat} (hg : g < 3) :
    exec (.hbmTrainGroupStart g) s = .next { s with dev := hbmTrainGroupStart s.dev g } :=
  onDev_next (f := fun _ d => hbmTrainGroupStart d g) (decide_eq_true hg) hs

end Rows

/-- From `d` to `d.setStack k y` stack `k` is `y`, and nothing else has changed. -/
theorem setStack_only (d : Dev) (k : Nat) (y : Stack) :
    (d.setStack k y).stack k = y ∧ (∀ j, j ≠ k → (d.setStack k y).stack j = d.stack j) ∧ d.setStack k y = { d with hbm := (d.setStack k y).hbm } :=
  ⟨Dev.stack_setStack_self d k y, fun j hj => by rw [Dev.stack_setStack, if_neg hj], rfl⟩

theorem scrubs_of {d : Dev} {k pc slot : Nat} (hpc : pc < 64)
    (h : (d.stack k).state = .ready ∧ (d.stack k).scrub = true ∧ (d.stack k).level < 2 ∧ slot < slotsPerPc d) : Scrubs d k pc slot := by
  obtain ⟨state, scrub, level, inside⟩ := h
  exact ⟨state, scrub, level, inside, hpc⟩

theorem Scrubs.sound {d : Dev} {k pc slot : Nat} (h : Scrubs d k pc slot)
    (clean : ∀ b, b < 64 → tabGet false d.poison (burstAt k pc slot b) = false ∧ tabGet none d.upsets (burstAt k pc slot b) = none)
    (pin : tabGet none (d.stack k).deadPins pc = none) (i : Nat) (hi : i < 64) : Sound d (burstAt k pc slot i) :=
  sound_burstAt h.pc_lt h.slot_place hi (clean i hi).2 (clean i hi).1 pin

section Release

variable {d : Dev} {k : Nat} {y : Stack} (movers : ∀ c, c < 144 → (d.core c).tm.all (fun t => t.todo.isEmpty) = true)
include movers

/-- A hold that ends with no piece of a mover in the queue. -/
theorem releaseHold_frees (pieces : ∀ h ∈ y.hold, h.piece = none) : releaseHold (d.setStack k y) k
    = (d.setStack k y).setStack k { y with hold := y.hold.filter (fun h => cellHeld (d.setStack k y) h.cell) } := by
  have self := Dev.stack_setStack_self d k y
  have idle := releaseHold_idle (d := d.setStack k y) (s := k) (by rw [self]; exact pieces) movers
  rwa [self] at idle

/-- A hold that ends with an empty queue. -/
theorem releaseHold_empty (empty : y.hold = []) : (releaseHold (d.setStack k y) k).stack k = y
    ∧ (∀ j, j ≠ k → (releaseHold (d.setStack k y) k).stack j = d.stack j)
    ∧ releaseHold (d.setStack k y) k = { d with hbm := (releaseHold (d.setStack k y) k).hbm } := by
  have same : ({ y with hold := y.hold.filter (fun h => cellHeld (d.setStack k y) h.cell) } : Stack) = y := by
    rw [empty, List.filter_nil, ← empty]
  rw [releaseHold_frees movers (by rw [empty]; exact nofun), same]
  exact ⟨Dev.stack_setStack_self _ _ _, fun j hj => by rw [Dev.stack_setStack, if_neg hj, Dev.stack_setStack, if_neg hj], rfl⟩

end Release

/-- The records of a stack that has trained have gone to the flash, and the stack is READY. -/
theorem hbmTrainDone_ready {d : Dev} {k : Nat} (h : (d.stack k).state = .training) (nv : Nv) :
    ((hbmTrainDone nv d k true).2.stack k).state = .ready ∧ tabGet [] (hbmTrainDone nv d k true).2.repairsDue k = [] := by
  obtain ⟨-, -, due⟩ := flushStack_flushed (nv, d) k
  rw [hbmTrainDone_trains h]
  refine ⟨?_, (due k).trans (if_pos rfl)⟩
  unfold trainedDev Dev.stack
  rw [tabGet_tabSet_self]

/-- Settles O46: a scrub reads its slot burst by burst (`readSlot_one`) and writes it back (`healSlot_restores`); remaps and retrains change their
stack and then release what they held (`releaseHold_frees`); a stack that has trained has its records repaired (`hbmTrainDone_trains`). What
strikes a burst, and the repair records and when they are written, are the model's choices (log entries 24 and 25). -/
theorem stacksScrubRepairAndTrain : Obligations.StacksScrubRepairAndTrain := by
  unfold Obligations.StacksScrubRepairAndTrain
  intro s k pc hs hk hpc d x Only cell scrubs plain ScrubsTo movers Frees shown
  have only {i : Instr} {y : Stack} (h : exec i s = .next { s with dev := d.setStack k y }) : Only i y := ⟨_, h, setStack_only d k y⟩
  have scrubsTo {slot : Nat} {errs : List (Nat × CellErr)} {y : Stack} (hslot : slot < 294912) (h : Scrubbed d k y (hbmScrub d k pc slot errs)) :
      ScrubsTo (.hbmScrub k pc slot errs) y := ⟨_, exec_hbmScrub hs hk hpc hslot errs, h⟩
  refine ⟨fun slot errs hslot idle => ?paused, fun slot hr hp => ?sound, fun slot b p hr hp hb rowfix fresh below => ?soft, fun slot b p hr hp hb => ?hard,
    fun slot b hr hb hm pin wf => ?marked, fun r first ready spaced => ?remaps, fun h => ?waits, ⟨_, exec_hbmRemapDone hs hk hpc⟩,
    fun idle pieces => ?remapFrees, fun idle empty wf => ?remapped, fun forced => ⟨fun ready alone due => ?retrains, fun h => ?tooSoon⟩,
    ⟨_, exec_hbmRetrainDone hs hk⟩, fun idle pieces => ?retrainFrees, fun idle empty => ?retrained, fun g hg boots => ?group,
    fun training => ⟨fun none_ => ?trained, ?ready, applyRepairs_taken, ?fails⟩, fun ok h => ?untrained⟩
  case paused =>
    refine (exec_hbmScrub hs hk hpc hslot errs).trans ?_
    rw [hbmScrub_paused idle]
  case sound =>
    have runs := scrubs_of hpc hr
    obtain ⟨clean, pin, wf⟩ := hp
    exact scrubsTo runs.slot_place (hbmScrub_sound runs wf (runs.sound clean pin))
  case soft =>
    have runs := scrubs_of hpc hr
    obtain ⟨clean, pin, wf⟩ := hp
    exact scrubsTo runs.slot_place (hbmScrub_correctable runs wf hb (runs.sound clean pin) rowfix fresh below p)
  case hard =>
    have runs := scrubs_of hpc hr
    obtain ⟨clean, pin, wf⟩ := hp
    obtain ⟨⟨seen, count, last⟩, poison, upsets, others, left, due⟩ := hbmScrub_uncorrectable runs wf hb (runs.sound clean pin) p
    exact ⟨_, exec_hbmScrub hs hk hpc runs.slot_place _, seen, count, last, (poison _).trans (if_pos rfl), fun u hu => (poison u).trans (if_neg hu),
      upsets, others, left, fun pinsafe => due.trans (if_pos pinsafe), fun rowfix => due.trans (if_neg (by rw [rowfix]; exact Bool.false_ne_true))⟩
  case marked =>
    have runs := scrubs_of hpc hr
    exact scrubsTo runs.slot_place (hbmScrub_marked runs wf hb (fun i hi => (hm i hi).2) (fun i hi => (hm i hi).1) pin)
  case remaps =>
    have channel : r.pc = pc := by simpa using List.find?_some first
    refine ⟨_, exec_hbmRemapStart hs hk hpc, ?_⟩
    rw [hbmRemapStart_starts first ready spaced]
    obtain ⟨self, others, rest⟩ := setStack_only d k (startRemap d x r)
    rw [self]
    subst channel
    exact ⟨rfl, rfl, startRemap_spare d x r, startRemap_leaves d x r, startRemap_noted d x r, others, rest⟩
  case waits =>
    refine (exec_hbmRemapStart hs hk hpc).trans ?_
    rw [hbmRemapStart_waits h]
  case remapFrees =>
    have frees := releaseHold_frees (d := healBursts d (remapCopied d k pc)) (k := k) (y := x.remapped pc) idle pieces
    exact ⟨_, exec_hbmRemapDone hs hk hpc, (congrArg (Dev.stack · k) frees).trans (Dev.stack_setStack_self _ k _)⟩
  case remapped =>
    obtain ⟨self, others, left⟩ := releaseHold_empty (d := healBursts d (remapCopied d k pc)) (k := k) (y := x.remapped pc) idle empty
    have upsets : (hbmRemapDone d k pc).upsets = (healBursts d (remapCopied d k pc)).upsets := by
      rw [hbmRemapDone_eq, left]
    refine ⟨_, exec_hbmRemapDone hs hk hpc, self, others, fun u => ⟨fun stack channel row ⟨p, soft⟩ => ?_, fun other => ?_⟩, ?_⟩
    · rw [upsets, healBursts_heals wf (remapCopied_iff.mpr ⟨stack, channel, row⟩) soft]
    · rw [upsets]
      refine healBursts_keeps wf (or_iff_not_imp_left.mpr fun copied p soft => ?_)
      obtain ⟨stack, channel, row⟩ := remapCopied_iff.mp (Bool.eq_true_of_not_eq_false copied)
      rcases other with h | h | h | h
      · exact h stack
      · exact h channel
      · exact h row
      · exact h p soft
    · rw [upsets]
      exact left
  case retrains =>
    refine only ((exec_hbmRetrainStart hs hk hpc forced).trans ?_)
    rw [hbmRetrainStart_starts ready alone due]
    rfl
  case tooSoon =>
    refine (exec_hbmRetrainStart hs hk hpc forced).trans ?_
    rw [hbmRetrainStart_waits h]
  case retrainFrees =>
    exact ⟨_, exec_hbmRetrainDone hs hk, (congrArg (Dev.stack · k) (releaseHold_frees idle pieces)).trans (Dev.stack_setStack_self _ k _)⟩
  case retrained => exact ⟨_, exec_hbmRetrainDone hs hk, releaseHold_empty idle empty⟩
  case group => exact ⟨_, exec_hbmTrainGroupStart hs hg, hbmTrainGroupStart_trains boots⟩
  case trained =>
    refine (exec_hbmTrainDone hs hk true).trans ?_
    rw [hbmTrainDone_trains training, flushStack_none none_]
    rfl
  case ready => exact ⟨_, exec_hbmTrainDone hs hk true, hbmTrainDone_ready training s.nv⟩
  case fails =>
    refine only ((exec_hbmTrainDone hs hk false).trans ?_)
    rw [hbmTrainDone_fails training]
  case untrained =>
    refine (exec_hbmTrainDone hs hk ok).trans ?_
    rw [hbmTrainDone_idle h]

end Sys2Proof.Machine
end

section
/-! PROOFS. Temperatures: the Weir's samples and the telemetry, the thermal stop and the trip (spec/12_hbm.md R313 to R316;
spec/17_faults_and_counters.md R455; spec/18_power_and_package.md R485, R491). -/

namespace Sys2Proof.Machine

/-! ## What a stop leaves alone (spec/17_faults_and_counters.md R455) -/

/-- From `d` to `e` engines have stopped: stacks, Weir, jobs, turns, supply and faults are as they were. -/
def EnginesStopped (d e : Dev) : Prop :=
  e = { d with cores := e.cores, spouts := e.spouts, cod := e.cod, klz := e.klz, cnt := e.cnt, mem := e.mem, free := e.free }

theorem enginesStopped_refl (d : Dev) : EnginesStopped d d := rfl

theorem EnginesStopped.trans {d e f : Dev} (h : EnginesStopped d e) (k : EnginesStopped e f) : EnginesStopped d f := by
  unfold EnginesStopped at *
  rw [k, h]

theorem foldl_enginesStopped {β : Type} {f : Dev → β → Dev} (h : ∀ d b, EnginesStopped d (f d b)) (l : List β) (d : Dev) :
    EnginesStopped d (l.foldl f d) := foldl_keeps enginesStopped_refl EnginesStopped.trans h l d

theorem codecDrop_enginesStopped (d : Dev) (slot : Nat) : EnginesStopped d (codecDrop d slot) := by
  unfold codecDrop settleClosing
  refine EnginesStopped.trans (by rfl) (foldl_enginesStopped (fun d k => ?_) _ _)
  split <;> rfl

theorem cascadeEnd_enginesStopped (d : Dev) (p : CscCmd → Bool) : EnginesStopped d (cascadeEnd d p) := by
  unfold cascadeEnd
  refine EnginesStopped.trans (by rfl) (foldl_enginesStopped (fun d c => foldl_enginesStopped (fun d runs => foldl_enginesStopped (fun d r => ?_) _ d) _ d) _ _)
  split <;> rfl

theorem spoutFilter_enginesStopped (d : Dev) (p : SpoutCmd → Bool) : EnginesStopped d (spoutFilter d p) :=
  foldl_enginesStopped (fun _ _ => by rfl) _ d

theorem enginesDrop_enginesStopped (d : Dev) (slot : Nat) : EnginesStopped d (enginesDrop d slot) := by
  unfold enginesDrop
  have restart (d : Dev) : EnginesStopped d (cascadeRestart d slot) := by rfl
  exact (codecDrop_enginesStopped d slot).trans ((spoutFilter_enginesStopped _ _).trans ((cascadeEnd_enginesStopped _ _).trans (restart _)))

theorem Talked.enginesStopped {d e : Dev} (h : Talked d e) : EnginesStopped d e := by
  obtain ⟨only, -⟩ := h
  rw [only]
  rfl

/-- The stop registers as a stop that begins leaves them. -/
def stopBegun (f : Flt) (info : FltInfo) (detail : Word) (addr clp : Dword) : Flt :=
  { f with stopInfo := info, stopDetail := detail, stopAddr := addr, stopClp := clp, stopActive := true }

theorem beginStop_begins (d : Dev) (info : FltInfo) (detail : Word) (addr : Dword) :
    EnginesStopped { d with flt := stopBegun d.flt info detail addr d.clp.now } (beginStop d info detail addr) := by
  unfold beginStop
  exact EnginesStopped.trans (by rfl) ((foldl_enginesStopped enginesDrop_enginesStopped _ _).trans (sendStops_talked _).enginesStopped)

theorem logAppend_only (d : Dev) (info : FltInfo) (detail : Word) : logAppend d info detail = { d with flt := (logAppend d info detail).flt } := by
  unfold logAppend
  dsimp only
  split <;> rfl

/-- A thermal stop touches neither the stacks nor the Weir (R315). -/
theorem thermalStop_leaves (d : Dev) (r : Byte) : EnginesStopped { d with flt := (thermalStop d r).flt } (thermalStop d r) := by
  unfold thermalStop
  split
  · rfl
  dsimp only
  rw [logAppend_only]
  split
  · rfl
  · have begins := beginStop_begins { d with flt := { (logAppend d { valid := true, cls := 4, reason := r } 0).flt with thermal := true, thermReason := r } }
      { valid := true, cls := 4, reason := r } 0 0
    unfold EnginesStopped at *
    rw [begins]

/-- The device is in a thermal stop for reason `r`, which began the stop unless one was active (R315, R466). -/
structure ThermallyStopped (d : Dev) (r : Byte) (e : Dev) : Prop where
  thermal : e.flt.thermal = true
  reason : e.flt.thermReason = r
  active : e.flt.stopActive = true
  began : d.flt.stopActive = false → e.flt.stopInfo = { valid := true, cls := 4, reason := r } ∧ e.flt.stopClp = d.clp.now

theorem thermalStop_stops {d : Dev} (ht : d.flt.thermal = false) (hs : d.sys.state ≠ .thermal) (r : Byte) : ThermallyStopped d r (thermalStop d r) := by
  have fresh : (d.flt.thermal || d.sys.state == .thermal) = false := by simp [ht, hs]
  have stop := logAppend_stop d { valid := true, cls := 4, reason := r } 0
  unfold thermalStop
  rw [fresh, if_neg Bool.false_ne_true]
  dsimp only
  rw [logAppend_only]
  split
  · next h => exact ⟨rfl, rfl, h, fun quiet => absurd (h.symm.trans (stop.trans quiet)) (by decide)⟩
  · have begins := beginStop_begins { d with flt := { (logAppend d { valid := true, cls := 4, reason := r } 0).flt with thermal := true, thermReason := r } }
      { valid := true, cls := 4, reason := r } 0 0
    have flt := congrArg Dev.flt begins
    dsimp only at flt
    refine ⟨?_, ?_, ?_, fun _ => ?_⟩ <;> rw [flt] <;> [rfl; rfl; rfl; exact ⟨rfl, rfl⟩]

/-! ## A trip (R485) -/

/-- What reset and loss of power clear, whatever stands on the pins. -/
theorem clearDev_cleared (d : Dev) (y : Sys) : Cleared d y { clearDev d with sys := y } := by
  refine ⟨rfl, fun wf k => ?_⟩
  rw [tabWf, Bool.and_eq_true] at wf
  exact tabGet_rewritten {} (fun x : Stack => { deadPins := x.deadPins }) k wf.1 [] rfl

/-- The supply and the pins as a trip leaves them. -/
def Sys.atTrip (y : Sys) : Sys :=
  { vinMv := y.vinMv, rails := y.rails, powerOk := y.powerOk, refclkAAbsent := y.refclkAAbsent, refclkBAbsent := y.refclkBAbsent, tripped := true, thermtripN := false, resetN := y.resetN }

theorem trip_clears (d : Dev) : Cleared d d.sys.atTrip (trip d) := clearDev_cleared d _

/-! ## WEIR_SAMPLE (R313, R314) -/

theorem weirThreshold_congr {d e : Dev} (h : e.weir.offset = d.weir.offset) : weirThreshold e = weirThreshold d := by
  funext l
  simp only [weirThreshold, h]

theorem weirTarget_congr {d e : Dev} (h : e.weir.offset = d.weir.offset) : weirTarget e = weirTarget d := by
  funext t
  simp only [weirTarget, weirThreshold_congr h]

theorem sampled_congr {d e : Dev} (h : e.weir.offset = d.weir.offset) : sampled e = sampled d := by
  funext x t
  simp only [sampled, weirTarget_congr h, weirThreshold_congr h]

/-- From `d` to `e` stacks have been sampled: nothing but the stacks, the Weir's record of rises and the turns' WEIR_MAX has changed. -/
def WeirOnly (d e : Dev) : Prop := e = { d with hbm := e.hbm, weir := e.weir, jobs := e.jobs } ∧ e.weir.offset = d.weir.offset

theorem weirOnly_refl (d : Dev) : WeirOnly d d := ⟨rfl, rfl⟩

theorem weirOnly_trans {d e f : Dev} (h : WeirOnly d e) (k : WeirOnly e f) : WeirOnly d f := ⟨by rw [k.1, h.1], k.2.trans h.2⟩

theorem sampleStack_only (d : Dev) (s : Nat) (t : Int) : WeirOnly d (sampleStack d s t) := by
  unfold sampleStack
  dsimp only
  split
  · exact ⟨rfl, rfl⟩
  split
  · split <;> exact ⟨rfl, rfl⟩
  · exact ⟨rfl, rfl⟩

theorem sampleStack_stack (d : Dev) (s : Nat) (t : Int) (k : Nat) : (sampleStack d s t).stack k = if k = s then sampled d (d.stack s) t else d.stack k := by
  rw [← Dev.stack_setStack]
  unfold sampleStack sampled
  simp only [Bool.and_eq_true, decide_eq_true_eq]
  repeat' split
  all_goals rfl

/-- A sample that raises no level leaves the Weir's record as it was. -/
theorem sampleStack_calm {d : Dev} {s : Nat} {t : Int} (h : weirTarget d (clampInt (-128) 127 t) ≤ (d.stack s).level) : (sampleStack d s t).weir = d.weir := by
  unfold sampleStack
  dsimp only
  rw [if_neg (Nat.not_lt.mpr h)]
  repeat' split
  all_goals rfl

/-- What a level `l` makes of slot `n`'s turn. -/
def weirNoted (d : Dev) (l n : Nat) (t : Turn) : Turn := if (d.tslot n).phase == .folding then t else { t with weirMax := max t.weirMax l }

/-- Every open turn that has not flipped notes a level that it has not reached before. -/
theorem noteWeir_turn {d : Dev} (l : Nat) {j : Nat} {u : Turn} (hu : (d.job j).turn = some u) :
    ((noteWeir d l).job j).turn = some (if (d.tslot j).phase = .folding then u else { u with weirMax := max u.weirMax l }) := by
  have noted : ((noteWeir d l).job j).turn = (d.job j).turn.map (weirNoted d l j) :=
    tabGet_map (dflt := ({} : Job)) (P := fun n (x y : Job) => y.turn = x.turn.map (weirNoted d l n))
      (f := fun e => (e.1, { e.2 with turn := e.2.turn.map (weirNoted d l e.1) })) (fun _ => rfl) (fun _ => rfl) (fun _ => rfl) d.jobs j
  rw [noted, hu, Option.map_some, weirNoted]
  simp only [beq_iff_eq]

/-- A level that rises is an event, and every open turn that has not flipped notes it (R314; spec/04_clepsydra_and_scheduling.md R100). -/
theorem sampleStack_rises {d : Dev} {s : Nat} {t : Int} (h : (d.stack s).level < weirTarget d (clampInt (-128) 127 t)) :
    (sampleStack d s t).weir = { d.weir with events := sat16 d.weir.events, lastEvent := d.clp.now }
    ∧ ∀ j u, (d.job j).turn = some u → ((sampleStack d s t).job j).turn = some (if (d.tslot j).phase = .folding then u
        else { u with weirMax := max u.weirMax (weirTarget d (clampInt (-128) 127 t)) }) := by
  unfold sampleStack
  dsimp only
  rw [if_pos h]
  refine ⟨rfl, fun j u hu => ?_⟩
  exact noteWeir_turn _ (by exact hu)

/-- The stacks sampled, in order. -/
def sampleStacks (d : Dev) (l : List (Nat × Int)) : Dev := l.foldl (fun d e => sampleStack d e.1 e.2) d

theorem sampleStacks_only (d : Dev) (l : List (Nat × Int)) : WeirOnly d (sampleStacks d l) := by
  unfold sampleStacks
  exact foldl_keeps weirOnly_refl weirOnly_trans (fun d e => sampleStack_only d e.1 e.2) l d

theorem sampleStacks_stack (d : Dev) (temps : List Int) {k : Nat} (hk : k < 12) :
    (sampleStacks d ((List.range 12).zip temps)).stack k = match temps[k]? with | some t => sampled d (d.stack k) t | none => d.stack k := by
  have keeps (x : Dev) (e : Nat × Int) (h : x.weir.offset = d.weir.offset) : (sampleStack x e.1 e.2).weir.offset = d.weir.offset :=
    (sampleStack_only x e.1 e.2).2.trans h
  have sets (x : Dev) (e : Nat × Int) (h : x.weir.offset = d.weir.offset) (j : Nat) :
      (sampleStack x e.1 e.2).stack j = if j = e.1 then sampled d (x.stack e.1) e.2 else x.stack j := by
    rw [sampleStack_stack, sampled_congr h]
  unfold sampleStacks
  cases ht : temps[k]? with
  | some t => exact foldl_listed (get := Dev.stack) keeps sets (zip_range_once 12 temps) (mem_zip_range.mpr ⟨hk, ht⟩) d rfl
  | none =>
    refine foldl_unlisted (get := Dev.stack) keeps sets (fun e he hek => ?_) d rfl
    obtain ⟨-, listed⟩ := mem_zip_range.mp (show (e.1, e.2) ∈ _ from he)
    rw [hek, ht] at listed
    exact nomatch listed

theorem sampleStacks_calm : ∀ {l : List (Nat × Int)} {d : Dev}, (l.map Prod.fst).Nodup →
    (∀ e ∈ l, weirTarget d (clampInt (-128) 127 e.2) ≤ (d.stack e.1).level) → (sampleStacks d l).weir = d.weir
  | [], _, _, _ => rfl
  | e :: l, d, once, h => by
    obtain ⟨hne, once⟩ := List.nodup_cons.mp once
    obtain ⟨he, hl⟩ := List.forall_mem_cons.mp h
    refine (sampleStacks_calm once fun q hq => ?_).trans (sampleStack_calm he)
    have other : q.1 ≠ e.1 := fun hk => hne (hk ▸ List.mem_map_of_mem hq)
    rw [weirTarget_congr (sampleStack_only d e.1 e.2).2, sampleStack_stack, if_neg other]
    exact hl q hq

theorem weirSample_trips {d : Dev} {temps : List Int} (hs : asleep d = false) (ht : d.sys.tripped = false)
    (hot : temps.any (fun t => decide (110 ≤ t)) = true) : weirSample d temps = trip d := by
  have awake : (d.sys.state == .reset) = false := hs
  unfold weirSample
  rw [ht, awake, hot]
  rfl

theorem weirSample_runs {d : Dev} {temps : List Int} (hs : asleep d = false) (ht : d.sys.tripped = false)
    (hot : temps.any (fun t => decide (110 ≤ t)) = false) : weirSample d temps =
      if (temps.take 12).any (fun t => decide (105 ≤ t)) then thermalStop (sampleStacks d ((List.range 12).zip temps)) 0xC0
      else sampleStacks d ((List.range 12).zip temps) := by
  have awake : (d.sys.state == .reset) = false := hs
  unfold weirSample
  rw [ht, awake, hot]
  rfl

/-- A sample that trips nothing samples the stacks, and a thermal stop that follows leaves what it noted. -/
theorem weirSample_leaves {d : Dev} {temps : List Int} (hs : asleep d = false) (ht : d.sys.tripped = false)
    (hot : temps.any (fun t => decide (110 ≤ t)) = false) : let x := sampleStacks d ((List.range 12).zip temps)
    (weirSample d temps).hbm = x.hbm ∧ (weirSample d temps).weir = x.weir ∧ (weirSample d temps).jobs = x.jobs := by
  rw [weirSample_runs hs ht hot]
  split
  · rw [thermalStop_leaves]
    exact ⟨rfl, rfl, rfl⟩
  · exact ⟨rfl, rfl, rfl⟩

/-! ## DEV_TELEMETRY_SAMPLE (spec/18_power_and_package.md R485, R491) -/

/-- The readings of the dies taken, in order. -/
def sampleDies (t : Tab DieTemp) (l : List (Nat × Int)) : Tab DieTemp :=
  l.foldl (fun t e => tabSet {} t e.1 (dieSample (tabGet {} t e.1) (clampInt (-128) 127 e.2))) t

theorem sampleDies_sets (t : Tab DieTemp) (e : Nat × Int) (k : Nat) :
    tabGet {} (tabSet {} t e.1 (dieSample (tabGet {} t e.1) (clampInt (-128) 127 e.2))) k
      = if k = e.1 then dieSample (tabGet {} t e.1) (clampInt (-128) 127 e.2) else tabGet {} t k := tabGet_tabSet _ _ _ _ _

theorem sampleDies_listed (y : Tab DieTemp) {dies : List Int} {k : Nat} {t : Int} (hk : k < 4) (ht : dies[k]? = some t) :
    tabGet {} (sampleDies y ((List.range 4).zip dies)) k = dieSample (tabGet {} y k) (clampInt (-128) 127 t) :=
  foldl_listed (get := tabGet {}) (I := fun _ => True) (val := fun x t => dieSample x (clampInt (-128) 127 t)) (fun _ _ _ => trivial)
    (fun x e _ => sampleDies_sets x e) (zip_range_once 4 dies) (mem_zip_range.mpr ⟨hk, ht⟩) y trivial

theorem sampleDies_unlisted (y : Tab DieTemp) {dies : List Int} {k : Nat} (h : dies.length ≤ k) :
    tabGet {} (sampleDies y ((List.range 4).zip dies)) k = tabGet {} y k := by
  refine foldl_unlisted (get := tabGet {}) (I := fun _ => True) (val := fun x t => dieSample x (clampInt (-128) 127 t)) (fun _ _ _ => trivial)
    (fun x e _ => sampleDies_sets x e) (fun e he hek => ?_) y trivial
  obtain ⟨-, listed⟩ := mem_zip_range.mp (show (e.1, e.2) ∈ _ from he)
  rw [hek, List.getElem?_eq_none h] at listed
  exact nomatch listed

/-- The registers of a telemetry sample that trips nothing. -/
def Sys.measured (y : Sys) (vin iin watts : Nat) (dies : List Int) : Sys :=
  let w := BitVec.ofNat 16 (min watts 0xFFFF)
  { y with
    vin := BitVec.ofNat 16 (min (vin / 10) 0xFFFF)
    iin := BitVec.ofNat 16 (min (iin / 10) 0xFFFF)
    watts := w
    peak := if y.peak < w then w else y.peak
    dieHot := y.dieHot || dies.any (fun t => decide (95 ≤ t))
    dies := sampleDies y.dies ((List.range 4).zip dies) }

theorem devTelemetrySample_trips {d : Dev} {dies : List Int} (hs : asleep d = false) (ht : d.sys.tripped = false)
    (hot : dies.any (fun t => decide (115 ≤ t)) = true) (vin iin watts : Nat) : devTelemetrySample d vin iin watts dies = trip d := by
  have awake : (d.sys.state == .reset) = false := hs
  unfold devTelemetrySample
  rw [ht, awake, hot]
  rfl

theorem devTelemetrySample_runs {d : Dev} {dies : List Int} (hs : asleep d = false) (ht : d.sys.tripped = false)
    (hot : dies.any (fun t => decide (115 ≤ t)) = false) (vin iin watts : Nat) : devTelemetrySample d vin iin watts dies =
      if (dies.take 4).any (fun t => decide (105 ≤ t)) then thermalStop { d with sys := d.sys.measured vin iin watts dies } 0xC1
      else { d with sys := d.sys.measured vin iin watts dies } := by
  have awake : (d.sys.state == .reset) = false := hs
  unfold devTelemetrySample
  rw [ht, awake, hot]
  rfl

theorem devTelemetrySample_sys {d : Dev} {dies : List Int} (hs : asleep d = false) (ht : d.sys.tripped = false)
    (hot : dies.any (fun t => decide (115 ≤ t)) = false) (vin iin watts : Nat) :
    (devTelemetrySample d vin iin watts dies).sys = d.sys.measured vin iin watts dies := by
  rw [devTelemetrySample_runs hs ht hot]
  split
  · rw [thermalStop_leaves]
  · rfl

theorem exec_weirSample {s : State} (hs : asleep s.dev = false) (temps : List Int) :
    exec (.weirSample temps) s = .next { s with dev := weirSample s.dev temps } := onDev_true_next (f := fun _ d => weirSample d temps) hs

theorem exec_devTelemetrySample {s : State} (hs : asleep s.dev = false) (vin iin watts : Nat) (dies : List Int) :
    exec (.devTelemetrySample vin iin watts dies) s = .next { s with dev := devTelemetrySample s.dev vin iin watts dies } :=
  onDev_true_next (f := fun _ d => devTelemetrySample d vin iin watts dies) hs

/-- Settles O47: a sample is taken stack by stack (`sampleStacks_stack`) or die by die (`sampleDies_listed`); a thermal stop that follows leaves
the stacks, the Weir and the telemetry (`thermalStop_leaves`), and a trip clears what is volatile (`trip_clears`). That a trip does so,
and the rounding of the telemetry registers, are the model's choices (log entries 28 and 29). -/
theorem temperaturesThrottleStopAndTrip : Obligations.TemperaturesThrottleStopAndTrip := by
  unfold Obligations.TemperaturesThrottleStopAndTrip
  intro s temps hs hpins d stops tripped
  refine ⟨fun hot => ?_, fun hot => ?_, fun vin iin watts dies => ⟨fun hot => ?_, fun hot => ?_⟩⟩
  · refine ⟨_, exec_weirSample hs temps, ?_⟩
    rw [weirSample_trips hs hpins hot]
    exact trip_clears d
  · obtain ⟨hbm, weir, jobs⟩ := weirSample_leaves hs hpins hot
    obtain ⟨only, -⟩ := sampleStacks_only d ((List.range 12).zip temps)
    refine ⟨_, exec_weirSample hs temps, fun k hk => ?stack, fun calm => ?calm, ?rises, fun hstop ht hst => ?stops, fun cool => ?only⟩
    case stack => rw [Dev.stack, hbm]; exact sampleStacks_stack d temps hk
    case calm =>
      rw [weir]
      refine sampleStacks_calm (zip_range_once 12 temps) fun e he => ?_
      obtain ⟨hk, listed⟩ := mem_zip_range.mp (show (e.1, e.2) ∈ _ from he)
      exact calm e.1 e.2 hk listed
    case rises =>
      rintro t rfl rises
      obtain ⟨event, noted⟩ := sampleStack_rises rises
      exact ⟨weir.trans event, fun j u hu => by rw [Dev.job, jobs]; exact noted j u hu⟩
    case stops =>
      rw [weirSample_runs hs hpins hot, if_pos hstop]
      generalize sampleStacks d ((List.range 12).zip temps) = x at only
      have stopped := thermalStop_stops (d := x) (by rw [only]; exact ht) (by rw [only]; exact hst) 0xC0
      refine ⟨stopped.thermal, stopped.reason, stopped.active, fun quiet => ?_⟩
      obtain ⟨info, clp⟩ := stopped.began (by rw [only]; exact quiet)
      have clock : x.clp = d.clp := by rw [only]
      exact ⟨info, clock ▸ clp⟩
    case only => rwa [weirSample_runs hs hpins hot, cool]
  · refine ⟨_, exec_devTelemetrySample hs vin iin watts dies, ?_⟩
    rw [devTelemetrySample_trips hs hpins hot]
    exact trip_clears d
  · refine ⟨_, exec_devTelemetrySample hs vin iin watts dies, ?_⟩
    have sys := devTelemetrySample_sys hs hpins hot vin iin watts
    beta_reduce
    rw [sys]
    refine ⟨rfl, rfl, rfl, rfl, rfl, fun k t hk ht => sampleDies_listed _ hk ht, fun k hk => sampleDies_unlisted _ hk, rfl,
      fun hstop ht hst => ?stops, fun cool => ?only⟩
    case stops =>
      rw [devTelemetrySample_runs hs hpins hot, if_pos hstop]
      have stopped := thermalStop_stops (d := { d with sys := d.sys.measured vin iin watts dies }) ht hst 0xC1
      exact ⟨stopped.thermal, stopped.reason, stopped.active, stopped.began⟩
    case only =>
      rw [devTelemetrySample_runs hs hpins hot, cool]
      rfl

end Sys2Proof.Machine
end

section
/-! PROOFS. What packets that leave, FENCE messages and a stop leave of the fabric (spec/13_koliz_fabric.md R326, R348, R351;
spec/17_faults_and_counters.md R455). -/

namespace Sys2Proof.Machine

/-! ## Packets that leave (R326, R327) -/

/-- A port that has queued and sent packets as `y` has: its link, and what it receives, are those of `x`. -/
def Port.sending (x y : Port) : Port :=
  { x with line := y.line, lanes := y.lanes, sent := y.sent, retry := y.retry, txSeq := y.txSeq, used := y.used, waiting := y.waiting, ahead := y.ahead }

theorem sending_trans {x y z : Port} (h : y = x.sending y) (k : z = y.sending z) : z = x.sending z :=
  calc z = y.sending z := k
    _ = (x.sending y).sending z := by rw [← h]
    _ = x.sending z := rfl

/-- From `d` to `e` packets may have left and Cascade commands ended: links, counts and requests stand, and an absent member or a failed
Cascade command stays noted. -/
structure FabricKept (d e : Dev) : Prop where
  klz : e.klz = { d.klz with ports := e.klz.ports, groups := e.klz.groups, cascade := e.klz.cascade, early := e.klz.early, issued := e.klz.issued,
                             echoGo := e.klz.echoGo, failed := e.klz.failed }
  port : ∀ k, e.port k = (d.port k).sending (e.port k)
  absent : ∀ g, (d.grp g).absentSeen = true → (e.grp g).absentSeen = true
  failed : d.klz.failed = true → e.klz.failed = true

theorem fabricKept_refl (d : Dev) : FabricKept d d := ⟨rfl, fun _ => rfl, fun _ h => h, fun h => h⟩

theorem FabricKept.trans {d e f : Dev} (h : FabricKept d e) (k : FabricKept e f) : FabricKept d f := by
  refine ⟨?_, fun i => sending_trans (h.port i) (k.port i), fun g hg => k.absent g (h.absent g hg),
    fun hf => k.failed (h.failed hf)⟩
  rw [k.klz, h.klz]

theorem foldl_fabricKept {β : Type} {f : Dev → β → Dev} (h : ∀ d b, FabricKept d (f d b)) (l : List β) (d : Dev) : FabricKept d (l.foldl f d) :=
  foldl_keeps fabricKept_refl FabricKept.trans h l d

theorem fabricKept_of_klz {d e : Dev} (h : e.klz = d.klz) : FabricKept d e := by
  refine ⟨by rw [h], fun k => ?_, fun g hg => ?_, fun hf => by rwa [h]⟩
  · rw [Dev.port, Dev.port, h]
    rfl
  · rwa [Dev.grp, h]

theorem fabricKept_setPort {d : Dev} {n : Nat} {x : Port} (h : x = (d.port n).sending x) : FabricKept d (d.setPort n x) := by
  refine ⟨rfl, fun k => ?_, fun _ hg => hg, fun h => h⟩
  rw [Dev.port_setPort]
  split
  case isTrue hk => rw [hk]; exact h
  case isFalse => rfl

theorem fabricKept_setGrp {d : Dev} {g : Nat} {x : Grp} (h : (d.grp g).absentSeen = true → x.absentSeen = true) : FabricKept d (d.setGrp g x) := by
  refine ⟨rfl, fun _ => rfl, fun k hk => ?_, fun h => h⟩
  rw [Dev.grp_setGrp]
  split
  case isTrue he => exact h (he ▸ hk)
  case isFalse => exact hk

theorem nextPacket_sending {x y : Port} {after : Nat} {p : Packet} (h : nextPacket x after = some (p, y)) : y = x.sending y := by
  unfold nextPacket at h
  split at h
  case h_3 => split at h <;> (cases h; rfl)
  case h_6 => cases h
  all_goals (cases h; rfl)

theorem pickPackets_sending : ∀ (fuel : Nat) (x : Port) (after : Nat), (pickPackets fuel x after).1 = x.sending (pickPackets fuel x after).1
  | 0, _, _ => rfl
  | fuel + 1, x, after => by
    unfold pickPackets
    split
    · rfl
    · next p y h => exact sending_trans (nextPacket_sending h) (pickPackets_sending fuel y _)

theorem putLine_fabricKept (d : Dev) (n : Nat) (ps : List Packet) : FabricKept d (putLine d n ps) := by
  unfold putLine
  dsimp only
  refine List.foldlRecOn (motive := FabricKept d) _ _ ?_ fun _ h _ _ => h.trans (fabricKept_of_klz rfl)
  split
  · exact FabricKept.trans (fabricKept_setPort (n := n) (by rfl)) ⟨rfl, fun _ => rfl, fun _ h => h, fun h => h⟩
  · exact fabricKept_setPort (by rfl)

theorem drainWaiting_fabricKept (d : Dev) (n : Nat) : FabricKept d (drainWaiting d n) := by
  unfold drainWaiting
  dsimp only
  split
  · exact fabricKept_refl d
  · exact (fabricKept_setPort (pickPackets_sending _ _ _)).trans (putLine_fabricKept _ n _)

theorem emit_fabricKept (d : Dev) (n : Nat) (p : Packet) : FabricKept d (emit d n p) :=
  FabricKept.trans (fabricKept_setPort (n := n) (by rfl)) (drainWaiting_fabricKept _ n)

/-- Nothing leaves a port at which nothing waits. -/
theorem drainWaiting_empty {d : Dev} {n : Nat} (h : (d.port n).waiting = []) : drainWaiting d n = d := by
  simp [drainWaiting, h, pickPackets]

/-! ## FENCE messages (R348, R351) -/

theorem sendFence_fabricKept (d : Dev) (g port : Nat) (k : FenceKind) (reason : Byte) (origin : Nat) (turn slot : Dword) :
    FabricKept d (sendFence d g port k reason origin turn slot) := by
  unfold sendFence
  split
  · exact fabricKept_refl d
  · exact emit_fabricKept _ _ _

theorem sendStops_fabricKept (d : Dev) : FabricKept d (sendStops d) := by
  refine foldl_fabricKept (fun d g => ?_) _ d
  split
  · exact fabricKept_refl d
  split
  · exact sendFence_fabricKept _ _ _ _ _ _ _ _
  split
  · exact fabricKept_refl d
  · have sends : FabricKept d (sendDown d g .abort (abortReason (d.grp g)) 0 (grpTurn d g) 0) :=
      foldl_fabricKept (fun d p => sendFence_fabricKept d g p _ _ _ _ _) _ d
    have speaks := sendDown_spoken d g .abort (abortReason (d.grp g)) 0 (grpTurn d g) 0
    exact sends.trans (fabricKept_setGrp (g := g) fun h => by rwa [speaks.grp] at h)

/-! ## A job fault and the stop it begins (R361, R453, R455) -/

theorem enginesDrop_fabricKept (d : Dev) (slot : Nat) : FabricKept d (enginesDrop d slot) := by
  have codec : FabricKept d (codecDrop d slot) := by
    unfold codecDrop settleClosing
    refine FabricKept.trans (fabricKept_of_klz (by rfl)) (foldl_fabricKept (fun d k => ?_) _ _)
    split <;> exact fabricKept_of_klz rfl
  have spout (d : Dev) (p : SpoutCmd → Bool) : FabricKept d (spoutFilter d p) := foldl_fabricKept (fun _ _ => fabricKept_of_klz (by rfl)) _ d
  have cascade (d : Dev) (p : CscCmd → Bool) : FabricKept d (cascadeEnd d p) := by
    unfold cascadeEnd
    refine FabricKept.trans (e := { d with klz := { d.klz with cascade := d.klz.cascade.filter fun c => !p c } }) ⟨rfl, fun _ => rfl, fun _ h => h, fun h => h⟩
      (foldl_fabricKept (fun d c => foldl_fabricKept (fun d runs => foldl_fabricKept (fun d r => ?_) _ d) _ d) _ _)
    split <;> exact fabricKept_of_klz rfl
  have restart (d : Dev) : FabricKept d (cascadeRestart d slot) := ⟨rfl, fun _ => rfl, fun _ h => h, fun h => h⟩
  exact codec.trans ((spout _ _).trans ((cascade _ _).trans (restart _)))

theorem beginStop_fabricKept (d : Dev) (info : FltInfo) (detail : Word) (addr : Dword) : FabricKept d (beginStop d info detail addr) := by
  unfold beginStop
  exact FabricKept.trans (fabricKept_of_klz (by rfl)) ((foldl_fabricKept enginesDrop_fabricKept _ _).trans (sendStops_fabricKept _))

/-- From `d` to `e` a job fault has been charged to a slot, with no read to note and no request in flight: the device stops, unless it had
stopped before, and the fabric and the turns are as they were. -/
structure Charged (d : Dev) (slot : Nat) (reason : Byte) (detail : Word) (e : Dev) : Prop where
  fabric : FabricKept d e
  trn : e.trn = d.trn
  stops : e.flt.stopActive = true
  faulted : slot ∈ e.flt.faulted
  counted : e.flt.jobFaults = sat16 d.flt.jobFaults
  reason_eq : (e.job slot).reason = reason
  detail_eq : (e.job slot).detail = detail
  info : d.flt.stopActive = false → e.flt.stopInfo.reason = reason

theorem faultCharged_charges (d : Dev) (slot : Nat) (info : FltInfo) (detail : Word) (addr : Dword) :
    Charged d slot info.reason detail (faultCharged d slot info.reason info detail addr) := by
  have only := logAppend_only d info detail
  have stop := logAppend_stop d info detail
  have counts : (logAppend d info detail).flt.jobFaults = d.flt.jobFaults := by
    unfold logAppend
    dsimp only
    split <;> rfl
  unfold faultCharged
  generalize logAppend d info detail = x at *
  dsimp only
  generalize hy : Dev.setJob _ slot _ = y
  have flt : y.flt = { x.flt with jobFaults := sat16 x.flt.jobFaults, faulted := slot :: x.flt.faulted } := by rw [← hy]; rfl
  have job : (y.job slot).reason = info.reason ∧ (y.job slot).detail = detail := by
    rw [← hy, Dev.job_setJob_self]
    exact ⟨rfl, rfl⟩
  have fabric : FabricKept d y := fabricKept_of_klz (by rw [← hy, only]; rfl)
  have trn : y.trn = d.trn := by rw [← hy, only]; rfl
  split
  case isTrue h =>
    refine ⟨fabric, trn, h, ?_, ?_, job.1, job.2, fun quiet => absurd h ?_⟩
    · rw [flt]; exact List.mem_cons_self
    · rw [flt, counts]
    · simp [flt, stop, quiet]
  case isFalse =>
    have begins := beginStop_begins y info detail addr
    have kept := fabric.trans (beginStop_fabricKept y info detail addr)
    generalize beginStop y info detail addr = e at begins kept
    have jobs : e.job slot = y.job slot := by rw [begins]; rfl
    refine ⟨kept, ?_, ?_, ?_, ?_, jobs ▸ job.1, jobs ▸ job.2, fun _ => ?_⟩
    · rw [begins]; exact trn
    · rw [begins]; rfl
    · rw [begins]
      change slot ∈ y.flt.faulted
      rw [flt]
      exact List.mem_cons_self
    · rw [begins]
      change y.flt.jobFaults = _
      rw [flt, counts]
    · rw [begins]; rfl

theorem jobFault_charges {f : JFault} (hcells : f.cells = none) (hafter : f.after = none) (d : Dev) (slot core engine logical command : Nat) :
    Charged d slot f.reason (f.detail.getD (faultDetail engine logical command f.sub)) (jobFault d slot core engine logical command f) := by
  have charges := faultCharged_charges d slot { valid := true, cls := 1, reason := f.reason, core := BitVec.ofNat 8 core, slot := BitVec.ofNat 8 slot }
    (f.detail.getD (faultDetail engine logical command f.sub)) (BitVec.ofNat 64 f.addr)
  unfold jobFault
  rw [hcells, hafter]
  exact charges

end Sys2Proof.Machine
end

section
/-! PROOFS. Ports that change state and links that are lost (spec/13_koliz_fabric.md R325, R328, R351, R361, R365). -/

namespace Sys2Proof.Machine

/-! ## One port -/

theorem portStep_set (d : Dev) (n : Nat) (x : Port) : PortStep d n x (d.setPort n x) :=
  ⟨Dev.port_setPort_self d n x, fun k hk => by rw [Dev.port_setPort, if_neg hk], rfl⟩

theorem portStep_same (d : Dev) (n : Nat) : PortStep d n (d.port n) d := ⟨rfl, fun _ _ => rfl, rfl⟩

theorem PortStep.set {d e : Dev} {n : Nat} {x : Port} (h : PortStep d n x e) (y : Port) : PortStep d n y (e.setPort n y) := by
  obtain ⟨-, others, only⟩ := h
  refine ⟨Dev.port_setPort_self e n y, fun k hk => ?_, ?_⟩
  · rw [Dev.port_setPort, if_neg hk, others k hk]
  · rw [only]
    rfl

/-- The states in which a port shows its neighbour. -/
def showsNeighbour (s : PortState) : Bool := s == .active || s == .mismatch

/-- A port that enters a state. -/
def Port.enters (x : Port) (s : PortState) (reason : Byte) : Port :=
  { x with state := s, reason := reason, retrain := x.retrain && !(s == .detect),
           neighbour := if showsNeighbour s then x.neighbour else 0, neighbourPort := if showsNeighbour s then x.neighbourPort else 0 }

theorem enters_into {s : PortState} (h : showsNeighbour s = false) (x : Port) (r : Byte) : x.enters s r = x.into s r := by
  simp [Port.enters, Port.into, h]

theorem enters_shown {s : PortState} (h : showsNeighbour s = true) (x : Port) (r : Byte) : x.enters s r = { x with state := s, reason := r } := by
  cases s with
  | active | mismatch => simp [Port.enters, showsNeighbour]
  | _ => cases h

theorem changePort_stays {d : Dev} {n : Nat} {s : PortState} (h : (d.port n).state ≠ .active ∨ s = .active) (r : Byte) :
    changePort d n s r = d.setPort n ((d.port n).enters s r) := by
  refine if_neg ?_
  rcases h with h | h <;> simp [h]

/-- A port that leaves ACTIVE is an absent member, and ends Cascade commands. -/
theorem changePort_leaves {d : Dev} {n : Nat} {s : PortState} (h : (d.port n).state = .active) (hs : s ≠ .active) (r : Byte) :
    changePort d n s r = cascadeLost (portAbsent (d.setPort n ((d.port n).enters s r)) n) n (d.port n).neighbour.toNat :=
  if_pos (by simp [h, hs])

/-! ## A port on which nothing depends -/

/-- No group misses a member behind a port that is in none of their trees. -/
theorem portAbsent_none {d : Dev} {n : Nat} (h : ∀ g, g < 16 → (d.grp g).valid = true → (fromChild (d.grp g) n || fromParent (d.grp g) n) = false) :
    portAbsent d n = d := by
  refine List.foldlRecOn (motive := fun e => e = d) _ _ rfl fun e he g hg => ?_
  rw [he]
  refine if_pos ?_
  cases hv : (d.grp g).valid with
  | false => rfl
  | true => rw [h g (List.mem_range.mp hg) hv]; rfl

theorem changePort_free {d : Dev} {n : Nat} (h : PortFree d n) (s : PortState) (r : Byte) :
    changePort d n s r = d.setPort n ((d.port n).enters s r) := by
  by_cases stays : (d.port n).state ≠ .active ∨ s = .active
  · exact changePort_stays stays r
  · rw [not_or, not_not] at stays
    obtain ⟨hactive, hs⟩ := stays
    obtain ⟨groups, cascade⟩ := h.resolve_left (fun hn => hn hactive)
    rw [changePort_leaves hactive hs, portAbsent_none (d := d.setPort n _) groups, cascadeLost_none]
    exact cascade

theorem PortFree.step {d e : Dev} {n : Nat} {x : Port} (h : PortFree d n) (he : PortStep d n x e) (hx : x.state = (d.port n).state) : PortFree e n := by
  obtain ⟨port, -, only⟩ := he
  have grp (g : Nat) : e.grp g = d.grp g := by rw [only]; rfl
  rw [PortFree, port, hx, only]
  exact h

/-- A free port moves to a state that shows no neighbour, and nothing else changes. -/
theorem changePort_step {d e : Dev} {n : Nat} {x : Port} (he : PortStep d n x e) (h : PortFree e n) (dest : PortState) (hdest : showsNeighbour dest = false)
    (r : Byte) : PortStep d n (x.into dest r) (changePort e n dest r) := by
  obtain ⟨port, -, -⟩ := id he
  rw [changePort_free h, enters_into hdest, port]
  exact he.set _

theorem dropLink_eq {d : Dev} {n : Nat} (h : linkUp (d.port n).state = true) (dest : PortState) :
    dropLink d n dest = changePort (d.setPort n (d.port n).lost) n dest 0 := if_neg (by simp [h])

theorem dropLink_down {d : Dev} {n : Nat} (h : linkUp (d.port n).state = false) (dest : PortState) : dropLink d n dest = d := if_pos (by simp [h])

/-- A free port loses its link, and nothing else changes. -/
theorem dropLink_step {d e : Dev} {n : Nat} {x : Port} (he : PortStep d n x e) (h : PortFree e n) (hup : linkUp x.state = true) (dest : PortState)
    (hdest : showsNeighbour dest = false) : PortStep d n (x.lost.into dest 0) (dropLink e n dest) := by
  obtain ⟨port, -, -⟩ := id he
  rw [dropLink_eq (by rwa [port]), port]
  exact changePort_step (he.set _) (h.step (portStep_set e n _) (by rw [port]; rfl)) dest hdest 0

/-! ## A port on which members and commands depend (R351, R361) -/

/-- A group that may have missed a member as `y` has. -/
def Grp.missing (x y : Grp) : Grp := { x with absentSeen := y.absentSeen, absent := y.absent }

/-- One group's part in a port's leaving ACTIVE. -/
def noteAbsent (port : Nat) (d : Dev) (g : Nat) : Dev :=
  let x := d.grp g
  if !x.valid || !(fromChild x port || fromParent x port) then d
  else
    let d := d.setGrp g { x with absentSeen := true, absent := if x.root then x.absent ||| (1 <<< port) else x.absent }
    if x.root then d else sendUp d g .absent (grpTurn d g)

theorem portAbsent_eq (d : Dev) (port : Nat) : portAbsent d port = (List.range 16).foldl (noteAbsent port) d := rfl

/-- From `d` to `e` groups may have missed a member, and nothing else of them has changed. -/
def Missing (d e : Dev) : Prop := ∀ g, e.grp g = (d.grp g).missing (e.grp g)

theorem Missing.trans {d e f : Dev} (h : Missing d e) (k : Missing e f) : Missing d f := fun g =>
  calc f.grp g = (e.grp g).missing (f.grp g) := k g
    _ = ((d.grp g).missing (e.grp g)).missing (f.grp g) := by rw [← h g]
    _ = (d.grp g).missing (f.grp g) := rfl

theorem Missing.depends {d e : Dev} (h : Missing d e) (g port : Nat) : (e.grp g).valid = (d.grp g).valid
    ∧ (fromChild (e.grp g) port || fromParent (e.grp g) port) = (fromChild (d.grp g) port || fromParent (d.grp g) port) := by
  rw [h g]
  exact ⟨rfl, rfl⟩

theorem Missing.cscPorts {d e : Dev} (h : Missing d e) (g ring : Nat) : cscPorts (e.grp g) ring = cscPorts (d.grp g) ring := by
  rw [h g]
  rfl

theorem noteAbsent_missing (port : Nat) (d : Dev) (g : Nat) : Missing d (noteAbsent port d g)
    ∧ ((d.grp g).valid = true → (fromChild (d.grp g) port || fromParent (d.grp g) port) = true → ((noteAbsent port d g).grp g).absentSeen = true) := by
  unfold noteAbsent
  dsimp only
  split
  case isTrue h => exact ⟨fun _ => rfl, fun hv hf => absurd h (by simp [hv, hf])⟩
  case isFalse =>
    generalize hy : ({ d.grp g with absentSeen := true, absent := _ } : Grp) = y
    have noted : Missing d (d.setGrp g y) := fun k => by
      rw [Dev.grp_setGrp]
      split
      case isTrue hk => rw [hk, ← hy]; rfl
      case isFalse => rfl
    have seen : ((d.setGrp g y).grp g).absentSeen = true := by rw [Dev.grp_setGrp_self, ← hy]
    split
    · exact ⟨noted, fun _ _ => seen⟩
    · have speaks (t : Dword) : Spoken (d.setGrp g y) (sendUp (d.setGrp g y) g .absent t) := sendFence_spoken _ _ _ _ _ _ _ _
      refine ⟨fun k => ?_, fun _ _ => ?_⟩
      · rw [(speaks _).grp]; exact noted k
      · rw [(speaks _).grp]; exact seen

theorem noteAbsent_fabricKept (port : Nat) (d : Dev) (g : Nat) : FabricKept d (noteAbsent port d g) := by
  unfold noteAbsent
  dsimp only
  split
  · exact fabricKept_refl d
  split
  · exact fabricKept_setGrp fun _ => rfl
  · exact (fabricKept_setGrp (g := g) fun _ => rfl).trans (sendFence_fabricKept _ _ _ _ _ _ _ _)

theorem portAbsent_fabricKept (d : Dev) (port : Nat) : FabricKept d (portAbsent d port) := foldl_fabricKept (noteAbsent_fabricKept port) _ d

theorem portAbsent_missing (d : Dev) (port : Nat) : Missing d (portAbsent d port) :=
  foldl_keeps (R := Missing) (fun _ _ => rfl) Missing.trans (fun d g => (noteAbsent_missing port d g).1) _ d

/-- Every valid group with the port in its tree notes an absent member. -/
theorem portAbsent_seen {d : Dev} {port g : Nat} (hg : g < 16) (hv : (d.grp g).valid = true)
    (hf : (fromChild (d.grp g) port || fromParent (d.grp g) port) = true) : ((portAbsent d port).grp g).absentSeen = true := by
  rw [portAbsent_eq]
  have listed : g ∈ List.range 16 := List.mem_range.mpr hg
  generalize List.range 16 = l at listed
  induction l generalizing d with
  | nil => cases listed
  | cons a l ih =>
    obtain ⟨missing, seen⟩ := noteAbsent_missing port d a
    rw [List.foldl_cons]
    rcases List.mem_cons.mp listed with rfl | rest
    · exact (foldl_fabricKept (noteAbsent_fabricKept port) l _).absent g (seen hv hf)
    · obtain ⟨valid, depends⟩ := missing.depends g port
      exact ih (valid.trans hv) (depends.trans hf) rest

/-- The job of one Cascade command takes FLT_REMOTE, unless it has faulted. -/
def chargeLost (dev : Nat) (d : Dev) (c : CscCmd) : Dev :=
  if d.flt.faulted.contains c.slot then d
  else jobFault { d with klz := { d.klz with failed := true } } c.slot c.core 7 c.logical c.command (fltRemote 0x63 dev 0)

theorem chargeLost_charges {d : Dev} {c : CscCmd} (h : d.flt.faulted.contains c.slot = false) (dev : Nat) : FabricKept d (chargeLost dev d c)
    ∧ (chargeLost dev d c).klz.failed = true ∧ (chargeLost dev d c).flt.stopActive = true := by
  have charged := jobFault_charges (f := fltRemote 0x63 dev 0) rfl rfl { d with klz := { d.klz with failed := true } } c.slot c.core 7 c.logical c.command
  have notes : FabricKept d { d with klz := { d.klz with failed := true } } := ⟨rfl, fun _ => rfl, fun _ h => h, fun _ => rfl⟩
  unfold chargeLost
  rw [if_neg (by rw [h]; exact Bool.false_ne_true)]
  exact ⟨notes.trans charged.fabric, charged.fabric.failed rfl, charged.stops⟩

theorem chargeLost_fabricKept (dev : Nat) (d : Dev) (c : CscCmd) : FabricKept d (chargeLost dev d c) := by
  cases h : d.flt.faulted.contains c.slot with
  | false => exact (chargeLost_charges h dev).1
  | true => rw [chargeLost, if_pos h]; exact fabricKept_refl d

theorem cascadeLost_eq (d : Dev) (n dev : Nat) : cascadeLost d n dev =
    (d.klz.cascade.filter (fun c => (cscPorts (d.grp c.group) c.ring).contains n)).foldl (chargeLost dev) d := rfl

theorem cascadeLost_fabricKept (d : Dev) (n dev : Nat) : FabricKept d (cascadeLost d n dev) := foldl_fabricKept (chargeLost_fabricKept dev) _ d

/-- What is charged stays charged. -/
theorem chargeLost_stays {dev : Nat} {d : Dev} {c : CscCmd} (h : d.klz.failed = true ∧ d.flt.stopActive = true) :
    (chargeLost dev d c).klz.failed = true ∧ (chargeLost dev d c).flt.stopActive = true := by
  cases hf : d.flt.faulted.contains c.slot with
  | false => exact (chargeLost_charges hf dev).2
  | true => rw [chargeLost, if_pos hf]; exact h

/-- A running command that used the port, of a job that had not faulted, stops the device. -/
theorem cascadeLost_stops {d : Dev} {n : Nat} (h : d.klz.cascade.any (fun c => (cscPorts (d.grp c.group) c.ring).contains n && !d.flt.faulted.contains c.slot) = true)
    (dev : Nat) : (cascadeLost d n dev).klz.failed = true ∧ (cascadeLost d n dev).flt.stopActive = true := by
  have some_runs : ∃ c ∈ d.klz.cascade.filter (fun c => (cscPorts (d.grp c.group) c.ring).contains n), d.flt.faulted.contains c.slot = false := by
    obtain ⟨c, hc, uses⟩ := List.any_eq_true.mp h
    rw [Bool.and_eq_true, Bool.not_eq_true'] at uses
    exact ⟨c, List.mem_filter.mpr ⟨hc, uses.1⟩, uses.2⟩
  rw [cascadeLost_eq]
  generalize d.klz.cascade.filter _ = l at some_runs
  clear h
  induction l generalizing d with
  | nil => obtain ⟨c, hc, -⟩ := some_runs; cases hc
  | cons a l ih =>
    obtain ⟨c, hc, free⟩ := some_runs
    rw [List.foldl_cons]
    cases ha : d.flt.faulted.contains a.slot with
    | false => 
      refine List.foldlRecOn (motive := fun e : Dev => e.klz.failed = true ∧ e.flt.stopActive = true) _ _ (chargeLost_charges ha dev).2 ?_
      exact fun _ he _ _ => chargeLost_stays he
    | true =>
      rw [show chargeLost dev d a = d from if_pos ha]
      rcases List.mem_cons.mp hc with rfl | rest
      · exact absurd (ha.symm.trans free) (by decide)
      · exact ih ⟨c, rest, free⟩

/-- A port that was ACTIVE has lost its link: its loss is counted, its groups have missed a member, and its Cascade commands have ended. -/
structure ActiveLost (d : Dev) (n : Nat) (x : Port) (e : Dev) : Prop where
  down : linkUp (e.port n).state = false
  losses : (e.port n).losses = sat16 x.losses
  absent : ∀ g, g < 16 → (d.grp g).valid = true → (fromChild (d.grp g) n || fromParent (d.grp g) n) = true → (e.grp g).absentSeen = true
  cascade : d.klz.cascade.any (fun c => (cscPorts (d.grp c.group) c.ring).contains n && !d.flt.faulted.contains c.slot) = true →
    e.klz.failed = true ∧ e.flt.stopActive = true

theorem dropLink_active {d e : Dev} {n : Nat} {x : Port} (he : PortStep d n x e) (hx : x.state = .active) {dest : PortState} (hdest : linkUp dest = false) :
    ActiveLost d n x (dropLink e n dest) := by
  obtain ⟨port, -, only⟩ := he
  have inactive : dest ≠ .active := by rintro rfl; cases hdest
  have lost : (e.setPort n x.lost).port n = x.lost := Dev.port_setPort_self _ n _
  rw [dropLink_eq (by rw [port, hx]; rfl), port, changePort_leaves (by rw [lost]; exact hx) inactive, lost]
  have left : Dev.setPort (e.setPort n x.lost) n (x.lost.enters dest 0) = { d with klz := { d.klz with ports := (Dev.setPort (e.setPort n x.lost) n (x.lost.enters dest 0)).klz.ports } } := by
    rw [only]
    rfl
  have same : (Dev.setPort (e.setPort n x.lost) n (x.lost.enters dest 0)).port n = x.lost.enters dest 0 := Dev.port_setPort_self _ n _
  generalize Dev.setPort (e.setPort n x.lost) n (x.lost.enters dest 0) = y at left same
  have grp (g : Nat) : y.grp g = d.grp g := by rw [left]; rfl
  have missing := portAbsent_missing y n
  obtain ⟨talked, cascade⟩ := portAbsent_talked y n
  have flt : (portAbsent y n).flt = d.flt := by rw [talked, left]
  have after := cascadeLost_fabricKept (portAbsent y n) n x.lost.neighbour.toNat
  have kept := (portAbsent_fabricKept y n).trans after
  refine ⟨?_, ?_, fun g hg hv hf => after.absent g (portAbsent_seen hg ((grp g).symm ▸ hv) ((grp g).symm ▸ hf)), fun h => cascadeLost_stops ?_ _⟩
  · rw [kept.port n, same]
    exact hdest
  · rw [kept.port n, same]
    rfl
  · rw [cascade, flt, left]
    simp only [missing.cscPorts, ← left, grp]
    exact h

/-! ## FEC, RETRAIN and DISABLE (R325, R328, R365) -/

section Held

variable (d : Dev) (n : Nat)

/-- `d` with eight uncorrectable code words counted. -/
def wordsCounted : Dev := d.setPort n { d.port n with fecUncorrected := satAdd16 (d.port n).fecUncorrected 8 }

/-- `d` with RETRAIN of the port written. -/
def retrained : Dev := d.setPort n { d.port n with retrain := true }

/-- `d` with DISABLE of the port written. -/
def disabled (on : Bool) : Dev := d.setPort n { d.port n with disable := on }

theorem wordsCounted_step : PortStep d n { d.port n with fecUncorrected := satAdd16 (d.port n).fecUncorrected 8 } (wordsCounted d n) := portStep_set d n _

theorem retrained_step : PortStep d n { d.port n with retrain := true } (retrained d n) := portStep_set d n _

theorem disabled_step (on : Bool) : PortStep d n { d.port n with disable := on } (disabled d n on) := portStep_set d n _

variable {d n}

theorem klzRetrain_eq : klzRetrain d n = if (d.port n).state = .idle then retrained d n
    else if linkUp (d.port n).state = true then dropLink (retrained d n) n .detect else changePort (retrained d n) n .detect 0 := by
  have state : ((retrained d n).port n).state = (d.port n).state := by rw [(retrained_step d n).1]
  unfold klzRetrain
  rw [Dev.modPort_eq, ← retrained]
  dsimp only
  rw [state]
  cases (d.port n).state <;> rfl

theorem klzRetrain_up (h : linkUp (d.port n).state = true) : klzRetrain d n = dropLink (retrained d n) n .detect := by
  have linked : (d.port n).state ≠ .idle := by
    intro hi
    rw [hi] at h
    cases h
  rw [klzRetrain_eq, if_neg linked, if_pos h]

theorem klzDisable_set : klzDisable d n true = if linkUp (d.port n).state = true then dropLink (disabled d n true) n .idle
    else changePort (disabled d n true) n .idle 0 := by
  have port := (disabled_step d n true).1
  unfold klzDisable
  rw [Dev.modPort_eq, ← disabled]
  dsimp only
  rw [port]
  rfl

theorem klzDisable_cleared : klzDisable d n false = if (d.port n).state == .idle && (d.port n).started then changePort (disabled d n false) n .detect 0
    else disabled d n false := by
  have port := (disabled_step d n false).1
  unfold klzDisable
  rw [Dev.modPort_eq, ← disabled]
  dsimp only
  rw [port]
  rfl

end Held

/-! ## The rows -/

section Rows

variable {s : State} {n : Nat} (hs : asleep s.dev = false) (hn : n < 16)
include hs hn

theorem laneSignalLoss_next : exec (.laneSignalLoss n) s = .next { s with dev := dropLink s.dev n .backoff } :=
  onDev_next (f := fun _ d => dropLink d n .backoff) (decide_eq_true hn) hs

theorem replayTimeout_next : exec (.replayTimeout n) s = .next { s with dev :=
    if (s.dev.port n).replaying || (s.dev.port n).dropping then dropLink s.dev n .backoff else s.dev } :=
  onDev_next (f := fun _ d => if (d.port n).replaying || (d.port n).dropping then dropLink d n .backoff else d) (decide_eq_true hn) hs

theorem uncorrectableCodeWords_next (hup : linkUp (s.dev.port n).state = true) :
    exec (.uncorrectableCodeWords n) s = .next { s with dev := dropLink (wordsCounted s.dev n) n .backoff } := by
  change execUncorrectableCodeWords n s = _
  rw [execUncorrectableCodeWords, onDev_next (show is16 n = true from decide_eq_true hn) hs, if_neg (by simp [hup]), Dev.modPort_eq, wordsCounted]

theorem klzRetrain_next : exec (.klzRetrain n) s = .next { s with dev := klzRetrain s.dev n } :=
  onDev_next (f := fun _ d => klzRetrain d n) (decide_eq_true hn) hs

theorem klzDisable_next (on : Bool) : exec (.klzDisable n on) s = .next { s with dev := klzDisable s.dev n on } :=
  onDev_next (f := fun _ d => klzDisable d n on) (decide_eq_true hn) hs

end Rows

/-! ## The statement -/

/-- Settles O25: a link that is lost is one update of its port where nothing depends on it (`dropLink_step`), and where it was ACTIVE ends what
depends on it (`dropLink_active`). That RETRAIN written in IDLE stays set until DETECT is the model's choice (log entry 57). -/
theorem linksAreLostAndHeld : Obligations.LinksAreLostAndHeld := by
  unfold Obligations.LinksAreLostAndHeld
  intro s n hs hn d x Only
  have moves {y : Port} {e : Dev} (he : PortStep d n y e) (h : linkUp x.state = false) (hy : y.state = x.state) (dest : PortState)
      (hdest : showsNeighbour dest = false) : PortStep d n (y.into dest 0) (changePort e n dest 0) := by
    refine changePort_step he (.inl fun ha => ?_) dest hdest 0
    rw [he.1, hy] at ha
    rw [ha] at h
    cases h
  have loses {y : Port} {e : Dev} (he : PortStep d n y e) (free : PortFree d n) (up : linkUp x.state = true) (hy : y.state = x.state) (dest : PortState)
      (hdest : showsNeighbour dest = false) : PortStep d n (y.lost.into dest 0) (dropLink e n dest) :=
    dropLink_step he (free.step he hy) (hy ▸ up) dest hdest
  refine ⟨fun free up => ⟨?loss, fun wants => ?replay, ?words, ?retrain, ?disable⟩, fun h => ?lossDown, fun hr hd => ?replayNone,
    fun idle => ⟨?retrainIdle, ?disableIdle, fun started => ?enableStarted⟩, fun h hi => ⟨?retrainDown, ?disableDown⟩, fun h => ?enable, fun active => ?active⟩
  case loss => exact ⟨_, laneSignalLoss_next hs hn, loses (portStep_same d n) free up rfl .backoff rfl⟩
  case replay =>
    refine ⟨_, replayTimeout_next hs hn, ?_⟩
    rw [if_pos (by simpa using wants)]
    exact loses (portStep_same d n) free up rfl .backoff rfl
  case words => exact ⟨_, uncorrectableCodeWords_next hs hn up, loses (wordsCounted_step d n) free up rfl .backoff rfl⟩
  case retrain =>
    refine ⟨_, klzRetrain_next hs hn, ?_⟩
    have cleared : ({ x with retrain := true } : Port).lost.into .detect 0 = x.lost.into .detect 0 := by simp [Port.lost, Port.into]
    rw [klzRetrain_up up, ← cleared]
    exact loses (retrained_step d n) free up rfl .detect rfl
  case disable =>
    refine ⟨_, klzDisable_next hs hn true, ?_⟩
    rw [klzDisable_set, if_pos up]
    exact loses (disabled_step d n true) free up rfl .idle rfl
  case lossDown => exact ⟨_, laneSignalLoss_next hs hn, dropLink_down h _⟩
  case replayNone =>
    refine ⟨_, replayTimeout_next hs hn, if_neg ?_⟩
    rw [show (s.dev.port n).replaying = false from hr, show (s.dev.port n).dropping = false from hd]
    exact Bool.false_ne_true
  case retrainIdle =>
    refine ⟨_, klzRetrain_next hs hn, ?_⟩
    rw [klzRetrain_eq, if_pos idle]
    exact retrained_step d n
  case disableIdle =>
    have h : linkUp x.state = false := by rw [idle]; rfl
    refine ⟨_, klzDisable_next hs hn true, ?_⟩
    rw [klzDisable_set, if_neg (by rw [h]; exact Bool.false_ne_true)]
    exact moves (disabled_step d n true) h rfl .idle rfl
  case enableStarted =>
    refine ⟨_, klzDisable_next hs hn false, ?_⟩
    rw [klzDisable_cleared, if_pos (by simpa using ⟨idle, started⟩)]
    exact moves (disabled_step d n false) (by rw [idle]; rfl) rfl .detect rfl
  case retrainDown =>
    refine ⟨_, klzRetrain_next hs hn, ?_⟩
    rw [klzRetrain_eq, if_neg hi, if_neg (by rw [h]; exact Bool.false_ne_true)]
    exact moves (retrained_step d n) h rfl .detect rfl
  case disableDown =>
    refine ⟨_, klzDisable_next hs hn true, ?_⟩
    rw [klzDisable_set, if_neg (by rw [h]; exact Bool.false_ne_true)]
    exact moves (disabled_step d n true) h rfl .idle rfl
  case enable =>
    have held : ¬((s.dev.port n).state == .idle && (s.dev.port n).started) = true := by
      rw [Bool.and_eq_true, beq_iff_eq, not_and_or, Bool.not_eq_true]
      exact h
    refine ⟨_, klzDisable_next hs hn false, ?_⟩
    rw [klzDisable_cleared, if_neg held]
    exact disabled_step d n false
  case active =>
    have up : linkUp x.state = true := by rw [active]; rfl
    have ends {i : Instr} {y : Port} {e : Dev} {dest : PortState} (row : exec i s = .next { s with dev := dropLink e n dest }) (he : PortStep d n y e)
        (hy : y.state = x.state) (hl : y.losses = x.losses) (hdest : linkUp dest = false) : YieldsSome (exec i s) s (ActiveLost d n x) := by
      obtain ⟨isDown, losses, absent, cascade⟩ := dropLink_active he (hy.trans active) hdest
      exact ⟨_, row, isDown, hl ▸ losses, absent, cascade⟩
    have all : ∀ i ∈ [Instr.laneSignalLoss n, .uncorrectableCodeWords n, .klzRetrain n, .klzDisable n true], YieldsSome (exec i s) s (ActiveLost d n x) := by
      rw [List.forall_mem_cons, List.forall_mem_cons, List.forall_mem_cons, List.forall_mem_singleton]
      refine ⟨ends (laneSignalLoss_next hs hn) (portStep_same d n) rfl rfl rfl, ends (uncorrectableCodeWords_next hs hn up) (wordsCounted_step d n) rfl rfl rfl,
        ends ((klzRetrain_next hs hn).trans (by rw [klzRetrain_up up])) (retrained_step d n) rfl rfl rfl,
        ends ((klzDisable_next hs hn true).trans (by rw [klzDisable_set, if_pos up])) (disabled_step d n true) rfl rfl rfl⟩
    intro i hi
    obtain ⟨e, next, isDown, losses, absent, cascade⟩ := all i hi
    exact ⟨e, next, isDown, losses, absent, cascade⟩

end Sys2Proof.Machine
end

section
/-! PROOFS. Ports that train and compare identities (spec/13_koliz_fabric.md R328 to R333, R344; spec/18_power_and_package.md R490). -/

namespace Sys2Proof.Machine

/-! ## Training (R328, R330, R344) -/

/-- A port whose group has started. -/
def Port.grouped (x : Port) : Port := { x with started := true }

/-- A port of a group that starts to train. -/
def Port.starting (x : Port) : Port := if x.state = .idle ∧ x.disable = false then x.grouped.into .detect 0 else x.grouped

/-- One port's part in the start of its group. -/
def startPort (d : Dev) (n : Nat) : Dev :=
  let d := d.modPort n (fun x => { x with started := true })
  if (d.port n).state == .idle && !(d.port n).disable then changePort d n .detect 0 else d

theorem startPort_step (d : Dev) (n : Nat) : PortStep d n (d.port n).starting (startPort d n) := by
  have written : PortStep d n (d.port n).grouped (d.setPort n (d.port n).grouped) := portStep_set d n _
  have begins : startPort d n = if (d.port n).state = .idle ∧ (d.port n).disable = false then changePort (d.setPort n (d.port n).grouped) n .detect 0
      else d.setPort n (d.port n).grouped := by
    change (if (((d.setPort n (d.port n).grouped).port n).state == .idle && !((d.setPort n (d.port n).grouped).port n).disable) = true then _ else _) = _
    rw [written.1]
    simp only [Bool.and_eq_true, beq_iff_eq, Bool.not_eq_true']
    rfl
  rw [begins, Port.starting]
  split
  case isTrue h => exact changePort_step written (.inl (by rw [written.1]; change (d.port n).state ≠ _; rw [h.1]; decide)) .detect rfl 0
  case isFalse => exact written

theorem startPorts_port (j : Nat) : ∀ {l : List Nat} (d : Dev), l.Nodup →
    (l.foldl startPort d).port j = if j ∈ l then (d.port j).starting else d.port j
  | [], _, _ => rfl
  | k :: l, d, once => by
    obtain ⟨hk, once⟩ := List.nodup_cons.mp once
    obtain ⟨started, others, -⟩ := startPort_step d k
    rw [List.foldl_cons, startPorts_port j _ once]
    by_cases hj : j = k
    · simp [hj, hk, started]
    · simp [hj, others j hj]

theorem awake_of {d : Dev} (hs : asleep d = false) (ht : d.sys.tripped = false) : awake d = true := by
  rw [asleep] at hs
  simp [awake, hs, ht]

theorem klzTrainGroupStart_starts {d : Dev} (h : awake d = true) (g : Nat) :
    (∀ n, (klzTrainGroupStart d g).port n = if n / 4 = g then (d.port n).starting else d.port n)
    ∧ klzTrainGroupStart d g = { d with klz := { d.klz with ports := (klzTrainGroupStart d g).klz.ports } } := by
  have starts : klzTrainGroupStart d g = [4 * g, 4 * g + 1, 4 * g + 2, 4 * g + 3].foldl startPort d := if_neg (by simp [h])
  have group (j : Nat) : j ∈ [4 * g, 4 * g + 1, 4 * g + 2, 4 * g + 3] ↔ j / 4 = g := by
    simp only [List.mem_cons, List.not_mem_nil, or_false]
    omega
  rw [starts]
  refine ⟨fun n => ?_, foldl_keeps (R := fun d e : Dev => e = { d with klz := { d.klz with ports := e.klz.ports } }) (fun _ => rfl)
    (fun h k => by rw [k, h]) (fun d n => (startPort_step d n).2.2) _ d⟩
  rw [startPorts_port n d (by simp), if_congr (group n) rfl rfl]

/-- The port moves on from the state an event belongs to, and otherwise stays. -/
theorem portStep_moves {d : Dev} {n : Nat} {source : PortState} (h : (d.port n).state = source) (hs : source ≠ .active) (dest : PortState)
    (hd : showsNeighbour dest = false) : PortStep d n ((d.port n).into dest 0) (portStep d n source dest) := by
  rw [portStep, if_pos (by simpa using h)]
  exact changePort_step (portStep_same d n) (.inl (h ▸ hs)) dest hd 0

theorem portStep_stays {d : Dev} {n : Nat} {source : PortState} (h : (d.port n).state ≠ source) (dest : PortState) : portStep d n source dest = d :=
  if_neg (by simpa using h)

/-- `d` with the requested horizon applied and the port's round trip noted (R344). -/
def roundTripNoted (d : Dev) (n rtt : Nat) : Dev :=
  Dev.setPort { d with klz := { d.klz with trained := some (clampHorizon d.klz.requested) } } n { d.port n with rtt := BitVec.ofNat 16 (min rtt 0xFFFF) }

section Trains

variable {d : Dev} {n : Nat}

theorem portTrainDone_idle (h : (d.port n).state ≠ .train) (ok : Bool) (rtt : Nat) : portTrainDone d n ok rtt = d := if_pos (by simpa using h)

theorem portTrainDone_clockless (h : refclkRuns d (decide (8 ≤ n)) = false) (rtt : Nat) : portTrainDone d n true rtt = d := by
  unfold portTrainDone
  split
  · rfl
  · rw [if_neg (by decide), if_pos (by simp [h])]

variable (htrain : (d.port n).state = .train)
include htrain

theorem portTrainDone_fails (rtt : Nat) : portTrainDone d n false rtt = changePort d n .backoff 0 := by
  rw [portTrainDone, if_neg (by simp [htrain]), if_pos (by decide)]

theorem portTrainDone_trains (h : refclkRuns d (decide (8 ≤ n)) = true) (rtt : Nat) : portTrainDone d n true rtt =
    if 2000 < rtt then changePort (roundTripNoted d n rtt) n .tooFar 0x62 else sendIdent (changePort (roundTripNoted d n rtt) n .up 0) n := by
  rw [portTrainDone, if_neg (by simp [htrain]), if_neg (by decide), if_neg (by simp [h])]
  rfl

end Trains

theorem refclkRuns_eq (d : Dev) (n : Nat) : refclkRuns d (decide (8 ≤ n)) = !(if n < 8 then d.sys.refclkAAbsent else d.sys.refclkBAbsent) := by
  by_cases h : n < 8
  · rw [if_pos h, refclkRuns, if_neg (by simpa using h)]
  · rw [if_neg h, refclkRuns, if_pos (by simpa using h)]

/-! ## Identities (R332, R333) -/

theorem sendIdent_none {d : Dev} (h : d.str.inForce = none) (n : Nat) : sendIdent d n = d := if_pos (by simp [h])

theorem sendIdent_sends {d : Dev} {n : Nat} (h : d.str.inForce.isSome = true) (hup : linkUp (d.port n).state = true) : sendIdent d n =
    emit d n (newPacket d tyIdent 0 (leBytes 2 d.ownDevice ++ leBytes 1 n ++ [0] ++ leBytes 4 d.clp.num ++ leBytes 4 d.clp.den ++ leBytes 4 0)) :=
  if_neg (by simp [Option.isNone_eq_false_iff.mpr h, hup])

/-- A port with the payload of an IDENT kept (R332). -/
def Port.identified (x : Port) (b : List Byte) : Port := { x with ident := some (fieldLe b 0 2, fieldLe b 2 1, fieldLe b 4 4, fieldLe b 8 4) }

/-- A port that knows its neighbour from an IDENT. -/
def Port.knows (x : Port) (b : List Byte) : Port :=
  { x.identified b with neighbour := BitVec.ofNat 12 (fieldLe b 0 2), neighbourPort := BitVec.ofNat 4 (fieldLe b 2 1) }

section Taken

variable {d : Dev} {n : Nat} {p : Packet}

/-- Before a structure is in force an IDENT is kept. -/
theorem identTaken_kept (h : d.str.inForce = none) : PortStep d n ((d.port n).identified p.payload) (identTaken d n p) := by
  have kept : identTaken d n p = d.setPort n ((d.port n).identified p.payload) := by
    change identEval (d.setPort n ((d.port n).identified p.payload)) n = _
    simp only [identEval, Dev.setPort_str, h]
  rw [kept]
  exact portStep_set d n _

/-- A structure in force, it is judged: the cadence first, then the device number. -/
theorem identTaken_judges (h : d.str.inForce.isSome = true) (hup : linkUp (d.port n).state = true) : ∃ e, PortStep d n ((d.port n).knows p.payload) e
    ∧ identTaken d n p = if fieldLe p.payload 4 4 * d.clp.den = d.clp.num * fieldLe p.payload 8 4
        then (if fieldLe p.payload 0 2 % 4096 = d.ownDevice then changePort e n .mismatch 0x69 else changePort e n .active 0)
        else changePort e n .mismatch 0x68 := by
  obtain ⟨st, hst⟩ := Option.isSome_iff_exists.mp h
  have written := portStep_set d n ((d.port n).identified p.payload)
  refine ⟨_, written.set _, ?_⟩
  change identEval (d.setPort n ((d.port n).identified p.payload)) n = _
  unfold identEval
  dsimp only
  rw [written.1, Dev.setPort_str, hst]
  change (if (!linkUp (d.port n).state) = true then _ else if (!(fieldLe p.payload 4 4 * d.clp.den == d.clp.num * fieldLe p.payload 8 4)) = true then _
    else if (fieldLe p.payload 0 2 % 4096 == d.ownDevice) = true then _ else _) = _
  simp only [hup, Bool.not_true, Bool.false_eq_true, ↓reduceIte, Bool.not_eq_true', beq_eq_false_iff_ne, ne_eq, ite_not, beq_iff_eq]
  rfl

end Taken

/-- A port that shows its neighbour in its new state, and on which nothing depends or which stays ACTIVE. -/
theorem changePort_shows {d e : Dev} {n : Nat} {x : Port} (he : PortStep d n x e) {s : PortState} (h : PortFree e n ∨ s = .active) (hs : showsNeighbour s = true)
    (r : Byte) : PortStep d n { x with state := s, reason := r } (changePort e n s r) := by
  obtain ⟨port, -, -⟩ := id he
  have moves : changePort e n s r = e.setPort n ((e.port n).enters s r) := by
    rcases h with free | active
    · exact changePort_free free s r
    · exact changePort_stays (.inr active) r
  rw [moves, enters_shown hs, port]
  exact he.set _

/-! ## The rows -/

section Rows

variable {s : State} {n : Nat} (hs : asleep s.dev = false) (hn : n < 16)
include hs hn

theorem portSignalSeen_next : exec (.portSignalSeen n) s = .next { s with dev := portStep s.dev n .detect .train } :=
  onDev_next (f := fun _ d => portStep d n .detect .train) (decide_eq_true hn) hs

theorem portDetectTimeout_next : exec (.portDetectTimeout n) s = .next { s with dev := portStep s.dev n .detect .backoff } :=
  onDev_next (f := fun _ d => portStep d n .detect .backoff) (decide_eq_true hn) hs

theorem portBackoffExpire_next : exec (.portBackoffExpire n) s = .next { s with dev := portStep s.dev n .backoff .detect } :=
  onDev_next (f := fun _ d => portStep d n .backoff .detect) (decide_eq_true hn) hs

theorem portTrainDone_next (ok : Bool) (rtt : Nat) : exec (.portTrainDone n ok rtt) s = .next { s with dev := portTrainDone s.dev n ok rtt } :=
  onDev_next (f := fun _ d => portTrainDone d n ok rtt) (decide_eq_true hn) hs

end Rows

theorem klzTrainGroupStart_next {s : State} {g : Nat} (hs : asleep s.dev = false) (hg : g < 4) :
    exec (.klzTrainGroupStart g) s = .next { s with dev := klzTrainGroupStart s.dev g } :=
  onDev_next (f := fun _ d => klzTrainGroupStart d g) (decide_eq_true hg) hs

theorem identReceive_next {s : State} {n : Nat} {p : Packet} (hs : asleep s.dev = false) (h : Reaches s.dev n p) (ht : p.type = tyIdent) :
    exec (.identReceive n p) s = .next { s with dev := identTaken (received s.dev p) n p } := by
  change execIdentReceive n p s = _
  rw [execIdentReceive, onDev_next (show is16 n = true from decide_eq_true h.port_lt) hs, if_pos (by simpa using ht), arrive_reaches h]

/-! ## The statement -/

/-- Settles O26: each event moves its port on from the state it belongs to (`changePort_step`), and an identity is judged by its cadence and its
device number (`identTaken_judges`). -/
theorem portsTrainAndIdentify : Obligations.PortsTrainAndIdentify := by
  unfold Obligations.PortsTrainAndIdentify
  intro s hs d Moves Stays
  refine ⟨fun n => ⟨fun hn h => ?signal, fun hn h => ?timeout, fun hn h => ?backoff, fun rtt hn h => ?failed⟩,
    fun n ok rtt hn => ⟨fun h => ⟨?noSignal, ?noTimeout⟩, fun h => ?noBackoff, fun h => ?noTrain, fun h => ?clockless⟩,
    fun g hg ht => ?group, fun n rtt hn htrain hclock => ?trained, fun n p hreach ht => ?ident⟩
  case signal => exact ⟨_, portSignalSeen_next hs hn, portStep_moves h (by decide) .train rfl⟩
  case timeout => exact ⟨_, portDetectTimeout_next hs hn, portStep_moves h (by decide) .backoff rfl⟩
  case backoff => exact ⟨_, portBackoffExpire_next hs hn, portStep_moves h (by decide) .detect rfl⟩
  case failed =>
    refine ⟨_, portTrainDone_next hs hn false rtt, ?_⟩
    rw [portTrainDone_fails h]
    exact changePort_step (portStep_same d n) (.inl (by rw [h]; decide)) .backoff rfl 0
  case noSignal => exact ⟨_, portSignalSeen_next hs hn, portStep_stays h _⟩
  case noTimeout => exact ⟨_, portDetectTimeout_next hs hn, portStep_stays h _⟩
  case noBackoff => exact ⟨_, portBackoffExpire_next hs hn, portStep_stays h _⟩
  case noTrain => exact ⟨_, portTrainDone_next hs hn ok rtt, portTrainDone_idle h ok rtt⟩
  case clockless => exact ⟨_, portTrainDone_next hs hn true rtt, portTrainDone_clockless ((refclkRuns_eq d n).trans (by rw [h]; rfl)) rtt⟩
  case group =>
    obtain ⟨ports, only⟩ := klzTrainGroupStart_starts (awake_of hs ht) g
    exact ⟨_, klzTrainGroupStart_next hs hg, fun n h => (ports n).trans (if_pos h), fun n h => (ports n).trans (if_neg h), only⟩
  case trained =>
    intro dt x
    have runs : refclkRuns d (decide (8 ≤ n)) = true := (refclkRuns_eq d n).trans (by rw [hclock]; rfl)
    have noted : PortStep dt n x (roundTripNoted d n rtt) := portStep_set dt n x
    have free : PortFree (roundTripNoted d n rtt) n := .inl (by rw [noted.1]; change (d.port n).state ≠ _; rw [htrain]; decide)
    have row := (portTrainDone_next hs hn true rtt).trans (by rw [portTrainDone_trains htrain runs])
    refine ⟨fun far => ⟨_, row, ?_⟩, fun near => ⟨_, row, ?_⟩⟩
    · rw [if_pos far]
      exact changePort_step noted free .tooFar rfl 0x62
    · rw [if_neg (by omega)]
      have up := changePort_step noted free .up rfl 0
      generalize changePort (roundTripNoted d n rtt) n .up 0 = e at up
      obtain ⟨port, -, only⟩ := id up
      have str : e.str = d.str := by rw [only]
      refine ⟨e, up, fun h => sendIdent_none (str ▸ h) n, fun h => ?_⟩
      have own : newPacket e tyIdent = newPacket d tyIdent ∧ e.ownDevice = d.ownDevice ∧ e.clp = d.clp := by
        rw [only]
        exact ⟨rfl, rfl, rfl⟩
      obtain ⟨packet, device, clp⟩ := own
      rw [sendIdent_sends (str ▸ h) (by rw [port]; rfl), packet, device, clp]
  case ident =>
    intro dev x known same
    have row := identReceive_next hs hreach ht
    refine ⟨fun h => ⟨_, row, identTaken_kept h⟩, fun h hsame hdev => ?active, fun h hfree hsame => ?cadence, fun h hfree hsame hdev => ?duplicate⟩
    all_goals obtain ⟨e, shown, judged⟩ := identTaken_judges (d := received d p) (p := p) h hreach.state.2
    all_goals have judges {f : Dev} (hf : identTaken (received d p) n p = f) := row.trans (congrArg (fun f => Host.Outcome.next { s with dev := f }) hf)
    case active => exact ⟨_, judges (judged.trans ((if_pos hsame).trans (if_neg hdev))), changePort_shows shown (.inr rfl) rfl 0⟩
    case cadence => exact ⟨_, judges (judged.trans (if_neg hsame)), changePort_shows shown (.inl (PortFree.step (d := received d p) hfree shown rfl)) rfl 0x68⟩
    case duplicate =>
      exact ⟨_, judges (judged.trans ((if_pos hsame).trans (if_pos hdev))),
        changePort_shows shown (.inl (PortFree.step (d := received d p) hfree shown rfl)) rfl 0x69⟩

end Sys2Proof.Machine
end

section
/-! PROOFS. Packets that leave by a port, echoes and forwarding (spec/13_koliz_fabric.md R323, R326, R331, R340, R343, R345). -/

namespace Sys2Proof.Machine

/-! ## One packet on the lanes (R323, R326) -/

theorem length_packetBytes (p : Packet) : (packetBytes p).length = 32 + p.payload.length := by
  simp only [packetBytes, List.length_append, List.length_cons, List.length_nil, length_leBytes]

/-- Bytes padded to a length are padded once. -/
theorem sliceBytes_sliceBytes (b : List Byte) (n : Nat) : sliceBytes (sliceBytes b 0 n) 0 n = sliceBytes b 0 n := by
  have len : (sliceBytes b 0 n).length = n := by simp [sliceBytes]
  conv_lhs => rw [sliceBytes]
  simp [len]

theorem flitBytes_slice (type flags : Nat) (seq ack : BitVec 16) (vc count first : Nat) (slots : List Byte) :
    flitBytes type flags seq ack vc count first (sliceBytes slots 0 242) = flitBytes type flags seq ack vc count first slots := by
  simp only [flitBytes, sliceBytes_sliceBytes]

/-- The flit in which a packet of 32 bytes leaves alone. -/
def Port.soleFlit (x : Port) (q : Packet) : List Byte := flitBytes 1 0 x.txSeq (x.rxSeq - 1) 0 0 0 (packetBytes q)

/-- A port that has put a packet of 32 bytes on its lanes. -/
def Port.puts (x : Port) (q : Packet) : Port :=
  { x with line := x.line ++ [.packet q], lanes := x.lanes ++ [x.soleFlit q], sent := x.sent ++ [(x.txSeq, x.soleFlit q)],
           retry := x.retry ++ [(x.txSeq, q)], txSeq := x.txSeq + 1 }

theorem packFlits_sole {q : Packet} (hq : q.payload = []) (x : Port) : packFlits x.txSeq (x.rxSeq - 1) [0] (packetBytes q) = [(x.txSeq, x.soleFlit q)] := by
  have len : (packetBytes q).length = 32 := by rw [length_packetBytes, hq]; rfl
  simp [packFlits, len, Port.soleFlit, flitBytes_slice]

/-- A port that has put packets on its lanes, end to end. -/
def Port.lines (x : Port) (ps : List Packet) : Port :=
  let flits := packFlits x.txSeq (x.rxSeq - 1) ((batchSpans ps).map (fun e => e.2.1)) (ps.flatMap packetBytes)
  { x with line := x.line ++ ps.map PortOut.packet, lanes := x.lanes ++ flits.map (fun f => f.2), sent := x.sent ++ flits,
           retry := x.retry ++ (batchSpans ps).map (fun e => (x.txSeq + BitVec.ofNat 16 ((e.2.2 - 1) / 242), e.1)),
           txSeq := x.txSeq + BitVec.ofNat 16 flits.length }

theorem lines_sole {q : Packet} (hq : q.payload = []) (x : Port) : x.lines [q] = x.puts q := by
  have spans : batchSpans [q] = [(q, 0, 32)] := by simp [batchSpans, hq]
  have first : x.txSeq + BitVec.ofNat 16 ((32 - 1) / 242) = x.txSeq := BitVec.add_zero _
  simp only [Port.lines, spans, List.map_cons, List.map_nil, List.flatMap_cons, List.flatMap_nil, List.append_nil, packFlits_sole hq, first]
  rfl

/-- `d` whose ECHO has left when one of the packets is it (R345). -/
def echoLeft (d : Dev) (ps : List Packet) : Dev :=
  if ps.any (fun p => p.type == tyEcho && d.klz.echoTag == some p.tag) then { d with klz := { d.klz with echoGo := false } } else d

theorem putLine_eq (d : Dev) (n : Nat) (ps : List Packet) : putLine d n ps =
    ps.foldl (fun d p => d.count 7 ((p.payload.length + 63) / 64)) (echoLeft (d.setPort n ((d.port n).lines ps)) ps) := rfl

/-- From `d` to `e` port `n` becomes `x`, GO becomes `go`, and packets are counted. -/
def PortSends (d : Dev) (n : Nat) (x : Port) (go : Bool) (e : Dev) : Prop :=
  e.port n = x ∧ (∀ k, k ≠ n → e.port k = d.port k) ∧ e.klz = { d.klz with echoGo := go, ports := e.klz.ports } ∧ e = { d with klz := e.klz, cnt := e.cnt }

/-- The outstanding ECHO goes out in a flit of its own, and GO falls. -/
theorem putLine_echo {q : Packet} (hq : q.payload = []) {d : Dev} (ht : q.type = tyEcho) (htag : d.klz.echoTag = some q.tag) (n : Nat) :
    PortSends d n ((d.port n).puts q) false (putLine d n [q]) := by
  have left : echoLeft (d.setPort n ((d.port n).puts q)) [q] = { d.setPort n ((d.port n).puts q) with klz := { (d.setPort n ((d.port n).puts q)).klz with echoGo := false } } :=
    if_pos (by simp [ht, Dev.setPort, htag])
  rw [putLine_eq, lines_sole hq, left]
  exact ⟨Dev.port_setPort_self d n _, fun k hk => (Dev.port_setPort d n k _).trans (if_neg hk), rfl, rfl⟩

/-- There are credits for a packet of 32 bytes on channel 3, and room for it in the retry buffer. -/
def Port.room (x : Port) (q : Packet) : Bool := decide (tabGet 0 x.used (creditKey q) + 1 ≤ 256) && decide (x.sent.length < 1024)

section Alone

variable {q : Packet} (hq : q.payload = []) (hch : channelOf q.type = 3) {x : Port} (hw : x.waiting = [q])
include hq hch hw

theorem sendable_alone (ch : Nat) : sendable x 0 ch = if ch = 3 ∧ x.room q = true then some q else none := by
  have units : packetUnits q = 1 := by rw [packetUnits, hq]; rfl
  have flits : x.sent.length + (0 + 32 + q.payload.length + 241) / 242 ≤ 1024 ↔ x.sent.length < 1024 := by rw [hq]; rfl
  unfold sendable
  rw [hw]
  by_cases h : ch = 3
  · subst h
    have cap : creditCap 3 = 256 := rfl
    cases hr : x.room q with
    | true =>
      rw [Port.room, Bool.and_eq_true, decide_eq_true_eq, decide_eq_true_eq] at hr
      simp [hch, units, flits, cap, hr]
    | false =>
      rw [Port.room, Bool.and_eq_false_iff, decide_eq_false_iff_not, decide_eq_false_iff_not] at hr
      rcases hr with hr | hr <;> simp [hch, units, flits, cap, hr]
  · simp [hch, h, Ne.symm h]

theorem nextPacket_room (h : x.room q = true) : nextPacket x 0 = some (q, takePacket x q) := by
  simp [nextPacket, sendable_alone hq hch hw, h]

theorem nextPacket_full (h : x.room q = false) : nextPacket x 0 = none := by
  simp [nextPacket, sendable_alone hq hch hw, h]

end Alone

/-- The port of `d` at which `q` waits alone sends it, or keeps it. -/
theorem drainWaiting_alone {q : Packet} (hq : q.payload = []) (hch : channelOf q.type = 3) {d : Dev} {n : Nat} (hw : (d.port n).waiting = [q]) :
    drainWaiting d n = if (d.port n).room q then putLine (d.setPort n (takePacket (d.port n) q)) n [q] else d := by
  unfold drainWaiting
  rw [hw]
  cases h : (d.port n).room q with
  | true => simp [pickPackets, nextPacket_room hq hch hw h]
  | false => simp [pickPackets, nextPacket_full hq hch hw h]

/-! ## Forwarding (R331, R340, R343) -/

theorem arrive_forwards {d : Dev} {port : Nat} {p : Packet} (hup : linkUp (d.port port).state = true) (hc : carries (d.port port).state p = true)
    (hf : d.str.inForce.isSome = true) (hh : hopType p.type = false) (hd : p.dest.toNat ≠ d.ownDevice) (own : Dev → Dev) :
    arrive d port p own = forward (received d p) p := by
  have away : (p.dest.toNat == (d.count 8 ((p.payload.length + 63) / 64)).ownDevice) = false := beq_eq_false_iff_ne.mpr hd
  unfold arrive
  simp only [hup, hc, Dev.count_str, Option.isNone_eq_false_iff.mpr hf, hh, away, Bool.not_true, Bool.not_false, Bool.false_and, Bool.and_false, Bool.and_self,
    Bool.false_eq_true, ↓reduceIte]
  rfl

section Forward

variable {d : Dev} {p : Packet}

theorem forward_drops (h : 64 ≤ p.hops.toNat) : forward d p = { d with klz := { d.klz with ttlDrops := sat16 d.klz.ttlDrops, ttlDrop := true } } := if_pos h

theorem forward_routed {n : Nat} (h : p.hops.toNat < 64) (hn : routePort d p.dest.toNat = some n) : forward d p = emit d n { p with hops := p.hops + 1 } := by
  rw [forward, if_neg (by omega), hn]

theorem forward_unrouted (h : p.hops.toNat < 64) (hn : routePort d p.dest.toNat = none) (hr : isRequest p = true) : forward d p = sendResponse d p 1 [] := by
  rw [forward, if_neg (by omega), hn]
  exact if_pos hr

end Forward

/-! ## Echoes (R345) -/

/-- The ECHO that KLZ_ECHO_GO sends. -/
def echoPacket (d : Dev) : Packet := { newPacket d tyEcho d.klz.echoDevice.toNat [] with tag := d.klz.tagNext }

/-- `d` with an ECHO outstanding. -/
def echoGoes (d : Dev) : Dev := { d with klz := { d.klz with tagNext := d.klz.tagNext + 1, echoTag := some d.klz.tagNext, echoGo := true } }

section Go

variable {d : Dev}

theorem klzEchoGo_own (h : d.str.inForce.isSome = true ∧ d.klz.echoDevice.toNat = d.ownDevice) :
    klzEchoGo d = { d with klz := { d.klz with echoDone := true, echoRtt := 0 } } := if_pos (by simpa using h)

variable (h : ¬(d.str.inForce.isSome = true ∧ d.klz.echoDevice.toNat = d.ownDevice))
include h

theorem klzEchoGo_unrouted (hn : routePort d d.klz.echoDevice.toNat = none) : klzEchoGo d = { d with klz := { d.klz with echoFailed := true } } := by
  rw [klzEchoGo]
  dsimp only
  rw [if_neg (by simpa using h), hn]

theorem klzEchoGo_routed {n : Nat} (hn : routePort d d.klz.echoDevice.toNat = some n) : klzEchoGo d = emit (echoGoes d) n (echoPacket d) := by
  rw [klzEchoGo]
  dsimp only
  rw [if_neg (by simpa using h), hn]
  rfl

end Go

/-- The ECHO as it leaves a port: in class B from a dateline on (R343). -/
def echoAs (d : Dev) (x : Port) : Packet := { echoPacket d with flags := if x.dateline then 1 else 0 }

/-- A port with one packet waiting. -/
def Port.queues (x : Port) (q : Packet) : Port := { x with waiting := [q] }

theorem takePacket_queues {x : Port} {q : Packet} (hq : q.payload = []) (hw : x.waiting = []) :
    takePacket (x.queues q) q = { x with used := tabSet 0 x.used (creditKey q) (tabGet 0 x.used (creditKey q) + 1) } := by
  have units : packetUnits q = 1 := by rw [packetUnits, hq]; rfl
  have left : [q].erase q = x.waiting := by rw [List.erase_cons_head, hw]
  change ({ x with waiting := [q].erase q, used := _ } : Port) = _
  rw [left, units]
  rfl

theorem PortSends.after {d e f : Dev} {n : Nat} {x y : Port} {go : Bool} (h : PortStep d n x e) (k : PortSends e n y go f) : PortSends d n y go f := by
  obtain ⟨-, others, only⟩ := h
  obtain ⟨port, rest, klz, dev⟩ := k
  refine ⟨port, fun i hi => (rest i hi).trans (others i hi), ?_, ?_⟩
  · rw [klz, only]
  · rw [dev, only]

/-- An ECHO at a port where nothing waits leaves at once, or waits alone. -/
theorem emit_echo {d : Dev} {n : Nat} (hw : (d.port n).waiting = []) : let x := (d.port n).queues (echoAs d (d.port n)); let q := echoAs d (d.port n)
    (x.room q = true → PortSends (echoGoes d) n ((takePacket x q).puts q) false (emit (echoGoes d) n (echoPacket d)))
    ∧ (x.room q = false → PortSends (echoGoes d) n x true (emit (echoGoes d) n (echoPacket d))) := by
  intro x q
  have flagged : (if (d.port n).dateline = true then { echoPacket d with flags := (echoPacket d).flags ||| 1 } else echoPacket d) = q := by
    change _ = ({ echoPacket d with flags := if (d.port n).dateline then 1 else 0 } : Packet)
    cases (d.port n).dateline with
    | false => rfl
    | true => change ({ echoPacket d with flags := 0#8 ||| 1#8 } : Packet) = _; rfl
  have queued : emit (echoGoes d) n (echoPacket d) = drainWaiting ((echoGoes d).setPort n x) n := by
    change drainWaiting ((echoGoes d).setPort n { d.port n with waiting := (d.port n).waiting ++ [if (d.port n).dateline = true then _ else _] }) n = _
    rw [flagged, hw]
    rfl
  have step := portStep_set (echoGoes d) n x
  generalize (echoGoes d).setPort n x = e at queued step
  obtain ⟨port, -, only⟩ := id step
  rw [queued, drainWaiting_alone (q := q) rfl rfl (by rw [port]; rfl), port]
  refine ⟨fun room => ?_, fun full => ?_⟩
  · have taken := step.set (takePacket x q)
    rw [if_pos room]
    have tag : (e.setPort n (takePacket x q)).klz.echoTag = some q.tag := by rw [only]; rfl
    have sends := putLine_echo (q := q) rfl rfl tag n
    rw [taken.1] at sends
    exact sends.after taken
  · rw [if_neg (by simp [full])]
    exact ⟨port, step.2.1, by rw [only]; rfl, by rw [only]⟩

theorem echoTaken_routed {d : Dev} {p : Packet} {n : Nat} (h : routePort d p.src.toNat = some n) :
    echoTaken d p = emit d n { newPacket d tyEchoResp p.src.toNat [] with tag := p.tag } := by
  rw [echoTaken, h]

/-! ## The statement -/

section Rows

variable {s : State} {port : Nat} {p : Packet} (hs : asleep s.dev = false)
include hs

theorem klzEchoGo_next : exec .klzEchoGo s = .next { s with dev := klzEchoGo s.dev } := by
  change execKlzEchoGo s = _
  rw [execKlzEchoGo, onDev_true_next hs]

theorem echoReceive_next (h : Reaches s.dev port p) (ht : p.type = tyEcho) :
    exec (.echoReceive port p) s = .next { s with dev := echoTaken (received s.dev p) p } := by
  change execEchoReceive port p s = _
  rw [execEchoReceive, onDev_next (show is16 port = true from decide_eq_true h.port_lt) hs, if_pos (by simpa using ht), arrive_reaches h]

theorem echoRespReceive_next (ht : p.type = tyEchoResp) (hi : intact p = true) (hd : p.dest.toNat = s.dev.ownDevice) (ns : Nat) :
    exec (.echoRespReceive p ns) s = .next { s with dev := echoAnswered s.dev p ns } := by
  change execEchoRespReceive p ns s = _
  rw [execEchoRespReceive, onDev_true_next hs, if_pos (by simp [ht, hi, hd])]

theorem echoTimeout_next : exec .echoTimeout s = .next { s with dev :=
    if s.dev.klz.echoTag.isSome then { s.dev with klz := { s.dev.klz with echoFailed := true, echoTag := none, echoGo := false } } else s.dev } := by
  change execEchoTimeout s = _
  rw [execEchoTimeout, onDev_true_next hs]

theorem klzForward_next (hp : port < 16) (hup : linkUp (s.dev.port port).state = true) (hc : carries (s.dev.port port).state p = true)
    (hf : s.dev.str.inForce.isSome = true) (hh : hopType p.type = false) (hd : p.dest.toNat ≠ s.dev.ownDevice) :
    exec (.klzForward port p) s = .next { s with dev := forward (received s.dev p) p } := by
  change execKlzForward port p s = _
  rw [execKlzForward, onDev_next (show is16 port = true from decide_eq_true hp) hs, if_neg (by simp [hh, hd]), arrive_forwards hup hc hf hh hd]

end Rows

/-- Settles O27. How an ECHO goes out follows from its being alone at its port (`emit_echo`). That an ECHO to this device is answered at once, and one to a
device without a route fails at once, is log entry 57; that a DATA flit acknowledges the last flit received in order is log entry 61: both are the
model's choices. -/
theorem packetsLeaveAndEchoesReturn : Obligations.PacketsLeaveAndEchoesReturn := by
  unfold Obligations.PacketsLeaveAndEchoesReturn
  intro s hs d own
  have go {e : Dev} (h : klzEchoGo d = e) : exec .klzEchoGo s = .next { s with dev := e } := h ▸ klzEchoGo_next hs
  refine ⟨fun h => ⟨_, go (klzEchoGo_own h), rfl⟩, fun n h hn => ⟨_, go (klzEchoGo_routed h hn), rfl⟩, fun h hn => ⟨_, go (klzEchoGo_unrouted h hn), rfl⟩,
    fun n away hn hw => ?alone, fun port p n h ht hn => ⟨_, echoReceive_next hs h ht, ?answers⟩,
    fun p ns ht hi hd => ⟨fun h => ⟨_, echoRespReceive_next hs ht hi hd ns, if_pos (by simpa using h)⟩,
      fun h => ⟨_, echoRespReceive_next hs ht hi hd ns, if_neg (by simpa using h)⟩⟩,
    fun h => ⟨_, echoTimeout_next hs, if_pos h⟩, fun h => ⟨_, echoTimeout_next hs, if_neg (by simp [show s.dev.klz.echoTag = none from h])⟩,
    fun port p hp hup hc hf hh hd => ?forwards⟩
  case alone =>
    intro x q sent room bytes
    obtain ⟨sends, waits⟩ := emit_echo hw
    have fits : (x.queues (echoAs d x)).room (echoAs d x) = true ↔ room := by
      change (decide _ && decide _) = true ↔ _
      rw [Bool.and_eq_true, decide_eq_true_eq, decide_eq_true_eq]
      rfl
    refine ⟨fun h => ⟨_, go (klzEchoGo_routed away hn), ?_⟩, fun h => ⟨_, go (klzEchoGo_routed away hn), ?_⟩⟩
    · have out := sends (fits.mpr h)
      rw [takePacket_queues rfl hw] at out
      exact out
    · exact waits (Bool.eq_false_iff.mpr (h ∘ fits.mp))
  case answers => exact echoTaken_routed ((routePort_congr rfl rfl _).trans hn)
  case forwards =>
    have row := klzForward_next hs hp hup hc hf hh hd
    have routes (dev : Nat) : routePort (received d p) dev = routePort d dev := routePort_congr rfl rfl dev
    have goes {e : Dev} (h : forward (received d p) p = e) := row.trans (congrArg (fun e => Host.Outcome.next { s with dev := e }) h)
    refine ⟨fun h => ⟨_, goes (forward_drops h), rfl⟩, fun n h hn => ⟨_, goes (forward_routed h ((routes _).trans hn)), rfl⟩,
      fun n h hn hr hsrc => ⟨_, goes ((forward_unrouted h ((routes _).trans hn) hr).trans (sendResponse_routed ((routes _).trans hsrc) _ _)), rfl⟩⟩

end Sys2Proof.Machine
end

section
/-! PROOFS. Flits received: refusals, acknowledgements, replays and the packets out of them (spec/13_koliz_fabric.md R323 to R326). -/

namespace Sys2Proof.Machine

/-! ## A port that takes a flit (R324, R326) -/

theorem natBits_low2 (v : Nat) : natBits v 1 0 = v % 4 := by simp [natBits]

/-- A port whose flits and packets are acknowledged up to a number. -/
def Port.acked (x : Port) (a : BitVec 16) : Port :=
  { x with retry := x.retry.filter (fun r => decide (0 < flitDiff r.1 a)), sent := x.sent.filter (fun r => decide (0 < flitDiff r.1 a)) }

/-- A port that takes an ACK: a replay goes on while the ACK frees nothing of it. -/
def Port.resumes (x : Port) (a : BitVec 16) : Port :=
  { x.acked a with replaying := x.replaying && (x.acked a).sent.length == x.sent.length && !(x.acked a).sent.isEmpty }

/-- A port that a NAK makes send the rest of its flits again. -/
def Port.resends (x : Port) (a : BitVec 16) : Port :=
  { x.acked a with replaying := true, replays := sat16 x.replays, line := x.line ++ [.replay a], lanes := x.lanes ++ (x.acked a).sent.map (·.2) }

/-- A port to which a flit gives credits back. -/
def Port.credited (x : Port) (f : Flit) : Port :=
  let k := 2 * (flitU f 6 1 % 4) + bit (natBit (flitU f 6 1) 2)
  { x with used := tabSet 0 x.used k (tabGet 0 x.used k - flitU f 7 1) }

theorem waiting_resumes (x : Port) (a : BitVec 16) : (x.resumes a).waiting = x.waiting := rfl

theorem waiting_resends (x : Port) (a : BitVec 16) : (x.resends a).waiting = x.waiting := rfl

theorem credited_resumes (x : Port) (a : BitVec 16) (f : Flit) : (x.resumes a).credited f =
    let sent := (x.acked a).sent
    { x with used := (x.credited f).used, retry := (x.acked a).retry, sent := sent, replaying := x.replaying && sent.length == x.sent.length && !sent.isEmpty } := rfl

theorem credited_resends (x : Port) (a : BitVec 16) (f : Flit) : (x.resends a).credited f =
    let sent := (x.acked a).sent
    { x with used := (x.credited f).used, retry := (x.acked a).retry, sent := sent, replaying := true, replays := sat16 x.replays,
             line := x.line ++ [.replay a], lanes := x.lanes ++ sent.map (·.2) } := rfl

section Flit

variable {d : Dev} {n : Nat} {f : Flit}

theorem flitAck_none (hnak : natBit (flitU f 1 1) 0 = false) (hack : natBit (flitU f 1 1) 1 = false) : flitAck d n f = d := if_pos (by simp [hnak, hack])

theorem flags_none (h : natBits (flitU f 1 1) 1 0 = 0) : natBit (flitU f 1 1) 0 = false ∧ natBit (flitU f 1 1) 1 = false := by
  rw [natBits_low2] at h
  simp only [natBit, Nat.testBit_eq_decide_div_mod_eq, decide_eq_false_iff_not]
  omega

theorem flags_ack (h : natBits (flitU f 1 1) 1 0 = 2) : natBit (flitU f 1 1) 0 = false ∧ natBit (flitU f 1 1) 1 = true := by
  rw [natBits_low2] at h
  simp only [natBit, Nat.testBit_eq_decide_div_mod_eq, decide_eq_false_iff_not, decide_eq_true_eq]
  omega

theorem flitAck_ack (hnak : natBit (flitU f 1 1) 0 = false) (hack : natBit (flitU f 1 1) 1 = true) :
    flitAck d n f = drainWaiting (d.setPort n ((d.port n).resumes (BitVec.ofNat 16 (flitU f 4 2)))) n := by
  rw [flitAck, if_neg (by simp [hack]), if_neg (by simp [hnak])]
  rfl

theorem flitAck_nak (hnak : natBit (flitU f 1 1) 0 = true) : flitAck d n f = d.setPort n ((d.port n).resends (BitVec.ofNat 16 (flitU f 4 2))) := by
  rw [flitAck, if_neg (by simp [hnak]), if_pos hnak]
  rfl

theorem flitCredit_eq : flitCredit d n f = drainWaiting (d.setPort n ((d.port n).credited f)) n := by
  unfold flitCredit
  rw [natBits_low2]
  rfl

theorem PortStep.quiet {e : Dev} {x : Port} (h : PortStep d n x e) (hx : x.waiting = []) : PortStep d n x (drainWaiting e n) := by
  rwa [drainWaiting_empty (by rw [h.1]; exact hx)]

/-- A port at which nothing waits takes its credits, and nothing leaves. -/
theorem flitCredit_quiet {e : Dev} {x : Port} (h : PortStep d n x e) (hx : x.waiting = []) : PortStep d n (x.credited f) (flitCredit e n f) := by
  rw [flitCredit_eq, h.1]
  exact (h.set _).quiet hx

end Flit

/-! ## What acknowledgements leave of the receiver -/

/-- From `d` to `e` packets may have left, and port `n` has received what it had. -/
structure Answers (d : Dev) (n : Nat) (e : Dev) : Prop where
  talked : Talked d e
  rx : (e.port n).rx = (d.port n).rx

theorem answers_drains {d : Dev} {n : Nat} {x : Port} (h : x.rx = (d.port n).rx) : Answers d n (drainWaiting (d.setPort n x) n) := by
  refine ⟨talked_trans (talked_setPort d n x) (drainWaiting_talked _ n), ?_⟩
  rw [(drainWaiting_fabricKept (d.setPort n x) n).port n, Dev.port_setPort_self]
  exact h

theorem flitAck_answers (d : Dev) (n : Nat) (f : Flit) : Answers d n (flitAck d n f) := by
  cases hnak : natBit (flitU f 1 1) 0 with
  | true =>
    rw [flitAck_nak hnak]
    exact ⟨talked_setPort d n _, by rw [Dev.port_setPort_self]; rfl⟩
  | false =>
    cases hack : natBit (flitU f 1 1) 1 with
    | true =>
      rw [flitAck_ack hnak hack]
      exact answers_drains rfl
    | false =>
      rw [flitAck_none hnak hack]
      exact ⟨talked_refl d, rfl⟩

theorem flitCredit_answers (d : Dev) (n : Nat) (f : Flit) : Answers d n (flitCredit d n f) := by
  rw [flitCredit_eq]
  exact answers_drains rfl

/-- A device that has taken a flit's acknowledgement and its credits. -/
theorem flitAnswered (d : Dev) (n : Nat) (f : Flit) : Answers d n (flitCredit (flitAck d n f) n f) :=
  ⟨talked_trans (flitAck_answers d n f).talked (flitCredit_answers _ n f).talked, (flitCredit_answers _ n f).rx.trans (flitAck_answers d n f).rx⟩

/-! ## The flit as a whole (R323, R324) -/

section Receive

variable {s : State} {n : Nat} {f : Flit} (hs : asleep s.dev = false) (hn : n < 16) (hup : linkUp (s.dev.port n).state = true)
include hs hn hup

theorem flitReceive_refused (h : flitOk f = false ∨ (flitU f 0 1 = 1 ∧ BitVec.ofNat 16 (flitU f 2 2) ≠ (s.dev.port n).rxSeq)) :
    exec (.flitReceive n f) s = .next { s with dev := flitRefuse s.dev n } := by
  change execFlitReceive n f s = _
  rw [execFlitReceive, onDev_next (show is16 n = true from decide_eq_true hn) hs]
  unfold flitReceive
  rw [if_neg (by simp [hup])]
  rcases h with h | ⟨type, seq⟩
  · rw [if_pos (by simp [h])]
  · simp [type, seq]

theorem flitReceive_idle (hok : flitOk f = true) (ht : flitU f 0 1 = 0) (hd : (s.dev.port n).dropping = false) :
    exec (.flitReceive n f) s = .next { s with dev := flitCredit (flitAck s.dev n f) n f } := by
  change execFlitReceive n f s = _
  rw [execFlitReceive, onDev_next (show is16 n = true from decide_eq_true hn) hs]
  unfold flitReceive
  rw [if_neg (by simp [hup]), if_neg (by simp [hok]), if_neg (by simp [ht]), if_pos (by simp [ht, hd])]

theorem flitReceive_data (hok : flitOk f = true) (ht : flitU f 0 1 = 1) (hseq : BitVec.ofNat 16 (flitU f 2 2) = (s.dev.port n).rxSeq) :
    exec (.flitReceive n f) s = .next { s with dev := flitData s.nv (flitCredit (flitAck s.dev n f) n f) n f } := by
  change execFlitReceive n f s = _
  rw [execFlitReceive, onDev_next (show is16 n = true from decide_eq_true hn) hs]
  unfold flitReceive
  rw [if_neg (by simp [hup]), if_neg (by simp [hok]), if_pos (by simp [ht]), if_neg (by simp [hseq])]

end Receive

theorem flitRefuse_first {d : Dev} {n : Nat} (h : (d.port n).dropping = false) :
    flitRefuse d n = d.setPort n (Port.sendIdle { d.port n with dropping := true, line := (d.port n).line ++ [.nak ((d.port n).rxSeq - 1)] } 3 ((d.port n).rxSeq - 1) 0 0) := by
  change d.setPort n (if (d.port n).dropping = true then _ else _) = _
  rw [h]
  rfl

theorem flitRefuse_again {d : Dev} {n : Nat} (h : (d.port n).dropping = true) : flitRefuse d n = d.setPort n (d.port n) := by
  change d.setPort n (if (d.port n).dropping = true then _ else _) = _
  rw [if_pos h]

/-! ## The packets out of a DATA flit (R323, R326) -/

/-- The bytes of packets that a DATA flit continues, after those received in part. -/
def flitStream (rx : List Byte) (f : Flit) : List Byte :=
  let slots := sliceBytes f.bytes 0x0A 242
  if rx.isEmpty then (if flitU f 8 2 == 0xFFFF then [] else slots.drop (flitU f 8 2)) else rx ++ slots

/-- A port that has taken a DATA flit, with `rest` of a packet in hand. -/
def Port.takes (f : Flit) (rest : List Byte) (x : Port) : Port :=
  let seq := BitVec.ofNat 16 (flitU f 2 2)
  Port.sendIdle { x with rx := rest, rxSeq := seq + 1, dropping := false, line := x.line ++ [.ack seq] } 2 seq 0 0

/-- A port that returns a packet's buffer space. -/
def Port.returns (p : Packet) (x : Port) : Port :=
  Port.sendIdle { x with line := x.line ++ [.credit (creditKey p) (packetUnits p)] } 0 0 (creditKey p / 2 + 4 * (creditKey p % 2)) (packetUnits p)

theorem packetIn_eq (nv : Nv) (n : Nat) (d : Dev) (p : Packet) : packetIn nv n d p = arrive (d.modPort n (Port.returns p)) n p (packetEnds nv n p) := rfl

theorem flitData_eq {d e : Dev} {n : Nat} (h : Answers d n e) (nv : Nv) (f : Flit) :
    flitData nv e n f = (splitPackets 9 (flitStream (d.port n).rx f)).1.foldl (packetIn nv n)
      (e.modPort n (Port.takes f (splitPackets 9 (flitStream (d.port n).rx f)).2)) := by
  rw [← h.rx]
  rfl

/-- The device that has taken a DATA flit's acknowledgement, credits and bytes. -/
def flitTaken (d : Dev) (n : Nat) (f : Flit) : Dev :=
  (flitCredit (flitAck d n f) n f).modPort n (Port.takes f (splitPackets 9 (flitStream (d.port n).rx f)).2)

theorem sys_modPort (d : Dev) (n : Nat) (g : Port → Port) : (d.modPort n g).sys = d.sys := rfl

section Taken

variable {d : Dev} {n : Nat} {f : Flit} (nv : Nv)

theorem flitData_partial (h : (splitPackets 9 (flitStream (d.port n).rx f)).1 = []) : flitData nv (flitCredit (flitAck d n f) n f) n f = flitTaken d n f := by
  rw [flitData_eq (flitAnswered d n f), h, List.foldl_nil, flitTaken]

theorem flitData_whole {p : Packet} (h : (splitPackets 9 (flitStream (d.port n).rx f)).1 = [p]) : flitData nv (flitCredit (flitAck d n f) n f) n f =
    arrive ((flitTaken d n f).modPort n (Port.returns p)) n p (packetEnds nv n p) := by
  rw [flitData_eq (flitAnswered d n f), h, List.foldl_cons, List.foldl_nil, packetIn_eq, flitTaken]

theorem flitTaken_sys : (flitTaken d n f).sys = d.sys := by
  rw [flitTaken, sys_modPort, (flitAnswered d n f).talked.1]

end Taken

section Ends

variable {nv : Nv} {n : Nat} {p : Packet} {d : Dev}

theorem packetEnds_request (h : isRequest p = true) : packetEnds nv n p d = serve nv d p := if_pos h

theorem packetEnds_cascade (h : p.type = tyCscData ∨ p.type = tyCscReady) : packetEnds nv n p d = cscPacket d n p := by
  unfold packetEnds isRequest
  rcases h with h | h <;> (rw [h]; rfl)

theorem packetEnds_fence (h : p.type = tyFence) : packetEnds nv n p d = fencePacket d n p := by
  unfold packetEnds isRequest
  rw [h]
  rfl

theorem packetEnds_ident (h : p.type = tyIdent) : packetEnds nv n p d = identTaken d n p := by
  unfold packetEnds isRequest
  rw [h]
  rfl

theorem packetEnds_echo (h : p.type = tyEcho) : packetEnds nv n p d = echoTaken d p := by
  unfold packetEnds isRequest
  rw [h]
  rfl

end Ends

/-- A command that takes one type of packet acts as the packet out of a flit does. -/
theorem exec_arrives {s : State} {n : Nat} {p : Packet} {c : Bool} {own : Nv → Dev → Dev} {i : Instr} (hs : asleep s.dev = false) (hn : n < 16)
    (h : exec i s = onDev (is16 n) (fun nv d => if c then arrive d n p (own nv) else d) s) (hc : c = true) (hown : ∀ nv d, packetEnds nv n p d = own nv d) :
    exec i s = .next { s with dev := arrive s.dev n p (packetEnds s.nv n p) } := by
  rw [h, onDev_next (show is16 n = true from decide_eq_true hn) hs, if_pos hc, show packetEnds s.nv n p = own s.nv from funext (hown s.nv)]

section Command

variable {s : State} {n : Nat} {f : Flit} {p : Packet} (hs : asleep s.dev = false) (hn : n < 16) (hup : linkUp (s.dev.port n).state = true)
  (hok : flitOk f = true) (ht : flitU f 0 1 = 1) (hseq : BitVec.ofNat 16 (flitU f 2 2) = (s.dev.port n).rxSeq)
  (hp : (splitPackets 9 (flitStream (s.dev.port n).rx f)).1 = [p])
include hs hn hup hok ht hseq hp

/-- A packet out of a flit acts as the command that takes its type. -/
theorem flitReceive_acts {c : Bool} {own : Nv → Dev → Dev} {i : Instr} (h : ∀ t, exec i t = onDev (is16 n) (fun nv d => if c then arrive d n p (own nv) else d) t)
    (hc : c = true) (hown : ∀ nv d, packetEnds nv n p d = own nv d) : Completes (exec (.flitReceive n f) s) ∧
      exec (.flitReceive n f) s = exec i { s with dev := (flitTaken s.dev n f).modPort n (Port.returns p) } := by
  have row := flitReceive_data hs hn hup hok ht hseq
  rw [flitData_whole s.nv hp] at row
  have awake : asleep ((flitTaken s.dev n f).modPort n (Port.returns p)) = false := by
    rw [asleep, sys_modPort, flitTaken_sys]
    exact hs
  exact ⟨⟨_, row⟩, row.trans (exec_arrives (s := { s with dev := (flitTaken s.dev n f).modPort n (Port.returns p) }) awake hn (h _) hc hown).symm⟩

theorem flitReceive_request {type : Byte} {i : Instr} (h : ∀ t, exec i t = onDev (is16 n) (requestArrives type n p) t) (hty : p.type = type)
    (hr : isRequest p = true) : Completes (exec (.flitReceive n f) s) ∧
      exec (.flitReceive n f) s = exec i { s with dev := (flitTaken s.dev n f).modPort n (Port.returns p) } :=
  flitReceive_acts hs hn hup hok ht hseq hp (c := p.type == type) (own := fun nv d => serve nv d p) h (by simpa using hty) fun _ _ => packetEnds_request hr

theorem flitReceive_fence {kind : Nat} {i : Instr} (h : ∀ t, exec i t = fenceArrives kind n p t) (hty : p.type = tyFence)
    (hk : fieldLe p.payload 0 1 = kind) : Completes (exec (.flitReceive n f) s) ∧
      exec (.flitReceive n f) s = exec i { s with dev := (flitTaken s.dev n f).modPort n (Port.returns p) } :=
  flitReceive_acts hs hn hup hok ht hseq hp (c := p.type == tyFence && fieldLe p.payload 0 1 == kind) (own := fun _ d => fencePacket d n p) h
    (by simp [hty, hk]) fun _ _ => packetEnds_fence hty

end Command

/-! ## The statement -/

/-- Settles O28. A refused, an idle and a data flit act by `flitReceive_refused`, `flitReceive_idle` and `flitReceive_data`; a packet out of a flit acts as
its own command by `flitReceive_acts`. That an IDLE flit is not checked for order, and which slots hold a packet, is log entry 56; that each refusal,
acknowledgement and return of credits leaves at once in an IDLE flit of its own is log entry 61: both are the model's choices. -/
theorem flitsAreTakenInOrder : Obligations.FlitsAreTakenInOrder := by
  unfold Obligations.FlitsAreTakenInOrder
  intro s n f hs hn hup d x Only seq ack left flits idle refused key credited d0
  refine ⟨fun h hd => ⟨_, flitReceive_refused hs hn hup h, ?first⟩, fun h hd => ⟨_, flitReceive_refused hs hn hup h, ?again⟩,
    fun hok ht hd hw => ?idle, fun hok ht hseq => ?data⟩
  case first =>
    rw [flitRefuse_first hd]
    exact portStep_set _ n _
  case again =>
    rw [flitRefuse_again hd]
    exact portStep_set _ n _
  case idle =>
    have row := flitReceive_idle hs hn hup hok ht hd
    refine ⟨fun hb => ⟨_, row, ?none⟩, fun hb => ⟨_, row, ?ack⟩, fun hb => ⟨_, row, ?nak⟩⟩
    case none =>
      obtain ⟨hnak, hack⟩ := flags_none hb
      rw [flitAck_none hnak hack]
      exact flitCredit_quiet (portStep_same d n) hw
    case ack =>
      obtain ⟨hnak, hack⟩ := flags_ack hb
      rw [flitAck_ack hnak hack]
      have quiet := (waiting_resumes (d.port n) ack).trans hw
      have step := flitCredit_quiet (f := f) ((portStep_set d n _).quiet quiet) quiet
      rw [credited_resumes] at step
      exact step
    case nak =>
      rw [flitAck_nak hb]
      have step := flitCredit_quiet (f := f) (portStep_set d n _) ((waiting_resends (d.port n) ack).trans hw)
      rw [credited_resends] at step
      exact step
  case data =>
    intro slots stream taken
    refine ⟨fun h => ⟨flitTaken d n f, ?begun, rfl⟩, ?whole⟩
    case begun => exact (flitReceive_data hs hn hup hok ht hseq).trans (congrArg (fun e => Host.Outcome.next { s with dev := e }) (flitData_partial s.nv h))
    case whole =>
      intro p hp d1 Acts
      have acts {c : Bool} {own : Nv → Dev → Dev} {i : Instr} (h : ∀ t, exec i t = onDev (is16 n) (fun nv d => if c then arrive d n p (own nv) else d) t)
        (hc : c = true) (hown : ∀ nv d, packetEnds nv n p d = own nv d) : Acts i := flitReceive_acts hs hn hup hok ht hseq hp h hc hown
      have request {type : Byte} {i : Instr} (h : ∀ t, exec i t = onDev (is16 n) (requestArrives type n p) t) (hty : p.type = type)
        (hr : isRequest p = true) : Acts i := flitReceive_request hs hn hup hok ht hseq hp h hty hr
      have fence {kind : Nat} {i : Instr} (h : ∀ t, exec i t = fenceArrives kind n p t) (hty : p.type = tyFence)
        (hk : fieldLe p.payload 0 1 = kind) : Acts i := flitReceive_fence hs hn hup hok ht hseq hp h hty hk
      refine ⟨fun t => ?read, fun t => ?write, fun t => ?viewRead, fun t => ?viewWrite, fun t => ?data, fun t => ?ready, fun t => ?ident, fun t => ?echo,
        fun t k => ?arrive, fun t k => ?decide⟩
      case read => exact request (fun _ => rfl) t (by rw [isRequest, t]; rfl)
      case write => exact request (fun _ => rfl) t (by rw [isRequest, t]; rfl)
      case viewRead => exact request (fun _ => rfl) t (by rw [isRequest, t]; rfl)
      case viewWrite => exact request (fun _ => rfl) t (by rw [isRequest, t]; rfl)
      case data => exact acts (c := p.type == tyCscData) (own := fun _ d => cscPacket d n p) (fun _ => rfl) (by simpa using t) fun _ _ => packetEnds_cascade (.inl t)
      case ready => exact acts (c := p.type == tyCscReady) (own := fun _ d => cscPacket d n p) (fun _ => rfl) (by simpa using t) fun _ _ => packetEnds_cascade (.inr t)
      case ident => exact acts (c := p.type == tyIdent) (own := fun _ d => identTaken d n p) (fun _ => rfl) (by simpa using t) fun _ _ => packetEnds_ident t
      case echo => exact acts (c := p.type == tyEcho) (own := fun _ d => echoTaken d p) (fun _ => rfl) (by simpa using t) fun _ _ => packetEnds_echo t
      case arrive => exact fence (fun _ => rfl) t k
      case decide => exact fence (fun _ => rfl) t k

end Sys2Proof.Machine
end

section
/-! PROOFS. Responses and lost requests (spec/13_koliz_fabric.md R338 to R340, R364). -/

namespace Sys2Proof.Machine

/-! ## After an answer -/

/-- Nothing goes on at a core and its slot when an answer has come: no command waits, no piece is left to begin, and no abort waits. -/
structure Resting (d : Dev) (core slot : Nat) : Prop where
  queues : queuedCount (d.core core).ctx = 0
  todo : (d.core core).tm.all (fun t => t.todo.isEmpty) = true
  aborting : (d.tslot slot).aborting = none

theorem settleAbort_none {d : Dev} {slot : Nat} (h : (d.tslot slot).aborting = none) : settleAbort d slot = d := by
  rw [settleAbort, h]

theorem drainCore_resting {d : Dev} {core : Nat} (queues : queuedCount (d.core core).ctx = 0) (todo : (d.core core).tm.all (fun t => t.todo.isEmpty) = true) :
    drainCore d core = d := by
  rw [drainCore, queues]
  unfold drainLoop
  dsimp only
  split
  · rfl
  split
  · rfl
  split
  · next t ht => rw [if_pos (by simp [List.all_eq_true.mp todo t (List.mem_of_find?_eq_some ht)])]
  split
  · rfl
  · rw [startHead_empty queues]

theorem drainCore_stopped {d : Dev} (h : d.flt.stopActive = true) (core : Nat) : drainCore d core = d := by
  unfold drainCore drainLoop
  dsimp only
  split
  · rfl
  · rw [if_pos h]

theorem afterAnswer_resting {d : Dev} {core slot : Nat} (h : Resting d core slot) : afterAnswer d slot core = d := by
  rw [afterAnswer, drainCore_resting h.queues h.todo, settleAbort_none h.aborting]

theorem afterAnswer_stopped {d : Dev} {core slot : Nat} (h : d.flt.stopActive = true) (ha : (d.tslot slot).aborting = none) : afterAnswer d slot core = d := by
  rw [afterAnswer, drainCore_stopped h, settleAbort_none ha]

/-! ## The answer of a mover's request (R339, R340) -/

/-- A core one of whose mover commands has one answer more. -/
def CoreSt.answered (x : CoreSt) (ident : Nat) : CoreSt :=
  { x with tm := x.tm.map (fun t => if t.ident == ident then { t with waiting := t.waiting - 1 } else t) }

theorem answered_todo (x : CoreSt) (ident : Nat) : (x.answered ident).tm.all (fun t => t.todo.isEmpty) = x.tm.all (fun t => t.todo.isEmpty) := by
  simp only [CoreSt.answered, List.all_map]
  congr 1
  funext t
  simp only [Function.comp]
  split <;> rfl

theorem moverAnswered_step (d : Dev) (core ident : Nat) : CoreStep d core ((d.core core).answered ident) (moverAnswered d core ident) :=
  ⟨Dev.core_setCore_self d core _, fun k hk => (Dev.core_setCore d core k _).trans (if_neg hk), rfl⟩

theorem Resting.answered {d e : Dev} {core slot ident : Nat} (h : Resting d core slot) (he : CoreStep d core ((d.core core).answered ident) e) :
    Resting e core slot := by
  obtain ⟨core_eq, -, only⟩ := he
  refine ⟨by rw [core_eq]; exact h.queues, by rw [core_eq, answered_todo]; exact h.todo, ?_⟩
  rw [only]
  exact h.aborting

theorem Resting.cellPut {d : Dev} {core slot : Nat} (h : Resting d core slot) (a : Nat) (bs : List Byte) : Resting (d.cellPut a bs) core slot :=
  ⟨h.queues, h.todo, h.aborting⟩

section Ends

variable {d : Dev} {r : Req} {core slot logical command ident : Nat} {dst : Option Place} (hr : r.origin = .mover core slot logical command ident dst)

include hr in
theorem requestEnds_ok (data : List Byte) : requestEnds d r 0 data = afterAnswer (moverOk d r core slot logical command ident dst data) slot core := by
  rw [requestEnds, hr]
  rfl

include hr in
theorem requestEnds_fault {st : Nat} (hst : st ≠ 0) (data : List Byte) :
    requestEnds d r st data = afterAnswer (moverFault d core slot logical command ident (statusFault st r.device r.va)) slot core := by
  have bad : (st == 0) = false := by simpa using hst
  rw [requestEnds, hr]
  dsimp only
  rw [bad]
  rfl

theorem moverFault_dead (h : moverLive d core slot ident = false) (f : JFault) : moverFault d core slot logical command ident f = d := by
  simp [moverFault, h]

variable (h : moverLive d core slot ident = true)
include h

theorem moverFault_live (f : JFault) : moverFault d core slot logical command ident f = jobFault (moverAnswered d core ident) slot core 4 logical command f := by
  simp [moverFault, h]

theorem moverOk_plain (data : List Byte) : moverOk d r core slot logical command ident none data = moverAnswered d core ident := by
  simp [moverOk, h]

/-- A read's data goes to the cells of an SRAM. -/
theorem moverOk_sram {c : Nat} (hc : sramBase ≤ c) (data : List Byte) :
    moverOk d r core slot logical command ident (some (.cells c)) data = (moverAnswered d core ident).cellPut c (data.take r.bytes) := by
  have far : ¬c < sramBase := by omega
  simp [moverOk, h, isRemote, placeWrite, countHbm, far]

end Ends

/-! ## A request that is lost or refused (R340, R364) -/

theorem statusFault_plain (st dev va : Nat) : (statusFault st dev va).cells = none ∧ (statusFault st dev va).after = none := by
  unfold statusFault
  split <;> exact ⟨rfl, rfl⟩

theorem statusFault_remote {st : Nat} (h : st ≠ 3) (dev va : Nat) : statusFault st dev va = fltRemote (kolizCode st) dev va := by
  unfold statusFault
  split
  case h_1 => exact absurd rfl h
  case h_6 => simp [kolizCode]
  all_goals rfl

/-- A mover's request that ends with a fault charges its job, and nothing goes on. -/
theorem requestEnds_charges {d : Dev} {r : Req} {core slot logical command ident : Nat} {dst : Option Place}
    (hr : r.origin = .mover core slot logical command ident dst) {st : Nat} (hst : st ≠ 0) (hlive : moverLive d core slot ident = true)
    (ha : (d.tslot slot).aborting = none) (data : List Byte) : let f := statusFault st r.device r.va
    Charged (moverAnswered d core ident) slot f.reason (f.detail.getD (faultDetail 4 logical command f.sub)) (requestEnds d r st data) := by
  intro f
  obtain ⟨cells, after⟩ := statusFault_plain st r.device r.va
  have charges := jobFault_charges (f := f) cells after (moverAnswered d core ident) slot core 4 logical command
  rw [requestEnds_fault hr hst, moverFault_live hlive]
  rwa [afterAnswer_stopped charges.stops (by rw [Dev.tslot, charges.trn]; exact ha)]

/-! ## The statement -/

/-- `d` that has given the request of a tag up. -/
def givenUp (d : Dev) (tag : Word) : Dev :=
  { d with klz := { d.klz with requests := d.klz.requests.filter (fun r => !(r.tag == tag)), timeouts := sat16 d.klz.timeouts, timeoutSeen := true } }

section Rows

variable {s : State} (hs : asleep s.dev = false)
include hs

section Response

variable {p : Packet} (ht : p.type = tyResponse) (hi : intact p = true) (hd : p.dest.toNat = s.dev.ownDevice)
include ht hi hd

theorem klzResponse_next : exec (.klzResponse p) s = .next { s with dev := responseTaken (received s.dev p) p } := by
  change execKlzResponse p s = _
  rw [execKlzResponse, onDev_true_next hs, if_pos (by simp [ht, hi, hd])]
  rfl

theorem klzResponse_unasked (h : s.dev.klz.requests.find? (fun r => r.tag == p.tag) = none) : exec (.klzResponse p) s = .next { s with dev := received s.dev p } := by
  have absent : (received s.dev p).klz.requests.find? (fun r => r.tag == p.tag) = none := h
  rw [klzResponse_next hs ht hi hd, responseTaken, absent]

theorem klzResponse_ends {r : Req} (h : s.dev.klz.requests.find? (fun r => r.tag == p.tag) = some r) :
    let st := if p.status == 0 && carriesPoison p then 3 else p.status.toNat
    exec (.klzResponse p) s = .next { s with dev := requestEnds (dropRequest (received s.dev p) p.tag) r st p.payload } := by
  have found : (received s.dev p).klz.requests.find? (fun r => r.tag == p.tag) = some r := h
  rw [klzResponse_next hs ht hi hd, responseTaken, found]

/-- An OK answer without poison. -/
theorem klzResponse_ok {r : Req} (h : s.dev.klz.requests.find? (fun r => r.tag == p.tag) = some r) (hst : p.status = 0) (hp : p.flags.getLsbD 1 = false) :
    exec (.klzResponse p) s = .next { s with dev := requestEnds (dropRequest (received s.dev p) p.tag) r 0 p.payload } := by
  rw [klzResponse_ends hs ht hi hd h, if_neg (by rw [carriesPoison, hp, Bool.and_false]; exact Bool.false_ne_true), hst]
  rfl

theorem klzResponse_bad {r : Req} (h : s.dev.klz.requests.find? (fun r => r.tag == p.tag) = some r) (hst : p.status ≠ 0) :
    exec (.klzResponse p) s = .next { s with dev := requestEnds (dropRequest (received s.dev p) p.tag) r p.status.toNat p.payload } := by
  rw [klzResponse_ends hs ht hi hd h, if_neg (by rw [beq_false_of_ne hst, Bool.false_and]; exact Bool.false_ne_true)]

end Response

theorem klzRequestLost_unasked {tag : Word} (h : s.dev.klz.requests.find? (fun r => r.tag == tag) = none) : exec (.klzRequestLost tag) s = .next s := by
  change execKlzRequestLost tag s = _
  rw [execKlzRequestLost, onDev_true_next hs, requestLost, h]

theorem klzRequestLost_ends {tag : Word} {r : Req} (h : s.dev.klz.requests.find? (fun r => r.tag == tag) = some r) :
    exec (.klzRequestLost tag) s = .next { s with dev := requestEnds (givenUp s.dev tag) r 1 [] } := by
  change execKlzRequestLost tag s = _
  rw [execKlzRequestLost, onDev_true_next hs, requestLost, h]
  rfl

end Rows

/-- Settles O30: an OK answer is one step of the mover's core and of the cells it asked for (`requestEnds_ok`), and a fault is charged to the job
(`requestEnds_charges`). -/
theorem responsesEndTheirRequests : Obligations.ResponsesEndTheirRequests := by
  unfold Obligations.ResponsesEndTheirRequests
  intro s p tag hs d open_ rest taken quiet answered
  refine ⟨fun ⟨ht, hi, hd⟩ h => ⟨_, klzResponse_unasked hs ht hi hd h, rfl⟩, ?ok, ?data, ?bad, fun h => ⟨_, klzRequestLost_unasked hs h, rfl⟩, ?lost⟩
  case ok =>
    intro r core slot logical command ident ⟨ht, hi, hd⟩ h hr hst hp hlive
    refine ⟨_, klzResponse_ok hs ht hi hd h hst hp, ?_⟩
    rw [requestEnds_ok hr, moverOk_plain (d := dropRequest (received d p) p.tag) hlive]
    refine ⟨rfl, fun ⟨queues, todo, aborting⟩ => ?_⟩
    have step := moverAnswered_step (dropRequest (received d p) p.tag) core ident
    have before : Resting (dropRequest (received d p) p.tag) core slot := ⟨queues, todo, aborting⟩
    have rests := before.answered step
    rw [afterAnswer_resting rests]
    exact ⟨rfl, step.1, step.2.1, rfl⟩
  case data =>
    intro r core slot logical command ident c ⟨ht, hi, hd⟩ h hr hst hp hlive ⟨queues, todo, aborting⟩ hc
    refine ⟨_, klzResponse_ok hs ht hi hd h hst hp, ?_⟩
    have step := moverAnswered_step (dropRequest (received d p) p.tag) core ident
    have before : Resting (dropRequest (received d p) p.tag) core slot := ⟨queues, todo, aborting⟩
    have rests := (before.answered step).cellPut c (p.payload.take r.bytes)
    rw [requestEnds_ok hr, moverOk_sram (d := dropRequest (received d p) p.tag) hlive hc, afterAnswer_resting rests]
    exact ⟨rfl, fun a ha => cellPut_cells _ c _ a ha, rfl, step.1, step.2.1, rfl⟩
  case bad =>
    intro r core slot logical command ident dst ⟨ht, hi, hd⟩ h hr hst hlive hstop ha
    refine ⟨_, klzResponse_bad hs ht hi hd h hst, ?_⟩
    have code : p.status.toNat ≠ 0 := fun h => hst (BitVec.eq_of_toNat_eq h)
    have charged := requestEnds_charges (d := dropRequest (received d p) p.tag) hr code hlive ha p.payload
    refine ⟨charged.stops, charged.faulted, charged.counted, charged.reason_eq, (charged.info hstop).trans charged.reason_eq.symm, fun h3 => ?_, fun h3 => ?_⟩
    · rw [charged.reason_eq, h3]
      rfl
    · have remote := statusFault_remote (st := p.status.toNat) (fun h => h3 (BitVec.eq_of_toNat_eq h)) r.device r.va
      rw [charged.reason_eq, charged.detail_eq, remote]
      exact ⟨rfl, rfl⟩
  case lost =>
    intro r core slot logical command ident dst h hr
    refine ⟨fun hlive ⟨queues, todo, aborting⟩ => ⟨_, klzRequestLost_ends hs h, ?_⟩, fun hlive hstop ha => ⟨_, klzRequestLost_ends hs h, ?_⟩⟩
    · rw [requestEnds_fault hr Nat.one_ne_zero, moverFault_dead (d := givenUp d tag) hlive]
      exact afterAnswer_resting ⟨queues, todo, aborting⟩
    · have charged := requestEnds_charges (d := givenUp d tag) hr Nat.one_ne_zero hlive ha []
      refine ⟨?_, ?_, charged.stops, charged.faulted, charged.reason_eq, charged.detail_eq⟩
      · rw [charged.fabric.klz]
        rfl
      · rw [charged.fabric.klz]
        rfl

end Sys2Proof.Machine
end

section
/-! PROOFS. A Cascade packet that leaves by a port where an ECHO waits (spec/13_koliz_fabric.md R345, R359). The statement has CSC_READY_RECEIVE change
nothing of the fabric but its ports and its Cascade commands; GO, which falls when the ECHO has left, is neither. The device below holds an ECHO back
that has credits and room, which the statement does not exclude: it speaks of every state. -/

namespace Sys2Proof.Machine

/-- A CSC.PASS of 16 bytes to member 1 of ring 0, which waits for READY. -/
def passCmd : CscCmd :=
  { core := 0, slot := 0, logical := 0, command := 0, group := 0, ring := 0, seq := 1, pass := true, op := 0, fmt := 8, redop := 0, narrow := false,
    bytes := 16, src := List.replicate 16 0, dst := [], expected := 16, signal := false, semCore := 0xFF, semIndex := 0, semAdd := 0 }

/-- The ECHO that waits. -/
def waitingEcho : Packet :=
  { type := tyEcho, flags := 0, dest := 1, src := 0, tag := 0, hops := 0, status := 0, slotGroup := 0, ring := 0, address := 0, bytes := 0, payload := [] }

/-- The READY of member 1 for `passCmd`. -/
def passReady : Packet :=
  { type := tyCscReady, flags := 0, dest := 0, src := 1, tag := passCmd.tag, hops := 0, status := 0, slotGroup := 0, ring := 0, address := 1, bytes := 16, payload := [] }

/-- Member 0 of a ring of two runs `passCmd`, and the outstanding ECHO waits at the port to member 1. -/
def passBesideEcho : Dev :=
  { sys := { state := .running }
    str := { inForce := some { hash := [], rollback := 0, cores := [], basins := [], bound := [], spares := [], preloads := [], tables := [], spreadKey := 0, ownDevice := 0, maxHops := 0, horizon := 0, routes := [], codec := [], num := 60, den := 1, pinsafe := false, remap := false, threshold := 16 } }
    klz := { ports := [(0, { state := .active, neighbour := 1, waiting := [waitingEcho] })], groups := [(0, { valid := true, root := true, rings := [(0, { valid := true, size := 2 })] })], cascade := [passCmd], echoTag := some 0, echoGo := true } }

/-- GO is set, and falls with the block that READY lets go (R345). -/
theorem passBesideEcho_goes : passBesideEcho.klz.echoGo = true ∧ (cscPacket (received passBesideEcho passReady) 0 passReady).klz.echoGo = false := by decide

theorem passReady_reaches : Reaches passBesideEcho 0 passReady := ⟨by decide, by decide, by decide, by decide, by decide⟩

theorem cscReadyReceive_next {s : State} {port : Nat} {p : Packet} (hs : asleep s.dev = false) (h : Reaches s.dev port p) (ht : p.type = tyCscReady) :
    exec (.cscReadyReceive port p) s = .next { s with dev := cscPacket (received s.dev p) port p } := by
  change execCscReadyReceive port p s = _
  rw [execCscReadyReceive, onDev_next (show is16 port = true from decide_eq_true h.port_lt) hs, if_pos (by simpa using ht), arrive_reaches h]

/-- Refutes O22: READY lets a block go by a port where the outstanding ECHO waits with credits for both, the ECHO leaves with it, and GO falls; the
statement has the fabric keep GO. -/
theorem not_cascadeCommandsRunOverTheirRings : ¬ Obligations.CascadeCommandsRunOverTheirRings := by
  unfold Obligations.CascadeCommandsRunOverTheirRings
  intro h
  obtain ⟨-, -, -, -, ready, -⟩ := h { dev := passBesideEcho } (by decide)
  obtain ⟨e, hnext, -, klz, -⟩ := ready 0 passReady passCmd (by decide) rfl
  rw [cscReadyReceive_next (by decide) passReady_reaches rfl] at hnext
  cases hnext
  obtain ⟨goes, falls⟩ := passBesideEcho_goes
  have kept := congrArg Klz.echoGo klz
  exact Bool.false_ne_true (falls.symm.trans (kept.trans goes))

end Sys2Proof.Machine
end
